-- ==== Sys2Proof/Word.lean ====
section
/-! DEFINITION. The words of the CR9 hub: bytes, 64-bit register words, and the field descriptor of a register. -/
namespace Sys2Proof

/-- One byte of memory, flash or a structure. -/
abbrev Byte := BitVec 8

/-- One 64-bit register (every register table of the spec heads its registers "64 bits"). -/
abbrev Word := BitVec 64

/-- One field of a register: its lowest bit and its width. -/
structure Fld where
  lo : Nat
  w : Nat
  deriving DecidableEq, Repr

/-- A sparse map from natural numbers, in one canonical form: keys strictly rising. -/
abbrev SMap (α : Type) := List (Nat × α)

end Sys2Proof
end

