-- ==== Sys2Proof/Syntax.lean ====
section
/-! DEFINITION. The commands the hub takes: one constructor of Instr per row of the spec's table of operations and events,
with the row's operands. What the environment decides (a strap, an ECC outcome, a reading, a packet) is an operand. -/
namespace Sys2Proof

/-- A slice ID, 0 to 4095 (R50). -/
abbrev SliceId := Fin 4096
/-- An array number, 0 to 207. -/
abbrev ArrayId := Fin 208
/-- A global cell number, 0 to 26,623. -/
abbrev CellId := Fin 26624
/-- A quire link, 0 to 23. -/
abbrev LinkId := Fin 24
/-- A site, 0 to 7. -/
abbrev SiteId := Fin 8
/-- A queue, 0 to 65535. -/
abbrev QueueId := Fin 65536
/-- An HBM channel, 0 to 767. -/
abbrev ChanId := Fin 768
/-- A schedule group, 0 to 1023. -/
abbrev GroupId := Fin 1024
/-- A sealed region or an interleave group, 0 to 63. -/
abbrev RegionId := Fin 64
/-- A host link as HOST_LINK_STS numbers it, 0 to 3. -/
abbrev HostLink := Fin 4

/-- Who sends a register access (R20, R24, R453). -/
inductive Origin where
  | kelvy
  | pf (k : HostLink)
  | vf (port : Fin 2) (index : Nat)
  | tap
  | engine
  deriving DecidableEq, Repr

/-- The width of a register access (R13). -/
inductive RegWidth where
  | w64
  | w32
  deriving DecidableEq, Repr

/-- What a check of the cell finds as an instruction or unit operation runs (R150, R151). -/
inductive Hazard where
  | clean
  | corrected
  | uncorrectable
  | residue
  deriving DecidableEq, Repr

/-- What Umbra finds as it fetches a sealed line, its MAC and its path (R316): the bytes the stack returned where they are not the
ones written, with a corrected error reported for them or not; what the stack lost; a bad entry of the node cache. -/
inductive SealOutcome where
  | ok
  | lineMac (line mac : List Byte) (macCorrected : Bool)
  | nodeMac (level node : Nat) (bytes : List Byte) (corrected : Bool)
  | dataUncorrected
  | macUncorrected
  | nodeUncorrected (level node : Nat)
  | cacheDirtyUncorrected (level node : Nat)
  | cacheCleanUncorrected (level node : Nat)
  | cacheCorrected (level node : Nat)
  deriving DecidableEq, Repr

/-- What a stack reports for a read: no error, one its ECC corrected, or one it did not; or, for a read of the hub's own that
meets a sealed line, what Umbra finds. -/
inductive Ecc where
  | clean
  | corrected
  | uncorrected
  | umbra (out : SealOutcome)
  deriving DecidableEq, Repr

/-- One line of what a command reads, counted from its start, with what the stack and Umbra report of it; its other lines read clean. -/
structure LineEcc where
  line : Nat
  ecc : Ecc
  deriving DecidableEq, Repr

/-- A message of the fabric as it is received: its request, and whether its parity holds (R386). -/
structure FabMsg where
  req : Nat
  parityOk : Bool
  deriving DecidableEq, Repr

/-- A granule of an access to a cell window, and what the cell's ECC finds there (R150, R215). -/
structure PortSlot where
  granule : Nat
  hazard : Hazard
  deriving DecidableEq, Repr

/-- What the stack returns to a step of a sweep: for one of its eight lines, Umbra's findings and the ECC's (R316, R323). -/
structure SweepSees where
  line : Fin 8
  out : SealOutcome
  ecc : Ecc
  deriving DecidableEq, Repr

/-- Which MSI-X vector leaves: the oldest raise, masked or not, or a pending one by its place, its mask cleared (R376). -/
inductive MsixPick where
  | oldest (masked : Bool)
  | pending (n : Nat)
  deriving DecidableEq, Repr

/-- What a scrub finds: a bad configuration entry, a corrected error of Kelvy's memory (R386, R425). -/
structure ScrubSays where
  bad : Bool
  klvEcc : Bool
  deriving DecidableEq, Repr

/-- How an image operation's work went: the flash, and one line of the image in HBM (R483 to R485). -/
structure ImageSays where
  flashOk : Bool
  sees : LineEcc
  deriving DecidableEq, Repr

/-- The units of a cell that take long operations (R116). -/
inductive CellUnit where
  | tensor | vector | gather | chan
  deriving DecidableEq, Repr

/-- The clocked islands of the fabric's edge. -/
inductive Island where
  | memory | link | host | site | control
  deriving DecidableEq, Repr

/-- A crossing FIFO: an island, its endpoint, and the direction (R21). -/
structure FifoId where
  island : Island
  ep : Fin 32
  inward : Bool
  deriving DecidableEq, Repr

/-- What happens at a crossing FIFO: a sender offers a word, a word enters, a word leaves on the other side (R21). Into the memory island
a word is a request, by its number. -/
inductive FifoAct where
  | offer (w : Nat)
  | enter
  | leave
  deriving DecidableEq, Repr

/-- What the world around the hub presents at a reset: straps, what is populated, what trains, what fails. -/
structure BootEnv where
  bootSrc : Nat := 0
  hostCfg : Nat := 0
  cr7 : Bool := false
  test : Bool := false
  recovN : Bool := true
  lcxEn : Bool := false
  stackMask : BitVec 24 := 0
  siteMask : BitVec 8 := 0
  linkMask : BitVec 24 := 0
  rngOk : Bool := true
  flashOk : Bool := true
  testFail : List Nat := []
  repairFail : List Nat := []
  hostTrain : List (Nat × Nat) := []
  vfs : List Nat := []
  stuckCopies : List Nat := []
  deriving DecidableEq, Repr

/-- A host function: a physical function of a host link, or a virtual function of a port. -/
inductive HostFn where
  | pf (k : HostLink)
  | vf (port : Fin 2) (index : Nat)
  deriving DecidableEq, Repr

/-- A memory request of a host function through BAR0 or BAR2. -/
inductive HostOp where
  | read (bar off len : Nat)
  | write (bar off : Nat) (data : List Byte) (relaxed : Bool)
  deriving DecidableEq, Repr

/-- The PCIe AtomicOp requests. -/
inductive HostAtomic where
  | fetchAdd | swap | cas
  deriving DecidableEq, Repr

/-- One received codeword (R330, R338): uncorrectable, or a block with the symbols that were corrected in it. -/
inductive Codeword where
  | uncorrectable
  | block (corrected : Nat) (hdr : BitVec 20) (data : List Byte)
  deriving DecidableEq, Repr

/-- A site packet: the four header words and its data beats (R363). -/
structure Packet where
  w0 : Word
  w1 : Word
  w2 : Word
  w3 : Word
  data : List Byte
  deriving DecidableEq, Repr

/-- A debug or boundary-scan instruction of the TAP (R452). -/
inductive TapOp where
  | boundary (extestOrClamp : Bool)
  | regRead (a : Nat)
  | regWrite (a : Nat) (v : Word)
  | kelvyHalt
  | kelvyStep
  | scanDump
  deriving DecidableEq, Repr

/-- A command of the hub: one constructor per row of the table. -/
inductive Instr where
  -- resets, registers, fabric and package
  | powerOnReset (e : BootEnv)
  | warmReset (e : BootEnv)
  | registerWrite (o : Origin) (a : Nat) (w : RegWidth) (v : Word)
  | crossingFifoTransfer (n : FifoId) (act : FifoAct)
  | junctionSensorReading (sensor deg : Nat)
  -- slices and the forme
  | sliceTeardown (o : Origin) (s : SliceId)
  | sliceHold (o : Origin) (s : SliceId)
  | sliceRelease (o : Origin) (s : SliceId)
  | sliceReset (o : Origin) (s : SliceId)
  | drainComplete (s : SliceId)
  | scrubComplete (s : SliceId)
  | sliceMoveGo (o : Origin) (s : SliceId) (v : Word)
  | sliceMoveDone (s : SliceId) (ok : Bool)
  | commitGo (o : Origin)
  | commitCheckOnly (o : Origin)
  | resourceRelease (i : Nat)
  -- galley instructions
  | nop (c : CellId) (h : Hazard)
  | loop (c : CellId) (h : Hazard)
  | br (c : CellId) (h : Hazard)
  | sheet (c : CellId) (h : Hazard)
  | end_ (c : CellId) (h : Hazard)
  | waitu (c : CellId) (h : Hazard)
  | waitac (c : CellId) (h : Hazard)
  | waitacResume (c : CellId)
  | add (c : CellId) (h : Hazard)
  | sub (c : CellId) (h : Hazard)
  | and (c : CellId) (h : Hazard)
  | or (c : CellId) (h : Hazard)
  | xor (c : CellId) (h : Hazard)
  | shl (c : CellId) (h : Hazard)
  | shr (c : CellId) (h : Hazard)
  | sra (c : CellId) (h : Hazard)
  | mul (c : CellId) (h : Hazard)
  | slt (c : CellId) (h : Hazard)
  | lih (c : CellId) (h : Hazard)
  | ld8 (c : CellId) (h : Hazard)
  | st8 (c : CellId) (h : Hazard)
  | ld4 (c : CellId) (h : Hazard)
  | st4 (c : CellId) (h : Hazard)
  | tcfg (c : CellId) (h : Hazard)
  | tmma (c : CellId) (h : Hazard)
  | tdrain (c : CellId) (h : Hazard)
  | taddx (c : CellId) (h : Hazard)
  | tstat (c : CellId) (h : Hazard)
  | vfma (c : CellId) (h : Hazard)
  | vadd (c : CellId) (h : Hazard)
  | vmul (c : CellId) (h : Hazard)
  | vmax (c : CellId) (h : Hazard)
  | vmin (c : CellId) (h : Hazard)
  | vpack (c : CellId) (h : Hazard)
  | vunpk (c : CellId) (h : Hazard)
  | vqnt (c : CellId) (h : Hazard)
  | vdq (c : CellId) (h : Hazard)
  | vred (c : CellId) (h : Hazard)
  | gr (c : CellId) (h : Hazard)
  | send (c : CellId) (h : Hazard)
  | recv (c : CellId) (h : Hazard)
  | fwd (c : CellId) (h : Hazard)
  | pass (c : CellId) (h : Hazard)
  | fld (c : CellId) (h : Hazard)
  | fst (c : CellId) (h : Hazard)
  | fsta (c : CellId) (h : Hazard)
  | fatom (c : CellId) (h : Hazard)
  -- cells and arrays
  | unitOperationDone (c : CellId) (u : CellUnit) (h : Hazard)
  | channelWordPass (c : CellId) (dir : Fin 4) (parityOk : Bool)
  | fabricResponse (r : FabMsg)
  | cellEccClr (o : Origin) (c : CellId)
  | selfTestStart (a : ArrayId)
  | selfTestRunNow (o : Origin) (a : ArrayId)
  | selfTestDone (a : ArrayId) (pass : Bool)
  | testDue (a : ArrayId)
  -- sheets and the beat
  | formingVoteTimer (g : GroupId)
  | groupFormTimeout (g : GroupId)
  | beatSend (g : GroupId)
  | beat (l : LinkId)
  | boundaryAct (g : GroupId)
  | sheetCheck (g : GroupId)
  | vote (l : LinkId)
  | voteDeadline (g : GroupId)
  | verdictFix (g : GroupId)
  | beatLostTimeout (g : GroupId)
  | groupTelemetryClr (o : Origin) (g : GroupId)
  -- queues, descriptors and movers
  | doorbell (o : Origin) (s : SliceId) (v : Word)
  | managementDoorbell (o : Origin) (v : Word)
  | queueRingWrite (o : Origin) (q : QueueId) (v : Word)
  | descriptorTake (q : QueueId) (ecc : Ecc)
  | copy (i : Nat)
  | fill (i : Nat)
  | load (i : Nat) (ecc : LineEcc)
  | launch (i : Nat)
  | waitacDesc (i : Nat)
  | fence (i : Nat)
  | keyload (i : Nat) (ecc : LineEcc)
  | moverChunkDone (i : Nat)
  | moverItemDone (i : Nat)
  | waitacDescDone (i : Nat)
  | fenceDone (i : Nat)
  | kernelEnd (i : Nat)
  -- counters, host requests and memory
  | arrivalCounterWrite (o : Origin) (s : SliceId) (n : RegionId) (v : Word)
  | arrivalCounterAdd (o : Origin) (s : SliceId) (v : Word)
  | hostRequest (f : HostFn) (op : HostOp) (walk : List Word) (ecc : Ecc)
  | hostAtomicop (f : HostFn) (k : HostAtomic) (bar off size : Nat) (operand compare : Word) (walk : List Word) (ecc : Ecc)
  | cellWindowAccess (r : Nat) (h : PortSlot)
  | hbmRequestArrive (r : FabMsg)
  | channelCommandSlot (ch : ChanId) (granule : Nat) (ecc : Ecc)
  | meterEvaluation (avail : List Nat)
  | translationWalk (w : Nat)
  | walkTableReadReturn (w : Nat) (hostEntry : Option Word) (ecc : Ecc)
  | faultRetry (o : Origin) (s : SliceId) (v : Word)
  | faultFail (o : Origin) (s : SliceId) (v : Word)
  | xlateTimeout (s : SliceId) (fid : Nat)
  | faultRingConsume (o : Origin) (s : SliceId) (v : Word)
  | faultRingBaseWrite (o : Origin) (s : SliceId) (v : Word)
  | faultRingCtlWrite (o : Origin) (s : SliceId) (v : Word)
  | contextCfgWrite (o : Origin) (s : SliceId) (n : Fin 16) (v : Word)
  | formatSlotWrite (o : Origin) (f : Fin 8) (reg : Fin 5) (v : Word)
  | invalidate (o : Origin) (s : SliceId) (v : Word)
  | invalidationDone (s : SliceId)
  | atsInvalidation (f : HostFn) (pasid : Nat)
  | rowRemap (o : Origin) (v : Word)
  | repairCandidateRemap (ch : ChanId) (pc : Fin 2) (bank : RegionId) (row : QueueId)
  | stackTempRead (n : LinkId) (temp : Nat)
  | patrolRead (ch : ChanId) (line : Nat) (ecc : Ecc)
  | channelRetrain (o : Option Origin) (ch : ChanId)
  | channelRetrainDone (ch : ChanId) (ok : Bool)
  | channelRetire (o : Origin) (ch : ChanId)
  | channelEccClr (o : Origin) (ch : ChanId)
  | trafficGeneratorGo (o : Origin) (ch : ChanId) (v : Word)
  | trafficGeneratorStop (o : Origin) (ch : ChanId)
  | trafficGeneratorPassDone (ch : ChanId) (failLines firstFail : Nat) (lanes : Word)
  -- Umbra
  | sealedRead (r granule : Nat) (out : SealOutcome) (ecc : Ecc)
  | sealedWrite (r granule : Nat) (out : SealOutcome) (ecc : Ecc)
  | nodeWriteback (r : RegionId) (level node : Nat) (ok : Bool)
  | sweepGo (o : Origin) (r : RegionId)
  | sweepDue (r : RegionId)
  | sweepStart (g : RegionId)
  | sweepStep (r : RegionId) (out : SweepSees)
  | sweepEnd (r : RegionId)
  | umbSweepLate (r : RegionId)
  -- quire links
  | blockTx (l : LinkId)
  | blockRx (l : LinkId) (cw : Codeword)
  | idleFrame (l : LinkId)
  | ack (l : LinkId)
  | nak (l : LinkId)
  | credit (l : LinkId)
  | delay (l : LinkId)
  | ackTimer (l : LinkId)
  | creditTimer (l : LinkId)
  | delayMeasureTimer (l : LinkId)
  | write (l : LinkId) (steps : Nat) (ecc : LineEcc)
  | read (l : LinkId) (steps : Nat) (ecc : LineEcc)
  | atomic (l : LinkId) (steps : Nat) (ecc : LineEcc)
  | quiesce (l : LinkId)
  | writeAck (l : LinkId)
  | readRsp (l : LinkId)
  | atomicRsp (l : LinkId)
  | quiesceDone (l : LinkId)
  | eclipse (l : LinkId)
  | transitFrame (l : LinkId) (vc : Fin 2)
  | responseTimeout (tag : QueueId)
  | tagQuarantineEnd (tag : QueueId)
  | quiesceTimeout (i : Nat)
  | linkStall (l : LinkId) (vc : Fin 3)
  | linkEnable (o : Origin) (l : LinkId)
  | linkBringupDone (l : LinkId) (ok : Bool) (peerLink : LinkId) (delayPs : Nat)
  | linkRetrain (o : Origin) (l : LinkId)
  | laneLockLoss (l : LinkId)
  | linkRetrainDone (l : LinkId) (ok : Bool) (delayPs : Nat)
  | linkDown (o : Origin) (l : LinkId)
  | linkFecClr (o : Origin) (l : LinkId)
  | linkWake (l : LinkId)
  -- sites
  | siteWrite (s : SiteId) (p : Packet)
  | siteRead (s : SiteId) (p : Packet)
  | siteAtomic (s : SiteId) (p : Packet)
  | notify (s : SiteId) (p : Packet)
  | wwriteAck (s : SiteId) (p : Packet)
  | wreadRsp (s : SiteId) (p : Packet)
  | watomicRsp (s : SiteId) (p : Packet)
  | siteQuiesceDone (s : SiteId) (p : Packet)
  | siteCreditPacket (s : SiteId) (p : Packet)
  | hello (s : SiteId) (p : Packet)
  | siteCreditTimer (s : SiteId)
  | siteWindowTimeout (s : SiteId) (tag : QueueId)
  | siteQuiesceTimeout (s : SiteId) (e : RegionId)
  | siteEnable (o : Origin) (s : SiteId)
  | siteRetrain (o : Origin) (s : SiteId)
  | siteDown (o : Origin) (s : SiteId)
  -- host ports
  | vfFunctionLevelReset (port : Fin 2) (index : Nat)
  | pfFunctionLevelReset (k : HostLink)
  | sriovConfigWrite (k : HostLink) (numVfs : Nat) (vfEnable : Bool)
  | hostLinkDown (k : HostLink)
  | msixSend (k : HostLink) (pick : MsixPick)
  | mailboxTenantSend (o : Origin) (s : SliceId)
  | mailboxTenantPop (o : Origin) (s : SliceId)
  | mailboxManagerSend (o : Origin) (s : SliceId)
  | mailboxManagerPop (o : Origin) (s : SliceId)
  -- faults and recovery
  | faultMessage (i : Nat) (e : BootEnv)
  | faultQueueConsume (o : Origin) (v : Word)
  | faultQueueOvfClr (o : Origin)
  | fatalAck (o : Origin) (v : Word)
  | errPinSet (o : Origin)
  | errPinClr (o : Origin)
  | reactionQuery (o : Origin) (v : Word)
  | managerEclipse (o : Origin) (v : Word)
  | automaticExit (s : SliceId)
  | cellReset (c : CellId)
  | arrayReset (a : ArrayId)
  | fabTimeout (r : Nat)
  | klvWatchdogKick (o : Origin) (v : Word)
  | configParityScrub (found : ScrubSays)
  | contextReset (o : Origin) (s : SliceId) (v : Word)
  | contextResetDone (s : SliceId)
  -- check channels
  | checkExpectWrite (o : Origin) (s : SliceId) (n : Fin 224) (v : Word)
  | checkChannelTake (i : Nat)
  | appendChannelClr (o : Origin) (k : Fin 32)
  -- lifecycle and keys
  | fuseProgram (o : Origin) (v : Word)
  | lifecycleTransition (o : Origin) (v : Word)
  | debugLock (o : Origin)
  | tapInstruction (op : TapOp) (e : BootEnv)
  | wrap (o : Origin) (s : SliceId) (v : Word)
  | keyZero (o : Origin) (s : SliceId) (v : Word)
  | deliver (o : Origin) (s : SliceId) (v : Word)
  | attest (o : Origin) (s : SliceId) (v : Word)
  -- power, arrays and Kelvy
  | powerToLit (o : Origin)
  | powerToDim (o : Origin)
  | powerToDark (o : Origin)
  | powerToShade (o : Origin)
  | powerTransitionDone (testFail : List Nat)
  | kelvyWarmResetRequest (o : Origin) (e : BootEnv)
  | arrayRetire (o : Origin) (a : ArrayId)
  | arrayDark (o : Origin) (a : ArrayId)
  | arrayLight (o : Origin) (a : ArrayId)
  | push (o : Origin)
  | stage (o : Origin)
  | switch (o : Origin)
  | flash (o : Origin)
  | formeFlash (o : Origin)
  -- completions of long operations
  | commitDone (ecc : LineEcc)
  | rowRemapDone (result : Fin 4) (lost : List Nat)
  | imageOperationDone (found : ImageSays)
  | fuseProgramDone (readBackOk : Bool)
  | transitionChecksDone (intentOk : Bool) (e : BootEnv)
  | keyOperationDone (s : SliceId)
  | hostLinkUp (k : HostLink) (width speed : Nat)
  -- events without an operand
  | meterWindow
  | errPinPulseEnd
  | hubFaultExit
  | klvWatchdogExpiry
  | lockstepMismatch
  | rngHealthFail
  | drbgReseed
  | switchQuiescent
  | powerLoss
  deriving DecidableEq, Repr

end Sys2Proof
end

