-- ==== Sys2Proof/Decode.lean ====
section
/-! DEFINITION. Commands as words of the table: no row of spec/opcode_table.json has bits, so no word spells one. -/
namespace Sys2Proof

/-- The command a word of the table spells: none, for every row's list of fields is empty. -/
def decodeTableWord (_nbits _w : Nat) : Option Instr := none

end Sys2Proof
end

