-- ==== Sys2Proof/Machine/Bits.lean ====
section
/-! DEFINITION. Bit fields, byte order (R8) and the sparse maps the state is held in. -/
namespace Sys2Proof.Machine

/-! ## Register fields -/

/-- The mask of a field inside its register. -/
def fldMask (f : Fld) : Word := BitVec.ofNat 64 ((2 ^ f.w - 1) * 2 ^ f.lo)

/-- The value of a field, as a number. -/
def getFld (v : Word) (f : Fld) : Nat := v.toNat / 2 ^ f.lo % 2 ^ f.w

/-- A register with one field replaced, the value cut to the field's width. -/
def setFld (v : Word) (f : Fld) (x : Nat) : Word :=
  (v &&& ~~~ (fldMask f)) ||| BitVec.ofNat 64 (x % 2 ^ f.w * 2 ^ f.lo)

/-- Bits [hi:lo] of a natural number. -/
def bits (n hi lo : Nat) : Nat := n / 2 ^ lo % 2 ^ (hi + 1 - lo)

/-- Bit `i` of a natural number. -/
def bit (n i : Nat) : Bool := n.testBit i

/-- A two's-complement reading of the low `w` bits. -/
def signed (n w : Nat) : Int :=
  let m := n % 2 ^ w
  if m < 2 ^ (w - 1) then (m : Int) else (m : Int) - (2 : Int) ^ w

/-- An integer cut to `w` bits, two's complement. -/
def wrap (i : Int) (w : Nat) : Nat := (i % (2 : Int) ^ w).toNat

/-- Saturating addition at a `w`-bit field. -/
def satAdd (w a b : Nat) : Nat := min (a + b) (2 ^ w - 1)

/-- `a` divided by `b`, rounded up. -/
def ceilDiv (a b : Nat) : Nat := (a + b - 1) / b

/-- `a` rounded up to a multiple of `b`. -/
def alignUp (a b : Nat) : Nat := ceilDiv a b * b

/-- The positions of the set bits among the low `w` bits, ascending. -/
def setBits (n w : Nat) : List Nat := (List.range w).filter (fun i => n.testBit i)

/-- The number whose set bits are the listed positions. -/
def maskOf (l : List Nat) : Nat := l.foldl (fun n i => n ||| 2 ^ i) 0

def b2n (b : Bool) : Nat := if b then 1 else 0

/-! ## Byte order: little-endian (R8) -/

/-- The number a little-endian byte list spells (R8). -/
def leNat : List Byte → Nat
  | [] => 0
  | b :: bs => b.toNat + 256 * leNat bs

/-- `n` little-endian bytes of a number (R8). -/
def toLE : Nat → Nat → List Byte
  | 0, _ => []
  | n + 1, v => BitVec.ofNat 8 v :: toLE n (v / 256)

/-- The number a big-endian byte string spells (digests and keys keep their standard's order, R8). -/
def beNat (l : List Byte) : Nat := l.foldl (fun n b => n * 256 + b.toNat) 0

/-- `n` big-endian bytes of a number. -/
def toBE (n v : Nat) : List Byte := (toLE n v).reverse

/-- A slice of a list: `n` items from position `i`. -/
def sub {α : Type} (l : List α) (i n : Nat) : List α := (l.drop i).take n

/-- The little-endian field of `n` bytes at offset `i` of a structure. -/
def leAt (l : List Byte) (i n : Nat) : Nat := leNat (sub l i n)

/-- A list with the bytes from position `i` replaced. -/
def patch (l : List Byte) (i : Nat) (p : List Byte) : List Byte :=
  l.take i ++ p ++ l.drop (i + p.length)

def zeros (n : Nat) : List Byte := List.replicate n 0

/-- All bytes zero. -/
def allZero (l : List Byte) : Bool := l.all (fun b => b == 0)

/-! ## Sparse maps: keys strictly rising -/

/-- The value at a key, if listed. -/
def mapGet {α : Type} : SMap α → Nat → Option α
  | [], _ => none
  | (k, v) :: m, i => if i = k then some v else mapGet m i

/-- The map with a key set. -/
def mapPut {α : Type} : SMap α → Nat → α → SMap α
  | [], i, x => [(i, x)]
  | (k, v) :: m, i, x =>
    if i < k then (i, x) :: (k, v) :: m
    else if i = k then (i, x) :: m
    else (k, v) :: mapPut m i x

/-- The map with a key dropped. -/
def mapDel {α : Type} (m : SMap α) (i : Nat) : SMap α := m.filter (fun e => decide (e.1 ≠ i))

/-- The value at a key, or what an unlisted key holds. -/
def mapGetD {α : Type} (m : SMap α) (i : Nat) (d : α) : α := (mapGet m i).getD d

/-- The map with a key set, in canonical form over the value `d` of unlisted keys: writing `d` drops the entry. -/
def mapPutD {α : Type} [DecidableEq α] (d : α) (m : SMap α) (i : Nat) (x : α) : SMap α :=
  if x = d then mapDel m i else mapPut m i x

/-- Keys strictly rising. -/
def keysRise {α : Type} : SMap α → Bool
  | [] => true
  | [_] => true
  | (a, _) :: (b, y) :: m => decide (a < b) && keysRise ((b, y) :: m)

/-- The canonical form over a default: keys strictly rising, and no entry equal to the default. -/
def mapWf {α : Type} [DecidableEq α] (d : α) (m : SMap α) : Bool :=
  keysRise m && m.all (fun e => decide (e.2 ≠ d))

/-- The bytes of a byte map from an address on, unlisted bytes reading `d`. -/
def mapBytes (d : Byte) (m : SMap Byte) (a n : Nat) : List Byte :=
  (List.range n).map (fun i => mapGetD m (a + i) d)

/-- A byte map with consecutive bytes written, canonical over the byte `d`. -/
def mapWriteBytes (d : Byte) : SMap Byte → Nat → List Byte → SMap Byte
  | m, _, [] => m
  | m, a, b :: bs => mapWriteBytes d (mapPutD d m a b) (a + 1) bs

/-- A byte map with every entry of a range dropped. -/
def mapDropRange {α : Type} (m : SMap α) (a n : Nat) : SMap α :=
  m.filter (fun e => !(decide (a ≤ e.1) && decide (e.1 < a + n)))

end Sys2Proof.Machine
end

