-- ==== Sys2Proof/Machine/Numerics.lean ====
section
/-! DEFINITION. Number formats and rounding (R123, R124, R127 to R131, R137, R138, R140): exact values, one rounding. -/
namespace Sys2Proof.Machine

/-- An exact value: a signed magnitude m times 2 to the e, an infinity, or a NaN. -/
inductive FVal where
  | fin (neg : Bool) (m : Nat) (e : Int)
  | inf (neg : Bool)
  | nan
  deriving DecidableEq, Repr

/-- A binary format: exponent and mantissa widths, bias, whether it has infinities, and whether it has NaNs. -/
structure FFmt where
  eb : Nat
  mb : Nat
  bias : Nat
  hasInf : Bool
  hasNan : Bool
  deriving DecidableEq, Repr

def fmtFP32 : FFmt := ⟨8, 23, 127, true, true⟩
def fmtBF16 : FFmt := ⟨8, 7, 127, true, true⟩
def fmtFP16 : FFmt := ⟨5, 10, 15, true, true⟩
def fmtE2M1 : FFmt := ⟨2, 1, 1, false, false⟩
def fmtE2M3 : FFmt := ⟨2, 3, 1, false, false⟩
def fmtE3M2 : FFmt := ⟨3, 2, 3, false, false⟩
def fmtE4M3 : FFmt := ⟨4, 3, 7, false, true⟩
def fmtE5M2 : FFmt := ⟨5, 2, 15, true, true⟩

/-- The binary format of a format code (R123); codes 0x5, 0x6, 0xA and 0xB are not binary floating formats. -/
def fmtOf : Nat → FFmt
  | 0 => fmtE2M1 | 1 => fmtE2M3 | 2 => fmtE3M2 | 3 => fmtE4M3 | 4 => fmtE5M2
  | 7 => fmtBF16 | 8 => fmtFP16 | _ => fmtFP32

/-- The element width in bits of a format code (R123). -/
def elemBits : Nat → Nat
  | 0 => 4 | 1 => 6 | 2 => 6 | 3 => 8 | 4 => 8 | 5 => 4 | 6 => 8 | 7 => 16 | 8 => 16 | _ => 32

/-- The bytes of a block of 32 elements (R124): 16, 32, 32, 64 or 128 for 4-, 6-, 8-, 16- and 32-bit elements. -/
def blockBytes (fmt : Nat) : Nat :=
  match elemBits fmt with
  | 4 => 16 | 6 => 32 | 8 => 32 | 16 => 64 | _ => 128

/-- A format code with an E8M0 scale per block (R123). -/
def isMX (fmt : Nat) : Bool := decide (fmt ≤ 4)

/-- The two integer formats INT4 and INT8. -/
def isInt (fmt : Nat) : Bool := decide (fmt = 5) || decide (fmt = 6)

/-- The product grid P of an MX format (R123). -/
def productGrid : Nat → Int
  | 0 => -2 | 1 => -6 | 2 => -8 | 3 => -18 | 4 => -32 | _ => 0

/-- The value a code of a format stands for. -/
def decodeF (f : FFmt) (n : Nat) : FVal :=
  let neg := bit n (f.eb + f.mb)
  let x := n / 2 ^ f.mb % 2 ^ f.eb
  let m := n % 2 ^ f.mb
  if f.hasInf && decide (x = 2 ^ f.eb - 1) then (if m = 0 then .inf neg else .nan)
  else if f.hasNan && !f.hasInf && decide (x = 2 ^ f.eb - 1) && decide (m = 2 ^ f.mb - 1) then .nan
  else if x = 0 then .fin neg m (1 - (f.bias : Int) - f.mb)
  else .fin neg (m + 2 ^ f.mb) ((x : Int) - f.bias - f.mb)

/-- A magnitude m times 2 to the e as a multiple of 2 to the `q`, to nearest with ties to even. -/
def roundTo (m : Nat) (e q : Int) : Nat :=
  if q ≤ e then m * 2 ^ (e - q).toNat
  else
    let k := (q - e).toNat
    let t := m / 2 ^ k
    let r := m % 2 ^ k
    let h := 2 ^ (k - 1)
    if h < r || (decide (r = h) && decide (t % 2 = 1)) then t + 1 else t

/-- The largest finite magnitude of a format, as a code without its sign. -/
def maxFinite (f : FFmt) : Nat :=
  if f.hasInf then (2 ^ f.eb - 1) * 2 ^ f.mb - 1
  else if f.hasNan then 2 ^ (f.eb + f.mb) - 2
  else 2 ^ (f.eb + f.mb) - 1

/-- The NaN a format writes: 0x7FC0_0000, 0x7FC0 or 0x7E00 (R137, R138). -/
def nanCode (f : FFmt) : Nat :=
  if f.hasInf then (2 ^ f.eb - 1) * 2 ^ f.mb + 2 ^ (f.mb - 1) else 2 ^ (f.eb + f.mb) - 1

/-- A value in a format, rounded once to nearest with ties to even, subnormals kept. Beyond the range a finite value
is the largest finite magnitude with its sign where `sat`, else an infinity; an infinite value stays infinite, or is the
largest finite magnitude in a format that has no infinity (R137, R138, R140). -/
def encodeF (f : FFmt) (sat : Bool) (v : FVal) : Nat :=
  let sgn (neg : Bool) : Nat := if neg then 2 ^ (f.eb + f.mb) else 0
  let infCode : Nat := if f.hasInf then (2 ^ f.eb - 1) * 2 ^ f.mb else maxFinite f
  match v with
  | .nan => nanCode f
  | .inf neg => sgn neg + infCode
  | .fin neg m e =>
    if m = 0 then sgn neg
    else
      let top : Int := (Nat.log2 m : Int) + e
      let q : Int := max top (1 - (f.bias : Int)) - f.mb
      let r := roundTo m e q
      let code : Int :=
        if r < 2 ^ f.mb then (r : Int)
        else (q + f.mb + f.bias) * 2 ^ f.mb + ((r : Int) - 2 ^ f.mb)
      if code ≤ maxFinite f then sgn neg + code.toNat
      else sgn neg + (if sat then maxFinite f else infCode)

/-- The exact sum of two values; the sum of two zeros is minus zero only where both are. -/
def fAdd (a b : FVal) : FVal :=
  match a, b with
  | .nan, _ => .nan
  | _, .nan => .nan
  | .inf s, .inf t => if s = t then .inf s else .nan
  | .inf s, _ => .inf s
  | _, .inf t => .inf t
  | .fin s m e, .fin t n g =>
    let lo := min e g
    let x : Int := (if s then -1 else 1) * ((m * 2 ^ (e - lo).toNat : Nat) : Int)
    let y : Int := (if t then -1 else 1) * ((n * 2 ^ (g - lo).toNat : Nat) : Int)
    let z := x + y
    if z = 0 then .fin (s && t) 0 lo else .fin (decide (z < 0)) z.natAbs lo

/-- The exact product of two values; zero times infinity is NaN (R128). -/
def fMul (a b : FVal) : FVal :=
  match a, b with
  | .nan, _ => .nan
  | _, .nan => .nan
  | .inf s, .inf t => .inf (s != t)
  | .inf s, .fin t n _ => if n = 0 then .nan else .inf (s != t)
  | .fin s m _, .inf t => if m = 0 then .nan else .inf (s != t)
  | .fin s m e, .fin t n g => .fin (s != t) (m * n) (e + g)

/-- The order of two values that are no NaN, plus zero above minus zero (R138). -/
def fLe (a b : FVal) : Bool :=
  let key (v : FVal) : Int × Int :=     -- class by sign and infinity, then sign of a zero
    match v with
    | .inf true => (-1, 0)
    | .inf false => (1, 0)
    | .fin neg m _ => (0, if m = 0 then (if neg then 0 else 1) else if neg then -1 else 2)
    | .nan => (0, 0)
  match a, b with
  | .fin s m e, .fin t n g =>
    if m = 0 || n = 0 then decide ((key a).2 ≤ (key b).2)
    else
      let lo := min e g
      let x : Int := (if s then -1 else 1) * ((m * 2 ^ (e - lo).toNat : Nat) : Int)
      let y : Int := (if t then -1 else 1) * ((n * 2 ^ (g - lo).toNat : Nat) : Int)
      decide (x ≤ y)
  | _, _ => decide ((key a).1 ≤ (key b).1)

def fMax (a b : FVal) : FVal :=
  match a, b with
  | .nan, _ => .nan
  | _, .nan => .nan
  | a, b => if fLe a b then b else a

def fMin (a b : FVal) : FVal :=
  match a, b with
  | .nan, _ => .nan
  | _, .nan => .nan
  | a, b => if fLe a b then a else b

/-- An FP32 code as a value. -/
def f32 (n : Nat) : FVal := decodeF fmtFP32 n

/-- A value rounded once to FP32 (R138). -/
def r32 (v : FVal) : Nat := encodeF fmtFP32 false v

/-- The beat sum of a lane (R127, R128): an integer times a power of two, an infinity or a NaN. -/
inductive BSum where
  | fin (t : Int) (e : Int)
  | inf (neg : Bool)
  | nan
  deriving DecidableEq, Repr

/-- A sum of exact values as a beat sum; its zero carries no sign. -/
def bsumOf (v : FVal) : BSum :=
  match v with
  | .nan => .nan
  | .inf s => .inf s
  | .fin s m e => .fin (if s then -(m : Int) else m) e

def bsumVal (b : BSum) : FVal :=
  match b with
  | .nan => .nan
  | .inf s => .inf s
  | .fin t e => .fin (decide (t < 0)) t.natAbs e

/-- The dot product of exact values, formed without rounding (R127). -/
def dotVals (a b : List FVal) : FVal :=
  (List.zipWith fMul a b).foldl fAdd (.fin false 0 0)

/-- The sign-and-magnitude value scaled by a power of two. -/
def fScale (v : FVal) (k : Int) : FVal :=
  match v with
  | .fin s m e => .fin s m (e + k)
  | v => v

/-- The flags that an exact accumulation raises, in the order of R137: NAN, RANGE, LOSS. -/
structure XFlags where
  nan : Bool := false
  range : Bool := false
  loss : Bool := false
  deriving DecidableEq, Repr

def XFlags.or (a b : XFlags) : XFlags := ⟨a.nan || b.nan, a.range || b.range, a.loss || b.loss⟩

/-- The term of a beat sum on the grid 2 to the W, rounded toward minus infinity, with RANGE and LOSS (R131). -/
def exactTerm (t e w : Int) : Int × XFlags :=
  let x : Int := if w ≤ e then t * 2 ^ (e - w).toNat else Int.fdiv t (2 ^ (w - e).toNat)
  let lossy : Bool := !decide (w ≤ e) && decide (x * 2 ^ (w - e).toNat ≠ t)
  (x, ⟨false, !(decide (-(2 ^ 80) ≤ x) && decide (x ≤ 2 ^ 80 - 1)), lossy⟩)

/-- A beat sum added to a long accumulator modulo 2^96 (R131). -/
def exactAdd (n : BitVec 96) (w : Int) (b : BSum) : BitVec 96 × XFlags :=
  match b with
  | .fin t e => let (x, f) := exactTerm t e w; (n + BitVec.ofInt 96 x, f)
  | _ => (n, ⟨true, false, false⟩)

/-- An exact partial (R135): N in bytes 0 to 11, W in bytes 12 and 13, the flags in byte 14, byte 15 zero. -/
def partialBytes (n : BitVec 96) (w : Int) (f : XFlags) : List Byte :=
  toLE 12 n.toNat ++ toLE 2 (wrap w 16) ++ [BitVec.ofNat 8 (b2n f.nan + 2 * b2n f.range + 4 * b2n f.loss), 0]

/-- An E8M0 scale: none for 0xFF, which means NaN (R123, R128). -/
def e8m0 (n : Nat) : Option Int := if n = 255 then none else some ((n : Int) - 127)

/-- Element `j` of a packed block or beat: the packings of R124 for 4-, 6-, 8-, 16- and 32-bit elements. -/
def elemAt (fmt : Nat) (l : List Byte) (j : Nat) : Nat :=
  match elemBits fmt with
  | 4 => ((l.getD (j / 2) 0).toNat / 16 ^ (j % 2)) % 16
  | 6 => leAt l (8 * (j / 8)) 8 / 64 ^ (j % 8) % 64
  | 8 => (l.getD j 0).toNat
  | 16 => leAt l (2 * j) 2
  | _ => leAt l (4 * j) 4

/-- A list of element codes packed as R124 gives. -/
def packElems (fmt : Nat) (l : List Nat) : List Byte :=
  match elemBits fmt with
  | 4 => (List.range (l.length / 2)).map (fun i => BitVec.ofNat 8 (l.getD (2 * i) 0 + 16 * l.getD (2 * i + 1) 0))
  | 6 => ((List.range (l.length / 8)).map (fun i =>
      toLE 8 ((List.range 8).foldr (fun j acc => l.getD (8 * i + j) 0 * 64 ^ j + acc) 0))).flatten
  | 8 => l.map (BitVec.ofNat 8)
  | 16 => (l.map (toLE 2)).flatten
  | _ => (l.map (toLE 4)).flatten

/-- Emax of the MX formats: 2 for E2M1 and E2M3, 4 for E3M2, 8 for E4M3, 15 for E5M2 (R140). -/
def mxEmax : Nat → Int
  | 0 => 2 | 1 => 2 | 2 => 4 | 3 => 8 | _ => 15

/-- The binary exponent of a finite non-zero value: the floor of its base-two logarithm. -/
def fExp (v : FVal) : Option Int :=
  match v with
  | .fin _ m e => if m = 0 then none else some ((Nat.log2 m : Int) + e)
  | _ => none

/-- 32 FP32 values quantized to one MX block: the scale byte and the elements (R140). -/
def quantize (fmt : Nat) (sat : Bool) (vs : List FVal) : Nat × List Nat :=
  let f := fmtOf fmt
  if vs.any (fun v => v == .nan) then (255, vs.map (fun _ => 0))
  else
    let top := vs.foldl (fun (a : Option Int) v => match a, fExp v with
      | none, x => x
      | some a, some x => some (max a x)
      | some a, none => some a) none
    let hasInf := vs.any (fun v => match v with | .inf _ => true | _ => false)
    match top with
    | none =>
      -- every finite value is zero: scale byte 0x00, or X of +127 where the block holds an infinity
      (if hasInf then 254 else 0, vs.map (encodeF f (!(f.hasInf) || sat)))
    | some t =>
      let x := max (-127) (min 127 (t - mxEmax fmt))
      ((x + 127).toNat, vs.map (fun v => encodeF f (!(f.hasInf) || sat) (fScale v (-x))))

/-- One MX block dequantized to 32 FP32 codes; a scale of 0xFF gives NaNs (R140, R128). -/
def dequantize (fmt : Nat) (scale : Nat) (blk : List Byte) : List Nat :=
  (List.range 32).map (fun j =>
    match e8m0 scale with
    | none => nanCode fmtFP32
    | some k => r32 (fScale (decodeF (fmtOf fmt) (elemAt fmt blk j)) k))

/-- The fixed tree of VRED: lane pairs, then pairs of those sums, rounding after each addition (R139). -/
def redPairs : List Nat → List Nat
  | a :: b :: l => r32 (fAdd (f32 a) (f32 b)) :: redPairs l
  | l => l

def vredTree (l : List Nat) : Nat := (redPairs (redPairs (redPairs (redPairs l)))).headD 0

end Sys2Proof.Machine
end

