-- ==== Sys2Proof/Config.lean ====
section
/-! DEFINITION. What a given chip fixes and the spec leaves open: free values without a body, so that no proof can see one. -/
namespace Sys2Proof.Config

/-- Draw `n` of the random source (R454): Umbra keys, nonces and blob IVs. Free: a draw has no value in the spec. -/
opaque random : Nat → BitVec 512

/-- What a byte of HBM outside sealed regions reads as when it has not been written since the keys were drawn
(R307, "pseudorandom bytes"), by key draw and hub-local address. Free. -/
opaque hbmNoise : Nat → Nat → Byte

/-- HUB_ID, 128 bits fused at manufacture (R442), byte n of KEY_ID in bits [8n + 7:8n]. -/
opaque hubId : BitVec 128

/-- DEVICE_SECRET, 384 bits fused at manufacture (R442); no path reads it (R453). -/
opaque deviceSecret : BitVec 384

/-- The depth of a crossing FIFO in words; the spec gives none (R21). -/
opaque fifoDepth : Nat

/-- The bank and row of a channel byte offset, "a fixed rule of the controller" (R277). -/
opaque bankRow : Nat → Nat × Nat

/-- A counter tree node's eviction order and every other choice of an instance where several are ready and the spec
fixes none: a free choice by its number. -/
opaque choice : Nat → Nat

/-- What a read of a page entry in host memory returns, by the number of the walk and of the read within it: none where it fails. Free. -/
opaque hostRead : Nat → Nat → Option Word

/-- What a byte of another hub's memory reads as, by read number and system physical address: none where the read fails. Free. -/
opaque remoteByte : Nat → Nat → Option Byte

/-- The 640 bytes of a TRAIN block of a link: "the lane number, link number and hub identity" in no stated layout (R354). Free. -/
opaque trainData : Nat → List Byte

/-- EPOCH while the state is INVALID; the spec gives a range of 0 to 8 alone (R441). Free. -/
opaque invalidEpoch : Nat

/-- The ERR of a WRAP that fails because the INVALID state has no root; the spec names none (R442). Free. -/
opaque noRootErr : Nat

/-- The bits that took in one copy when a value's read-back fails, by copy and number of the attempt (R444). Free. -/
opaque fuseTook : Nat → BitVec 384

/-- What an attestation report word reads after a slice's WRAP, by the number of the draw and byte: R466 says only that the report
stays until then. Free. -/
opaque reportAfterWrap : Nat → Nat → Byte

/-- What a scan-chain dump returns (R452), by its number; the spec names no scan chain's bits. Free. -/
opaque scanBytes : Nat → List Byte

/-- A field of SLM_COMMIT_DETAIL for which a refusal names no slice or number; the spec states none (R99, R100). By field,
refusal code and record. Free. -/
opaque detailOpen : Nat → Nat → Nat → Nat

end Sys2Proof.Config
end

