-- ==== Sys2Proof/Machine/Galley.lean ====
section
/-! DEFINITION. The instructions of a galley (R119): their fields, their 64-bit encoding, and a decoder that refuses
every reserved encoding by answering none (R7, R122, R488). -/
namespace Sys2Proof.Machine

/-- The scalar operations (class SCALAR, R119), but for LIH, which uses neither RA nor RB. -/
inductive AluOp where
  | add | sub | and | or | xor | shl | shr | sra | mul | slt
  deriving DecidableEq, Repr

/-- The scratch accesses of class LOCAL. -/
inductive LocalOp where
  | ld8 | st8 | ld4 | st4
  deriving DecidableEq, Repr

/-- The operations of the FP32 vector unit. -/
inductive VecOp where
  | vfma | vadd | vmul | vmax | vmin | vpack | vunpk | vqnt | vdq | vred
  deriving DecidableEq, Repr

/-- The operations of class CHAN. -/
inductive ChanOp where
  | send | recv | fwd | pass
  deriving DecidableEq, Repr

/-- The operations of class FABRIC. -/
inductive FabOp where
  | fld | fst | fsta | fatom
  deriving DecidableEq, Repr

/-- One instruction of a galley, its fields as numbers (R119, R488). -/
inductive GInstr where
  | nop
  | loop (lvl creg body count : Nat)
  | br (cond ra target : Nat)
  | sheet
  | end_
  | waitu (units : Nat)
  | waitac (ra rb : Nat)
  | alu (op : AluOp) (rd ra rb imm : Nat)
  | lih (rd imm : Nat)
  | loc (op : LocalOp) (rd ra off : Nat)
  | tcfg (set w : Nat)
  | tmma (fmt exact sparse set zr ra rb rc rd nblk : Nat)
  | tdrain (ofmt sat set zr ra : Nat)
  | taddx (set ra : Nat)
  | tstat (rd : Nat)
  | vec (op : VecOp) (rd ra rb rc count fmt sat : Nat)
  | gr (ifmt red wfmt ra : Nat)
  | chan (op : ChanOp) (dir dir2 ra count : Nat)
  | fab (op : FabOp) (ra rb rc ctx aop rd : Nat)
  deriving DecidableEq, Repr

def aluCode : AluOp → Nat
  | .add => 0 | .sub => 1 | .and => 2 | .or => 3 | .xor => 4 | .shl => 5 | .shr => 6 | .sra => 7 | .mul => 8 | .slt => 9

def aluOf : Nat → Option AluOp
  | 0 => some .add | 1 => some .sub | 2 => some .and | 3 => some .or | 4 => some .xor
  | 5 => some .shl | 6 => some .shr | 7 => some .sra | 8 => some .mul | 9 => some .slt | _ => none

def localCode : LocalOp → Nat
  | .ld8 => 0 | .st8 => 1 | .ld4 => 2 | .st4 => 3

def localOf : Nat → Option LocalOp
  | 0 => some .ld8 | 1 => some .st8 | 2 => some .ld4 | 3 => some .st4 | _ => none

def vecCode : VecOp → Nat
  | .vfma => 0 | .vadd => 1 | .vmul => 2 | .vmax => 3 | .vmin => 4
  | .vpack => 5 | .vunpk => 6 | .vqnt => 7 | .vdq => 8 | .vred => 9

def vecOf : Nat → Option VecOp
  | 0 => some .vfma | 1 => some .vadd | 2 => some .vmul | 3 => some .vmax | 4 => some .vmin
  | 5 => some .vpack | 6 => some .vunpk | 7 => some .vqnt | 8 => some .vdq | 9 => some .vred | _ => none

def chanCode : ChanOp → Nat
  | .send => 0 | .recv => 1 | .fwd => 2 | .pass => 3

def chanOf : Nat → Option ChanOp
  | 0 => some .send | 1 => some .recv | 2 => some .fwd | 3 => some .pass | _ => none

def fabCode : FabOp → Nat
  | .fld => 0 | .fst => 1 | .fsta => 2 | .fatom => 3

def fabOf : Nat → Option FabOp
  | 0 => some .fld | 1 => some .fst | 2 => some .fsta | 3 => some .fatom | _ => none

/-- A scalar operation whose RB field is used: VFMA, VADD, VMUL, VMAX, VMIN, VDQ (R488). -/
def vecUsesRb : VecOp → Bool
  | .vfma | .vadd | .vmul | .vmax | .vmin | .vdq => true
  | _ => false

/-- The vector operations that use RC (R488). -/
def vecUsesRc : VecOp → Bool
  | .vfma | .vqnt => true
  | _ => false

/-- The format codes a vector operation admits (R488, R123). -/
def vecFmtOk (op : VecOp) (fmt : Nat) : Bool :=
  match op with
  | .vpack | .vunpk => decide (fmt = 7) || decide (fmt = 8)
  | .vqnt | .vdq => decide (fmt ≤ 4)
  | _ => decide (fmt = 0)

/-- The vector operations that use SAT (R488). -/
def vecUsesSat : VecOp → Bool
  | .vpack | .vqnt => true
  | _ => false

/-- Every field within its width, and every field that the operation does not use zero (R119, R488). This is the
encoding check of a galley; the other checks of R122 are made at LOAD. -/
def GInstr.wf : GInstr → Bool
  | .nop | .sheet | .end_ => true
  | .loop lvl creg body count =>
    decide (lvl < 4) && decide (creg < 32) && decide (1 ≤ body) && decide (body < 2048) && decide (count < 4294967296)
  | .br cond ra target => decide (cond < 5) && decide (ra < 32) && decide (target < 2048)
  | .waitu units => decide (units < 64)
  | .waitac ra rb => decide (ra < 32) && decide (rb < 32)
  | .alu _ rd ra rb imm => decide (rd < 32) && decide (ra < 32) && decide (rb < 32) && decide (imm < 4294967296)
  | .lih rd imm => decide (rd < 32) && decide (imm < 4294967296)
  | .loc _ rd ra off => decide (rd < 32) && decide (ra < 32) && decide (off < 65536)
  | .tcfg set w => decide (set < 2) && decide (w < 65536)
  | .tmma fmt exact sparse set zr ra rb rc rd nblk =>
    decide (fmt < 16) && decide (exact < 2) && decide (sparse < 2) && decide (set < 2) && decide (zr < 2) &&
    decide (ra < 32) && decide (rb < 32) && decide (rc < 32) && decide (rd < 32) && decide (1 ≤ nblk) && decide (nblk < 2048)
  | .tdrain ofmt sat set zr ra =>
    decide (ofmt < 16) && decide (sat < 2) && decide (set < 2) && decide (zr < 2) && decide (ra < 32)
  | .taddx set ra => decide (set < 2) && decide (ra < 32)
  | .tstat rd => decide (rd < 32)
  | .vec op rd ra rb rc count fmt sat =>
    decide (rd < 32) && decide (ra < 32) && decide (rb < 32) && decide (rc < 32) && decide (1 ≤ count) &&
    decide (count < 2048) && decide (fmt < 16) && decide (sat < 2) && (vecUsesRb op || decide (rb = 0)) &&
    (vecUsesRc op || decide (rc = 0)) && vecFmtOk op fmt && (vecUsesSat op || decide (sat = 0))
  | .gr ifmt red wfmt ra => decide (ifmt < 2) && decide (red < 4) && decide (wfmt < 3) && decide (ra < 32)
  | .chan op dir dir2 ra count =>
    decide (dir < 4) && decide (dir2 < 4) && decide (ra < 32) && decide (1 ≤ count) && decide (count < 2048) &&
    (match op with | .fwd | .pass => true | _ => decide (dir2 = 0))
  | .fab op ra rb rc ctx aop rd =>
    decide (ra < 32) && decide (rb < 32) && decide (rc < 32) && decide (ctx < 16) && decide (aop < 10) && decide (rd < 32) &&
    (match op with
     | .fld | .fst => decide (aop = 0) && decide (rd = 0)
     | .fsta => decide (aop = 0)
     | .fatom => decide (rc = 0) && decide (rd = 0))

/-- The 64-bit word of an instruction: class in [63:60], operation in [59:56] (R119), the fields where the class's list
puts them, every other bit zero. -/
def GInstr.code : GInstr → Nat
  | .nop => 0
  | .loop lvl creg body count => 0x0100000000000000 + lvl * 2 ^ 54 + creg * 2 ^ 49 + body * 2 ^ 38 + count
  | .br cond ra target => 0x0200000000000000 + cond * 2 ^ 53 + ra * 2 ^ 48 + target
  | .sheet => 0x0300000000000000
  | .end_ => 0x0400000000000000
  | .waitu units => 0x0500000000000000 + units * 2 ^ 48
  | .waitac ra rb => 0x0600000000000000 + ra * 2 ^ 48 + rb * 2 ^ 43
  | .alu op rd ra rb imm =>
    0x1000000000000000 + aluCode op * 2 ^ 56 + rd * 2 ^ 51 + ra * 2 ^ 46 + rb * 2 ^ 41 + imm
  | .lih rd imm => 0x1a00000000000000 + rd * 2 ^ 51 + imm
  | .loc op rd ra off => 0x2000000000000000 + localCode op * 2 ^ 56 + rd * 2 ^ 51 + ra * 2 ^ 46 + off
  | .tcfg set w => 0x3000000000000000 + set * 2 ^ 49 + w
  | .tmma fmt exact sparse set zr ra rb rc rd nblk =>
    0x3100000000000000 + fmt * 2 ^ 52 + exact * 2 ^ 51 + sparse * 2 ^ 50 + set * 2 ^ 49 + zr * 2 ^ 48 +
    ra * 2 ^ 43 + rb * 2 ^ 38 + rc * 2 ^ 33 + rd * 2 ^ 28 + nblk * 2 ^ 17
  | .tdrain ofmt sat set zr ra =>
    0x3200000000000000 + ofmt * 2 ^ 52 + sat * 2 ^ 51 + set * 2 ^ 49 + zr * 2 ^ 48 + ra * 2 ^ 43
  | .taddx set ra => 0x3300000000000000 + set * 2 ^ 49 + ra * 2 ^ 43
  | .tstat rd => 0x3400000000000000 + rd * 2 ^ 51
  | .vec op rd ra rb rc count fmt sat =>
    0x4000000000000000 + vecCode op * 2 ^ 56 + rd * 2 ^ 51 + ra * 2 ^ 46 + rb * 2 ^ 41 + rc * 2 ^ 36 +
    count * 2 ^ 25 + fmt * 2 ^ 21 + sat * 2 ^ 20
  | .gr ifmt red wfmt ra => 0x5000000000000000 + ifmt * 2 ^ 54 + red * 2 ^ 52 + wfmt * 2 ^ 50 + ra * 2 ^ 45
  | .chan op dir dir2 ra count =>
    0x6000000000000000 + chanCode op * 2 ^ 56 + dir * 2 ^ 54 + dir2 * 2 ^ 52 + ra * 2 ^ 47 + count * 2 ^ 36
  | .fab op ra rb rc ctx aop rd =>
    0x7000000000000000 + fabCode op * 2 ^ 56 + ra * 2 ^ 51 + rb * 2 ^ 46 + rc * 2 ^ 41 + ctx * 2 ^ 37 +
    aop * 2 ^ 33 + rd * 2 ^ 28

/-- The fields of a word, read by class and operation; the bits the class does not assign are not looked at here. -/
def ginstrFields (n : Nat) : Option GInstr :=
  match bits n 63 60, bits n 59 56 with
  | 0, 0 => some .nop
  | 0, 1 => some (.loop (bits n 55 54) (bits n 53 49) (bits n 48 38) (bits n 31 0))
  | 0, 2 => some (.br (bits n 55 53) (bits n 52 48) (bits n 10 0))
  | 0, 3 => some .sheet
  | 0, 4 => some .end_
  | 0, 5 => some (.waitu (bits n 53 48))
  | 0, 6 => some (.waitac (bits n 52 48) (bits n 47 43))
  | 1, 10 => some (.lih (bits n 55 51) (bits n 31 0))
  | 1, o => (aluOf o).map (fun p => .alu p (bits n 55 51) (bits n 50 46) (bits n 45 41) (bits n 31 0))
  | 2, o => (localOf o).map (fun p => .loc p (bits n 55 51) (bits n 50 46) (bits n 15 0))
  | 3, 0 => some (.tcfg (bits n 49 49) (bits n 15 0))
  | 3, 1 => some (.tmma (bits n 55 52) (bits n 51 51) (bits n 50 50) (bits n 49 49) (bits n 48 48)
      (bits n 47 43) (bits n 42 38) (bits n 37 33) (bits n 32 28) (bits n 27 17))
  | 3, 2 => some (.tdrain (bits n 55 52) (bits n 51 51) (bits n 49 49) (bits n 48 48) (bits n 47 43))
  | 3, 3 => some (.taddx (bits n 49 49) (bits n 47 43))
  | 3, 4 => some (.tstat (bits n 55 51))
  | 4, o => (vecOf o).map (fun p => .vec p (bits n 55 51) (bits n 50 46) (bits n 45 41) (bits n 40 36)
      (bits n 35 25) (bits n 24 21) (bits n 20 20))
  | 5, 0 => some (.gr (bits n 55 54) (bits n 53 52) (bits n 51 50) (bits n 49 45))
  | 6, o => (chanOf o).map (fun p => .chan p (bits n 55 54) (bits n 53 52) (bits n 51 47) (bits n 46 36))
  | 7, o => (fabOf o).map (fun p => .fab p (bits n 55 51) (bits n 50 46) (bits n 45 41) (bits n 40 37)
      (bits n 36 33) (bits n 32 28))
  | _, _ => none

/-- The instruction a 64-bit program-store word spells; none for a reserved class, operation or field value, or a
non-zero reserved bit (R7, R119, R122). -/
def ginstrOf (n : Nat) : Option GInstr :=
  match ginstrFields n with
  | some i => if i.wf && decide (i.code = n) then some i else none
  | none => none

end Sys2Proof.Machine
end

