-- ==== Sys2Proof/Machine/State.lean ====
section
/-! DEFINITION. Everything the spec gives the hub to hold, as plain data, and the hub right after power-on. The
registers live in one sparse map by hub-local address (unlisted: the Reset column of the register's table); what no
register shows has fields of its own. -/
namespace Sys2Proof.Machine

/-! ## The live forme (R79 to R94) -/

/-- One METER entry (R68). -/
structure Meter where
  guar : Nat := 0
  weight : Nat := 0
  deriving DecidableEq, Repr, Inhabited

/-- One fused group (R68). -/
structure FuseGrp where
  first : Nat
  rows : Nat
  cols : Nat
  deriving DecidableEq, Repr, Inhabited

/-- One granule range (R68, R91). -/
structure GRange where
  first : Nat
  count : Nat
  igrp : Nat
  deriving DecidableEq, Repr, Inhabited

/-- The records of one slice (R90, R91), the fault mode resolved (R41). -/
structure SliceRec where
  cr7 : Bool := false
  modeNamed : Nat := 0
  exactReq : Bool := false
  ctxEn : Nat := 1
  group : Nat := 0
  vfPort : Nat := 0
  vfIndex : Nat := 0
  moverGuar : Nat := 0
  moverWeight : Nat := 0
  walkerWeight : Nat := 0
  msixGuar : Nat := 0
  msixWeight : Nat := 0
  holdBase : Nat := 0
  arrays : List Nat := []
  parts : List (Nat × Nat) := []
  fuse : List FuseGrp := []
  siteEng : List Nat := []
  ranges : List GRange := []
  queues : List (Nat × Nat) := []
  meters : List Meter := []
  check : List Nat := []
  keys : List Nat := []
  links : List (Nat × Nat) := []
  deriving DecidableEq, Repr, Inhabited

/-- An INTERLEAVE record (R86). -/
structure IGroup where
  igrp : Nat
  stride : Nat
  first : Nat
  count : Nat
  chans : List Nat
  deriving DecidableEq, Repr, Inhabited

/-- A SEALED record (R86). -/
structure SealedRec where
  region : Nat
  first : Nat
  count : Nat
  metaFirst : Nat
  metaCount : Nat
  sweepH : Nat
  deriving DecidableEq, Repr, Inhabited

/-- A SCHED record (R86). -/
structure Sched where
  group : Nat
  hops : Nat
  beatLink : Nat
  sheetNs : Nat
  hubs : Nat
  deriving DecidableEq, Repr, Inhabited

/-- The live forme (R79): the hub-wide records and the slices' records. -/
structure Forme where
  hubNum : Option Nat := none
  ceilPct : Nat := 85
  quietMs : Nat := 100
  igroups : List IGroup := []
  sealedRegs : List SealedRec := []
  scheds : List Sched := []
  routes : SMap Nat := []
  reacts : SMap Nat := []
  appends : List (Nat × Nat × Nat) := []
  slices : SMap SliceRec := []
  deriving DecidableEq, Repr, Inhabited

/-! ## Slices at run time -/

/-- What the hub keeps of a slice beyond its registers and records. -/
structure SliceRt where
  /-- A HOLD has been written and not yet released (R176, R177). -/
  holdWritten : Bool := false
  /-- A RELEASE has been written and the cells are reloaded (R177). -/
  relReady : Bool := false
  /-- A release from FAULT whose cells wait for the group's RELEASE boundary (R178). -/
  resumeWait : Bool := false
  /-- The cells that the last HOLD saved, in entry order, with the LAUNCH each ran under and the one that had armed it;
  none where no hold entries stand (R76). -/
  saved : Option (List (Nat × Option Nat × Option Nat)) := none
  /-- When the last contained fault was named to the slice, in ps (R404). -/
  faultAt : Nat := 0
  recoveries : Nat := 0
  mirrorSeq : Nat := 0
  grantSeq : Nat := 0
  /-- The grant part of the mirror, bytes 0x000 to 0x6FF (R66); empty stands for all zero. -/
  grant : List Byte := []
  shortfall : Nat := 0
  /-- The slice is held and HOLD_DONE waits for its running commands (R54, R176). -/
  holdDue : Bool := false
  /-- Channels the slice uses alone (R46, R68 EXCL). -/
  exclChans : List Nat := []
  /-- A contained fault was named since the group's last vote (R164). -/
  votedFault : Bool := false
  /-- A slice RESET or function reset whose items are still ending (R230, R274). -/
  resetting : Bool := false
  /-- The context whose reset runs (R424). -/
  ctxReset : Option Nat := none
  /-- The arrays of the last move copy accepted (R77). -/
  moving : Nat × Nat := (0, 0)
  /-- A move copy waits for a data mover (R77). -/
  moveWaits : Bool := false
  /-- Cells whose hold entries are still to be read back (R177). -/
  reloadWait : Bool := false
  /-- Hold entries that a commit could not read as it copied them to a new hold area, with the status of the read (R59). -/
  badEntries : SMap Nat := []
  deriving DecidableEq, Repr, Inhabited

/-! ## Cells (R115 to R151) -/

/-- CELL_STAT.RUN (R166). -/
inductive CellRun where
  | idle | running | atSheet | stalled | held | faulted | inReset
  deriving DecidableEq, Repr, Inhabited

/-- What the sequencer waits for. -/
inductive CellWait where
  | none
  | units (mask : Nat)
  | counter (n : Nat) (target : Word)
  | sheet
  | finish
  deriving DecidableEq, Repr, Inhabited

/-- The mode of an accumulator set (R136, R148). -/
inductive AccMode where
  | fp32 | int32 | exact | noMode
  deriving DecidableEq, Repr, Inhabited

/-- An accumulator set: 16 lanes of 96 bits, its mode, its window exponent, and NAN, RANGE, LOSS, OVF, MIX (R136, R137). -/
structure AccSet where
  mode : AccMode := .noMode
  w : Int := 0
  lanes : Vector (BitVec 96) 16 := Vector.replicate 16 0
  flags : Nat := 0
  deriving DecidableEq, Repr

/-- A loop level (R148): remaining runs, first and last instruction of the body. -/
structure LoopLvl where
  rem : Nat := 0
  start : Nat := 0
  last : Nat := 0
  deriving DecidableEq, Repr, Inhabited

/-- An operation a unit runs or queues: the instruction, the register values it took at issue, its log entry. -/
structure UOp where
  instr : GInstr
  vals : List Nat
  log : Option Nat := none
  /-- CHAN only: words received and words delivered so far. -/
  recvd : Nat := 0
  sent : Nat := 0
  deriving DecidableEq, Repr

/-- One entry of a cell's completion log (R407). -/
structure LogEnt where
  fabric : Bool
  done : Bool := false
  recvd : Nat := 0
  sent : Nat := 0
  deriving DecidableEq, Repr, Inhabited

/-- The sheet mark (R406): the state of R148 at the start of the sheet, without the inbound buffers. -/
structure CellMark where
  pc : Nat := 0
  regs : Vector Word 32 := Vector.replicate 32 0
  loops : Vector LoopLvl 4 := Vector.replicate 4 {}
  accs : Vector AccSet 2 := Vector.replicate 2 {}
  gstat : Nat := 0
  sheet : Nat := 0
  deriving DecidableEq, Repr

/-- A cell. -/
structure Cell where
  run : CellRun := .idle
  wait : CellWait := .none
  pc : Nat := 0
  regs : Vector Word 32 := Vector.replicate 32 0
  loops : Vector LoopLvl 4 := Vector.replicate 4 {}
  accs : Vector AccSet 2 := Vector.replicate 2 {}
  gstat : Nat := 0
  tensor : List UOp := []
  vector : List UOp := []
  gather : List UOp := []
  chan : List UOp := []
  inbuf : Vector (Option (BitVec 128)) 4 := Vector.replicate 4 none
  /-- Inbound channels closed until a replay restores the buffers (R146). -/
  closed : Bool := false
  /-- Scratch and program store, by window offset 0 to 0x13FFF (R16); an unlisted byte is zero. -/
  mem : SMap Byte := []
  /-- The kernel ID and the instruction count of the galley the cell holds. -/
  galley : Option (Nat × Nat) := none
  /-- The LAUNCH item that armed the cell, before its start. -/
  armed : Option Nat := none
  /-- The LAUNCH item the cell runs under. -/
  launch : Option Nat := none
  /-- The sheet the cell's work belongs to. -/
  sheet : Nat := 0
  /-- When the cell reached SHEET, in ps. -/
  reachedAt : Nat := 0
  mark : Option CellMark := none
  log : List LogEnt := []
  logOvf : Bool := false
  /-- A store or atomic of the sheet ended by timeout (R409). -/
  logTimeout : Bool := false
  /-- The inbound buffers copied at a reset (R407). -/
  bufCopy : Vector (Option (BitVec 128)) 4 := Vector.replicate 4 none
  /-- The next log entry a replay matches; none where the cell runs as normal (R408). -/
  replay : Option Nat := none
  /-- The kind of the fault that reset the cell, so that it restarts by replay (R406, R409). -/
  wasReset : Option Nat := none
  /-- The run state a stop left behind, for a cell that resumes where it stood (R490). -/
  stopRun : CellRun := .idle
  /-- A fabric access of the cell waits on a translation fault: the port issues nothing further (R255). -/
  portStall : Bool := false
  deriving DecidableEq, Repr

/-! ## Requests on the hub fabric -/

/-- The access kinds of R241, an atomic with its AOP, operand and comparand. -/
inductive ReqKind where
  | read
  | write
  | atomic (aop : Nat) (operand compare : Word)
  deriving DecidableEq, Repr, Inhabited

/-- Who sent a request. -/
inductive ReqSrc where
  | cell (c op off : Nat)
  | item (i off : Nat)
  | site (s e tag : Nat)
  | host (f : HostFn)
  | remote (link : Nat)
  | management
  /-- A completion record of a queue, with its IRQ (R205). -/
  | record (q : Nat) (irq : Bool)
  /-- An entry of a slice's fault ring (R259). -/
  | faultEntry (s : Nat)
  /-- A cell's hold entry (R76). -/
  | hold (c : Nat)
  /-- A read the hub makes within one command: a descriptor, an image, a blob, a hold entry, or a page entry, with a traffic class
  of its own where it has one. -/
  | own (cls : Option Nat)
  deriving DecidableEq, Repr, Inhabited

/-- Where a request stands. -/
inductive ReqStage where
  | xlate                       -- waits for a walk
  | fault                       -- waits on a translation fault
  | waiting                     -- waits for a tag, a bundle, a window credit or a route (R344, R345, R349, R365)
  | held                        -- waits behind a stalled access of the same port (R255, R369)
  | flight                      -- translated, on its way to its destination
  | queued                      -- in a channel's queue for its master
  | sealedGo                    -- admitted, with Umbra for its sealed line
  | window                      -- at an array's port
  | siteWin (tag : Nat)         -- sent to a chiplet
  | remote (tag : Nat)          -- sent to another hub
  | done                        -- answered
  | failed (status : Nat)       -- error response: 1 ACCESS, 2 MEMORY, 3 XLATE, 4 STOPPED, 5 ROUTE, 6 timeout, 7 LOST, 8 REMOTE
  deriving DecidableEq, Repr, Inhabited

/-- A request: at most one aligned 256-byte run (R278, R281, R342). -/
structure Req where
  src : ReqSrc
  slice : Nat := 0
  ctx : Nat := 0
  mgmt : Bool := false
  /-- The master it is charged to: 0 cells, 1 movers, 2 sites, 3 host (R280). -/
  cls : Nat := 0
  kind : ReqKind := .read
  va : Nat := 0
  /-- The system physical address once translated. -/
  pa : Nat := 0
  len : Nat := 0
  /-- Write data, or the data read so far. -/
  data : List Byte := []
  /-- The granules already applied or read, by index in the run (R215). -/
  got : List Nat := []
  stage : ReqStage := .xlate
  gen : Nat := 0
  /-- When it passed its meter, in ps (R416). -/
  since : Nat := 0
  admitted : Bool := false
  /-- The counter a counted write raises (R226), and its bundle at a remote hub (R344). -/
  acnum : Option Nat := none
  bundle : Option Nat := none
  btotal : Nat := 0
  last : Bool := false
  remoteHub : Option Nat := none
  /-- The other part of a site engine's request that touches two aligned 256-byte runs (R281). -/
  pair : Option Nat := none
  /-- A host function's request (R221, R222): its number, Relaxed Ordering, and whether it is a register access. -/
  hostNo : Nat := 0
  relaxed : Bool := false
  bar0 : Bool := false
  /-- When the request reached its sealed line, as a number in order (R306). -/
  umbNo : Nat := 0
  /-- The transport header of a request of another hub (R341). -/
  hdr : List Byte := []
  deriving DecidableEq, Repr, Inhabited

/-- A FABRIC operation of a cell until its response (R213, R237). -/
structure FabricOp where
  cell : Nat
  op : FabOp
  ra : Nat
  len : Nat
  /-- Requests of the operation not yet answered. -/
  left : Nat
  failed : Option Nat := none
  log : Option Nat := none
  acnum : Option Nat := none
  gen : Nat := 0
  slice : Nat := 0
  /-- The operation's writes go to another hub, and the bundle they travel as (R344). -/
  remote : Bool := false
  bundle : Option Nat := none
  deriving DecidableEq, Repr

/-! ## Queues and descriptors (R182 to R210) -/

/-- One translated leaf. -/
structure Leaf where
  ctxid : Nat
  va : Nat
  pa : Nat
  size : Nat
  r : Bool
  w : Bool
  atom : Bool
  d : Bool
  /-- The leaf entry and its level, for the fault ring (R259). -/
  entry : Nat := 0
  level : Nat := 0
  deriving DecidableEq, Repr, Inhabited

/-- Where a descriptor stands in the command store. -/
inductive ItemSt where
  | xlate          -- queued, a translation pending
  | ready          -- queued, checked and translated
  | waitChan       -- started, waits for its check channel (R432)
  | running
  | parked         -- started, its mover lent away (R198)
  | armed          -- a LAUNCH that waits for its boundary
  | waiting        -- a WAITAC or FENCE that holds its queue
  | ended          -- the record is written
  deriving DecidableEq, Repr, Inhabited

/-- A descriptor of the command store. -/
structure Item where
  queue : Nat
  seq : Nat
  slice : Option Nat
  ctx : Nat
  gen : Nat
  /-- The 64 bytes of the descriptor (R193). -/
  desc : List Byte
  st : ItemSt := .ready
  leaves : List Leaf := []
  /-- Bytes of the item handed to chunks, and granules known written from its start (R199, R206). -/
  pos : Nat := 0
  granules : Nat := 0
  /-- Requests of the current chunk not yet answered, and whether they read or write. -/
  left : Nat := 0
  writing : Bool := false
  buf : List Byte := []
  failed : Option Nat := none
  /-- The lowest offset in the chunk at which a request failed (R206). -/
  failOff : Nat := 65536
  /-- The order in which items started (R432). -/
  startNo : Nat := 0
  /-- Check-stream state (R432, R433). -/
  crc : Nat := 0
  taken : Bool := false
  /-- LAUNCH: the first sheet, and the last sheet in which a cell reached END (R204). -/
  firstSheet : Nat := 0
  lastSheet : Nat := 0
  cells : List Nat := []
  /-- LAUNCH: the cells that have reached END (R204). -/
  ended : List Nat := []
  /-- An event has asked the item to end with this status at its current chunk (R270, R208). -/
  squash : Option Nat := none
  bundle : Option Nat := none
  /-- Operand pages whose translation failed while the rest is still translated: address, access, reason, entry, level (R189). -/
  xbad : List (Nat × ReqKind × Nat × Nat × Nat) := []
  deriving DecidableEq, Repr, Inhabited

/-- Ring translations of an enabled queue (R272). -/
structure QRt where
  ring : List Leaf := []
  cring : List Leaf := []
  /-- The ring does not translate after an invalidation (R272). -/
  broken : Bool := false
  stopping : Bool := false
  heldRecords : List (Nat × List Byte × Bool) := []
  /-- Submitted descriptors that an event ends as they are taken: the status, and how many are left (R208). -/
  cut : Nat × Nat := (0, 0)
  /-- The contexts whose descriptors among those an event ends; empty stands for every one (R424). -/
  cutCtx : List Nat := []
  /-- The host link of the physical function that last rang a management queue (R383). -/
  rungBy : Option Nat := none
  deriving DecidableEq, Repr, Inhabited

/-! ## Translation (R239 to R274) -/

/-- A walk on a walker or waiting for one. -/
structure Walk where
  slice : Nat
  ctx : Nat
  va : Nat
  kind : ReqKind
  /-- 0 cell, 1 data mover, 2 site engine (R259), 3 hint. -/
  who : Nat
  started : Bool := false
  lv : Nat := 0
  table : Nat := 0
  reqs : List Nat := []
  items : List Nat := []
  deriving DecidableEq, Repr, Inhabited

/-- A translation fault: an unanswered fault-ring entry, or one that waits for ring space (R259, R260). -/
structure XFault where
  slice : Nat
  ctxid : Nat
  reason : Nat
  va : Nat
  access : Nat
  entry : Nat
  level : Nat
  fid : Option Nat := none
  since : Nat := 0
  reqs : List Nat := []
  items : List Nat := []
  deriving DecidableEq, Repr, Inhabited

/-- A non-leaf entry of the walk cache (R251). -/
structure WalkEnt where
  ctxid : Nat
  lv : Nat
  tag : Nat
  table : Nat
  deriving DecidableEq, Repr, Inhabited

/-- An invalidation (R270): the running one first, the waiting ones of R245 behind it. -/
structure Inval where
  slice : Nat
  ctx : Nat
  range : Option (Nat × Nat)
  irq : Bool := false
  vector : Nat := 0
  reqs : List Nat := []
  items : List Nat := []
  since : Nat := 0
  started : Bool := false
  /-- Items and requests it has reported failed. -/
  failed : Nat := 0
  deriving DecidableEq, Repr, Inhabited

/-! ## Memory and meters (R275 to R303) -/

/-- What a channel keeps beyond its registers. -/
structure ChanRt where
  /-- Request queues per master key, each in arrival order; key 16384 is management. -/
  queues : SMap (List Nat) := []
  /-- The master served last at step 2 of R283. -/
  rr : Nat := 0
  deficits : SMap Int := []
  lost : List Nat := []
  rows : SMap Nat := []
  ceAt : Option Nat := none
  trainFails : Nat := 0
  /-- When the patrol was last served, in ps (R295). -/
  patrolAt : Option Nat := none
  deriving DecidableEq, Repr, Inhabited

/-- What an interleave group's meter keeps beyond its registers (R288, R290). -/
structure GroupMeter where
  /-- The evaluations of the last millisecond and the one before them, latest first: time in ps and f (R288). -/
  past : List (Nat × Nat) := []
  shortAt : Option Nat := none
  deriving DecidableEq, Repr, Inhabited

/-! ## Umbra (R304 to R327) -/

/-- A sealed region's side: the draw its keys came from and the counters of its tree, by level and counter index. -/
structure SealSide where
  key : Nat := 0
  ctrs : SMap Nat := []
  dirty : List (Nat × Nat) := []
  deriving DecidableEq, Repr, Inhabited

/-- A sealed region at run time. -/
structure SealRt where
  cur : SealSide := {}
  nxt : SealSide := {}
  startedAt : Nat := 0
  dueAt : Option Nat := none
  queuedAt : Option Nat := none
  byGo : Option Nat := none
  lateRaised : Bool := false
  /-- When the region last started or completed a sweep (AGE_H). -/
  base : Nat := 0
  /-- Entries of the unverifiable list that stand past the end of the running sweep, and whether LOST_ALL does (R322). -/
  newLost : List Nat := []
  newLostAll : Bool := false
  deriving DecidableEq, Repr, Inhabited

/-! ## Quire links (R328 to R359) -/

/-- A transmit block kept for replay (R338). -/
structure TxBlock where
  bseq : Nat
  hdr : BitVec 20
  data : List Byte
  since : Nat
  sends : Nat
  /-- Offsets of beat frames in the block, for the stamp of R339. -/
  beats : List Nat
  /-- Tags of this hub's own requests that have a part in the block (R357). -/
  tags : List Nat := []
  deriving DecidableEq, Repr, Inhabited

/-- What a link keeps beyond its registers. -/
structure LinkRt where
  ctl : List (List Byte) := []
  vc0 : List (List Byte) := []
  vc1 : List (List Byte) := []
  vc2 : List (List Byte) := []
  /-- The rest of a frame begun in an earlier block, and its tag where it is a request of this hub's own. -/
  rest : List Byte := []
  restTag : Option Nat := none
  bseq : Nat := 0
  replay : List TxBlock := []
  resend : Option Nat := none
  sentSlots : List Nat := [0, 0, 0]
  peerFreed : List Nat := [0, 0, 0]
  freed : List Nat := [0, 0, 0]
  rxSeq : Nat := 0
  rxPart : List Byte := []
  rxPartSeq : Nat := 0
  rx0 : List (List Byte) := []
  rx1 : List (List Byte) := []
  rx2 : List (List Byte) := []
  rxCtl : List (List Byte) := []
  ackBlocks : Nat := 0
  lastAck : Nat := 0
  lastCredit : Nat := 0
  starved : List (Option Nat) := [none, none, none]
  delays : List Nat := []
  bringFails : Nat := 0
  low : Bool := false
  arrivedAt : List Nat := []
  rateAt : List (Option Nat) := [none, none, none]
  symWin : Nat × Nat := (0, 0)
  /-- When the bring-up that runs began, in ps (R354). -/
  enabledAt : Nat := 0
  deriving DecidableEq, Repr, Inhabited

/-- A transaction tag (R345, R346). -/
structure Tag where
  req : Option Nat
  hub : Nat
  link : Nat := 0
  slice : Nat
  ctx : Nat
  gen : Nat
  bundle : Option Nat := none
  since : Nat
  freeAt : Option Nat := none
  deriving DecidableEq, Repr, Inhabited

/-- A bundle tracker of a source hub (R344). -/
structure Bundle where
  /-- Bytes visible, and bytes of frames that failed. -/
  sum : Nat := 0
  bad : Nat := 0
  lastSeen : Bool := false
  /-- The transport header of the LAST frame, its acknowledgement held back until the counter has risen. -/
  lastHdr : Option (List Byte) := none
  deriving DecidableEq, Repr, Inhabited

/-- A QUIESCE this hub has sent (R350): 0 teardown, 1 link removal, 2 invalidation. -/
structure Quiesce where
  slice : Nat
  hub : Nat
  peer : Nat
  why : Nat
  since : Nat
  deriving DecidableEq, Repr, Inhabited

/-- A QUIESCE received and not yet answered: link, header words, and the pair. -/
structure QuiesceIn where
  link : Nat
  w0 : Nat
  w1 : Nat
  slice : Nat
  hub : Nat
  peer : Nat
  deriving DecidableEq, Repr, Inhabited

/-! ## Schedule groups (R155 to R179) -/

/-- A combined or single vote (R164). -/
structure Vote where
  late : Bool := false
  fault : Bool := false
  holdReq : Bool := false
  relReady : Bool := false
  boundary : Nat := 0
  count : Nat := 0
  lateHub : Option Nat := none
  deriving DecidableEq, Repr, Inhabited

/-- A beat message to be acted on. -/
structure BeatMsg where
  verdict : Nat
  boundary : Nat
  elapsed : Nat
  chk : Nat
  hop : Nat
  link : Nat
  actAt : Nat
  deriving DecidableEq, Repr, Inhabited

/-- What a hub keeps of a schedule group beyond QL_GRP_*. -/
structure GroupRt where
  commitAt : Nat := 0
  started : Bool := false
  formRaised : Bool := false
  /-- Subtree counts of the latest forming votes, by child link. -/
  forming : SMap Nat := []
  /-- Votes of the current check, by child link. -/
  votes : SMap Vote := []
  own : Option Vote := none
  sent : Bool := false
  /-- The last boundary's time, and whether it carried a check. -/
  lastAt : Nat := 0
  pend : Option BeatMsg := none
  /-- The origin's verdict machine (R170): state running 2, holding 3, held 4. -/
  ostate : Nat := 2
  consec : Nat := 0
  holdPending : Bool := false
  fixed : Option Nat := none
  lastVerdict : Nat := 0
  beatSilent : Bool := false
  slipTimes : List Nat := []
  slipRaisedAt : Option Nat := none
  saveDone : Bool := false
  /-- The sheet that the check of the last boundary is about, the cells late at the last check, and the time in ps from
  the last counted cell reaching SHEET to that boundary, none where one had not (R166, QL_GRP_SLACK). -/
  chkSheet : Nat := 0
  lateCells : List Nat := []
  slack : Option Nat := none
  eclSeen : List (Nat × Nat) := []
  deriving DecidableEq, Repr, Inhabited

/-! ## Sites and host ports (R360 to R383) -/

/-- A request this hub has sent to a chiplet. -/
structure WinReq where
  req : Option Nat
  engine : Nat
  since : Nat
  /-- A key delivery's slice, where the request is one (R461). -/
  key : Option Nat := none
  deriving DecidableEq, Repr, Inhabited

/-- What a site keeps beyond its registers. -/
structure SiteRt where
  wcred : Nat := 0
  wins : SMap WinReq := []
  nextTag : Nat := 0
  txSeq : Nat := 0
  rxSeq : Nat := 0
  replay : List (Nat × Packet) := []
  txq : List Packet := []
  /-- Engines closed (R370), with the time of their QUIESCE while it is unanswered. -/
  closing : SMap Nat := []
  closedEng : List Nat := []
  /-- Engines whose quiesce timed out: STOPPED until they open again. -/
  dead : List Nat := []
  lastCredit : Nat := 0
  enabledAt : Nat := 0
  deriving DecidableEq, Repr, Inhabited

/-- A mailbox (R378 to R380). -/
structure Mailbox where
  toMgr : List (List Byte) := []
  toTen : List (List Byte) := []
  seqM : Nat := 0
  seqT : Nat := 0
  deriving DecidableEq, Repr, Inhabited

/-- The MSI-X state of a host link (R376): vectors holding a slot, the backlog, and Pending Bits. -/
structure MsixRt where
  slots : List (Nat × Nat) := []
  backlog : List (Nat × Nat) := []
  pendBits : List (Nat × Nat) := []
  deriving DecidableEq, Repr, Inhabited

/-! ## Faults (R384 to R405) -/

/-- A fault message on its way to the collector, its fields as R387 gives. -/
structure FaultMsg where
  source : Nat
  kind : Nat
  cls : Nat
  slice : Option Nat := none
  ctx : Option Nat := none
  addr : Option Nat := none
  aux : Nat := 0
  gen : Nat := 0
  deriving DecidableEq, Repr, Inhabited

/-- What the collector keeps beyond its registers. -/
structure FcolRt where
  msgs : List FaultMsg := []
  seq : Nat := 0
  /-- Keys with a contained fault counted without a slot (R395): source, slice plus one. -/
  ovfKeys : List (Nat × Nat) := []
  /-- When the last event of R403 occurred. -/
  quietFrom : Nat := 0
  pulseEnd : Option Nat := none
  clrPending : Bool := false
  /-- Slices whose exit each latch entry blocks (R390). -/
  blocked : List (List Nat) := [[], [], [], []]
  /-- Source instances that a fatal fault stopped (R390). -/
  stopped : List Nat := []
  eclSeq : Nat := 0
  deriving DecidableEq, Repr, Inhabited

/-! ## Keys, lifecycle, power, Kelvy -/

/-- A key slot (R458). -/
structure KeySlot where
  key : List Byte
  len : Nat
  site : Nat
  eng : Nat
  once : Bool
  deriving DecidableEq, Repr, Inhabited

/-- An operation of the KEY block for a slice (R463). -/
structure KeyJob where
  op : Nat
  ctl : Word
  mgmt : Bool
  deriving DecidableEq, Repr, Inhabited

/-- One state row (R439, R449): three copies of 32 bits, and three copies of INTENT, ERASED and WRITTEN. -/
structure FuseRow where
  copies : Vector (BitVec 32) 3 := Vector.replicate 3 0
  intent : BitVec 3 := 0
  erased : BitVec 3 := 0
  written : BitVec 3 := 0
  deriving DecidableEq, Repr

/-- The fuses (R439, R442, R443): state rows, forme key hashes and attestation banks, each in three copies. -/
structure Fuses where
  rows : Vector FuseRow 8 := Vector.replicate 8 {}
  hashOpen : Vector (BitVec 384) 3 := Vector.replicate 3 0
  hashClosed : Vector (BitVec 384) 3 := Vector.replicate 3 0
  banks : Vector (Vector (BitVec 384) 3) 4 := Vector.replicate 4 (Vector.replicate 3 0)
  deriving DecidableEq, Repr

/-- Kelvy's two firmware halves, the images in them, and the running operation (R476, R482, R483). -/
structure KelvyRt where
  halfA : List Byte := []
  halfB : List Byte := []
  entry : Nat := 0
  halted : Bool := false
  op : Option Nat := none
  switchAt : Option Nat := none
  stagedMeas : List Byte := []
  stagedUnbound : Bool := false
  /-- KLV_IMG_ADDR when the running operation began. -/
  imgAddr : Nat := 0
  kickedAt : Nat := 0
  debugSteps : Nat := 0
  deriving DecidableEq, Repr, Inhabited

/-- What leaves the hub at its ports, newest first. -/
inductive Output where
  | regOk
  | regError
  | regData (v : Word)
  | hostDone (f : HostFn) (data : List Byte)
  | hostUR (f : HostFn)
  | hostCA (f : HostFn)
  | msix (k fnKey vec : Nat)
  | block (l : Nat) (hdr : BitVec 20) (data : List Byte)
  | sitePacket (s : Nat) (p : Packet)
  | kelvyIrq
  | kelvyNmi
  | atsDone (f : HostFn)
  | aer (f : HostFn)
  | islandWord (i : Island) (ep w : Nat)
  | islandFail (i : Island) (ep w : Nat)
  | tapData (d : List Byte)
  | flrDone (f : HostFn)
  deriving DecidableEq, Repr

/-- The words offered to, and inside, a crossing FIFO (R21): one for each endpoint of an island and each direction. -/
structure Fifo where
  offered : List Nat := []
  inside : List Nat := []
  deriving DecidableEq, Repr, Inhabited

/-- A resource a commit removed that waits for its in-flight items (R105). -/
structure Releasing where
  slice : Nat
  kind : Nat
  num : Nat
  deriving DecidableEq, Repr, Inhabited

/-! ## The hub -/

/-- Everything the hub holds but for its fuses and its command queue. -/
structure Hub where
  /-- Time since power-on, in ps. -/
  now : Nat := 0
  /-- The registers, by hub-local address; an unlisted one holds its reset value. -/
  regs : SMap Word := []
  /-- HBM by hub-local address, plaintext; an unlisted byte has not been written since the keys were drawn. -/
  hbm : SMap Byte := []
  /-- Unsealed granules that a scrub has zeroed: an unlisted byte of one reads zero (R61). -/
  zeroed : List Nat := []
  /-- The boot flash (R475); an unlisted byte reads 0xFF. -/
  flash : SMap Byte := []
  forme : Forme := {}
  slices : SMap SliceRt := []
  /-- Generation tags by context ID (R414). -/
  gens : SMap Nat := []
  cells : SMap Cell := []
  /-- Per array: when its last self-test ended, and whether a run was asked for. -/
  tests : SMap (Nat × Bool) := []
  /-- When a cell of an array last came to rest, in ps (R153). -/
  restAt : SMap Nat := []
  /-- Arrays that failed their self-test and stay in MODE 1 until they are retired (R413, R486). -/
  badArrays : List Nat := []
  fabricOps : SMap FabricOp := []
  reqs : SMap Req := []
  nextId : Nat := 0
  items : SMap Item := []
  queues : SMap QRt := []
  /-- The queue of a slice that was served last; key 4096 stands for the management queues (R188). -/
  queueRr : SMap Nat := []
  walks : SMap Walk := []
  /-- Slices that have had a walker in the round that runs (R250). -/
  walkRound : List Nat := []
  xfaults : List XFault := []
  cache : List Leaf := []
  walkCache : List WalkEnt := []
  invals : List Inval := []
  chans : SMap ChanRt := []
  groupMeters : SMap GroupMeter := []
  credits : SMap Nat := []
  /-- The weights in use since the last meter window, by master key (R105). -/
  weights : SMap Nat := []
  /-- Sweep bytes served in the window that runs, by interleave group (R296). -/
  sweepBytes : SMap Nat := []
  /-- The throttle step that each stack's own temperature gives (R292). -/
  stackSteps : SMap Nat := []
  remapJob : Option (Nat × Bool) := none
  keyDraw : Nat := 0
  seals : SMap SealRt := []
  /-- The node cache (R315), most recently used first: region, side key draw, level (15 for a MAC line), node. -/
  nodeCache : List (Nat × Nat × Nat × Nat) := []
  links : SMap LinkRt := []
  tags : SMap Tag := []
  bundles : SMap Bundle := []
  bundlesOut : List (Nat × Nat) := []
  quiesces : SMap Quiesce := []
  quiescesIn : List QuiesceIn := []
  closedPairs : List (Nat × Nat × Nat) := []
  groups : SMap GroupRt := []
  sites : SMap SiteRt := []
  mail : SMap Mailbox := []
  msix : SMap MsixRt := []
  /-- Function resets that have not reported complete: the function, and the slices whose work is still ending (R381). -/
  flrs : List (HostFn × List Nat) := []
  fcol : FcolRt := {}
  keySlots : SMap KeySlot := []
  keyJobs : SMap KeyJob := []
  keyOrder : List Nat := []
  klv : KelvyRt := {}
  /-- The running commit: whether it is CHECK_ONLY. -/
  commitJob : Option Bool := none
  releasing : List Releasing := []
  lcsJob : Option Word := none
  progJob : Option Nat := none
  /-- The target of a running power transition. -/
  pwrJob : Option Nat := none
  sensors : SMap Nat := []
  fifos : SMap Fifo := []
  rngFails : Nat := 0
  rngBad : Bool := false
  draws : Nat := 0
  generated : Nat := 0
  env : BootEnv := {}
  out : List Output := []
  deriving DecidableEq, Repr

/-- The hub and its fuses, with the queue of commands that wait, first in, first out. -/
structure State where
  hub : Hub
  fuses : Fuses
  pending : List Instr
  deriving DecidableEq, Repr

/-- The hub as power reaches it, before PORST_N rises: every register at the Reset column of its table, blank fuses,
every store empty (log entries 1 and 2 name the values the spec does not give). -/
def State.reset : State := { hub := {}, fuses := {}, pending := [] }

/-- Why the model would stop on a fault. No meaning raises one: every access the spec calls an error is answered with
an error response, which is a next state. -/
inductive Fault where
  /-- Raised by no meaning; safe. -/
  | none
  deriving DecidableEq, Repr

/-- Why the model would refuse a command. -/
inductive Refusal where
  /-- Raised by an arm of exec whose command has no meaning yet; safe. -/
  | notModelled (mnemonic : String)
  deriving DecidableEq, Repr

end Sys2Proof.Machine
end

