-- ==== Sys2Proof/Machine/Flags.lean ====
section
/-! DEFINITION. The flags of a cell: NAN, RANGE, LOSS, OVF and MIX of an accumulator set (R131, R136, R137), and OOB, NAN,
RANGE and LOSS of GSTAT (R144). -/
namespace Sys2Proof.Machine

/-- The bits of a set's flags, in the order TSTAT returns them (R137). -/
def flNAN : Nat := 1
def flRANGE : Nat := 2
def flLOSS : Nat := 4
def flOVF : Nat := 8
def flMIX : Nat := 16

/-- NAN, RANGE and LOSS as flag bits. -/
def XFlags.bits (f : XFlags) : Nat := b2n f.nan + 2 * b2n f.range + 4 * b2n f.loss

/-- A set's flags with more raised; they are sticky. -/
def AccSet.raise (a : AccSet) (n : Nat) : AccSet := { a with flags := a.flags ||| n }

/-- The NAN, RANGE and LOSS that a set holds. -/
def AccSet.xflags (a : AccSet) : XFlags := ⟨bit a.flags 0, bit a.flags 1, bit a.flags 2⟩

/-- The bits of GSTAT that a finding of the gather-reduce engine raises: OOB, then NAN, RANGE, LOSS, OOB in bit 0 (R144 gives the order, not
the end; DESIGN CHOICE, log entry 153). -/
def gstatBits (oob : Bool) (f : XFlags) : Nat := b2n oob + 2 * f.bits

/-- What TSTAT returns: set 0 in [4:0], set 1 in [9:5], GSTAT in [19:16] (R137). Of a set's flags the first named, NAN, takes the lowest bit
(R137 gives the order, not the end; DESIGN CHOICE, log entry 153). -/
def tstatValue (f0 f1 g : Nat) : Nat := f0 % 32 + 32 * (f1 % 32) + 65536 * (g % 16)

end Sys2Proof.Machine
end

