-- ==== Sys2Proof/Machine/RegTable.lean ====
section
/-! DEFINITION. The register map (R2, R11, R18, R19 and every register table of the spec): for each register its address
function, its fields, and one row of the table that reads, writes and resets are decoded by. -/
namespace Sys2Proof.Machine

/-- Who a register's fields answer to on a write (the access types of "Registers and access types"). -/
inductive Acc where
  | ro | rw | w1c | w1s | wo | fc
  deriving DecidableEq, Repr

/-- The name of a register in the spec's tables. -/
inductive RegName where
  | HUB_ARCH_VER
  | TOP_HUB_ID
  | TOP_STRAP
  | SLM_SLICE_STATE
  | SLM_SLICE_CTL
  | SLM_SLICE_EVT
  | SLM_MOVE
  | SLM_IMG_BASE
  | SLM_COMMIT_CTL
  | SLM_COMMIT_STS
  | SLM_COMMIT_DETAIL
  | SLM_LIVE_SEQ
  | SLM_FORME_DIGESTn
  | CELL_STAT
  | CELL_ECC
  | ARR_STAT
  | ARR_TEST
  | QL_GRP_STS
  | QL_GRP_SHEET
  | QL_GRP_BND
  | QL_GRP_SLIP
  | QL_GRP_TIME
  | QL_GRP_SLACK
  | QL_GRP_CTL
  | SLM_SHEET
  | SLM_SHEET_SLIP
  | FAB_Q_RING
  | FAB_Q_CMPL
  | FAB_Q_PTR
  | FAB_Q_STS
  | FAB_DOORBELL
  | FAB_SLICE_Q
  | FAB_AC_n
  | FAB_AC_ADD
  | HTU_CTX_ROOTn
  | HTU_CTX_CFGn
  | HTU_FMT_CTL
  | HTU_FMT_POS
  | HTU_FMT_LEAF
  | HTU_FMT_MUST0
  | HTU_FMT_MUST1
  | HTU_SLICE_STAT
  | HTU_WALK_STS
  | HTU_FQ_BASE
  | HTU_FQ_PTR
  | HTU_FQ_CTL
  | HTU_FQ_RESP
  | MEM_OWNER
  | MEM_VIOL_ADDRn
  | MEM_VIOL_INFOn
  | HTU_INV_VA
  | HTU_INV_CTL
  | HTU_INV_STS
  | MEM_ECC_CFG
  | MEM_REMAP_CMD
  | MEM_STKn
  | MEM_CH_STS
  | MEM_CH_CTL
  | MEM_CH_ECC
  | MEM_REMAPi
  | MEM_TG_CTL
  | MEM_TG_RANGE
  | MEM_TG_SEED
  | MEM_TG_RES
  | MEM_TG_LANES
  | MEM_CLSn_c
  | MTR_CFGm
  | MTR_STSm
  | MTR_GBYTESm
  | MTR_SBYTESm
  | MTR_GRP_BW
  | MTR_GRP_STS
  | UMB_STS
  | UMB_HALT_ADDR
  | UMB_NC_STS
  | UMB_REG_CFG
  | UMB_REG_META
  | UMB_REG_STS
  | UMB_REG_SWEEP
  | UMB_LOSTi
  | QL_CFG
  | QL_LINK_STS
  | QL_LINK_CTL
  | QL_LINK_DLY
  | QL_LINK_ERR
  | QL_LINK_FEC
  | QL_ROUTEh
  | HOST_APn
  | HOST_LINK_STS
  | MBX_T_TXDn
  | MBX_T_CTL
  | MBX_T_STS
  | MBX_T_RXDn
  | MBX_PENDw
  | SITE_CFG
  | SITE_STS
  | SITE_CTL
  | SITE_ERR
  | SITE_ENGe
  | FCOL_CTL
  | FCOL_STS
  | FCOL_OVF
  | FCOL_Q_PTR
  | FCOL_PIN
  | FCOL_RST
  | FCOL_ECL
  | FCOL_REACT_Q
  | FCOL_FATAL_ACK
  | FCOL_FATAL_STS
  | FCOL_FATALn_k
  | FCOL_Qi_k
  | WDG_KLV
  | WDG_FAB
  | WDG_STS
  | SLM_FAULT
  | SLM_FAULT_ADDR
  | SLM_CTX_RESET
  | CKC_EXPn
  | CKC_RESn
  | CKC_SLICE_CTL
  | CKC_APPk
  | LCS_STATE
  | LCS_REQ
  | LCS_DBG
  | LCS_PROG
  | LCS_NONCEn
  | LCS_TOKENn
  | LCS_PROG_DATAn
  | KEY_IDn
  | KEY_MEASn
  | KEY_RNG_STS
  | KEY_SLOT_STSm
  | KEY_CTL
  | KEY_ARG
  | KEY_STS
  | KEY_FULLw
  | KEY_DATAn
  | KEY_ATT_CHALn
  | KEY_ATT_REPn
  | PWR_CTL
  | PWR_STS
  | PWR_TEMP
  | ARR_CTL
  | KLV_BOOT
  | KLV_IMG_ADDR
  | KLV_IMG_CTL
  | TOP_BLK_REV
  | SLM_BLK_REV
  | CELL_BLK_REV
  | ARR_BLK_REV
  | FAB_BLK_REV
  | HTU_BLK_REV
  | MEM_BLK_REV
  | MTR_BLK_REV
  | UMB_BLK_REV
  | QL_BLK_REV
  | SITE_BLK_REV
  | HOST_BLK_REV
  | MBX_BLK_REV
  | FCOL_BLK_REV
  | WDG_BLK_REV
  | CKC_BLK_REV
  | KEY_BLK_REV
  | LCS_BLK_REV
  | PWR_BLK_REV
  | KLV_BLK_REV
  | FAB_MDOORBELL
  | MBX_M_TXDn
  | MBX_M_CTL
  | MBX_M_STS
  | MBX_M_RXDn
  | SLM_MIRROR
  deriving DecidableEq, Repr

/-- One row of the register map: name, address of the first instance, counts and strides of its indices (outermost
first), fields with their access, the value after power-on. -/
structure RegRow where
  name : RegName
  base : Nat
  dims : List (Nat × Nat)
  flds : List (Fld × Acc)
  reset : Nat := 0
  deriving DecidableEq, Repr

/-! ## Addresses -/

def rHUB_ARCH_VER : Nat := 0x3f000000008
def rTOP_HUB_ID : Nat := 0x3f000000018
def rTOP_STRAP : Nat := 0x3f000000010
def rSLM_SLICE_STATE (s : Nat) : Nat := 0x3f006000000 + 0x1000 * s
def rSLM_SLICE_CTL (s : Nat) : Nat := 0x3f006000008 + 0x1000 * s
def rSLM_SLICE_EVT (s : Nat) : Nat := 0x3f006000010 + 0x1000 * s
def rSLM_MOVE (s : Nat) : Nat := 0x3f006000018 + 0x1000 * s
def rSLM_IMG_BASE : Nat := 0x3f004000100
def rSLM_COMMIT_CTL : Nat := 0x3f004000108
def rSLM_COMMIT_STS : Nat := 0x3f004000110
def rSLM_COMMIT_DETAIL : Nat := 0x3f004000118
def rSLM_LIVE_SEQ : Nat := 0x3f004000120
def rSLM_FORME_DIGESTn (n : Nat) : Nat := 0x3f004000128 + 8 * n
def rCELL_STAT (a : Nat) (c : Nat) : Nat := 0x3f009000000 + 0x10000 * a + 0x200 * c
def rCELL_ECC (a : Nat) (c : Nat) : Nat := 0x3f009000008 + 0x10000 * a + 0x200 * c
def rARR_STAT (a : Nat) : Nat := 0x3f00d000000 + 0x10000 * a
def rARR_TEST (a : Nat) : Nat := 0x3f00d000008 + 0x10000 * a
def rQL_GRP_STS (g : Nat) : Nat := 0x3f024080000 + 0x40 * g
def rQL_GRP_SHEET (g : Nat) : Nat := 0x3f024080008 + 0x40 * g
def rQL_GRP_BND (g : Nat) : Nat := 0x3f024080010 + 0x40 * g
def rQL_GRP_SLIP (g : Nat) : Nat := 0x3f024080018 + 0x40 * g
def rQL_GRP_TIME (g : Nat) : Nat := 0x3f024080020 + 0x40 * g
def rQL_GRP_SLACK (g : Nat) : Nat := 0x3f024080028 + 0x40 * g
def rQL_GRP_CTL (g : Nat) : Nat := 0x3f024080030 + 0x40 * g
def rSLM_SHEET (s : Nat) : Nat := 0x3f006000020 + 0x1000 * s
def rSLM_SHEET_SLIP (s : Nat) : Nat := 0x3f006000028 + 0x1000 * s
def rFAB_Q_RING (q : Nat) : Nat := 0x3f013000000 + 0x20 * q
def rFAB_Q_CMPL (q : Nat) : Nat := 0x3f013000008 + 0x20 * q
def rFAB_Q_PTR (q : Nat) : Nat := 0x3f013000010 + 0x20 * q
def rFAB_Q_STS (q : Nat) : Nat := 0x3f013000018 + 0x20 * q
def rFAB_DOORBELL (s : Nat) : Nat := 0x3f012000000 + 0x1000 * s
def rFAB_SLICE_Q (s : Nat) : Nat := 0x3f012000008 + 0x1000 * s
def rFAB_AC_n (s : Nat) (n : Nat) : Nat := 0x3f012000400 + 0x1000 * s + 8 * n
def rFAB_AC_ADD (s : Nat) : Nat := 0x3f012000600 + 0x1000 * s
def rHTU_CTX_ROOTn (s : Nat) (n : Nat) : Nat := 0x3f016000000 + 0x1000 * s + 16 * n
def rHTU_CTX_CFGn (s : Nat) (n : Nat) : Nat := 0x3f016000008 + 0x1000 * s + 16 * n
def rHTU_FMT_CTL (f : Nat) : Nat := 0x3f014001000 + 0x40 * f
def rHTU_FMT_POS (f : Nat) : Nat := 0x3f014001008 + 0x40 * f
def rHTU_FMT_LEAF (f : Nat) : Nat := 0x3f014001010 + 0x40 * f
def rHTU_FMT_MUST0 (f : Nat) : Nat := 0x3f014001018 + 0x40 * f
def rHTU_FMT_MUST1 (f : Nat) : Nat := 0x3f014001020 + 0x40 * f
def rHTU_SLICE_STAT (s : Nat) : Nat := 0x3f016000138 + 0x1000 * s
def rHTU_WALK_STS : Nat := 0x3f014000100
def rHTU_FQ_BASE (s : Nat) : Nat := 0x3f016000100 + 0x1000 * s
def rHTU_FQ_PTR (s : Nat) : Nat := 0x3f016000108 + 0x1000 * s
def rHTU_FQ_CTL (s : Nat) : Nat := 0x3f016000110 + 0x1000 * s
def rHTU_FQ_RESP (s : Nat) : Nat := 0x3f016000118 + 0x1000 * s
def rMEM_OWNER (g : Nat) : Nat := 0x3f01b000000 + 8 * g
def rMEM_VIOL_ADDRn (n : Nat) : Nat := 0x3f0180f0000 + 16 * n
def rMEM_VIOL_INFOn (n : Nat) : Nat := 0x3f0180f0008 + 16 * n
def rHTU_INV_VA (s : Nat) : Nat := 0x3f016000120 + 0x1000 * s
def rHTU_INV_CTL (s : Nat) : Nat := 0x3f016000128 + 0x1000 * s
def rHTU_INV_STS (s : Nat) : Nat := 0x3f016000130 + 0x1000 * s
def rMEM_ECC_CFG : Nat := 0x3f018000100
def rMEM_REMAP_CMD : Nat := 0x3f018000108
def rMEM_STKn (n : Nat) : Nat := 0x3f018010000 + 0x100 * n
def rMEM_CH_STS (ch : Nat) : Nat := 0x3f018020000 + 0x40 * ch
def rMEM_CH_CTL (ch : Nat) : Nat := 0x3f018020008 + 0x40 * ch
def rMEM_CH_ECC (ch : Nat) : Nat := 0x3f018020010 + 0x40 * ch
def rMEM_REMAPi (i : Nat) : Nat := 0x3f018040000 + 8 * i
def rMEM_TG_CTL (ch : Nat) : Nat := 0x3f018060000 + 0x40 * ch
def rMEM_TG_RANGE (ch : Nat) : Nat := 0x3f018060008 + 0x40 * ch
def rMEM_TG_SEED (ch : Nat) : Nat := 0x3f018060010 + 0x40 * ch
def rMEM_TG_RES (ch : Nat) : Nat := 0x3f018060018 + 0x40 * ch
def rMEM_TG_LANES (ch : Nat) : Nat := 0x3f018060020 + 0x40 * ch
def rMEM_CLSn_c (n : Nat) (c : Nat) : Nat := 0x3f0180e0000 + 0x80 * n + 8 * c
def rMTR_CFGm (s : Nat) (m : Nat) : Nat := 0x3f01e000000 + 0x1000 * s + 16 * m
def rMTR_STSm (s : Nat) (m : Nat) : Nat := 0x3f01e000008 + 0x1000 * s + 16 * m
def rMTR_GBYTESm (s : Nat) (m : Nat) : Nat := 0x3f01e000040 + 0x1000 * s + 16 * m
def rMTR_SBYTESm (s : Nat) (m : Nat) : Nat := 0x3f01e000048 + 0x1000 * s + 16 * m
def rMTR_GRP_BW (g : Nat) : Nat := 0x3f01c001000 + 0x20 * g
def rMTR_GRP_STS (g : Nat) : Nat := 0x3f01c001008 + 0x20 * g
def rUMB_STS : Nat := 0x3f020000010
def rUMB_HALT_ADDR : Nat := 0x3f020000018
def rUMB_NC_STS : Nat := 0x3f020000028
def rUMB_REG_CFG (r : Nat) : Nat := 0x3f020001000 + 0x40 * r
def rUMB_REG_META (r : Nat) : Nat := 0x3f020001008 + 0x40 * r
def rUMB_REG_STS (r : Nat) : Nat := 0x3f020001010 + 0x40 * r
def rUMB_REG_SWEEP (r : Nat) : Nat := 0x3f020001018 + 0x40 * r
def rUMB_LOSTi (i : Nat) : Nat := 0x3f020004000 + 8 * i
def rQL_CFG : Nat := 0x3f024000100
def rQL_LINK_STS (n : Nat) : Nat := 0x3f024010000 + 0x100 * n
def rQL_LINK_CTL (n : Nat) : Nat := 0x3f024010008 + 0x100 * n
def rQL_LINK_DLY (n : Nat) : Nat := 0x3f024010010 + 0x100 * n
def rQL_LINK_ERR (n : Nat) : Nat := 0x3f024010018 + 0x100 * n
def rQL_LINK_FEC (n : Nat) : Nat := 0x3f024010020 + 0x100 * n
def rQL_ROUTEh (h : Nat) : Nat := 0x3f024020000 + 8 * h
def rHOST_APn (s : Nat) (n : Nat) : Nat := 0x3f02e000000 + 0x1000 * s + 8 * n
def rHOST_LINK_STS (k : Nat) : Nat := 0x3f02c010000 + 0x100 * k
def rMBX_T_TXDn (s : Nat) (n : Nat) : Nat := 0x3f032000000 + 0x1000 * s + 8 * n
def rMBX_T_CTL (s : Nat) : Nat := 0x3f032000040 + 0x1000 * s
def rMBX_T_STS (s : Nat) : Nat := 0x3f032000048 + 0x1000 * s
def rMBX_T_RXDn (s : Nat) (n : Nat) : Nat := 0x3f032000080 + 0x1000 * s + 8 * n
def rMBX_PENDw (w : Nat) : Nat := 0x3f030000100 + 8 * w
def rSITE_CFG : Nat := 0x3f028000100
def rSITE_STS (s : Nat) : Nat := 0x3f028010000 + 0x1000 * s
def rSITE_CTL (s : Nat) : Nat := 0x3f028010008 + 0x1000 * s
def rSITE_ERR (s : Nat) : Nat := 0x3f028010010 + 0x1000 * s
def rSITE_ENGe (s : Nat) (e : Nat) : Nat := 0x3f028010800 + 0x1000 * s + 8 * e
def rFCOL_CTL : Nat := 0x3f034000100
def rFCOL_STS : Nat := 0x3f034000108
def rFCOL_OVF : Nat := 0x3f034000110
def rFCOL_Q_PTR : Nat := 0x3f034000118
def rFCOL_PIN : Nat := 0x3f034000120
def rFCOL_RST : Nat := 0x3f034000128
def rFCOL_ECL : Nat := 0x3f034000130
def rFCOL_REACT_Q : Nat := 0x3f034000138
def rFCOL_FATAL_ACK : Nat := 0x3f034000140
def rFCOL_FATAL_STS : Nat := 0x3f034000148
def rFCOL_FATALn_k (n : Nat) (k : Nat) : Nat := 0x3f034000200 + 0x20 * n + 8 * k
def rFCOL_Qi_k (i : Nat) (k : Nat) : Nat := 0x3f034010000 + 0x20 * i + 8 * k
def rWDG_KLV : Nat := 0x3f038000100
def rWDG_FAB : Nat := 0x3f038000108
def rWDG_STS : Nat := 0x3f038000110
def rSLM_FAULT (s : Nat) : Nat := 0x3f006000030 + 0x1000 * s
def rSLM_FAULT_ADDR (s : Nat) : Nat := 0x3f006000038 + 0x1000 * s
def rSLM_CTX_RESET (s : Nat) : Nat := 0x3f006000040 + 0x1000 * s
def rCKC_EXPn (s : Nat) (n : Nat) : Nat := 0x3f03e000000 + 0x1000 * s + 16 * n
def rCKC_RESn (s : Nat) (n : Nat) : Nat := 0x3f03e000008 + 0x1000 * s + 16 * n
def rCKC_SLICE_CTL (s : Nat) : Nat := 0x3f03e000e00 + 0x1000 * s
def rCKC_APPk (k : Nat) : Nat := 0x3f03c000100 + 8 * k
def rLCS_STATE : Nat := 0x3f044000010
def rLCS_REQ : Nat := 0x3f044000018
def rLCS_DBG : Nat := 0x3f044000020
def rLCS_PROG : Nat := 0x3f044000028
def rLCS_NONCEn (n : Nat) : Nat := 0x3f044000040 + 8 * n
def rLCS_TOKENn (n : Nat) : Nat := 0x3f044000080 + 8 * n
def rLCS_PROG_DATAn (n : Nat) : Nat := 0x3f0440000c0 + 8 * n
def rKEY_IDn (n : Nat) : Nat := 0x3f040000010 + 8 * n
def rKEY_MEASn (n : Nat) : Nat := 0x3f040000020 + 8 * n
def rKEY_RNG_STS : Nat := 0x3f040000060
def rKEY_SLOT_STSm (m : Nat) : Nat := 0x3f040001000 + 8 * m
def rKEY_CTL (s : Nat) : Nat := 0x3f042000000 + 0x1000 * s
def rKEY_ARG (s : Nat) : Nat := 0x3f042000008 + 0x1000 * s
def rKEY_STS (s : Nat) : Nat := 0x3f042000010 + 0x1000 * s
def rKEY_FULLw (s : Nat) (w : Nat) : Nat := 0x3f042000040 + 0x1000 * s + 8 * w
def rKEY_DATAn (s : Nat) (n : Nat) : Nat := 0x3f042000100 + 0x1000 * s + 8 * n
def rKEY_ATT_CHALn (s : Nat) (n : Nat) : Nat := 0x3f042000180 + 0x1000 * s + 8 * n
def rKEY_ATT_REPn (s : Nat) (n : Nat) : Nat := 0x3f042000200 + 0x1000 * s + 8 * n
def rPWR_CTL : Nat := 0x3f048000100
def rPWR_STS : Nat := 0x3f048000108
def rPWR_TEMP : Nat := 0x3f048000110
def rARR_CTL (a : Nat) : Nat := 0x3f00d000010 + 0x10000 * a
def rKLV_BOOT : Nat := 0x3f04c000100
def rKLV_IMG_ADDR : Nat := 0x3f04c000108
def rKLV_IMG_CTL : Nat := 0x3f04c000110
def rTOP_BLK_REV : Nat := 0x3f000000000
def rSLM_BLK_REV : Nat := 0x3f004000000
def rCELL_BLK_REV : Nat := 0x3f008000000
def rARR_BLK_REV : Nat := 0x3f00c000000
def rFAB_BLK_REV : Nat := 0x3f010000000
def rHTU_BLK_REV : Nat := 0x3f014000000
def rMEM_BLK_REV : Nat := 0x3f018000000
def rMTR_BLK_REV : Nat := 0x3f01c000000
def rUMB_BLK_REV : Nat := 0x3f020000000
def rQL_BLK_REV : Nat := 0x3f024000000
def rSITE_BLK_REV : Nat := 0x3f028000000
def rHOST_BLK_REV : Nat := 0x3f02c000000
def rMBX_BLK_REV : Nat := 0x3f030000000
def rFCOL_BLK_REV : Nat := 0x3f034000000
def rWDG_BLK_REV : Nat := 0x3f038000000
def rCKC_BLK_REV : Nat := 0x3f03c000000
def rKEY_BLK_REV : Nat := 0x3f040000000
def rLCS_BLK_REV : Nat := 0x3f044000000
def rPWR_BLK_REV : Nat := 0x3f048000000
def rKLV_BLK_REV : Nat := 0x3f04c000000
def rFAB_MDOORBELL : Nat := 0x3f010000100
def rMBX_M_TXDn (s : Nat) (n : Nat) : Nat := 0x3f032000100 + 0x1000 * s + 8 * n
def rMBX_M_CTL (s : Nat) : Nat := 0x3f032000140 + 0x1000 * s
def rMBX_M_STS (s : Nat) : Nat := 0x3f032000148 + 0x1000 * s
def rMBX_M_RXDn (s : Nat) (n : Nat) : Nat := 0x3f032000180 + 0x1000 * s + 8 * n
def rSLM_MIRROR (s : Nat) : Nat := 0x3f007000000 + 0x1000 * s

/-! ## Fields -/

def fHUB_ARCH_VER_MINOR : Fld := ⟨0, 8⟩
def fHUB_ARCH_VER_MAJOR : Fld := ⟨8, 8⟩
def fHUB_ARCH_VER_STEP_NUM : Fld := ⟨16, 4⟩
def fHUB_ARCH_VER_STEP_LET : Fld := ⟨20, 4⟩
def fTOP_HUB_ID_HUB_NUM : Fld := ⟨0, 9⟩
def fTOP_HUB_ID_VALID : Fld := ⟨9, 1⟩
def fTOP_STRAP_BOOT_SRC : Fld := ⟨0, 2⟩
def fTOP_STRAP_HOST_CFG : Fld := ⟨2, 2⟩
def fTOP_STRAP_CR7 : Fld := ⟨4, 1⟩
def fTOP_STRAP_TEST : Fld := ⟨5, 1⟩
def fTOP_STRAP_RECOV : Fld := ⟨6, 1⟩
def fTOP_STRAP_LCX_EN : Fld := ⟨7, 1⟩
def fTOP_STRAP_TEST_IGNORED : Fld := ⟨8, 1⟩
def fTOP_STRAP_BAD_STRAP : Fld := ⟨9, 1⟩
def fSLM_SLICE_STATE_STATE : Fld := ⟨0, 3⟩
def fSLM_SLICE_STATE_HARD : Fld := ⟨3, 1⟩
def fSLM_SLICE_STATE_CR7 : Fld := ⟨4, 1⟩
def fSLM_SLICE_STATE_REMOTE_WAIT : Fld := ⟨5, 1⟩
def fSLM_SLICE_STATE_QTIMEOUT : Fld := ⟨6, 1⟩
def fSLM_SLICE_CTL_TEARDOWN : Fld := ⟨0, 1⟩
def fSLM_SLICE_CTL_HOLD : Fld := ⟨1, 1⟩
def fSLM_SLICE_CTL_RELEASE : Fld := ⟨2, 1⟩
def fSLM_SLICE_CTL_RESET : Fld := ⟨3, 1⟩
def fSLM_SLICE_EVT_STATE_CHG : Fld := ⟨0, 1⟩
def fSLM_SLICE_EVT_BAD_CMD : Fld := ⟨1, 1⟩
def fSLM_SLICE_EVT_TEARDOWN_DONE : Fld := ⟨2, 1⟩
def fSLM_SLICE_EVT_SCRUB_DONE : Fld := ⟨3, 1⟩
def fSLM_SLICE_EVT_HOLD_DONE : Fld := ⟨4, 1⟩
def fSLM_SLICE_EVT_SHORTFALL : Fld := ⟨5, 1⟩
def fSLM_SLICE_EVT_MOVE_DONE : Fld := ⟨6, 1⟩
def fSLM_MOVE_SRC_ARRAY : Fld := ⟨0, 8⟩
def fSLM_MOVE_DST_ARRAY : Fld := ⟨8, 8⟩
def fSLM_MOVE_GO : Fld := ⟨16, 1⟩
def fSLM_MOVE_BUSY : Fld := ⟨17, 1⟩
def fSLM_MOVE_ERR : Fld := ⟨18, 1⟩
def fSLM_IMG_BASE_ADDR : Fld := ⟨0, 42⟩
def fSLM_COMMIT_CTL_GO : Fld := ⟨0, 1⟩
def fSLM_COMMIT_CTL_CHECK_ONLY : Fld := ⟨1, 1⟩
def fSLM_COMMIT_STS_PHASE : Fld := ⟨0, 3⟩
def fSLM_COMMIT_STS_CODE : Fld := ⟨8, 8⟩
def fSLM_COMMIT_STS_RECORD : Fld := ⟨16, 32⟩
def fSLM_COMMIT_STS_DONE : Fld := ⟨48, 1⟩
def fSLM_COMMIT_STS_REFUSED : Fld := ⟨49, 1⟩
def fSLM_COMMIT_STS_RELEASING : Fld := ⟨50, 1⟩
def fSLM_COMMIT_DETAIL_SLICE : Fld := ⟨0, 12⟩
def fSLM_COMMIT_DETAIL_HUBWIDE : Fld := ⟨12, 1⟩
def fSLM_COMMIT_DETAIL_AUX : Fld := ⟨16, 32⟩
def fSLM_LIVE_SEQ_COMMIT_SEQ : Fld := ⟨0, 64⟩
def fSLM_FORME_DIGESTn_DIGEST : Fld := ⟨0, 64⟩
def fCELL_STAT_RUN : Fld := ⟨0, 3⟩
def fCELL_STAT_PC : Fld := ⟨3, 11⟩
def fCELL_STAT_SLICE : Fld := ⟨16, 12⟩
def fCELL_STAT_OWNED : Fld := ⟨28, 1⟩
def fCELL_ECC_CORR : Fld := ⟨0, 16⟩
def fCELL_ECC_UNCORR : Fld := ⟨16, 16⟩
def fCELL_ECC_CHECK : Fld := ⟨32, 16⟩
def fCELL_ECC_CLR : Fld := ⟨48, 1⟩
def fARR_STAT_MODE : Fld := ⟨0, 3⟩
def fARR_STAT_WHOLE : Fld := ⟨3, 1⟩
def fARR_STAT_SLICE : Fld := ⟨4, 12⟩
def fARR_STAT_FUSED : Fld := ⟨16, 1⟩
def fARR_STAT_FUSE_FIRST : Fld := ⟨17, 8⟩
def fARR_STAT_IDLE : Fld := ⟨25, 1⟩
def fARR_TEST_AGE_S : Fld := ⟨0, 32⟩
def fARR_TEST_PASS : Fld := ⟨32, 1⟩
def fARR_TEST_DUE : Fld := ⟨33, 1⟩
def fARR_TEST_RUN_NOW : Fld := ⟨34, 1⟩
def fQL_GRP_STS_STATE : Fld := ⟨0, 3⟩
def fQL_GRP_STS_ORIGIN : Fld := ⟨3, 1⟩
def fQL_GRP_STS_DEPTH : Fld := ⟨4, 4⟩
def fQL_GRP_STS_PARENT : Fld := ⟨8, 5⟩
def fQL_GRP_STS_CHILDREN : Fld := ⟨13, 24⟩
def fQL_GRP_STS_SUBTREE : Fld := ⟨37, 10⟩
def fQL_GRP_SHEET_SHEET : Fld := ⟨0, 48⟩
def fQL_GRP_BND_BOUNDARY : Fld := ⟨0, 48⟩
def fQL_GRP_BND_VERDICT : Fld := ⟨48, 4⟩
def fQL_GRP_SLIP_SLIPS : Fld := ⟨0, 32⟩
def fQL_GRP_SLIP_CONSEC : Fld := ⟨32, 3⟩
def fQL_GRP_SLIP_HELD : Fld := ⟨48, 16⟩
def fQL_GRP_TIME_ELAPSED : Fld := ⟨0, 24⟩
def fQL_GRP_TIME_LATE_ARR : Fld := ⟨32, 16⟩
def fQL_GRP_SLACK_SLACK_MIN : Fld := ⟨0, 16⟩
def fQL_GRP_SLACK_LATE_CELL : Fld := ⟨16, 15⟩
def fQL_GRP_SLACK_LATE_V : Fld := ⟨31, 1⟩
def fQL_GRP_SLACK_LATE_SLICE : Fld := ⟨32, 12⟩
def fQL_GRP_CTL_SLIP_THR : Fld := ⟨0, 16⟩
def fQL_GRP_CTL_CLR : Fld := ⟨16, 1⟩
def fSLM_SHEET_SHEET : Fld := ⟨0, 48⟩
def fSLM_SHEET_GSTATE : Fld := ⟨48, 3⟩
def fSLM_SHEET_SLIP_SLIPS : Fld := ⟨0, 32⟩
def fSLM_SHEET_SLIP_CONSEC : Fld := ⟨32, 3⟩
def fFAB_Q_RING_CTX : Fld := ⟨0, 4⟩
def fFAB_Q_RING_LOG2 : Fld := ⟨4, 4⟩
def fFAB_Q_RING_EN : Fld := ⟨8, 1⟩
def fFAB_Q_RING_BASE : Fld := ⟨12, 45⟩
def fFAB_Q_CMPL_VECTOR : Fld := ⟨0, 11⟩
def fFAB_Q_CMPL_CBASE : Fld := ⟨12, 45⟩
def fFAB_Q_PTR_HEAD : Fld := ⟨0, 32⟩
def fFAB_Q_PTR_TAIL : Fld := ⟨32, 32⟩
def fFAB_Q_STS_CDONE : Fld := ⟨0, 32⟩
def fFAB_Q_STS_ERR_DB : Fld := ⟨32, 1⟩
def fFAB_Q_STS_DRAINED : Fld := ⟨33, 1⟩
def fFAB_Q_STS_SLICE : Fld := ⟨36, 12⟩
def fFAB_Q_STS_OWNED : Fld := ⟨48, 1⟩
def fFAB_DOORBELL_QUEUE : Fld := ⟨0, 16⟩
def fFAB_DOORBELL_TAIL : Fld := ⟨32, 32⟩
def fFAB_SLICE_Q_STORED : Fld := ⟨0, 16⟩
def fFAB_SLICE_Q_MOVERS : Fld := ⟨16, 8⟩
def fFAB_SLICE_Q_BACKLOG : Fld := ⟨24, 16⟩
def fFAB_SLICE_Q_READY : Fld := ⟨40, 16⟩
def fFAB_AC_n_COUNT : Fld := ⟨0, 64⟩
def fFAB_AC_ADD_NUM : Fld := ⟨0, 6⟩
def fFAB_AC_ADD_BYTES : Fld := ⟨8, 56⟩
def fHTU_CTX_ROOTn_ADDR : Fld := ⟨12, 52⟩
def fHTU_CTX_CFGn_FMT : Fld := ⟨0, 3⟩
def fHTU_CTX_CFGn_LOC : Fld := ⟨3, 1⟩
def fHTU_CTX_CFGn_VALID : Fld := ⟨4, 1⟩
def fHTU_CTX_CFGn_PASID : Fld := ⟨8, 20⟩
def fHTU_FMT_CTL_LEVELS : Fld := ⟨0, 3⟩
def fHTU_FMT_CTL_VA_BITS : Fld := ⟨3, 6⟩
def fHTU_FMT_CTL_IDX_BITS : Fld := ⟨9, 4⟩
def fHTU_FMT_CTL_PAGE_SHIFT : Fld := ⟨13, 4⟩
def fHTU_FMT_CTL_CANON : Fld := ⟨17, 1⟩
def fHTU_FMT_CTL_AD_CHECK : Fld := ⟨18, 1⟩
def fHTU_FMT_CTL_WR_RULE : Fld := ⟨19, 1⟩
def fHTU_FMT_CTL_ATOM_BIT : Fld := ⟨20, 1⟩
def fHTU_FMT_CTL_VALID : Fld := ⟨63, 1⟩
def fHTU_FMT_POS_V_POS : Fld := ⟨0, 6⟩
def fHTU_FMT_POS_R_POS : Fld := ⟨8, 6⟩
def fHTU_FMT_POS_W_POS : Fld := ⟨16, 6⟩
def fHTU_FMT_POS_ATOM_POS : Fld := ⟨24, 6⟩
def fHTU_FMT_POS_A_POS : Fld := ⟨32, 6⟩
def fHTU_FMT_POS_D_POS : Fld := ⟨40, 6⟩
def fHTU_FMT_POS_PPN_LO : Fld := ⟨48, 6⟩
def fHTU_FMT_POS_PPN_WIDTH : Fld := ⟨56, 6⟩
def fHTU_FMT_LEAF_MASK : Fld := ⟨0, 64⟩
def fHTU_FMT_MUST0_MASK : Fld := ⟨0, 64⟩
def fHTU_FMT_MUST1_MASK : Fld := ⟨0, 64⟩
def fHTU_SLICE_STAT_ENTRIES : Fld := ⟨0, 16⟩
def fHTU_SLICE_STAT_BACKLOG : Fld := ⟨16, 16⟩
def fHTU_SLICE_STAT_WALKERS : Fld := ⟨32, 8⟩
def fHTU_SLICE_STAT_FAULTS : Fld := ⟨40, 16⟩
def fHTU_WALK_STS_BUSY : Fld := ⟨0, 7⟩
def fHTU_WALK_STS_PENDING : Fld := ⟨8, 13⟩
def fHTU_WALK_STS_BACKLOG : Fld := ⟨24, 24⟩
def fHTU_FQ_BASE_LOG2 : Fld := ⟨0, 4⟩
def fHTU_FQ_BASE_ADDR : Fld := ⟨12, 30⟩
def fHTU_FQ_PTR_PROD : Fld := ⟨0, 32⟩
def fHTU_FQ_PTR_CONS : Fld := ⟨32, 32⟩
def fHTU_FQ_CTL_EN : Fld := ⟨0, 1⟩
def fHTU_FQ_CTL_VECTOR : Fld := ⟨1, 11⟩
def fHTU_FQ_CTL_FULL : Fld := ⟨12, 1⟩
def fHTU_FQ_CTL_TIMEOUT : Fld := ⟨16, 16⟩
def fHTU_FQ_RESP_FAULT_ID : Fld := ⟨0, 32⟩
def fHTU_FQ_RESP_FAIL : Fld := ⟨32, 1⟩
def fMEM_OWNER_SLICE : Fld := ⟨0, 12⟩
def fMEM_OWNER_OWNED : Fld := ⟨12, 1⟩
def fMEM_VIOL_ADDRn_ADDR : Fld := ⟨0, 42⟩
def fMEM_VIOL_INFOn_CTXID : Fld := ⟨0, 16⟩
def fMEM_VIOL_INFOn_OWNER : Fld := ⟨16, 12⟩
def fMEM_VIOL_INFOn_OWNED : Fld := ⟨28, 1⟩
def fMEM_VIOL_INFOn_MGMT : Fld := ⟨29, 1⟩
def fMEM_VIOL_INFOn_REMOTE : Fld := ⟨30, 1⟩
def fMEM_VIOL_INFOn_COUNT : Fld := ⟨32, 16⟩
def fMEM_VIOL_INFOn_VALID : Fld := ⟨48, 1⟩
def fHTU_INV_VA_VA : Fld := ⟨21, 36⟩
def fHTU_INV_CTL_CTX : Fld := ⟨0, 4⟩
def fHTU_INV_CTL_RANGE : Fld := ⟨4, 1⟩
def fHTU_INV_CTL_GO : Fld := ⟨5, 1⟩
def fHTU_INV_CTL_IRQ : Fld := ⟨6, 1⟩
def fHTU_INV_CTL_VECTOR : Fld := ⟨8, 11⟩
def fHTU_INV_CTL_COUNT : Fld := ⟨24, 24⟩
def fHTU_INV_STS_BUSY : Fld := ⟨0, 1⟩
def fHTU_INV_STS_DONE : Fld := ⟨1, 1⟩
def fHTU_INV_STS_REMOTE_TO : Fld := ⟨2, 1⟩
def fHTU_INV_STS_FAILED : Fld := ⟨16, 16⟩
def fMEM_ECC_CFG_ROW_CE_THR : Fld := ⟨0, 8⟩
def fMEM_ECC_CFG_AUTO_UE : Fld := ⟨8, 1⟩
def fMEM_REMAP_CMD_CH : Fld := ⟨0, 10⟩
def fMEM_REMAP_CMD_PC : Fld := ⟨10, 1⟩
def fMEM_REMAP_CMD_BANK : Fld := ⟨11, 6⟩
def fMEM_REMAP_CMD_ROW : Fld := ⟨17, 16⟩
def fMEM_REMAP_CMD_GO : Fld := ⟨33, 1⟩
def fMEM_REMAP_CMD_BUSY : Fld := ⟨34, 1⟩
def fMEM_REMAP_CMD_RESULT : Fld := ⟨35, 3⟩
def fMEM_STKn_TEMP : Fld := ⟨0, 8⟩
def fMEM_STKn_PRESENT : Fld := ⟨8, 1⟩
def fMEM_CH_STS_STATE : Fld := ⟨0, 3⟩
def fMEM_CH_STS_AVAIL : Fld := ⟨3, 9⟩
def fMEM_CH_STS_IGRP : Fld := ⟨12, 6⟩
def fMEM_CH_STS_IN_GRP : Fld := ⟨18, 1⟩
def fMEM_CH_STS_THROTTLE : Fld := ⟨19, 2⟩
def fMEM_CH_STS_RETRAINS : Fld := ⟨32, 16⟩
def fMEM_CH_CTL_RETRAIN : Fld := ⟨0, 1⟩
def fMEM_CH_CTL_RETIRE : Fld := ⟨1, 1⟩
def fMEM_CH_ECC_CORR : Fld := ⟨0, 16⟩
def fMEM_CH_ECC_UNCORR : Fld := ⟨16, 16⟩
def fMEM_CH_ECC_LOST : Fld := ⟨32, 7⟩
def fMEM_CH_ECC_CLR : Fld := ⟨48, 1⟩
def fMEM_REMAPi_ROWADDR : Fld := ⟨0, 33⟩
def fMEM_REMAPi_STATE : Fld := ⟨33, 2⟩
def fMEM_REMAPi_AUTO : Fld := ⟨35, 1⟩
def fMEM_TG_CTL_MODE : Fld := ⟨0, 2⟩
def fMEM_TG_CTL_PATTERN : Fld := ⟨2, 3⟩
def fMEM_TG_CTL_LOOP : Fld := ⟨5, 1⟩
def fMEM_TG_CTL_GO : Fld := ⟨6, 1⟩
def fMEM_TG_CTL_STOP : Fld := ⟨7, 1⟩
def fMEM_TG_CTL_BUSY : Fld := ⟨8, 1⟩
def fMEM_TG_CTL_DONE : Fld := ⟨9, 1⟩
def fMEM_TG_CTL_FAIL : Fld := ⟨10, 1⟩
def fMEM_TG_CTL_ABORTED : Fld := ⟨11, 1⟩
def fMEM_TG_CTL_PASSES : Fld := ⟨32, 16⟩
def fMEM_TG_RANGE_FIRST : Fld := ⟨0, 25⟩
def fMEM_TG_RANGE_LINES : Fld := ⟨25, 25⟩
def fMEM_TG_SEED_SEED : Fld := ⟨0, 64⟩
def fMEM_TG_RES_FIRST_FAIL : Fld := ⟨0, 25⟩
def fMEM_TG_RES_FAIL_LINES : Fld := ⟨32, 32⟩
def fMEM_TG_LANES_LANES : Fld := ⟨0, 64⟩
def fMEM_CLSn_c_BYTES : Fld := ⟨0, 64⟩
def fMTR_CFGm_GUAR_BYTES : Fld := ⟨0, 32⟩
def fMTR_CFGm_WEIGHT : Fld := ⟨32, 16⟩
def fMTR_STSm_SCALE : Fld := ⟨0, 16⟩
def fMTR_STSm_EXHAUST : Fld := ⟨16, 32⟩
def fMTR_GBYTESm_BYTES : Fld := ⟨0, 64⟩
def fMTR_SBYTESm_BYTES : Fld := ⟨0, 64⟩
def fMTR_GRP_BW_DELIV : Fld := ⟨0, 32⟩
def fMTR_GRP_BW_CHARGED : Fld := ⟨32, 32⟩
def fMTR_GRP_STS_FACTOR : Fld := ⟨0, 16⟩
def fMTR_GRP_STS_SHORT : Fld := ⟨16, 1⟩
def fMTR_GRP_STS_SWEEP : Fld := ⟨17, 1⟩
def fUMB_STS_READY : Fld := ⟨0, 1⟩
def fUMB_STS_HALT : Fld := ⟨1, 1⟩
def fUMB_STS_REGIONS : Fld := ⟨2, 7⟩
def fUMB_STS_LOST_N : Fld := ⟨9, 7⟩
def fUMB_HALT_ADDR_ADDR : Fld := ⟨0, 42⟩
def fUMB_HALT_ADDR_KIND : Fld := ⟨42, 2⟩
def fUMB_HALT_ADDR_REGION : Fld := ⟨44, 6⟩
def fUMB_HALT_ADDR_VALID : Fld := ⟨63, 1⟩
def fUMB_NC_STS_FILLS : Fld := ⟨0, 32⟩
def fUMB_NC_STS_CORR : Fld := ⟨32, 16⟩
def fUMB_NC_STS_UNCORR : Fld := ⟨48, 16⟩
def fUMB_REG_CFG_FIRST_GRAN : Fld := ⟨0, 20⟩
def fUMB_REG_CFG_GRAN_COUNT : Fld := ⟨20, 17⟩
def fUMB_REG_CFG_VALID : Fld := ⟨37, 1⟩
def fUMB_REG_META_META_FIRST : Fld := ⟨0, 20⟩
def fUMB_REG_META_META_COUNT : Fld := ⟨20, 17⟩
def fUMB_REG_META_SWEEP_H : Fld := ⟨37, 16⟩
def fUMB_REG_STS_STATE : Fld := ⟨0, 2⟩
def fUMB_REG_STS_BANK : Fld := ⟨2, 1⟩
def fUMB_REG_STS_LOST_ALL : Fld := ⟨3, 1⟩
def fUMB_REG_STS_CTR_HIGH : Fld := ⟨4, 1⟩
def fUMB_REG_STS_SWEEPS : Fld := ⟨5, 16⟩
def fUMB_REG_STS_AGE_H : Fld := ⟨32, 16⟩
def fUMB_REG_SWEEP_BOUNDARY : Fld := ⟨0, 31⟩
def fUMB_REG_SWEEP_GO : Fld := ⟨31, 1⟩
def fUMB_LOSTi_REGION : Fld := ⟨0, 6⟩
def fUMB_LOSTi_LEVEL : Fld := ⟨6, 3⟩
def fUMB_LOSTi_NODE : Fld := ⟨9, 28⟩
def fUMB_LOSTi_VALID : Fld := ⟨37, 1⟩
def fQL_CFG_RESP_TO : Fld := ⟨0, 16⟩
def fQL_CFG_REPLAY_MAX : Fld := ⟨16, 8⟩
def fQL_LINK_STS_STATE : Fld := ⟨0, 3⟩
def fQL_LINK_STS_PEER_HUB : Fld := ⟨3, 9⟩
def fQL_LINK_STS_PEER_V : Fld := ⟨12, 1⟩
def fQL_LINK_STS_PEER_LINK : Fld := ⟨13, 5⟩
def fQL_LINK_STS_APPEND : Fld := ⟨18, 1⟩
def fQL_LINK_STS_ACH : Fld := ⟨19, 5⟩
def fQL_LINK_STS_RETRAINS : Fld := ⟨24, 16⟩
def fQL_LINK_CTL_EN : Fld := ⟨0, 1⟩
def fQL_LINK_CTL_RETRAIN : Fld := ⟨1, 1⟩
def fQL_LINK_CTL_DOWN : Fld := ⟨2, 1⟩
def fQL_LINK_DLY_DELAY : Fld := ⟨0, 24⟩
def fQL_LINK_ERR_UNCORR : Fld := ⟨0, 16⟩
def fQL_LINK_ERR_REPLAYS : Fld := ⟨16, 16⟩
def fQL_LINK_ERR_CHKFAIL : Fld := ⟨32, 16⟩
def fQL_LINK_ERR_STALE : Fld := ⟨48, 16⟩
def fQL_LINK_FEC_CORR_SYM : Fld := ⟨0, 48⟩
def fQL_LINK_FEC_CLR : Fld := ⟨48, 1⟩
def fQL_ROUTEh_LINK : Fld := ⟨0, 5⟩
def fQL_ROUTEh_VALID : Fld := ⟨5, 1⟩
def fHOST_APn_EN : Fld := ⟨0, 1⟩
def fHOST_APn_BASE : Fld := ⟨32, 32⟩
def fHOST_LINK_STS_STATE : Fld := ⟨0, 3⟩
def fHOST_LINK_STS_WIDTH : Fld := ⟨3, 5⟩
def fHOST_LINK_STS_SPEED : Fld := ⟨8, 3⟩
def fHOST_LINK_STS_VF_EN : Fld := ⟨11, 1⟩
def fHOST_LINK_STS_NUMVFS : Fld := ⟨12, 12⟩
def fMBX_T_TXDn_DATA : Fld := ⟨0, 64⟩
def fMBX_T_CTL_SEND : Fld := ⟨0, 1⟩
def fMBX_T_CTL_POP : Fld := ⟨1, 1⟩
def fMBX_T_CTL_IRQ_EN : Fld := ⟨2, 1⟩
def fMBX_T_CTL_VECTOR : Fld := ⟨3, 11⟩
def fMBX_T_STS_TX_FREE : Fld := ⟨0, 3⟩
def fMBX_T_STS_RX_COUNT : Fld := ⟨3, 3⟩
def fMBX_T_STS_TX_REFUSED : Fld := ⟨6, 1⟩
def fMBX_T_STS_EMPTIED : Fld := ⟨7, 1⟩
def fMBX_T_RXDn_DATA : Fld := ⟨0, 64⟩
def fMBX_PENDw_PEND : Fld := ⟨0, 64⟩
def fSITE_CFG_RESP_TO : Fld := ⟨0, 16⟩
def fSITE_STS_STATE : Fld := ⟨0, 3⟩
def fSITE_STS_ENGINES : Fld := ⟨3, 7⟩
def fSITE_STS_VENDOR : Fld := ⟨10, 16⟩
def fSITE_STS_DEVICE : Fld := ⟨26, 16⟩
def fSITE_STS_REV : Fld := ⟨42, 8⟩
def fSITE_STS_APPEND : Fld := ⟨50, 1⟩
def fSITE_STS_ACH : Fld := ⟨51, 5⟩
def fSITE_CTL_EN : Fld := ⟨0, 1⟩
def fSITE_CTL_RETRAIN : Fld := ⟨1, 1⟩
def fSITE_CTL_DOWN : Fld := ⟨2, 1⟩
def fSITE_ERR_CHKFAIL : Fld := ⟨0, 16⟩
def fSITE_ERR_RESENDS : Fld := ⟨16, 16⟩
def fSITE_ERR_TIMEOUTS : Fld := ⟨32, 16⟩
def fSITE_ERR_VIOL : Fld := ⟨48, 16⟩
def fSITE_ENGe_SLICE : Fld := ⟨0, 12⟩
def fSITE_ENGe_OWNED : Fld := ⟨12, 1⟩
def fSITE_ENGe_STATE : Fld := ⟨13, 2⟩
def fSITE_ENGe_OUT : Fld := ⟨16, 5⟩
def fFCOL_CTL_CORR_IRQ : Fld := ⟨0, 1⟩
def fFCOL_CTL_PF0_IRQ : Fld := ⟨1, 1⟩
def fFCOL_CTL_PF1_IRQ : Fld := ⟨2, 1⟩
def fFCOL_CTL_ECL_ON_HANG : Fld := ⟨3, 1⟩
def fFCOL_CTL_OVF_CLR : Fld := ⟨4, 1⟩
def fFCOL_CTL_QUIET_MS : Fld := ⟨16, 16⟩
def fFCOL_STS_HUB_FAULT : Fld := ⟨0, 1⟩
def fFCOL_STS_TRAP : Fld := ⟨1, 1⟩
def fFCOL_STS_OVF_CONTAINED : Fld := ⟨2, 1⟩
def fFCOL_STS_FATAL_N : Fld := ⟨3, 3⟩
def fFCOL_STS_RECOVERIES : Fld := ⟨16, 16⟩
def fFCOL_OVF_CORR_DROP : Fld := ⟨0, 32⟩
def fFCOL_OVF_CONT_DROP : Fld := ⟨32, 32⟩
def fFCOL_Q_PTR_PROD : Fld := ⟨0, 32⟩
def fFCOL_Q_PTR_CONS : Fld := ⟨32, 32⟩
def fFCOL_PIN_LOW : Fld := ⟨0, 1⟩
def fFCOL_PIN_HOLD : Fld := ⟨1, 1⟩
def fFCOL_PIN_SET : Fld := ⟨2, 1⟩
def fFCOL_PIN_CLR : Fld := ⟨3, 1⟩
def fFCOL_PIN_PULSE : Fld := ⟨4, 1⟩
def fFCOL_RST_CAUSE : Fld := ⟨0, 4⟩
def fFCOL_RST_WARM_COUNT : Fld := ⟨16, 16⟩
def fFCOL_RST_KIND : Fld := ⟨32, 16⟩
def fFCOL_RST_SOURCE : Fld := ⟨48, 16⟩
def fFCOL_ECL_GROUP : Fld := ⟨0, 10⟩
def fFCOL_ECL_GO : Fld := ⟨10, 1⟩
def fFCOL_REACT_Q_SOURCE : Fld := ⟨0, 16⟩
def fFCOL_REACT_Q_REACT : Fld := ⟨16, 5⟩
def fFCOL_REACT_Q_OVERRIDE : Fld := ⟨21, 1⟩
def fFCOL_FATAL_ACK_ACK : Fld := ⟨0, 4⟩
def fFCOL_FATAL_STS_VALID : Fld := ⟨0, 4⟩
def fFCOL_FATAL_STS_PRE_RESET : Fld := ⟨4, 4⟩
def fFCOL_FATALn_k_WORD : Fld := ⟨0, 64⟩
def fFCOL_Qi_k_WORD : Fld := ⟨0, 64⟩
def fWDG_KLV_PERIOD_MS : Fld := ⟨0, 16⟩
def fWDG_KLV_KICK : Fld := ⟨16, 1⟩
def fWDG_KLV_EN : Fld := ⟨17, 1⟩
def fWDG_FAB_TIMEOUT_US : Fld := ⟨0, 16⟩
def fWDG_STS_FAB_EXPIRED : Fld := ⟨0, 32⟩
def fWDG_STS_KLV_EXPIRED : Fld := ⟨32, 16⟩
def fSLM_FAULT_KIND : Fld := ⟨0, 16⟩
def fSLM_FAULT_CTX : Fld := ⟨16, 4⟩
def fSLM_FAULT_CTX_V : Fld := ⟨20, 1⟩
def fSLM_FAULT_LOCK : Fld := ⟨21, 1⟩
def fSLM_FAULT_REPLAY : Fld := ⟨22, 1⟩
def fSLM_FAULT_AUTO : Fld := ⟨23, 1⟩
def fSLM_FAULT_SEQ : Fld := ⟨32, 32⟩
def fSLM_FAULT_ADDR_ADDR : Fld := ⟨0, 51⟩
def fSLM_FAULT_ADDR_VALID : Fld := ⟨63, 1⟩
def fSLM_CTX_RESET_CTX : Fld := ⟨0, 4⟩
def fSLM_CTX_RESET_GO : Fld := ⟨4, 1⟩
def fSLM_CTX_RESET_BUSY : Fld := ⟨5, 1⟩
def fSLM_CTX_RESET_DONE : Fld := ⟨6, 1⟩
def fCKC_EXPn_EXPECT : Fld := ⟨0, 32⟩
def fCKC_EXPn_SEQ : Fld := ⟨32, 16⟩
def fCKC_EXPn_ARM : Fld := ⟨48, 1⟩
def fCKC_RESn_ACTUAL : Fld := ⟨0, 32⟩
def fCKC_RESn_BUSY : Fld := ⟨32, 1⟩
def fCKC_RESn_MATCH : Fld := ⟨33, 1⟩
def fCKC_RESn_MISMATCH : Fld := ⟨34, 1⟩
def fCKC_RESn_ABANDONED : Fld := ⟨35, 1⟩
def fCKC_RESn_MISCOUNT : Fld := ⟨48, 16⟩
def fCKC_SLICE_CTL_IRQ_EN : Fld := ⟨0, 1⟩
def fCKC_SLICE_CTL_VECTOR : Fld := ⟨1, 11⟩
def fCKC_APPk_VALID : Fld := ⟨0, 1⟩
def fCKC_APPk_KIND : Fld := ⟨1, 1⟩
def fCKC_APPk_NUM : Fld := ⟨2, 5⟩
def fCKC_APPk_FAIL : Fld := ⟨16, 16⟩
def fCKC_APPk_LAST_SEQ : Fld := ⟨32, 12⟩
def fCKC_APPk_CLR : Fld := ⟨44, 1⟩
def fLCS_STATE_STATE : Fld := ⟨0, 2⟩
def fLCS_STATE_EPOCH : Fld := ⟨2, 4⟩
def fLCS_STATE_RESUMED : Fld := ⟨6, 1⟩
def fLCS_STATE_DBG : Fld := ⟨7, 1⟩
def fLCS_STATE_BANKS : Fld := ⟨8, 8⟩
def fLCS_STATE_HASH_OPEN : Fld := ⟨16, 1⟩
def fLCS_STATE_HASH_CLOSED : Fld := ⟨17, 1⟩
def fLCS_REQ_TARGET : Fld := ⟨0, 1⟩
def fLCS_REQ_PLAIN : Fld := ⟨1, 1⟩
def fLCS_REQ_GO : Fld := ⟨2, 1⟩
def fLCS_REQ_BUSY : Fld := ⟨3, 1⟩
def fLCS_REQ_RESULT : Fld := ⟨4, 8⟩
def fLCS_DBG_LOCK : Fld := ⟨0, 1⟩
def fLCS_PROG_TARGET : Fld := ⟨0, 2⟩
def fLCS_PROG_GO : Fld := ⟨2, 1⟩
def fLCS_PROG_BUSY : Fld := ⟨3, 1⟩
def fLCS_PROG_RESULT : Fld := ⟨4, 4⟩
def fLCS_NONCEn_NONCE : Fld := ⟨0, 64⟩
def fLCS_TOKENn_DATA : Fld := ⟨0, 64⟩
def fLCS_PROG_DATAn_DATA : Fld := ⟨0, 64⟩
def fKEY_IDn_ID : Fld := ⟨0, 64⟩
def fKEY_MEASn_MEAS : Fld := ⟨0, 64⟩
def fKEY_RNG_STS_FAIL : Fld := ⟨0, 1⟩
def fKEY_RNG_STS_FAILS : Fld := ⟨16, 16⟩
def fKEY_SLOT_STSm_SLICE : Fld := ⟨0, 12⟩
def fKEY_SLOT_STSm_OWNED : Fld := ⟨12, 1⟩
def fKEY_SLOT_STSm_FULL : Fld := ⟨13, 1⟩
def fKEY_SLOT_STSm_KEY_LEN : Fld := ⟨14, 7⟩
def fKEY_SLOT_STSm_SITE : Fld := ⟨21, 3⟩
def fKEY_SLOT_STSm_ENG : Fld := ⟨24, 8⟩
def fKEY_SLOT_STSm_ONCE : Fld := ⟨32, 1⟩
def fKEY_CTL_SLOT : Fld := ⟨0, 9⟩
def fKEY_CTL_ENGINE : Fld := ⟨9, 6⟩
def fKEY_CTL_CTX : Fld := ⟨15, 4⟩
def fKEY_CTL_INCL_MIRROR : Fld := ⟨19, 1⟩
def fKEY_CTL_OP : Fld := ⟨20, 4⟩
def fKEY_CTL_KEY_LEN : Fld := ⟨24, 7⟩
def fKEY_CTL_SITE : Fld := ⟨31, 3⟩
def fKEY_CTL_ENG : Fld := ⟨34, 8⟩
def fKEY_CTL_ONCE : Fld := ⟨42, 1⟩
def fKEY_ARG_OFFSET : Fld := ⟨6, 24⟩
def fKEY_STS_BUSY : Fld := ⟨0, 1⟩
def fKEY_STS_DONE : Fld := ⟨1, 1⟩
def fKEY_STS_LAST_OP : Fld := ⟨2, 3⟩
def fKEY_STS_ERR : Fld := ⟨8, 4⟩
def fKEY_STS_LOAD_ERR : Fld := ⟨12, 4⟩
def fKEY_STS_LOAD_QUEUE : Fld := ⟨16, 16⟩
def fKEY_STS_LOAD_SEQ : Fld := ⟨32, 32⟩
def fKEY_FULLw_FULL : Fld := ⟨0, 64⟩
def fKEY_DATAn_DATA : Fld := ⟨0, 64⟩
def fKEY_ATT_CHALn_CHAL : Fld := ⟨0, 64⟩
def fKEY_ATT_REPn_REP : Fld := ⟨0, 64⟩
def fPWR_CTL_TARGET : Fld := ⟨0, 2⟩
def fPWR_CTL_GO : Fld := ⟨2, 1⟩
def fPWR_CTL_WARM : Fld := ⟨3, 1⟩
def fPWR_STS_STATE : Fld := ⟨0, 2⟩
def fPWR_STS_BUSY : Fld := ⟨2, 1⟩
def fPWR_STS_REFUSED : Fld := ⟨3, 3⟩
def fPWR_TEMP_TJ_MAX : Fld := ⟨0, 8⟩
def fARR_CTL_RETIRE : Fld := ⟨0, 1⟩
def fARR_CTL_DARK : Fld := ⟨1, 1⟩
def fARR_CTL_LIGHT : Fld := ⟨2, 1⟩
def fKLV_BOOT_STAGE : Fld := ⟨0, 4⟩
def fKLV_BOOT_SOURCE : Fld := ⟨4, 2⟩
def fKLV_BOOT_HALF : Fld := ⟨6, 1⟩
def fKLV_BOOT_UNBOUND : Fld := ⟨7, 1⟩
def fKLV_BOOT_FW_ERR : Fld := ⟨8, 1⟩
def fKLV_BOOT_FORME_ERR : Fld := ⟨9, 1⟩
def fKLV_BOOT_SVC_ERR : Fld := ⟨10, 1⟩
def fKLV_BOOT_FORME_CODE : Fld := ⟨11, 8⟩
def fKLV_IMG_ADDR_ADDR : Fld := ⟨12, 30⟩
def fKLV_IMG_CTL_OP : Fld := ⟨0, 3⟩
def fKLV_IMG_CTL_BUSY : Fld := ⟨3, 1⟩
def fKLV_IMG_CTL_STAGED : Fld := ⟨4, 1⟩
def fKLV_IMG_CTL_RESULT : Fld := ⟨5, 4⟩
def fKLV_IMG_CTL_DONE : Fld := ⟨9, 1⟩
def fTOP_BLK_REV_REV : Fld := ⟨0, 64⟩
def fSLM_BLK_REV_REV : Fld := ⟨0, 64⟩
def fCELL_BLK_REV_REV : Fld := ⟨0, 64⟩
def fARR_BLK_REV_REV : Fld := ⟨0, 64⟩
def fFAB_BLK_REV_REV : Fld := ⟨0, 64⟩
def fHTU_BLK_REV_REV : Fld := ⟨0, 64⟩
def fMEM_BLK_REV_REV : Fld := ⟨0, 64⟩
def fMTR_BLK_REV_REV : Fld := ⟨0, 64⟩
def fUMB_BLK_REV_REV : Fld := ⟨0, 64⟩
def fQL_BLK_REV_REV : Fld := ⟨0, 64⟩
def fSITE_BLK_REV_REV : Fld := ⟨0, 64⟩
def fHOST_BLK_REV_REV : Fld := ⟨0, 64⟩
def fMBX_BLK_REV_REV : Fld := ⟨0, 64⟩
def fFCOL_BLK_REV_REV : Fld := ⟨0, 64⟩
def fWDG_BLK_REV_REV : Fld := ⟨0, 64⟩
def fCKC_BLK_REV_REV : Fld := ⟨0, 64⟩
def fKEY_BLK_REV_REV : Fld := ⟨0, 64⟩
def fLCS_BLK_REV_REV : Fld := ⟨0, 64⟩
def fPWR_BLK_REV_REV : Fld := ⟨0, 64⟩
def fKLV_BLK_REV_REV : Fld := ⟨0, 64⟩
def fFAB_MDOORBELL_QUEUE : Fld := ⟨0, 16⟩
def fFAB_MDOORBELL_TAIL : Fld := ⟨32, 32⟩
def fMBX_M_TXDn_DATA : Fld := ⟨0, 64⟩
def fMBX_M_CTL_SEND : Fld := ⟨0, 1⟩
def fMBX_M_CTL_POP : Fld := ⟨1, 1⟩
def fMBX_M_CTL_IRQ_EN : Fld := ⟨2, 1⟩
def fMBX_M_CTL_VECTOR : Fld := ⟨3, 11⟩
def fMBX_M_STS_TX_FREE : Fld := ⟨0, 3⟩
def fMBX_M_STS_RX_COUNT : Fld := ⟨3, 3⟩
def fMBX_M_STS_TX_REFUSED : Fld := ⟨6, 1⟩
def fMBX_M_STS_EMPTIED : Fld := ⟨7, 1⟩
def fMBX_M_RXDn_DATA : Fld := ⟨0, 64⟩

/-! ## The table -/

/-- The rows of block TOP. -/
def regRowsTOP : List RegRow :=
  [{ name := .HUB_ARCH_VER, base := 0x3f000000008, dims := [],
     flds := [(⟨0, 8⟩, .ro), (⟨8, 8⟩, .ro), (⟨16, 4⟩, .ro), (⟨20, 4⟩, .ro)], reset := 0x110302 }] ++
  [{ name := .TOP_HUB_ID, base := 0x3f000000018, dims := [],
     flds := [(⟨0, 9⟩, .fc), (⟨9, 1⟩, .fc)] }] ++
  [{ name := .TOP_STRAP, base := 0x3f000000010, dims := [],
     flds := [(⟨0, 2⟩, .ro), (⟨2, 2⟩, .ro), (⟨4, 1⟩, .ro), (⟨5, 1⟩, .ro), (⟨6, 1⟩, .ro), (⟨7, 1⟩, .ro), (⟨8, 1⟩, .ro), (⟨9, 1⟩, .ro)] }] ++
  [{ name := .TOP_BLK_REV, base := 0x3f000000000, dims := [],
     flds := [(⟨0, 64⟩, .ro)], reset := 0x302 }]

/-- The rows of block SLM. -/
def regRowsSLM : List RegRow :=
  [{ name := .SLM_SLICE_STATE, base := 0x3f006000000, dims := [(4096, 0x1000)],
     flds := [(⟨0, 3⟩, .ro), (⟨3, 1⟩, .fc), (⟨4, 1⟩, .fc), (⟨5, 1⟩, .ro), (⟨6, 1⟩, .ro)] }] ++
  [{ name := .SLM_SLICE_CTL, base := 0x3f006000008, dims := [(4096, 0x1000)],
     flds := [(⟨0, 1⟩, .wo), (⟨1, 1⟩, .wo), (⟨2, 1⟩, .wo), (⟨3, 1⟩, .wo)] }] ++
  [{ name := .SLM_SLICE_EVT, base := 0x3f006000010, dims := [(4096, 0x1000)],
     flds := [(⟨0, 1⟩, .w1c), (⟨1, 1⟩, .w1c), (⟨2, 1⟩, .w1c), (⟨3, 1⟩, .w1c), (⟨4, 1⟩, .w1c), (⟨5, 1⟩, .w1c), (⟨6, 1⟩, .w1c)] }] ++
  [{ name := .SLM_MOVE, base := 0x3f006000018, dims := [(4096, 0x1000)],
     flds := [(⟨0, 8⟩, .rw), (⟨8, 8⟩, .rw), (⟨16, 1⟩, .wo), (⟨17, 1⟩, .ro), (⟨18, 1⟩, .ro)] }] ++
  [{ name := .SLM_IMG_BASE, base := 0x3f004000100, dims := [],
     flds := [(⟨0, 42⟩, .rw)] }] ++
  [{ name := .SLM_COMMIT_CTL, base := 0x3f004000108, dims := [],
     flds := [(⟨0, 1⟩, .wo), (⟨1, 1⟩, .wo)] }] ++
  [{ name := .SLM_COMMIT_STS, base := 0x3f004000110, dims := [],
     flds := [(⟨0, 3⟩, .ro), (⟨8, 8⟩, .ro), (⟨16, 32⟩, .ro), (⟨48, 1⟩, .w1c), (⟨49, 1⟩, .w1c), (⟨50, 1⟩, .ro)] }] ++
  [{ name := .SLM_COMMIT_DETAIL, base := 0x3f004000118, dims := [],
     flds := [(⟨0, 12⟩, .ro), (⟨12, 1⟩, .ro), (⟨16, 32⟩, .ro)] }] ++
  [{ name := .SLM_LIVE_SEQ, base := 0x3f004000120, dims := [],
     flds := [(⟨0, 64⟩, .ro)] }] ++
  [{ name := .SLM_FORME_DIGESTn, base := 0x3f004000128, dims := [(6, 8)],
     flds := [(⟨0, 64⟩, .ro)] }] ++
  [{ name := .SLM_SHEET, base := 0x3f006000020, dims := [(4096, 0x1000)],
     flds := [(⟨0, 48⟩, .ro), (⟨48, 3⟩, .ro)] }] ++
  [{ name := .SLM_SHEET_SLIP, base := 0x3f006000028, dims := [(4096, 0x1000)],
     flds := [(⟨0, 32⟩, .ro), (⟨32, 3⟩, .ro)] }] ++
  [{ name := .SLM_FAULT, base := 0x3f006000030, dims := [(4096, 0x1000)],
     flds := [(⟨0, 16⟩, .ro), (⟨16, 4⟩, .ro), (⟨20, 1⟩, .ro), (⟨21, 1⟩, .ro), (⟨22, 1⟩, .ro), (⟨23, 1⟩, .ro), (⟨32, 32⟩, .ro)] }] ++
  [{ name := .SLM_FAULT_ADDR, base := 0x3f006000038, dims := [(4096, 0x1000)],
     flds := [(⟨0, 51⟩, .ro), (⟨63, 1⟩, .ro)] }] ++
  [{ name := .SLM_CTX_RESET, base := 0x3f006000040, dims := [(4096, 0x1000)],
     flds := [(⟨0, 4⟩, .wo), (⟨4, 1⟩, .wo), (⟨5, 1⟩, .ro), (⟨6, 1⟩, .w1c)] }] ++
  [{ name := .SLM_BLK_REV, base := 0x3f004000000, dims := [],
     flds := [(⟨0, 64⟩, .ro)], reset := 0x302 }]

/-- The rows of block CELL. -/
def regRowsCELL : List RegRow :=
  [{ name := .CELL_STAT, base := 0x3f009000000, dims := [(208, 0x10000), (128, 0x200)],
     flds := [(⟨0, 3⟩, .ro), (⟨3, 11⟩, .ro), (⟨16, 12⟩, .fc), (⟨28, 1⟩, .fc)] }] ++
  [{ name := .CELL_ECC, base := 0x3f009000008, dims := [(208, 0x10000), (128, 0x200)],
     flds := [(⟨0, 16⟩, .ro), (⟨16, 16⟩, .ro), (⟨32, 16⟩, .ro), (⟨48, 1⟩, .wo)] }] ++
  [{ name := .CELL_BLK_REV, base := 0x3f008000000, dims := [],
     flds := [(⟨0, 64⟩, .ro)], reset := 0x302 }]

/-- The rows of block ARR. -/
def regRowsARR : List RegRow :=
  [{ name := .ARR_STAT, base := 0x3f00d000000, dims := [(208, 0x10000)],
     flds := [(⟨0, 3⟩, .ro), (⟨3, 1⟩, .fc), (⟨4, 12⟩, .fc), (⟨16, 1⟩, .fc), (⟨17, 8⟩, .fc), (⟨25, 1⟩, .ro)], reset := 0x2000000 }] ++
  [{ name := .ARR_TEST, base := 0x3f00d000008, dims := [(208, 0x10000)],
     flds := [(⟨0, 32⟩, .ro), (⟨32, 1⟩, .ro), (⟨33, 1⟩, .ro), (⟨34, 1⟩, .wo)] }] ++
  [{ name := .ARR_CTL, base := 0x3f00d000010, dims := [(208, 0x10000)],
     flds := [(⟨0, 1⟩, .wo), (⟨1, 1⟩, .wo), (⟨2, 1⟩, .wo)] }] ++
  [{ name := .ARR_BLK_REV, base := 0x3f00c000000, dims := [],
     flds := [(⟨0, 64⟩, .ro)], reset := 0x302 }]

/-- The rows of block QL. -/
def regRowsQL : List RegRow :=
  [{ name := .QL_GRP_STS, base := 0x3f024080000, dims := [(1024, 0x40)],
     flds := [(⟨0, 3⟩, .ro), (⟨3, 1⟩, .ro), (⟨4, 4⟩, .ro), (⟨8, 5⟩, .ro), (⟨13, 24⟩, .ro), (⟨37, 10⟩, .ro)] }] ++
  [{ name := .QL_GRP_SHEET, base := 0x3f024080008, dims := [(1024, 0x40)],
     flds := [(⟨0, 48⟩, .ro)] }] ++
  [{ name := .QL_GRP_BND, base := 0x3f024080010, dims := [(1024, 0x40)],
     flds := [(⟨0, 48⟩, .ro), (⟨48, 4⟩, .ro)] }] ++
  [{ name := .QL_GRP_SLIP, base := 0x3f024080018, dims := [(1024, 0x40)],
     flds := [(⟨0, 32⟩, .ro), (⟨32, 3⟩, .ro), (⟨48, 16⟩, .ro)] }] ++
  [{ name := .QL_GRP_TIME, base := 0x3f024080020, dims := [(1024, 0x40)],
     flds := [(⟨0, 24⟩, .ro), (⟨32, 16⟩, .ro)] }] ++
  [{ name := .QL_GRP_SLACK, base := 0x3f024080028, dims := [(1024, 0x40)],
     flds := [(⟨0, 16⟩, .ro), (⟨16, 15⟩, .ro), (⟨31, 1⟩, .ro), (⟨32, 12⟩, .ro)], reset := 0xffff }] ++
  [{ name := .QL_GRP_CTL, base := 0x3f024080030, dims := [(1024, 0x40)],
     flds := [(⟨0, 16⟩, .rw), (⟨16, 1⟩, .wo)] }] ++
  [{ name := .QL_CFG, base := 0x3f024000100, dims := [],
     flds := [(⟨0, 16⟩, .rw), (⟨16, 8⟩, .rw)] }] ++
  [{ name := .QL_LINK_STS, base := 0x3f024010000, dims := [(24, 0x100)],
     flds := [(⟨0, 3⟩, .ro), (⟨3, 9⟩, .ro), (⟨12, 1⟩, .ro), (⟨13, 5⟩, .ro), (⟨18, 1⟩, .fc), (⟨19, 5⟩, .fc), (⟨24, 16⟩, .ro)] }] ++
  [{ name := .QL_LINK_CTL, base := 0x3f024010008, dims := [(24, 0x100)],
     flds := [(⟨0, 1⟩, .rw), (⟨1, 1⟩, .wo), (⟨2, 1⟩, .wo)] }] ++
  [{ name := .QL_LINK_DLY, base := 0x3f024010010, dims := [(24, 0x100)],
     flds := [(⟨0, 24⟩, .ro)] }] ++
  [{ name := .QL_LINK_ERR, base := 0x3f024010018, dims := [(24, 0x100)],
     flds := [(⟨0, 16⟩, .ro), (⟨16, 16⟩, .ro), (⟨32, 16⟩, .ro), (⟨48, 16⟩, .ro)] }] ++
  [{ name := .QL_LINK_FEC, base := 0x3f024010020, dims := [(24, 0x100)],
     flds := [(⟨0, 48⟩, .ro), (⟨48, 1⟩, .wo)] }] ++
  [{ name := .QL_ROUTEh, base := 0x3f024020000, dims := [(512, 8)],
     flds := [(⟨0, 5⟩, .fc), (⟨5, 1⟩, .fc)] }] ++
  [{ name := .QL_BLK_REV, base := 0x3f024000000, dims := [],
     flds := [(⟨0, 64⟩, .ro)], reset := 0x302 }]

/-- The rows of block FAB. -/
def regRowsFAB : List RegRow :=
  [{ name := .FAB_Q_RING, base := 0x3f013000000, dims := [(65536, 0x20)],
     flds := [(⟨0, 4⟩, .rw), (⟨4, 4⟩, .rw), (⟨8, 1⟩, .rw), (⟨12, 45⟩, .rw)] }] ++
  [{ name := .FAB_Q_CMPL, base := 0x3f013000008, dims := [(65536, 0x20)],
     flds := [(⟨0, 11⟩, .rw), (⟨12, 45⟩, .rw)] }] ++
  [{ name := .FAB_Q_PTR, base := 0x3f013000010, dims := [(65536, 0x20)],
     flds := [(⟨0, 32⟩, .ro), (⟨32, 32⟩, .ro)] }] ++
  [{ name := .FAB_Q_STS, base := 0x3f013000018, dims := [(65536, 0x20)],
     flds := [(⟨0, 32⟩, .ro), (⟨32, 1⟩, .w1c), (⟨33, 1⟩, .ro), (⟨36, 12⟩, .fc), (⟨48, 1⟩, .fc)], reset := 0x200000000 }] ++
  [{ name := .FAB_DOORBELL, base := 0x3f012000000, dims := [(4096, 0x1000)],
     flds := [(⟨0, 16⟩, .wo), (⟨32, 32⟩, .wo)] }] ++
  [{ name := .FAB_SLICE_Q, base := 0x3f012000008, dims := [(4096, 0x1000)],
     flds := [(⟨0, 16⟩, .ro), (⟨16, 8⟩, .ro), (⟨24, 16⟩, .ro), (⟨40, 16⟩, .ro)] }] ++
  [{ name := .FAB_AC_n, base := 0x3f012000400, dims := [(4096, 0x1000), (64, 8)],
     flds := [(⟨0, 64⟩, .rw)] }] ++
  [{ name := .FAB_AC_ADD, base := 0x3f012000600, dims := [(4096, 0x1000)],
     flds := [(⟨0, 6⟩, .wo), (⟨8, 56⟩, .wo)] }] ++
  [{ name := .FAB_BLK_REV, base := 0x3f010000000, dims := [],
     flds := [(⟨0, 64⟩, .ro)], reset := 0x302 }] ++
  [{ name := .FAB_MDOORBELL, base := 0x3f010000100, dims := [],
     flds := [(⟨0, 16⟩, .wo), (⟨32, 32⟩, .wo)] }]

/-- The rows of block HTU. -/
def regRowsHTU : List RegRow :=
  [{ name := .HTU_CTX_ROOTn, base := 0x3f016000000, dims := [(4096, 0x1000), (16, 16)],
     flds := [(⟨12, 52⟩, .rw)] }] ++
  [{ name := .HTU_CTX_CFGn, base := 0x3f016000008, dims := [(4096, 0x1000), (16, 16)],
     flds := [(⟨0, 3⟩, .rw), (⟨3, 1⟩, .rw), (⟨4, 1⟩, .rw), (⟨8, 20⟩, .rw)] }] ++
  [{ name := .HTU_FMT_CTL, base := 0x3f014001000, dims := [(8, 0x40)],
     flds := [(⟨0, 3⟩, .rw), (⟨3, 6⟩, .rw), (⟨9, 4⟩, .rw), (⟨13, 4⟩, .rw), (⟨17, 1⟩, .rw), (⟨18, 1⟩, .rw), (⟨19, 1⟩, .rw), (⟨20, 1⟩, .rw), (⟨63, 1⟩, .rw)] }] ++
  [{ name := .HTU_FMT_POS, base := 0x3f014001008, dims := [(8, 0x40)],
     flds := [(⟨0, 6⟩, .rw), (⟨8, 6⟩, .rw), (⟨16, 6⟩, .rw), (⟨24, 6⟩, .rw), (⟨32, 6⟩, .rw), (⟨40, 6⟩, .rw), (⟨48, 6⟩, .rw), (⟨56, 6⟩, .rw)] }] ++
  [{ name := .HTU_FMT_LEAF, base := 0x3f014001010, dims := [(8, 0x40)],
     flds := [(⟨0, 64⟩, .rw)] }] ++
  [{ name := .HTU_FMT_MUST0, base := 0x3f014001018, dims := [(8, 0x40)],
     flds := [(⟨0, 64⟩, .rw)] }] ++
  [{ name := .HTU_FMT_MUST1, base := 0x3f014001020, dims := [(8, 0x40)],
     flds := [(⟨0, 64⟩, .rw)] }] ++
  [{ name := .HTU_SLICE_STAT, base := 0x3f016000138, dims := [(4096, 0x1000)],
     flds := [(⟨0, 16⟩, .ro), (⟨16, 16⟩, .ro), (⟨32, 8⟩, .ro), (⟨40, 16⟩, .ro)] }] ++
  [{ name := .HTU_WALK_STS, base := 0x3f014000100, dims := [],
     flds := [(⟨0, 7⟩, .ro), (⟨8, 13⟩, .ro), (⟨24, 24⟩, .ro)] }] ++
  [{ name := .HTU_FQ_BASE, base := 0x3f016000100, dims := [(4096, 0x1000)],
     flds := [(⟨0, 4⟩, .rw), (⟨12, 30⟩, .rw)] }] ++
  [{ name := .HTU_FQ_PTR, base := 0x3f016000108, dims := [(4096, 0x1000)],
     flds := [(⟨0, 32⟩, .ro), (⟨32, 32⟩, .rw)] }] ++
  [{ name := .HTU_FQ_CTL, base := 0x3f016000110, dims := [(4096, 0x1000)],
     flds := [(⟨0, 1⟩, .rw), (⟨1, 11⟩, .rw), (⟨12, 1⟩, .w1c), (⟨16, 16⟩, .rw)] }] ++
  [{ name := .HTU_FQ_RESP, base := 0x3f016000118, dims := [(4096, 0x1000)],
     flds := [(⟨0, 32⟩, .wo), (⟨32, 1⟩, .wo)] }] ++
  [{ name := .HTU_INV_VA, base := 0x3f016000120, dims := [(4096, 0x1000)],
     flds := [(⟨21, 36⟩, .rw)] }] ++
  [{ name := .HTU_INV_CTL, base := 0x3f016000128, dims := [(4096, 0x1000)],
     flds := [(⟨0, 4⟩, .rw), (⟨4, 1⟩, .rw), (⟨5, 1⟩, .wo), (⟨6, 1⟩, .rw), (⟨8, 11⟩, .rw), (⟨24, 24⟩, .rw)] }] ++
  [{ name := .HTU_INV_STS, base := 0x3f016000130, dims := [(4096, 0x1000)],
     flds := [(⟨0, 1⟩, .ro), (⟨1, 1⟩, .w1c), (⟨2, 1⟩, .ro), (⟨16, 16⟩, .ro)] }] ++
  [{ name := .HTU_BLK_REV, base := 0x3f014000000, dims := [],
     flds := [(⟨0, 64⟩, .ro)], reset := 0x302 }]

/-- The rows of block MEM. -/
def regRowsMEM : List RegRow :=
  [{ name := .MEM_OWNER, base := 0x3f01b000000, dims := [(589824, 8)],
     flds := [(⟨0, 12⟩, .fc), (⟨12, 1⟩, .fc)] }] ++
  [{ name := .MEM_VIOL_ADDRn, base := 0x3f0180f0000, dims := [(24, 16)],
     flds := [(⟨0, 42⟩, .ro)] }] ++
  [{ name := .MEM_VIOL_INFOn, base := 0x3f0180f0008, dims := [(24, 16)],
     flds := [(⟨0, 16⟩, .ro), (⟨16, 12⟩, .ro), (⟨28, 1⟩, .ro), (⟨29, 1⟩, .ro), (⟨30, 1⟩, .ro), (⟨32, 16⟩, .ro), (⟨48, 1⟩, .w1c)] }] ++
  [{ name := .MEM_ECC_CFG, base := 0x3f018000100, dims := [],
     flds := [(⟨0, 8⟩, .rw), (⟨8, 1⟩, .rw)], reset := 0x108 }] ++
  [{ name := .MEM_REMAP_CMD, base := 0x3f018000108, dims := [],
     flds := [(⟨0, 10⟩, .rw), (⟨10, 1⟩, .rw), (⟨11, 6⟩, .rw), (⟨17, 16⟩, .rw), (⟨33, 1⟩, .wo), (⟨34, 1⟩, .ro), (⟨35, 3⟩, .ro)] }] ++
  [{ name := .MEM_STKn, base := 0x3f018010000, dims := [(24, 0x100)],
     flds := [(⟨0, 8⟩, .ro), (⟨8, 1⟩, .ro)] }] ++
  [{ name := .MEM_CH_STS, base := 0x3f018020000, dims := [(768, 0x40)],
     flds := [(⟨0, 3⟩, .ro), (⟨3, 9⟩, .ro), (⟨12, 6⟩, .fc), (⟨18, 1⟩, .fc), (⟨19, 2⟩, .ro), (⟨32, 16⟩, .ro)] }] ++
  [{ name := .MEM_CH_CTL, base := 0x3f018020008, dims := [(768, 0x40)],
     flds := [(⟨0, 1⟩, .wo), (⟨1, 1⟩, .wo)] }] ++
  [{ name := .MEM_CH_ECC, base := 0x3f018020010, dims := [(768, 0x40)],
     flds := [(⟨0, 16⟩, .ro), (⟨16, 16⟩, .ro), (⟨32, 7⟩, .ro), (⟨48, 1⟩, .wo)] }] ++
  [{ name := .MEM_REMAPi, base := 0x3f018040000, dims := [(8192, 8)],
     flds := [(⟨0, 33⟩, .ro), (⟨33, 2⟩, .ro), (⟨35, 1⟩, .ro)] }] ++
  [{ name := .MEM_TG_CTL, base := 0x3f018060000, dims := [(768, 0x40)],
     flds := [(⟨0, 2⟩, .rw), (⟨2, 3⟩, .rw), (⟨5, 1⟩, .rw), (⟨6, 1⟩, .wo), (⟨7, 1⟩, .wo), (⟨8, 1⟩, .ro), (⟨9, 1⟩, .w1c), (⟨10, 1⟩, .ro), (⟨11, 1⟩, .ro), (⟨32, 16⟩, .ro)] }] ++
  [{ name := .MEM_TG_RANGE, base := 0x3f018060008, dims := [(768, 0x40)],
     flds := [(⟨0, 25⟩, .rw), (⟨25, 25⟩, .rw)] }] ++
  [{ name := .MEM_TG_SEED, base := 0x3f018060010, dims := [(768, 0x40)],
     flds := [(⟨0, 64⟩, .rw)] }] ++
  [{ name := .MEM_TG_RES, base := 0x3f018060018, dims := [(768, 0x40)],
     flds := [(⟨0, 25⟩, .ro), (⟨32, 32⟩, .ro)] }] ++
  [{ name := .MEM_TG_LANES, base := 0x3f018060020, dims := [(768, 0x40)],
     flds := [(⟨0, 64⟩, .ro)] }] ++
  [{ name := .MEM_CLSn_c, base := 0x3f0180e0000, dims := [(24, 0x80), (16, 8)],
     flds := [(⟨0, 64⟩, .ro)] }] ++
  [{ name := .MEM_BLK_REV, base := 0x3f018000000, dims := [],
     flds := [(⟨0, 64⟩, .ro)], reset := 0x302 }]

/-- The rows of block MTR. -/
def regRowsMTR : List RegRow :=
  [{ name := .MTR_CFGm, base := 0x3f01e000000, dims := [(4096, 0x1000), (4, 16)],
     flds := [(⟨0, 32⟩, .fc), (⟨32, 16⟩, .fc)] }] ++
  [{ name := .MTR_STSm, base := 0x3f01e000008, dims := [(4096, 0x1000), (4, 16)],
     flds := [(⟨0, 16⟩, .ro), (⟨16, 32⟩, .ro)], reset := 0x8000 }] ++
  [{ name := .MTR_GBYTESm, base := 0x3f01e000040, dims := [(4096, 0x1000), (4, 16)],
     flds := [(⟨0, 64⟩, .ro)] }] ++
  [{ name := .MTR_SBYTESm, base := 0x3f01e000048, dims := [(4096, 0x1000), (4, 16)],
     flds := [(⟨0, 64⟩, .ro)] }] ++
  [{ name := .MTR_GRP_BW, base := 0x3f01c001000, dims := [(64, 0x20)],
     flds := [(⟨0, 32⟩, .ro), (⟨32, 32⟩, .ro)] }] ++
  [{ name := .MTR_GRP_STS, base := 0x3f01c001008, dims := [(64, 0x20)],
     flds := [(⟨0, 16⟩, .ro), (⟨16, 1⟩, .ro), (⟨17, 1⟩, .ro)], reset := 0x8000 }] ++
  [{ name := .MTR_BLK_REV, base := 0x3f01c000000, dims := [],
     flds := [(⟨0, 64⟩, .ro)], reset := 0x302 }]

/-- The rows of block UMB. -/
def regRowsUMB : List RegRow :=
  [{ name := .UMB_STS, base := 0x3f020000010, dims := [],
     flds := [(⟨0, 1⟩, .ro), (⟨1, 1⟩, .ro), (⟨2, 7⟩, .ro), (⟨9, 7⟩, .ro)] }] ++
  [{ name := .UMB_HALT_ADDR, base := 0x3f020000018, dims := [],
     flds := [(⟨0, 42⟩, .ro), (⟨42, 2⟩, .ro), (⟨44, 6⟩, .ro), (⟨63, 1⟩, .ro)] }] ++
  [{ name := .UMB_NC_STS, base := 0x3f020000028, dims := [],
     flds := [(⟨0, 32⟩, .ro), (⟨32, 16⟩, .ro), (⟨48, 16⟩, .ro)] }] ++
  [{ name := .UMB_REG_CFG, base := 0x3f020001000, dims := [(64, 0x40)],
     flds := [(⟨0, 20⟩, .fc), (⟨20, 17⟩, .fc), (⟨37, 1⟩, .fc)] }] ++
  [{ name := .UMB_REG_META, base := 0x3f020001008, dims := [(64, 0x40)],
     flds := [(⟨0, 20⟩, .fc), (⟨20, 17⟩, .fc), (⟨37, 16⟩, .fc)] }] ++
  [{ name := .UMB_REG_STS, base := 0x3f020001010, dims := [(64, 0x40)],
     flds := [(⟨0, 2⟩, .ro), (⟨2, 1⟩, .ro), (⟨3, 1⟩, .ro), (⟨4, 1⟩, .ro), (⟨5, 16⟩, .ro), (⟨32, 16⟩, .ro)] }] ++
  [{ name := .UMB_REG_SWEEP, base := 0x3f020001018, dims := [(64, 0x40)],
     flds := [(⟨0, 31⟩, .ro), (⟨31, 1⟩, .wo)] }] ++
  [{ name := .UMB_LOSTi, base := 0x3f020004000, dims := [(64, 8)],
     flds := [(⟨0, 6⟩, .ro), (⟨6, 3⟩, .ro), (⟨9, 28⟩, .ro), (⟨37, 1⟩, .ro)] }] ++
  [{ name := .UMB_BLK_REV, base := 0x3f020000000, dims := [],
     flds := [(⟨0, 64⟩, .ro)], reset := 0x302 }]

/-- The rows of block HOST. -/
def regRowsHOST : List RegRow :=
  [{ name := .HOST_APn, base := 0x3f02e000000, dims := [(4096, 0x1000), (16, 8)],
     flds := [(⟨0, 1⟩, .rw), (⟨32, 32⟩, .rw)] }] ++
  [{ name := .HOST_LINK_STS, base := 0x3f02c010000, dims := [(4, 0x100)],
     flds := [(⟨0, 3⟩, .ro), (⟨3, 5⟩, .ro), (⟨8, 3⟩, .ro), (⟨11, 1⟩, .ro), (⟨12, 12⟩, .ro)] }] ++
  [{ name := .HOST_BLK_REV, base := 0x3f02c000000, dims := [],
     flds := [(⟨0, 64⟩, .ro)], reset := 0x302 }]

/-- The rows of block MBX. -/
def regRowsMBX : List RegRow :=
  [{ name := .MBX_T_TXDn, base := 0x3f032000000, dims := [(4096, 0x1000), (8, 8)],
     flds := [(⟨0, 64⟩, .rw)] }] ++
  [{ name := .MBX_T_CTL, base := 0x3f032000040, dims := [(4096, 0x1000)],
     flds := [(⟨0, 1⟩, .wo), (⟨1, 1⟩, .wo), (⟨2, 1⟩, .rw), (⟨3, 11⟩, .rw)] }] ++
  [{ name := .MBX_T_STS, base := 0x3f032000048, dims := [(4096, 0x1000)],
     flds := [(⟨0, 3⟩, .ro), (⟨3, 3⟩, .ro), (⟨6, 1⟩, .w1c), (⟨7, 1⟩, .w1c)], reset := 0x4 }] ++
  [{ name := .MBX_T_RXDn, base := 0x3f032000080, dims := [(4096, 0x1000), (8, 8)],
     flds := [(⟨0, 64⟩, .ro)] }] ++
  [{ name := .MBX_PENDw, base := 0x3f030000100, dims := [(64, 8)],
     flds := [(⟨0, 64⟩, .ro)] }] ++
  [{ name := .MBX_BLK_REV, base := 0x3f030000000, dims := [],
     flds := [(⟨0, 64⟩, .ro)], reset := 0x302 }] ++
  [{ name := .MBX_M_TXDn, base := 0x3f032000100, dims := [(4096, 0x1000), (8, 8)],
     flds := [(⟨0, 64⟩, .rw)] }] ++
  [{ name := .MBX_M_CTL, base := 0x3f032000140, dims := [(4096, 0x1000)],
     flds := [(⟨0, 1⟩, .wo), (⟨1, 1⟩, .wo), (⟨2, 1⟩, .rw), (⟨3, 11⟩, .rw)] }] ++
  [{ name := .MBX_M_STS, base := 0x3f032000148, dims := [(4096, 0x1000)],
     flds := [(⟨0, 3⟩, .ro), (⟨3, 3⟩, .ro), (⟨6, 1⟩, .w1c), (⟨7, 1⟩, .w1c)], reset := 0x4 }] ++
  [{ name := .MBX_M_RXDn, base := 0x3f032000180, dims := [(4096, 0x1000), (8, 8)],
     flds := [(⟨0, 64⟩, .ro)] }]

/-- The rows of block SITE. -/
def regRowsSITE : List RegRow :=
  [{ name := .SITE_CFG, base := 0x3f028000100, dims := [],
     flds := [(⟨0, 16⟩, .rw)] }] ++
  [{ name := .SITE_STS, base := 0x3f028010000, dims := [(8, 0x1000)],
     flds := [(⟨0, 3⟩, .ro), (⟨3, 7⟩, .ro), (⟨10, 16⟩, .ro), (⟨26, 16⟩, .ro), (⟨42, 8⟩, .ro), (⟨50, 1⟩, .fc), (⟨51, 5⟩, .fc)] }] ++
  [{ name := .SITE_CTL, base := 0x3f028010008, dims := [(8, 0x1000)],
     flds := [(⟨0, 1⟩, .rw), (⟨1, 1⟩, .wo), (⟨2, 1⟩, .wo)] }] ++
  [{ name := .SITE_ERR, base := 0x3f028010010, dims := [(8, 0x1000)],
     flds := [(⟨0, 16⟩, .ro), (⟨16, 16⟩, .ro), (⟨32, 16⟩, .ro), (⟨48, 16⟩, .ro)] }] ++
  [{ name := .SITE_ENGe, base := 0x3f028010800, dims := [(8, 0x1000), (64, 8)],
     flds := [(⟨0, 12⟩, .fc), (⟨12, 1⟩, .fc), (⟨13, 2⟩, .ro), (⟨16, 5⟩, .ro)] }] ++
  [{ name := .SITE_BLK_REV, base := 0x3f028000000, dims := [],
     flds := [(⟨0, 64⟩, .ro)], reset := 0x302 }]

/-- The rows of block FCOL. -/
def regRowsFCOL : List RegRow :=
  [{ name := .FCOL_CTL, base := 0x3f034000100, dims := [],
     flds := [(⟨0, 1⟩, .rw), (⟨1, 1⟩, .rw), (⟨2, 1⟩, .rw), (⟨3, 1⟩, .rw), (⟨4, 1⟩, .wo), (⟨16, 16⟩, .fc)], reset := 0x640006 }] ++
  [{ name := .FCOL_STS, base := 0x3f034000108, dims := [],
     flds := [(⟨0, 1⟩, .ro), (⟨1, 1⟩, .w1c), (⟨2, 1⟩, .w1c), (⟨3, 3⟩, .ro), (⟨16, 16⟩, .ro)] }] ++
  [{ name := .FCOL_OVF, base := 0x3f034000110, dims := [],
     flds := [(⟨0, 32⟩, .ro), (⟨32, 32⟩, .ro)] }] ++
  [{ name := .FCOL_Q_PTR, base := 0x3f034000118, dims := [],
     flds := [(⟨0, 32⟩, .ro), (⟨32, 32⟩, .rw)] }] ++
  [{ name := .FCOL_PIN, base := 0x3f034000120, dims := [],
     flds := [(⟨0, 1⟩, .ro), (⟨1, 1⟩, .ro), (⟨2, 1⟩, .wo), (⟨3, 1⟩, .wo), (⟨4, 1⟩, .ro)] }] ++
  [{ name := .FCOL_RST, base := 0x3f034000128, dims := [],
     flds := [(⟨0, 4⟩, .ro), (⟨16, 16⟩, .ro), (⟨32, 16⟩, .ro), (⟨48, 16⟩, .ro)] }] ++
  [{ name := .FCOL_ECL, base := 0x3f034000130, dims := [],
     flds := [(⟨0, 10⟩, .rw), (⟨10, 1⟩, .wo)] }] ++
  [{ name := .FCOL_REACT_Q, base := 0x3f034000138, dims := [],
     flds := [(⟨0, 16⟩, .rw), (⟨16, 5⟩, .ro), (⟨21, 1⟩, .ro)] }] ++
  [{ name := .FCOL_FATAL_ACK, base := 0x3f034000140, dims := [],
     flds := [(⟨0, 4⟩, .wo)] }] ++
  [{ name := .FCOL_FATAL_STS, base := 0x3f034000148, dims := [],
     flds := [(⟨0, 4⟩, .ro), (⟨4, 4⟩, .ro)] }] ++
  [{ name := .FCOL_FATALn_k, base := 0x3f034000200, dims := [(4, 0x20), (4, 8)],
     flds := [(⟨0, 64⟩, .ro)] }] ++
  [{ name := .FCOL_Qi_k, base := 0x3f034010000, dims := [(1024, 0x20), (4, 8)],
     flds := [(⟨0, 64⟩, .ro)] }] ++
  [{ name := .FCOL_BLK_REV, base := 0x3f034000000, dims := [],
     flds := [(⟨0, 64⟩, .ro)], reset := 0x302 }]

/-- The rows of block WDG. -/
def regRowsWDG : List RegRow :=
  [{ name := .WDG_KLV, base := 0x3f038000100, dims := [],
     flds := [(⟨0, 16⟩, .rw), (⟨16, 1⟩, .wo), (⟨17, 1⟩, .rw)], reset := 0x203e8 }] ++
  [{ name := .WDG_FAB, base := 0x3f038000108, dims := [],
     flds := [(⟨0, 16⟩, .rw)], reset := 0x64 }] ++
  [{ name := .WDG_STS, base := 0x3f038000110, dims := [],
     flds := [(⟨0, 32⟩, .ro), (⟨32, 16⟩, .ro)] }] ++
  [{ name := .WDG_BLK_REV, base := 0x3f038000000, dims := [],
     flds := [(⟨0, 64⟩, .ro)], reset := 0x302 }]

/-- The rows of block CKC. -/
def regRowsCKC : List RegRow :=
  [{ name := .CKC_EXPn, base := 0x3f03e000000, dims := [(4096, 0x1000), (224, 16)],
     flds := [(⟨0, 32⟩, .rw), (⟨32, 16⟩, .rw), (⟨48, 1⟩, .rw)] }] ++
  [{ name := .CKC_RESn, base := 0x3f03e000008, dims := [(4096, 0x1000), (224, 16)],
     flds := [(⟨0, 32⟩, .ro), (⟨32, 1⟩, .ro), (⟨33, 1⟩, .ro), (⟨34, 1⟩, .w1c), (⟨35, 1⟩, .w1c), (⟨48, 16⟩, .ro)] }] ++
  [{ name := .CKC_SLICE_CTL, base := 0x3f03e000e00, dims := [(4096, 0x1000)],
     flds := [(⟨0, 1⟩, .rw), (⟨1, 11⟩, .rw)] }] ++
  [{ name := .CKC_APPk, base := 0x3f03c000100, dims := [(32, 8)],
     flds := [(⟨0, 1⟩, .fc), (⟨1, 1⟩, .fc), (⟨2, 5⟩, .fc), (⟨16, 16⟩, .ro), (⟨32, 12⟩, .ro), (⟨44, 1⟩, .wo)] }] ++
  [{ name := .CKC_BLK_REV, base := 0x3f03c000000, dims := [],
     flds := [(⟨0, 64⟩, .ro)], reset := 0x302 }]

/-- The rows of block LCS. -/
def regRowsLCS : List RegRow :=
  [{ name := .LCS_STATE, base := 0x3f044000010, dims := [],
     flds := [(⟨0, 2⟩, .ro), (⟨2, 4⟩, .ro), (⟨6, 1⟩, .ro), (⟨7, 1⟩, .ro), (⟨8, 8⟩, .ro), (⟨16, 1⟩, .ro), (⟨17, 1⟩, .ro)] }] ++
  [{ name := .LCS_REQ, base := 0x3f044000018, dims := [],
     flds := [(⟨0, 1⟩, .rw), (⟨1, 1⟩, .rw), (⟨2, 1⟩, .wo), (⟨3, 1⟩, .ro), (⟨4, 8⟩, .ro)] }] ++
  [{ name := .LCS_DBG, base := 0x3f044000020, dims := [],
     flds := [(⟨0, 1⟩, .w1s)] }] ++
  [{ name := .LCS_PROG, base := 0x3f044000028, dims := [],
     flds := [(⟨0, 2⟩, .rw), (⟨2, 1⟩, .wo), (⟨3, 1⟩, .ro), (⟨4, 4⟩, .ro)] }] ++
  [{ name := .LCS_NONCEn, base := 0x3f044000040, dims := [(4, 8)],
     flds := [(⟨0, 64⟩, .ro)] }] ++
  [{ name := .LCS_TOKENn, base := 0x3f044000080, dims := [(24, 8)],
     flds := [(⟨0, 64⟩, .rw)] }] ++
  [{ name := .LCS_PROG_DATAn, base := 0x3f0440000c0, dims := [(6, 8)],
     flds := [(⟨0, 64⟩, .wo)] }] ++
  [{ name := .LCS_BLK_REV, base := 0x3f044000000, dims := [],
     flds := [(⟨0, 64⟩, .ro)], reset := 0x302 }]

/-- The rows of block KEY. -/
def regRowsKEY : List RegRow :=
  [{ name := .KEY_IDn, base := 0x3f040000010, dims := [(2, 8)],
     flds := [(⟨0, 64⟩, .ro)] }] ++
  [{ name := .KEY_MEASn, base := 0x3f040000020, dims := [(6, 8)],
     flds := [(⟨0, 64⟩, .ro)] }] ++
  [{ name := .KEY_RNG_STS, base := 0x3f040000060, dims := [],
     flds := [(⟨0, 1⟩, .ro), (⟨16, 16⟩, .ro)] }] ++
  [{ name := .KEY_SLOT_STSm, base := 0x3f040001000, dims := [(512, 8)],
     flds := [(⟨0, 12⟩, .fc), (⟨12, 1⟩, .fc), (⟨13, 1⟩, .ro), (⟨14, 7⟩, .ro), (⟨21, 3⟩, .ro), (⟨24, 8⟩, .ro), (⟨32, 1⟩, .ro)] }] ++
  [{ name := .KEY_CTL, base := 0x3f042000000, dims := [(4096, 0x1000)],
     flds := [(⟨0, 9⟩, .rw), (⟨9, 6⟩, .rw), (⟨15, 4⟩, .rw), (⟨19, 1⟩, .rw), (⟨20, 4⟩, .wo), (⟨24, 7⟩, .rw), (⟨31, 3⟩, .rw), (⟨34, 8⟩, .rw), (⟨42, 1⟩, .rw)] }] ++
  [{ name := .KEY_ARG, base := 0x3f042000008, dims := [(4096, 0x1000)],
     flds := [(⟨6, 24⟩, .rw)] }] ++
  [{ name := .KEY_STS, base := 0x3f042000010, dims := [(4096, 0x1000)],
     flds := [(⟨0, 1⟩, .ro), (⟨1, 1⟩, .w1c), (⟨2, 3⟩, .ro), (⟨8, 4⟩, .ro), (⟨12, 4⟩, .ro), (⟨16, 16⟩, .ro), (⟨32, 32⟩, .ro)] }] ++
  [{ name := .KEY_FULLw, base := 0x3f042000040, dims := [(4096, 0x1000), (8, 8)],
     flds := [(⟨0, 64⟩, .ro)] }] ++
  [{ name := .KEY_DATAn, base := 0x3f042000100, dims := [(4096, 0x1000), (16, 8)],
     flds := [(⟨0, 64⟩, .rw)] }] ++
  [{ name := .KEY_ATT_CHALn, base := 0x3f042000180, dims := [(4096, 0x1000), (4, 8)],
     flds := [(⟨0, 64⟩, .rw)] }] ++
  [{ name := .KEY_ATT_REPn, base := 0x3f042000200, dims := [(4096, 0x1000), (34, 8)],
     flds := [(⟨0, 64⟩, .ro)] }] ++
  [{ name := .KEY_BLK_REV, base := 0x3f040000000, dims := [],
     flds := [(⟨0, 64⟩, .ro)], reset := 0x302 }]

/-- The rows of block PWR. -/
def regRowsPWR : List RegRow :=
  [{ name := .PWR_CTL, base := 0x3f048000100, dims := [],
     flds := [(⟨0, 2⟩, .rw), (⟨2, 1⟩, .wo), (⟨3, 1⟩, .wo)] }] ++
  [{ name := .PWR_STS, base := 0x3f048000108, dims := [],
     flds := [(⟨0, 2⟩, .ro), (⟨2, 1⟩, .ro), (⟨3, 3⟩, .ro)] }] ++
  [{ name := .PWR_TEMP, base := 0x3f048000110, dims := [],
     flds := [(⟨0, 8⟩, .ro)] }] ++
  [{ name := .PWR_BLK_REV, base := 0x3f048000000, dims := [],
     flds := [(⟨0, 64⟩, .ro)], reset := 0x302 }]

/-- The rows of block KLV. -/
def regRowsKLV : List RegRow :=
  [{ name := .KLV_BOOT, base := 0x3f04c000100, dims := [],
     flds := [(⟨0, 4⟩, .ro), (⟨4, 2⟩, .ro), (⟨6, 1⟩, .ro), (⟨7, 1⟩, .ro), (⟨8, 1⟩, .ro), (⟨9, 1⟩, .ro), (⟨10, 1⟩, .ro), (⟨11, 8⟩, .ro)] }] ++
  [{ name := .KLV_IMG_ADDR, base := 0x3f04c000108, dims := [],
     flds := [(⟨12, 30⟩, .rw)] }] ++
  [{ name := .KLV_IMG_CTL, base := 0x3f04c000110, dims := [],
     flds := [(⟨0, 3⟩, .wo), (⟨3, 1⟩, .ro), (⟨4, 1⟩, .ro), (⟨5, 4⟩, .ro), (⟨9, 1⟩, .w1c)] }] ++
  [{ name := .KLV_BLK_REV, base := 0x3f04c000000, dims := [],
     flds := [(⟨0, 64⟩, .ro)], reset := 0x302 }]

/-- Every register of the hub, but for the mirror pages (R64), which `regFind` adds. -/
def regRows : List RegRow :=
  regRowsTOP ++ regRowsSLM ++ regRowsCELL ++ regRowsARR ++ regRowsQL ++ regRowsFAB ++ regRowsHTU ++ regRowsMEM ++ regRowsMTR ++ regRowsUMB ++ regRowsHOST ++ regRowsMBX ++ regRowsSITE ++ regRowsFCOL ++ regRowsWDG ++ regRowsCKC ++ regRowsLCS ++ regRowsKEY ++ regRowsPWR ++ regRowsKLV

/-- The indices that an offset spells over counts and strides, outermost first; none where it names no instance. -/
def dimIdx : Nat → List (Nat × Nat) → Option (List Nat)
  | d, [] => if d = 0 then some [] else none
  | d, (c, st) :: ds =>
    if d / st < c then (dimIdx (d % st) ds).map (fun l => d / st :: l) else none

/-- The indices of an address in a row of the register map. -/
def rowIdx (r : RegRow) (a : Nat) : Option (List Nat) :=
  if r.base ≤ a then dimIdx (a - r.base) r.dims else none

/-- The first row of a list that an address falls in, with its indices. -/
def rowFind : List RegRow → Nat → Option (RegRow × List Nat)
  | [], _ => none
  | r :: rs, a =>
    match rowIdx r a with
    | some ix => some (r, ix)
    | none => rowFind rs a

/-- The mirror page of every slice: 512 words at block offset 0x300_0000 + s times 0x1000 (R64). -/
def mirrorRow : RegRow :=
  { name := .SLM_MIRROR, base := 0x3f007000000, dims := [(4096, 0x1000), (512, 8)], flds := [(⟨0, 64⟩, .ro)] }

/-- The row and indices of an 8-byte aligned register address; none for an unassigned offset (R15, R19). -/
def regFind (a : Nat) : Option (RegRow × List Nat) := rowFind (regRows ++ [mirrorRow]) a

/-- The rows whose power-on value is not zero. -/
def resetRows : List RegRow :=
  [{ name := .HUB_ARCH_VER, base := 0x3f000000008, dims := [], flds := [], reset := 0x110302 },
   { name := .ARR_STAT, base := 0x3f00d000000, dims := [(208, 0x10000)], flds := [], reset := 0x2000000 },
   { name := .QL_GRP_SLACK, base := 0x3f024080028, dims := [(1024, 0x40)], flds := [], reset := 0xffff },
   { name := .FAB_Q_STS, base := 0x3f013000018, dims := [(65536, 0x20)], flds := [], reset := 0x200000000 },
   { name := .MEM_ECC_CFG, base := 0x3f018000100, dims := [], flds := [], reset := 0x108 },
   { name := .MTR_STSm, base := 0x3f01e000008, dims := [(4096, 0x1000), (4, 16)], flds := [], reset := 0x8000 },
   { name := .MTR_GRP_STS, base := 0x3f01c001008, dims := [(64, 0x20)], flds := [], reset := 0x8000 },
   { name := .MBX_T_STS, base := 0x3f032000048, dims := [(4096, 0x1000)], flds := [], reset := 0x4 },
   { name := .FCOL_CTL, base := 0x3f034000100, dims := [], flds := [], reset := 0x640006 },
   { name := .WDG_KLV, base := 0x3f038000100, dims := [], flds := [], reset := 0x203e8 },
   { name := .WDG_FAB, base := 0x3f038000108, dims := [], flds := [], reset := 0x64 },
   { name := .TOP_BLK_REV, base := 0x3f000000000, dims := [], flds := [], reset := 0x302 },
   { name := .SLM_BLK_REV, base := 0x3f004000000, dims := [], flds := [], reset := 0x302 }] ++
  [{ name := .CELL_BLK_REV, base := 0x3f008000000, dims := [], flds := [], reset := 0x302 },
   { name := .ARR_BLK_REV, base := 0x3f00c000000, dims := [], flds := [], reset := 0x302 },
   { name := .FAB_BLK_REV, base := 0x3f010000000, dims := [], flds := [], reset := 0x302 },
   { name := .HTU_BLK_REV, base := 0x3f014000000, dims := [], flds := [], reset := 0x302 },
   { name := .MEM_BLK_REV, base := 0x3f018000000, dims := [], flds := [], reset := 0x302 },
   { name := .MTR_BLK_REV, base := 0x3f01c000000, dims := [], flds := [], reset := 0x302 },
   { name := .UMB_BLK_REV, base := 0x3f020000000, dims := [], flds := [], reset := 0x302 },
   { name := .QL_BLK_REV, base := 0x3f024000000, dims := [], flds := [], reset := 0x302 },
   { name := .SITE_BLK_REV, base := 0x3f028000000, dims := [], flds := [], reset := 0x302 },
   { name := .HOST_BLK_REV, base := 0x3f02c000000, dims := [], flds := [], reset := 0x302 },
   { name := .MBX_BLK_REV, base := 0x3f030000000, dims := [], flds := [], reset := 0x302 },
   { name := .FCOL_BLK_REV, base := 0x3f034000000, dims := [], flds := [], reset := 0x302 },
   { name := .WDG_BLK_REV, base := 0x3f038000000, dims := [], flds := [], reset := 0x302 },
   { name := .CKC_BLK_REV, base := 0x3f03c000000, dims := [], flds := [], reset := 0x302 },
   { name := .KEY_BLK_REV, base := 0x3f040000000, dims := [], flds := [], reset := 0x302 },
   { name := .LCS_BLK_REV, base := 0x3f044000000, dims := [], flds := [], reset := 0x302 },
   { name := .PWR_BLK_REV, base := 0x3f048000000, dims := [], flds := [], reset := 0x302 },
   { name := .KLV_BLK_REV, base := 0x3f04c000000, dims := [], flds := [], reset := 0x302 },
   { name := .MBX_M_STS, base := 0x3f032000148, dims := [(4096, 0x1000)], flds := [], reset := 0x4 }]

/-- The value every register holds after power-on, by address: the Reset column of its table, zero where that is zero. -/
def regReset (a : Nat) : Word :=
  match rowFind resetRows a with
  | some (r, _) => BitVec.ofNat 64 r.reset
  | none => 0

/-- The mask of the fields of a row with one access type. -/
def accMask (r : RegRow) (k : Acc) : Word :=
  r.flds.foldl (fun m f => if f.2 = k then m ||| fldMask f.1 else m) 0

end Sys2Proof.Machine
end

