-- ==== Sys2Proof/Machine/Ops.lean ====
section
/-! DEFINITION. The named operations every meaning is made of: registers and their fields, what the live forme assigns,
slice states and events, fault messages, MSI-X raises, and the rule by which shared resources are divided. -/
namespace Sys2Proof.Machine

/-- What a command's meaning answers. -/
abbrev Res := Host.Outcome State Fault Refusal

/-- A meaning that changes the hub and leaves the fuses and the command queue as they are. -/
def onHub (s : State) (f : Hub → Hub) : Res := .next { s with hub := f s.hub }

/-- A meaning that reads the fuses and changes the hub. -/
def onHubF (s : State) (f : Fuses → Hub → Hub) : Res := .next { s with hub := f s.fuses s.hub }

/-- A meaning that may change the hub and the fuses. -/
def onChip (s : State) (f : Fuses → Hub → Fuses × Hub) : Res :=
  let r := f s.fuses s.hub
  .next { s with fuses := r.1, hub := r.2 }

/-- `f` where the condition holds, the hub unchanged where it does not. -/
def guardHub (c : Bool) (f : Hub → Hub) (h : Hub) : Hub := if c then f h else h

/-! ## Time, in picoseconds -/

def psNs : Nat := 1000
def psUs : Nat := 1000000
def psMs : Nat := 1000000000
def psHour : Nat := 3600000000000000

/-! ## Registers -/

/-- The register at a hub-local address. -/
def Hub.reg (h : Hub) (a : Nat) : Word := mapGetD h.regs a (regReset a)

/-- A register set; one back at its reset value is not listed. -/
def Hub.setReg (h : Hub) (a : Nat) (v : Word) : Hub := { h with regs := mapPutD (regReset a) h.regs a v }

/-- The value of a field of a register. -/
def Hub.fld (h : Hub) (a : Nat) (f : Fld) : Nat := getFld (h.reg a) f

/-- A register with one field set. -/
def Hub.setF (h : Hub) (a : Nat) (f : Fld) (x : Nat) : Hub := h.setReg a (setFld (h.reg a) f x)

/-- A flag of a register. -/
def Hub.flag (h : Hub) (a : Nat) (f : Fld) : Bool := decide (h.fld a f ≠ 0)

/-- A counting field raised, saturating at the field's width. -/
def Hub.count (h : Hub) (a : Nat) (f : Fld) (n : Nat) : Hub := h.setF a f (satAdd f.w (h.fld a f) n)

/-- A counting field raised modulo its width. -/
def Hub.bump (h : Hub) (a : Nat) (f : Fld) (n : Nat) : Hub := h.setF a f (h.fld a f + n)

/-- An output driven at a port. -/
def Hub.emit (h : Hub) (o : Output) : Hub := { h with out := o :: h.out }

/-- A register access accepted, and one that gets an error response (R13, R15, R487). -/
def Hub.regOk (h : Hub) : Hub := h.emit .regOk
def Hub.regErr (h : Hub) : Hub := h.emit .regError

/-! ## What the live forme assigns (R42) -/

/-- The records of a slice in the live forme. -/
def Hub.sl (h : Hub) (s : Nat) : Option SliceRec := mapGet h.forme.slices s
def Hub.slD (h : Hub) (s : Nat) : SliceRec := mapGetD h.forme.slices s {}

/-- What the hub keeps of a slice. -/
def Hub.rt (h : Hub) (s : Nat) : SliceRt := mapGetD h.slices s {}
def Hub.setRt (h : Hub) (s : Nat) (r : SliceRt) : Hub := { h with slices := mapPutD {} h.slices s r }
def Hub.updRt (h : Hub) (s : Nat) (f : SliceRt → SliceRt) : Hub := h.setRt s (f (h.rt s))

/-- A slice holds a cell: its array whole, or the cell in a partial array (R67). -/
def SliceRec.holdsCell (r : SliceRec) (c : Nat) : Bool :=
  r.arrays.contains (c / 128) || r.parts.any (fun p => decide (p.1 = c / 128) && p.2.testBit (c % 128))

/-- The cells of an array a slice holds, as a list of global cell numbers. -/
def SliceRec.cellsOf (r : SliceRec) (a : Nat) : List Nat :=
  if r.arrays.contains a then (List.range 128).map (fun c => a * 128 + c)
  else match r.parts.find? (fun p => p.1 == a) with
    | some p => (setBits p.2 128).map (fun c => a * 128 + c)
    | none => []

/-- The slice's cells in ascending global cell number (R76). -/
def SliceRec.cells (r : SliceRec) : List Nat := (List.range 208).flatMap r.cellsOf

/-- The arrays in which a slice holds cells. -/
def SliceRec.arraysTouched (r : SliceRec) : List Nat :=
  (List.range 208).filter (fun a => r.arrays.contains a || r.parts.any (fun p => decide (p.1 = a) && decide (p.2 ≠ 0)))

/-- The arrays of the fused group that holds an array, in ascending order; the array alone where it is in none (R110). -/
def FuseGrp.arrays (g : FuseGrp) : List Nat :=
  (List.range g.rows).flatMap (fun r => (List.range g.cols).map (fun c => g.first + 16 * r + c))

def Hub.arrayOwner (h : Hub) (a : Nat) : Option Nat :=
  (h.forme.slices.find? (fun e => e.2.arrays.contains a)).map (·.1)

/-- The fused group an array lies in. -/
def Hub.fuseOf (h : Hub) (a : Nat) : Option FuseGrp :=
  (h.forme.slices.findSome? (fun e => e.2.fuse.find? (fun g => g.arrays.contains a)))

/-- The arrays that are reset with an array (R112). -/
def Hub.fusedWith (h : Hub) (a : Nat) : List Nat := (h.fuseOf a).elim [a] FuseGrp.arrays

/-- The slice that holds a cell. -/
def Hub.cellOwner (h : Hub) (c : Nat) : Option Nat :=
  (h.forme.slices.find? (fun e => e.2.holdsCell c)).map (·.1)

/-- The slices with cells in an array, ascending. -/
def Hub.arraySlices (h : Hub) (a : Nat) : List Nat :=
  (h.forme.slices.filter (fun e => e.2.arraysTouched.contains a)).map (·.1)

/-- A granule lies in a slice's ranges. -/
def SliceRec.holdsGranule (r : SliceRec) (g : Nat) : Bool :=
  r.ranges.any (fun x => decide (x.first ≤ g) && decide (g < x.first + x.count))

/-- The owner map: the slice that holds a granule (R264). -/
def Hub.owner (h : Hub) (g : Nat) : Option Nat :=
  (h.forme.slices.find? (fun e => e.2.holdsGranule g)).map (·.1)

/-- A range of hub-local bytes lies wholly in granules a slice holds. -/
def Hub.inGranules (h : Hub) (s a n : Nat) : Bool :=
  match h.sl s with
  | none => false
  | some r => (List.range ((a + n - 1) / 2097152 + 1 - a / 2097152)).all (fun i => r.holdsGranule (a / 2097152 + i))

/-- The slice that holds a site engine. -/
def Hub.engineOwner (h : Hub) (s e : Nat) : Option Nat :=
  (h.forme.slices.find? (fun x => (x.2.siteEng.getD s 0).testBit e)).map (·.1)

/-- The slice whose QUEUES record names a queue; none for a management queue (R182). -/
def Hub.queueOwner (h : Hub) (q : Nat) : Option Nat :=
  (h.forme.slices.find? (fun x => x.2.queues.any (fun r => decide (r.1 ≤ q) && decide (q < r.1 + r.2)))).map (·.1)

def SliceRec.queueIds (r : SliceRec) : List Nat := r.queues.flatMap (fun p => (List.range p.2).map (p.1 + ·))

/-- The slice that holds a compare channel, and a key slot. -/
def Hub.checkOwner (h : Hub) (n : Nat) : Option Nat := (h.forme.slices.find? (fun x => x.2.check.contains n)).map (·.1)
def Hub.keyOwner (h : Hub) (m : Nat) : Option Nat := (h.forme.slices.find? (fun x => x.2.keys.contains m)).map (·.1)

/-- The slice that a virtual function serves (R374). -/
def Hub.vfSlice (h : Hub) (port idx : Nat) : Option Nat :=
  (h.forme.slices.find? (fun x => decide (x.2.vfPort = port) && decide (x.2.vfIndex = idx))).map (·.1)

/-- A context of a slice is enabled (R51). -/
def Hub.ctxOn (h : Hub) (s c : Nat) : Bool :=
  match h.sl s with
  | none => false
  | some r => decide (c < 16) && r.ctxEn.testBit c

/-- The slices of a schedule group on this hub. -/
def Hub.groupSlices (h : Hub) (g : Nat) : List Nat :=
  (h.forme.slices.filter (fun e => decide (e.2.group = g))).map (·.1)

def Hub.sched (h : Hub) (g : Nat) : Option Sched := h.forme.scheds.find? (fun r => r.group == g)

/-- The sealed region whose data granules hold a hub-local address. -/
def Hub.regionOf (h : Hub) (a : Nat) : Option SealedRec :=
  h.forme.sealedRegs.find? (fun r => decide (r.first * 2097152 ≤ a) && decide (a < (r.first + r.count) * 2097152))

/-- This hub's number (R28). -/
def Hub.hubNum (h : Hub) : Nat := h.fld rTOP_HUB_ID fTOP_HUB_ID_HUB_NUM

/-! ## Slice states and events (R53, R63, R69) -/

def slFREE : Nat := 0
def slLIVE : Nat := 1
def slHELD : Nat := 2
def slFAULT : Nat := 3
def slDRAINING : Nat := 4
def slSCRUB : Nat := 5

def Hub.stateOf (h : Hub) (s : Nat) : Nat := h.fld (rSLM_SLICE_STATE s) fSLM_SLICE_STATE_STATE

/-- A slice runs in CR7 mode. -/
def Hub.cr7 (h : Hub) (s : Nat) : Bool := h.flag (rSLM_SLICE_STATE s) fSLM_SLICE_STATE_CR7

/-- The slice is LIVE, HELD or in FAULT. -/
def Hub.active (h : Hub) (s : Nat) : Bool := let t := h.stateOf s; decide (t = 1) || decide (t = 2) || decide (t = 3)

/-- One update of a mirror: MIRROR_SEQ advances by 2 (R69). -/
def Hub.mirrorTick (h : Hub) (s : Nat) : Hub := h.updRt s (fun r => { r with mirrorSeq := r.mirrorSeq + 2 })

/-! ## Division of a shared resource (R198) -/

/-- What a claimant may hold: its guarantee, and its share by weight of what no active claimant's guarantee claims,
rounded down. Claimants are (number, guarantee, weight). Where every weight is 0 the rest is open to each of them
(DESIGN CHOICE, log entry 12). -/
def share (total : Nat) (claims : List (Nat × Nat × Nat)) (i : Nat) : Nat :=
  match claims.find? (fun c => c.1 == i) with
  | none => 0
  | some (_, g, w) =>
    let rest := total - (claims.map (fun c => c.2.1)).sum
    let ws := (claims.map (fun c => c.2.2)).sum
    g + (if ws = 0 then rest else rest * w / ws)

/-! ## Host links and MSI-X (R372, R376) -/

/-- HOST_CFG gives a port two x8 links. -/
def Hub.portSplit (h : Hub) (port : Nat) : Bool :=
  (h.fld rTOP_STRAP fTOP_STRAP_HOST_CFG).testBit (1 - port)

/-- The host link that presents a virtual function index of a port. -/
def Hub.vfLink (h : Hub) (port idx : Nat) : Nat :=
  2 * port + (if h.portSplit port && decide (1024 ≤ idx) then 1 else 0)

/-- A host link is used under HOST_CFG. -/
def Hub.linkUsed (h : Hub) (k : Nat) : Bool := decide (k % 2 = 0) || h.portSplit (k / 2)

/-- A virtual function index is presented: in its physical function's range and within NumVFs with VF Enable set. The
ranges count from 0 on link A and from 1,024 on link B (R372). -/
def Hub.presented (h : Hub) (port idx : Nat) : Bool :=
  let k := h.vfLink port idx
  let base := if decide (k % 2 = 1) then 1024 else 0
  decide (port < 2) && decide (idx < 2048) && h.flag (rHOST_LINK_STS k) fHOST_LINK_STS_VF_EN &&
    decide (idx - base < h.fld (rHOST_LINK_STS k) fHOST_LINK_STS_NUMVFS)

/-- The number a function has on its host link: 0 the physical function, 1 + index a virtual function. -/
def fnPf : Nat := 0
def fnVf (idx : Nat) : Nat := idx + 1

def Hub.msixOf (h : Hub) (k : Nat) : MsixRt := mapGetD h.msix k {}
def Hub.setMsix (h : Hub) (k : Nat) (m : MsixRt) : Hub := { h with msix := mapPutD {} h.msix k m }

/-- The slice whose virtual function a function number of a link is. -/
def Hub.fnSlice (h : Hub) (k fn : Nat) : Option Nat := if fn = 0 then none else h.vfSlice (k / 2) (fn - 1)

/-- The slices of a link with vectors to raise, as claimants of its 4,096 pending slots (R376). -/
def Hub.msixClaims (h : Hub) (k : Nat) (m : MsixRt) : List (Nat × Nat × Nat) :=
  (((m.slots ++ m.backlog).filterMap (fun v => h.fnSlice k v.1)).eraseDups).map
    (fun s => (s, (h.slD s).msixGuar, (h.slD s).msixWeight))

/-- The slots a slice holds on a link. -/
def Hub.msixHeld (h : Hub) (k s : Nat) (m : MsixRt) : Nat :=
  (m.slots.filter (fun v => decide (h.fnSlice k v.1 = some s))).length

/-- A vector may take a slot: one is free, and its slice is within its share. The physical functions' vectors take any
free slot (DESIGN CHOICE, log entry 12). -/
def Hub.msixMay (h : Hub) (k : Nat) (m : MsixRt) (fn : Nat) : Bool :=
  decide (m.slots.length < 4096) &&
  (match h.fnSlice k fn with
   | none => true
   | some s => decide (h.msixHeld k s m < share 4096 (h.msixClaims k { m with backlog := m.backlog ++ [(fn, 0)] }) s))

/-- A vector raised: it joins a raise that waits, takes a slot, or waits in its slice's backlog (R376). -/
def Hub.raiseVec (h : Hub) (k fn vec : Nat) : Hub :=
  let m := h.msixOf k
  if m.slots.contains (fn, vec) || m.backlog.contains (fn, vec) then h
  else if h.msixMay k m fn then h.setMsix k { m with slots := m.slots ++ [(fn, vec)] }
  else h.setMsix k { m with backlog := m.backlog ++ [(fn, vec)] }

/-- A vector of a slice's virtual function raised. -/
def Hub.raiseVf (h : Hub) (s vec : Nat) : Hub :=
  match h.sl s with
  | none => h
  | some r => h.raiseVec (h.vfLink r.vfPort r.vfIndex) (fnVf r.vfIndex) vec

/-- A vector of the physical function that carries a slice's virtual function raised. -/
def Hub.raisePfOf (h : Hub) (s vec : Nat) : Hub :=
  match h.sl s with
  | none => h
  | some r => h.raiseVec (h.vfLink r.vfPort r.vfIndex) fnPf vec

/-- A vector raised on every physical function of a port in use. -/
def Hub.raisePort (h : Hub) (port vec : Nat) : Hub :=
  [2 * port, 2 * port + 1].foldl (fun h k => if h.linkUsed k then h.raiseVec k fnPf vec else h) h

/-- A bit of SLM_SLICE_EVT set, with the slice-event interrupt of R63. -/
def Hub.sliceEvt (h : Hub) (s : Nat) (f : Fld) : Hub := (h.setF (rSLM_SLICE_EVT s) f 1).raisePfOf s 0

/-- A slice moved to a state (R54): the register, the mirror and STATE_CHG. -/
def Hub.toState (h : Hub) (s st : Nat) : Hub :=
  ((h.setF (rSLM_SLICE_STATE s) fSLM_SLICE_STATE_STATE st).mirrorTick s).sliceEvt s fSLM_SLICE_EVT_STATE_CHG

/-- A command that is not valid in the slice's state (R55). -/
def Hub.badCmd (h : Hub) (s : Nat) : Hub := h.sliceEvt s fSLM_SLICE_EVT_BAD_CMD

/-- A transition from FAULT to LIVE counted in the mirror (R66, saturating). -/
def Hub.recovered (h : Hub) (s : Nat) : Hub := h.updRt s (fun r => { r with recoveries := satAdd 16 r.recoveries 1 })

/-! ## Generation tags (R414) -/

def ctxid (s c : Nat) : Nat := s * 16 + c

def Hub.gen (h : Hub) (cid : Nat) : Nat := mapGetD h.gens cid 0

/-- The generation tag of a slice-context raised by 1, modulo 256. -/
def Hub.bumpGen (h : Hub) (cid : Nat) : Hub := { h with gens := mapPutD 0 h.gens cid ((h.gen cid + 1) % 256) }

/-- Every context's tag of a slice raised. -/
def Hub.bumpGens (h : Hub) (s : Nat) : Hub :=
  ((List.range 16).foldl (fun h c => h.bumpGen (ctxid s c)) h).mirrorTick s

/-! ## Fault messages (R384, R386, R387) -/

def uHUB : Nat := 0
def uCELL : Nat := 1
def uARR : Nat := 2
def uFAB : Nat := 3
def uHTU : Nat := 4
def uMEM : Nat := 5
def uMTR : Nat := 6
def uUMB : Nat := 7
def uQL : Nat := 8
def uBEAT : Nat := 9
def uSITE : Nat := 10
def uHOST : Nat := 11
def uCKC : Nat := 12
def uKEY : Nat := 13
def uLCS : Nat := 14
def uPWR : Nat := 15
def uKLV : Nat := 16
def uWDG : Nat := 17

def kADDR : Nat := 0x01
def kDATAPATH : Nat := 0x02
def kCELL_SRAM : Nat := 0x03
def kARRAY_TEST : Nat := 0x04
def kTEST_DUE : Nat := 0x05
def kCTX_OFF : Nat := 0x06
def kCTX_RESET : Nat := 0x07
def kCFG_PARITY : Nat := 0x08
def kGROUP_FORM : Nat := 0x10
def kBEAT_SKEW : Nat := 0x11
def kBEAT_LOST : Nat := 0x12
def kBEAT_DESYNC : Nat := 0x13
def kVOTE_MISSING : Nat := 0x14
def kSLIP_RATE : Nat := 0x15
def kSHEET_HANG : Nat := 0x16
def kECLIPSE : Nat := 0x17
def kDOORBELL : Nat := 0x20
def kFAB_TO : Nat := 0x21
def kFAB_PARITY : Nat := 0x22
def kXLATE : Nat := 0x28
def kXLATE_TIMEOUT : Nat := 0x29
def kACCESS : Nat := 0x2A
def kMEM_CE : Nat := 0x30
def kMEM_UE : Nat := 0x31
def kMEM_UE_PATROL : Nat := 0x32
def kMEM_CHANNEL : Nat := 0x33
def kHBM_HOT : Nat := 0x34
def kREMAP_FULL : Nat := 0x35
def kREMAP_NOSPARE : Nat := 0x36
def kGUAR_SHORTFALL : Nat := 0x37
def kUMB_MAC : Nat := 0x38
def kUMB_LOST : Nat := 0x39
def kUMB_RELAID : Nat := 0x3A
def kUMB_CTR_HIGH : Nat := 0x3B
def kUMB_NC : Nat := 0x3C
def kUMB_SWEEP_LATE : Nat := 0x3D
def kLINK_CE : Nat := 0x40
def kLINK_REPLAY : Nat := 0x41
def kLINK_CHK : Nat := 0x42
def kLINK_RETRAIN : Nat := 0x43
def kLINK_DOWN : Nat := 0x44
def kLINK_PROTO : Nat := 0x45
def kLINK_STALL : Nat := 0x46
def kLINK_REFUSED : Nat := 0x47
def kROUTE_MISS : Nat := 0x48
def kREMOTE_TO : Nat := 0x49
def kSITE_CHK : Nat := 0x50
def kSITE_CREDIT : Nat := 0x51
def kSITE_PROTO : Nat := 0x52
def kSITE_TO : Nat := 0x53
def kSITE_QTO : Nat := 0x54
def kSITE_DOWN : Nat := 0x55
def kVF_REMOVED : Nat := 0x58
def kCKC_COMPARE : Nat := 0x60
def kTHERM_WARN : Nat := 0x68
def kTHERM_HIGH : Nat := 0x69
def kTHERM_TRIP : Nat := 0x6A
def kKLV_WDG : Nat := 0x70
def kKLV_LOCKSTEP : Nat := 0x71
def kKLV_ECC : Nat := 0x72

/-- The classes of a fault record (R387). -/
def clsCorrected : Nat := 0
def clsContained : Nat := 1
def clsFatal : Nat := 2

/-- A source code: the unit in bits [15:10], the instance in [9:0] (R384). -/
def srcOf (unit inst : Nat) : Nat := unit * 1024 + inst

/-- A fault message on its way to the collector, stamped with the generation tag where it names a context (R387). -/
def Hub.fault (h : Hub) (m : FaultMsg) : Hub :=
  let g := match m.slice, m.ctx with
    | some s, some c => h.gen (ctxid s c)
    | _, _ => 0
  { h with fcol := { h.fcol with msgs := h.fcol.msgs ++ [{ m with gen := g }] } }

/-- A fault that names a slice alone, or no slice (R388). -/
def Hub.faultS (h : Hub) (unit inst kind cls : Nat) (s : Option Nat) (aux : Nat) : Hub :=
  h.fault { source := srcOf unit inst, kind := kind, cls := cls, slice := s, aux := aux }

/-- A fault that arises from a request: slice, context and address. -/
def Hub.faultR (h : Hub) (unit inst kind cls s c a aux : Nat) : Hub :=
  h.fault { source := srcOf unit inst, kind := kind, cls := cls, slice := some s, ctx := some c, addr := some a, aux := aux }

/-! ## The KEY block (R463) -/

/-- A slice's KEY_CTL operation ends: BUSY clears, DONE is set, LAST_OP and ERR name it. -/
def Hub.keyOpDone (h : Hub) (s err : Nat) : Hub :=
  let op := match mapGet h.keyJobs s with
    | some j => j.op
    | none => 0
  ((({ h with keyJobs := mapDel h.keyJobs s, keyOrder := h.keyOrder.erase s }.setF (rKEY_STS s) fKEY_STS_BUSY 0).setF (rKEY_STS s)
    fKEY_STS_DONE 1).setF (rKEY_STS s) fKEY_STS_LAST_OP op).setF (rKEY_STS s) fKEY_STS_ERR err

/-! ## The tables of things in flight -/

def Hub.cell (h : Hub) (c : Nat) : Cell := mapGetD h.cells c {}
/-- A cell is idle or held. -/
def Cell.atRest (x : Cell) : Bool := match x.run with
  | .idle | .held => true
  | _ => false

/-- A cell's state changed; the moment at which it comes to rest is kept for its array (R153). -/
def Hub.setCell (h : Hub) (c : Nat) (x : Cell) : Hub :=
  { h with cells := mapPutD {} h.cells c x,
           restAt := if x.atRest && !(h.cell c).atRest then mapPutD 0 h.restAt (c / 128) h.now else h.restAt }
def Hub.updCell (h : Hub) (c : Nat) (f : Cell → Cell) : Hub := h.setCell c (f (h.cell c))

/-- Cells whose state and storage are gone; an array of which one was busy comes to rest (R153). -/
def Hub.wipeCells (h : Hub) (p : Nat → Bool) : Hub :=
  let busy := (h.cells.filterMap (fun e => if p e.1 && !e.2.atRest then some (e.1 / 128) else none)).eraseDups
  { h with cells := h.cells.filter (fun e => !p e.1), restAt := busy.foldl (fun m a => mapPutD 0 m a h.now) h.restAt }

def Hub.req (h : Hub) (r : Nat) : Option Req := mapGet h.reqs r
def Hub.setReq (h : Hub) (r : Nat) (x : Req) : Hub := { h with reqs := mapPut h.reqs r x }
def Hub.updReq (h : Hub) (r : Nat) (f : Req → Req) : Hub :=
  match h.req r with
  | none => h
  | some x => h.setReq r (f x)
def Hub.dropReq (h : Hub) (r : Nat) : Hub := { h with reqs := mapDel h.reqs r }

/-- A request gone, with the other part of a site engine's request (R281). -/
def Hub.dropBoth (h : Hub) (r : Nat) : Hub :=
  match (h.req r).bind (·.pair) with
  | none => h.dropReq r
  | some j => (h.dropReq r).dropReq j

/-- A new number for a request, an item, a walk or an operation. -/
def Hub.fresh (h : Hub) : Nat × Hub := (h.nextId, { h with nextId := h.nextId + 1 })

/-- A request entered, with its number. -/
def Hub.newReq (h : Hub) (x : Req) : Nat × Hub :=
  (h.nextId, { h with nextId := h.nextId + 1, reqs := mapPut h.reqs h.nextId x })

def Hub.item (h : Hub) (i : Nat) : Option Item := mapGet h.items i
def Hub.setItem (h : Hub) (i : Nat) (x : Item) : Hub := { h with items := mapPut h.items i x }
def Hub.updItem (h : Hub) (i : Nat) (f : Item → Item) : Hub :=
  match h.item i with
  | none => h
  | some x => h.setItem i (f x)

def Hub.chan (h : Hub) (c : Nat) : ChanRt := mapGetD h.chans c {}
def Hub.setChan (h : Hub) (c : Nat) (x : ChanRt) : Hub := { h with chans := mapPutD {} h.chans c x }
def Hub.updChan (h : Hub) (c : Nat) (f : ChanRt → ChanRt) : Hub := h.setChan c (f (h.chan c))

def Hub.link (h : Hub) (l : Nat) : LinkRt := mapGetD h.links l {}
def Hub.setLink (h : Hub) (l : Nat) (x : LinkRt) : Hub := { h with links := mapPutD {} h.links l x }
def Hub.updLink (h : Hub) (l : Nat) (f : LinkRt → LinkRt) : Hub := h.setLink l (f (h.link l))

def Hub.site (h : Hub) (s : Nat) : SiteRt := mapGetD h.sites s {}
def Hub.setSite (h : Hub) (s : Nat) (x : SiteRt) : Hub := { h with sites := mapPutD {} h.sites s x }
def Hub.updSite (h : Hub) (s : Nat) (f : SiteRt → SiteRt) : Hub := h.setSite s (f (h.site s))

def Hub.grp (h : Hub) (g : Nat) : GroupRt := mapGetD h.groups g {}
def Hub.setGrp (h : Hub) (g : Nat) (x : GroupRt) : Hub := { h with groups := mapPutD {} h.groups g x }
def Hub.updGrp (h : Hub) (g : Nat) (f : GroupRt → GroupRt) : Hub := h.setGrp g (f (h.grp g))

def Hub.qrt (h : Hub) (q : Nat) : QRt := mapGetD h.queues q {}
def Hub.setQrt (h : Hub) (q : Nat) (x : QRt) : Hub := { h with queues := mapPutD {} h.queues q x }

def Hub.seal (h : Hub) (r : Nat) : SealRt := mapGetD h.seals r {}
def Hub.setSeal (h : Hub) (r : Nat) (x : SealRt) : Hub := { h with seals := mapPutD {} h.seals r x }
def Hub.updSeal (h : Hub) (r : Nat) (f : SealRt → SealRt) : Hub := h.setSeal r (f (h.seal r))

/-! ## Arrival counters (R225 to R231) -/

/-- A counter of a slice raised, modulo 2^64. -/
def Hub.addAc (h : Hub) (s n bytes : Nat) : Hub := h.bump (rFAB_AC_n s n) fFAB_AC_n_COUNT bytes

/-- Counter n of a slice has reached a target (R227). -/
def Hub.acReached (h : Hub) (s n : Nat) (t : Word) : Bool := decide ((h.reg (rFAB_AC_n s n) - t).toNat < 2 ^ 63)

/-- The 64 counters of a slice zeroed (R230). -/
def Hub.zeroAcs (h : Hub) (s : Nat) : Hub := (List.range 64).foldl (fun h n => h.setReg (rFAB_AC_n s n) 0) h

/-- The halt of R318 is on: Umbra issues no HBM command and every engine stands. -/
def Hub.halted (h : Hub) : Bool := h.flag rUMB_STS fUMB_STS_HALT

/-- PWR_STS.STATE: 0 lit, 1 dim, 2 dark, 3 shade (R468). -/
def Hub.pwrState (h : Hub) : Nat := h.fld rPWR_STS fPWR_STS_STATE

/-- No cell runs: a halt, or a power state other than lit (R318, R468). -/
def Hub.cellsStand (h : Hub) : Bool := h.halted || decide (h.pwrState ≠ 0)

/-- A fatal fault has stopped a source instance (R390). -/
def Hub.stoppedInst (h : Hub) (unit inst : Nat) : Bool := h.fcol.stopped.contains (srcOf unit inst)

end Sys2Proof.Machine
end

