-- ==== Sys2Proof/Machine/Operands.lean ====
section
/-! DEFINITION. The forms a register command's operands take: who sends it (R20, R374), and how a written value meets the
fields of a register (R9, R11, R12, R14). -/
namespace Sys2Proof.Machine

/-- Who the register range accepts (R20): Kelvy, a physical function of a host link in use, and the debug port while debug
instructions act (R452). -/
def Hub.onBus (h : Hub) (o : Origin) : Bool :=
  match o with
  | .kelvy => true
  | .pf k => h.linkUsed k
  | .tap => decide (h.fld rLCS_STATE fLCS_STATE_STATE = 0) && !h.flag rLCS_DBG fLCS_DBG_LOCK
  | .vf .. => false
  | .engine => false

/-- The managers of a register: as `onBus`, but a physical function from STAGE 6 on alone (the start-up sequence). -/
def Hub.isMgr (h : Hub) (o : Origin) : Bool :=
  match o with
  | .pf k => h.linkUsed k && decide (h.fld rKLV_BOOT fKLV_BOOT_STAGE = 6)
  | o => h.onBus o

/-- A write of a host function is not visible yet: a register write of that function waits (R222). -/
def Hub.hostBusy (h : Hub) (o : Origin) : Bool :=
  let posted (f : HostFn) : Bool := h.reqs.any (fun e => decide (e.2.src = .host f) && decide (e.2.kind = .write))
  match o with
  | .pf k => posted (.pf k)
  | .vf p i => posted (.vf p i)
  | _ => false

/-- A register access of a sender. One of a host function comes about only once every posted write that the function sent before it
is visible; till then the command has no effect (R222). -/
def onReg (o : Origin) (s : State) (f : Hub → Hub) : Res := onHub s (fun h => if h.hostBusy o then h else f h)

/-- A register access whose effect may reach the fuses, under the same wait (R222). -/
def onRegChip (o : Origin) (s : State) (f : Fuses → Hub → Fuses × Hub) : Res :=
  onChip s (fun fu h => if h.hostBusy o then (fu, h) else f fu h)

/-- A sender that the range does not accept gets an error response; a debug instruction that does not act is BYPASS (R452). -/
def Hub.turnedAway (h : Hub) (o : Origin) : Hub := if decide (o = .tap) && !h.onBus o then h else h.regErr

/-- The slice whose pages a virtual function reaches: its index is presented and a slice of the live forme names it (R374). -/
def Hub.vfOf (h : Hub) (o : Origin) : Option Nat :=
  match o with
  | .vf p i => if h.presented p i then h.vfSlice p i else none
  | _ => none

/-- A register that only the managers write. -/
def Hub.mgrWrite (h : Hub) (o : Origin) (f : Hub → Hub) : Hub := if h.isMgr o then f h else h.turnedAway o

/-- A register of the TOP or KLV block, which a physical function reaches before STAGE 6 too. -/
def Hub.bootWrite (h : Hub) (o : Origin) (f : Hub → Hub) : Hub := if h.onBus o then f h else h.turnedAway o

/-- A per-slice register that the slice's virtual function writes too. -/
def Hub.sliceWrite (h : Hub) (o : Origin) (s : Nat) (f : Hub → Hub) : Hub :=
  if h.isMgr o || decide (h.vfOf o = some s) then f h else h.turnedAway o

/-- The bits of a list of fields. -/
def fldsMask (l : List Fld) : Word := l.foldl (fun m f => m ||| fldMask f) 0

/-- A value written over a register: RW bits take the value, W1C bits written as 1 clear, all else stays (R9, R11). -/
def mixWrite (old v : Word) (rw w1c : List Fld) : Word :=
  ((old &&& ~~~(fldsMask rw)) ||| (v &&& fldsMask rw)) &&& ~~~(v &&& fldsMask w1c)

/-- A register written with its RW and W1C fields named. -/
def Hub.writeRW (h : Hub) (a : Nat) (rw w1c : List Fld) (v : Word) : Hub := h.setReg a (mixWrite (h.reg a) v rw w1c)

/-- A field of a written value. -/
def vFld (v : Word) (f : Fld) : Nat := getFld v f
def vFlag (v : Word) (f : Fld) : Bool := decide (getFld v f = 1)

/-- A write changes one of the listed RW fields of a register. -/
def Hub.changes (h : Hub) (a : Nat) (fs : List Fld) (v : Word) : Bool := fs.any (fun f => decide (h.fld a f ≠ getFld v f))

end Sys2Proof.Machine
end

