-- ==== Sys2Proof/Machine/Fifo.lean ====
section
/-! DEFINITION. The synchronizing FIFOs at the crossings between the clockless interior and the clocked islands (R21, R23): one for each
controller, link, host link or site and each direction. -/
namespace Sys2Proof.Machine

/-- An island's place among the FIFOs, and back. -/
def islandNo : Island → Nat
  | .memory => 0
  | .link => 1
  | .host => 2
  | .site => 3
  | .control => 4

def islandOf : Nat → Island
  | 0 => .memory
  | 1 => .link
  | 2 => .host
  | 3 => .site
  | _ => .control

/-- The number of a FIFO: island, endpoint, direction. -/
def fifoKey (i : Island) (ep : Nat) (inward : Bool) : Nat := islandNo i * 64 + ep * 2 + b2n inward

def Hub.fifo (h : Hub) (k : Nat) : Fifo := mapGetD h.fifos k {}
def Hub.setFifo (h : Hub) (k : Nat) (x : Fifo) : Hub := { h with fifos := mapPutD {} h.fifos k x }

/-- The words a crossing FIFO holds at most: the spec gives no depth, so it is free, and at least 1. -/
def fifoWords : Nat := Config.fifoDepth + 1

/-- A sender offers a word, and waits; the oldest waiting word enters where there is room (R21). -/
def Hub.fifoOffer (h : Hub) (k w : Nat) : Hub := let x := h.fifo k; h.setFifo k { x with offered := x.offered ++ [w] }

def Hub.fifoEnter (h : Hub) (k : Nat) : Hub :=
  let x := h.fifo k
  match x.offered with
  | [] => h
  | w :: ws => if x.inside.length < fifoWords then h.setFifo k { offered := ws, inside := x.inside ++ [w] } else h

/-- The oldest word inside leaves. -/
def Hub.fifoLeave (h : Hub) (k : Nat) : Option (Nat × Hub) :=
  let x := h.fifo k
  match x.inside with
  | [] => none
  | w :: ws => some (w, h.setFifo k { x with inside := ws })

/-- A request stands in the crossing FIFO of a controller. -/
def Hub.crossing (h : Hub) (r : Nat) : Bool :=
  (List.range 32).any (fun n => let x := h.fifo (fifoKey .memory n true); x.offered.contains r || x.inside.contains r)

end Sys2Proof.Machine
end

