-- ==== Sys2Proof/Machine/Crypto.lean ====
section
/-! DEFINITION. The published algorithms the spec names: CRC-32C (R81), SHA-384 and HMAC-SHA-384 (R96, R456, R464), the
SP 800-108 counter-mode KDF (R457), ECDSA P-384 verification (R94, R95) and AES-256-GCM (R458). -/
namespace Sys2Proof.Machine

/-! ## CRC-32C: polynomial 0x1EDC_6F41 reflected, initial value and final XOR all ones (R81) -/

/-- Eight steps of the reflected division on one byte. -/
def crcBits : Nat → Nat → Nat
  | 0, c => c
  | n + 1, c => crcBits n (if c % 2 = 1 then (c / 2) ^^^ 0x82f63b78 else c / 2)

/-- One byte folded into a running CRC (R428's crc32c_step). -/
def crcStep (c : Nat) (b : Byte) : Nat := crcBits 8 (c ^^^ b.toNat)

/-- Bytes folded into a running CRC, before the final XOR. -/
def crcRun (c : Nat) (l : List Byte) : Nat := l.foldl crcStep c

def crcInit : Nat := 0xffffffff
def crcEnd (c : Nat) : Nat := c ^^^ 0xffffffff

/-- CRC-32C of a byte string. -/
def crc32c (l : List Byte) : Nat := crcEnd (crcRun crcInit l)

/-! ## SHA-384 (FIPS 180-4): the constants from their definition, the fractional parts of roots of primes -/

/-- The whole part of a root of degree d, by Newton's steps down from a start not below it. -/
def rootDown (d n : Nat) : Nat → Nat → Nat
  | 0, x => x
  | k + 1, x =>
    let y := ((d - 1) * x + n / x ^ (d - 1)) / d
    if y < x then rootDown d n k y else x

/-- Whether a number above 1 has no divisor from 2 up to the bound. -/
def noDivisor (n : Nat) : Nat → Bool
  | 0 => true
  | k + 1 => (k == 0 || n % (k + 1) != 0) && noDivisor n k

/-- The primes below 410: the first 80. -/
def primes80 : List Nat := (List.range 410).filter (fun n => decide (2 ≤ n) && noDivisor n (min (n - 1) 20))

/-- The first 64 bits of the fractional part of a prime's root of degree d. -/
def rootBits (d p : Nat) : Word := BitVec.ofNat 64 (rootDown d (p * 2 ^ (64 * d)) 200 (21 * 2 ^ 64))

/-- The round constants: cube roots of the first 80 primes. -/
def shaK : List Word := primes80.map (rootBits 3)

/-- The initial value of SHA-384: square roots of the ninth to the sixteenth prime. -/
def sha384Init : List Word := (sub primes80 8 8).map (rootBits 2)

/-- The XOR of a word's rotations to the right. -/
def spin (x : Word) (l : List Nat) : Word := l.foldl (fun r n => r ^^^ x.rotateRight n) 0

/-- The message schedule: each further word from the 2nd, 7th, 15th and 16th before it, latest first. -/
def shaSched : Nat → List Word → List Word
  | 0, l => l
  | n + 1, l =>
    let mix (k : Nat) (rots : List Nat) (sh : Nat) : Word := spin (l.getD k 0) rots ^^^ (l.getD k 0 >>> sh)
    shaSched n ([mix 1 [19, 61] 6, l.getD 6 0, mix 14 [1, 8] 7, l.getD 15 0].foldl (· + ·) 0 :: l)

/-- The rounds over two histories of four words, latest first: a to d and e to h of FIPS 180-4. -/
def shaRounds : List Word → List Word × List Word → List Word × List Word
  | [], st => st
  | kw :: rest, (top, low) =>
    let pick := low.getD 2 0 ^^^ (low.getD 0 0 &&& (low.getD 1 0 ^^^ low.getD 2 0))
    let vote := (top.getD 0 0 &&& top.getD 1 0) ||| (top.getD 2 0 &&& (top.getD 0 0 ||| top.getD 1 0))
    let feed := kw + pick + spin (low.getD 0 0) [14, 18, 41] + low.getD 3 0
    shaRounds rest ((feed + vote + spin (top.getD 0 0) [28, 34, 39]) :: top.take 3, (feed + top.getD 3 0) :: low.take 3)

/-- One 128-byte block taken into the state. -/
def shaBlock (st : List Word) (blk : List Byte) : List Word :=
  let words := (List.range 16).map (fun n => BitVec.ofNat 64 (beNat (sub blk (8 * n) 8)))
  let got := shaRounds (List.zipWith (· + ·) shaK (shaSched 64 words.reverse).reverse) (st.take 4, st.drop 4)
  List.zipWith (· + ·) st (got.1 ++ got.2)

/-- Blocks taken one after another. -/
def shaBlocks : Nat → List Word → List Byte → List Word
  | 0, st, _ => st
  | n + 1, st, l => shaBlocks n (shaBlock st (l.take 128)) (l.drop 128)

/-- SHA-384 of a byte string: 48 bytes. -/
def sha384 (m : List Byte) : List Byte :=
  let z := (239 - m.length % 128) % 128
  let p := m ++ [0x80] ++ zeros z ++ toBE 16 (m.length * 8)
  (((shaBlocks (p.length / 128) sha384Init p).take 6).map (fun w => toBE 8 w.toNat)).flatten

/-- HMAC-SHA-384: block length 128 bytes. -/
def hmac384 (key m : List Byte) : List Byte :=
  let k := if 128 < key.length then sha384 key else key
  let k := k ++ zeros (128 - k.length)
  sha384 (k.map (· ^^^ 0x5c) ++ sha384 (k.map (· ^^^ 0x36) ++ m))

/-- The ASCII bytes of a string. -/
def ascii (s : String) : List Byte := s.toList.map (fun c => BitVec.ofNat 8 c.toNat)

/-! ## ECDSA over NIST P-384 -/

def p384 : Nat := 2 ^ 384 - 2 ^ 128 - 2 ^ 96 + 2 ^ 32 - 1
def p384n : Nat := 0xffffffffffffffffffffffffffffffffffffffffffffffffc7634d81f4372ddf581a0db248b0a77aecec196accc52973
def p384b : Nat := 0xb3312fa7e23ee7e4988e056be3f82d19181d9c6efe8141120314088f5013875ac656398d8a2ed19d2a85c8edd3ec2aef
def p384g : Nat × Nat :=
  (0xaa87ca22be8b05378eb1c71ef320ad746e1d3b628ba79b9859f741e082542a385502f25dbf55296c3a545e3872760ab7,
   0x3617de4a96262c6f5d9e98bf9292dc29f8f41dbd289a147ce9da3113b5f0b8c00a60b1ce1d7e819d7a431d7c90ea0e5f)

/-- A power modulo m, over the low bits of the exponent. -/
def powMod (m : Nat) : Nat → Nat → Nat → Nat
  | 0, _, _ => 1
  | k + 1, b, e =>
    let r := powMod m k (b * b % m) (e / 2)
    if e % 2 = 1 then r * b % m else r

/-- The inverse modulo a prime. -/
def invMod (m a : Nat) : Nat := powMod m 384 (a % m) (m - 2)

/-- The sum of two points; none is the point at infinity. -/
def ecAdd (a b : Option (Nat × Nat)) : Option (Nat × Nat) :=
  match a, b with
  | none, q => q
  | q, none => q
  | some (x, y), some (u, v) =>
    if x = u && (y + v) % p384 = 0 then none
    else
      let l := if x = u then (3 * x * x + (p384 - 3)) * invMod p384 (2 * y) % p384
               else (v + p384 - y) * invMod p384 (u + p384 - x) % p384
      let w := (l * l + 2 * p384 - x - u) % p384
      some (w, (l * (x + p384 - w) + p384 - y) % p384)

/-- A multiple of a point, over the low bits of the factor. -/
def ecMul : Nat → Nat → Option (Nat × Nat) → Option (Nat × Nat)
  | 0, _, _ => none
  | k + 1, e, q =>
    let r := ecMul k (e / 2) (ecAdd q q)
    if e % 2 = 1 then ecAdd r q else r

/-- ECDSA P-384 verification of a digest: the key on the curve, r and s in range, and the point's x equal to r. -/
def ecdsaVerify (qx qy : Nat) (digest : List Byte) (r s : Nat) : Bool :=
  let onCurve := decide (qx < p384) && decide (qy < p384) &&
    decide (qy * qy % p384 = (qx * qx * qx + (p384 - 3) * qx + p384b) % p384)
  let inRange := decide (1 ≤ r) && decide (r < p384n) && decide (1 ≤ s) && decide (s < p384n)
  if onCurve && inRange then
    let w := invMod p384n s
    let u1 := beNat digest * w % p384n
    let u2 := r * w % p384n
    match ecAdd (ecMul 384 u1 (some p384g)) (ecMul 384 u2 (some (qx, qy))) with
    | none => false
    | some (x, _) => decide (x % p384n = r)
  else false

/-! ## AES-256 (FIPS 197) and GCM (SP 800-38D) -/

/-- The product in GF(2^8) with the polynomial 0x11B, over eight bits of the second factor. -/
def gmul8 : Nat → Nat → Nat → Nat
  | 0, _, _ => 0
  | k + 1, a, b =>
    (if b % 2 = 1 then a else 0) ^^^ gmul8 k (if 128 ≤ a then (a * 2) ^^^ 0x11b else a * 2) (b / 2)

/-- The inverse in GF(2^8): the 254th power; 0 for 0. -/
def ginv8 (a : Nat) : Nat :=
  let m (x y : Nat) : Nat := gmul8 8 x y
  let a2 := m a a
  let a4 := m a2 a2
  let a8 := m a4 a4
  let a16 := m a8 a8
  let a32 := m a16 a16
  let a64 := m a32 a32
  let a128 := m a64 a64
  m a2 (m a4 (m a8 (m a16 (m a32 (m a64 a128)))))

/-- The AES S-box. -/
def aesSbox (b : Byte) : Byte :=
  let x := BitVec.ofNat 8 (ginv8 b.toNat)
  x ^^^ x.rotateLeft 1 ^^^ x.rotateLeft 2 ^^^ x.rotateLeft 3 ^^^ x.rotateLeft 4 ^^^ 0x63

/-- The round constant of AES. -/
def aesRcon (i : Nat) : Byte := BitVec.ofNat 8 (2 ^ (i - 1))

/-- The key schedule extended word by word, latest first (8-word keys). -/
def aesSched : Nat → Nat → List (List Byte) → List (List Byte)
  | 0, _, l => l
  | n + 1, i, l =>
    let prev := l.getD 0 []
    let t := if i % 8 = 0 then
        List.zipWith (· ^^^ ·) ((prev.drop 1 ++ prev.take 1).map aesSbox) [aesRcon (i / 8), 0, 0, 0]
      else if i % 8 = 4 then prev.map aesSbox else prev
    aesSched n (i + 1) (List.zipWith (· ^^^ ·) (l.getD 7 []) t :: l)

/-- The 15 round keys of AES-256, 16 bytes each. -/
def aesKeys (key : List Byte) : List (List Byte) :=
  let w0 := ((List.range 8).map (fun i => sub key (4 * i) 4)).reverse
  let w := (aesSched 52 8 w0).reverse
  (List.range 15).map (fun r => ((sub w (4 * r) 4)).flatten)

/-- ShiftRows on the 16 bytes of a state, column by column. -/
def aesShift (s : List Byte) : List Byte :=
  (List.range 16).map (fun i => s.getD ((i + 4 * (i % 4)) % 16) 0)

/-- MixColumns. -/
def aesMix (s : List Byte) : List Byte :=
  (List.range 16).map (fun i =>
    let c := i / 4 * 4
    let g (k f : Nat) : Byte := BitVec.ofNat 8 (gmul8 8 (s.getD (c + (i + k) % 4) 0).toNat f)
    g 0 2 ^^^ g 1 3 ^^^ g 2 1 ^^^ g 3 1)

/-- The rounds of AES after the first key addition. -/
def aesRounds : List (List Byte) → List Byte → List Byte
  | [], s => s
  | [k], s => List.zipWith (· ^^^ ·) (aesShift (s.map aesSbox)) k
  | k :: ks, s => aesRounds ks (List.zipWith (· ^^^ ·) (aesMix (aesShift (s.map aesSbox))) k)

/-- AES-256 of one block. -/
def aes256 (key blk : List Byte) : List Byte :=
  match aesKeys key with
  | [] => blk
  | k :: ks => aesRounds ks (List.zipWith (· ^^^ ·) blk k)

/-- The inverse of the S-box: the affine map undone, then the inverse in the field. -/
def aesSboxInv (b : Byte) : Byte :=
  BitVec.ofNat 8 (ginv8 (b.rotateLeft 1 ^^^ b.rotateLeft 3 ^^^ b.rotateLeft 6 ^^^ 0x05).toNat)

/-- ShiftRows and MixColumns undone. -/
def aesShiftInv (s : List Byte) : List Byte :=
  (List.range 16).map (fun n => s.getD ((n + 16 - 4 * (n % 4)) % 16) 0)

def aesMixInv (s : List Byte) : List Byte :=
  (List.range 16).map (fun n =>
    let at_ (k f : Nat) : Byte := BitVec.ofNat 8 (gmul8 8 (s.getD (n / 4 * 4 + (n + k) % 4) 0).toNat f)
    at_ 0 14 ^^^ at_ 1 11 ^^^ at_ 2 13 ^^^ at_ 3 9)

/-- The inverse of AES-256 on one block. -/
def aes256Inv (key blk : List Byte) : List Byte :=
  match (aesKeys key).reverse with
  | [] => blk
  | k :: ks =>
    let undo (s : List Byte) : List Byte := (aesShiftInv s).map aesSboxInv
    ks.dropLast.foldl (fun s k => undo (aesMixInv (List.zipWith (· ^^^ ·) s k))) (undo (List.zipWith (· ^^^ ·) blk k)) |>.zipWith (· ^^^ ·) (ks.getLastD [])

/-! ## AES-256-XTS (IEEE 1619) on a 64-byte data unit (R304) -/

/-- The tweak of block n of a data unit: the encrypted unit number, doubled n times in GF(2^128). -/
def xtsTweak (key : List Byte) (unit : Nat) : Nat → Nat
  | 0 => leNat (aes256 (sub key 32 32) (toLE 16 unit))
  | n + 1 =>
    let t := xtsTweak key unit n * 2
    if 2 ^ 128 ≤ t then (t - 2 ^ 128) ^^^ 0x87 else t

/-- The four blocks of a data unit, each through `f` between two additions of its tweak. -/
def xtsUnit (f : List Byte → List Byte) (key : List Byte) (unit : Nat) (d : List Byte) : List Byte :=
  (List.range 4).flatMap (fun n =>
    let t := toLE 16 (xtsTweak key unit n)
    List.zipWith (· ^^^ ·) (f (List.zipWith (· ^^^ ·) (sub d (16 * n) 16) t)) t)

/-- A line encrypted and decrypted under a 64-byte key pair. -/
def xtsEnc (key : List Byte) (unit : Nat) (d : List Byte) : List Byte := xtsUnit (aes256 (key.take 32)) key unit d
def xtsDec (key : List Byte) (unit : Nat) (d : List Byte) : List Byte := xtsUnit (aes256Inv (key.take 32)) key unit d

/-- The product of GHASH: bit 0 of GCM's order is the most significant bit of the number. -/
def gmul128 : Nat → Nat → Nat → Nat → Nat
  | 0, _, _, z => z
  | k + 1, x, v, z =>
    gmul128 k x (if v % 2 = 1 then (v / 2) ^^^ (0xe1 * 2 ^ 120) else v / 2) (if x.testBit k then z ^^^ v else z)

/-- GHASH over a byte string whose length is a multiple of 16. -/
def ghash (hk : Nat) : Nat → Nat → List Byte → Nat
  | 0, y, _ => y
  | n + 1, y, l => ghash hk n (gmul128 128 (y ^^^ beNat (l.take 16)) hk 0) (l.drop 16)

def pad16 (l : List Byte) : List Byte := l ++ zeros ((16 - l.length % 16) % 16)

/-- The key stream of GCM's counter mode for a 96-bit IV, from block counter 2 on. -/
def gcmStream (key iv : List Byte) (n : Nat) : List Byte :=
  ((List.range n).map (fun i => aes256 key (iv ++ toBE 4 (i + 2)))).flatten

/-- AES-256-GCM encryption under a 96-bit IV: ciphertext and 16-byte tag. -/
def gcmSeal (key iv aad pt : List Byte) : List Byte × List Byte :=
  let ct := List.zipWith (· ^^^ ·) pt (gcmStream key iv ((pt.length + 15) / 16))
  let hk := beNat (aes256 key (zeros 16))
  let m := pad16 aad ++ pad16 ct ++ toBE 8 (aad.length * 8) ++ toBE 8 (ct.length * 8)
  let s := ghash hk (m.length / 16) 0 m
  (ct, toBE 16 (s ^^^ beNat (aes256 key (iv ++ toBE 4 1))))

/-- AES-256-GCM decryption: the plaintext where the tag verifies. -/
def gcmOpen (key iv aad ct tag : List Byte) : Option (List Byte) :=
  let hk := beNat (aes256 key (zeros 16))
  let m := pad16 aad ++ pad16 ct ++ toBE 8 (aad.length * 8) ++ toBE 8 (ct.length * 8)
  let s := ghash hk (m.length / 16) 0 m
  if toBE 16 (s ^^^ beNat (aes256 key (iv ++ toBE 4 1))) = tag then
    some (List.zipWith (· ^^^ ·) ct (gcmStream key iv ((ct.length + 15) / 16)))
  else none

/-- The first 64 bits of AES-256-GMAC: GCM with no plaintext (R311). -/
def gmac64 (key iv aad : List Byte) : List Byte := (gcmSeal key iv aad []).2.take 8

end Sys2Proof.Machine
end

