-- ==== Sys2Proof/Machine/Frames.lean ====
section
/-! DEFINITION. Link frames and site packets: their headers (R332, R341, R342, R351, R363, R364), their check values
(R333, R428, R429, R436), and the queues they leave by (R334, R366). -/
namespace Sys2Proof.Machine

/-- The seed of a check stream (R429). -/
def checkSeed (slice seq addr : Nat) : List Byte :=
  toLE 8 (slice % 4096 + seq % 65536 * 2 ^ 12 + (addr / 64 % 2 ^ 36) * 2 ^ 28)

/-- The append-and-strip channel bound to a link (kind 0) or a site (kind 1) (R435). -/
def Hub.appendOf (h : Hub) (kind num : Nat) : Option Nat :=
  (h.forme.appends.find? (fun e => decide (e.2.1 = kind) && decide (e.2.2 = num))).map (·.1)

/-! ## Link frames -/

/-- The transport header of VC 0 and VC 1 frames (R341). -/
structure THdr where
  op : Nat
  cls : Nat := 0
  dstHub : Nat := 0
  srcHub : Nat := 0
  dstSlice : Nat := 0
  srcSlice : Nat := 0
  ctx : Nat := 0
  gen : Nat := 0
  addr : Nat := 0
  len : Nat := 0
  tag : Nat := 0
  acnum : Nat := 0
  bundle : Nat := 0
  ac : Bool := false
  last : Bool := false
  aop : Nat := 0
  status : Nat := 0
  btotal : Nat := 0
  deriving DecidableEq, Repr, Inhabited

def thdrW0 (t : THdr) : Nat :=
  t.op % 32 + t.cls % 4 * 2 ^ 5 + t.dstHub % 512 * 2 ^ 8 + t.srcHub % 512 * 2 ^ 17 + t.dstSlice % 4096 * 2 ^ 26 +
  t.srcSlice % 4096 * 2 ^ 38 + t.ctx % 16 * 2 ^ 50 + t.gen % 256 * 2 ^ 54

def thdrW1 (t : THdr) : Nat := t.addr % 2 ^ 42 + t.len % 16 * 2 ^ 42 + t.tag % 65536 * 2 ^ 48

def thdrW2 (t : THdr) : Nat :=
  t.acnum % 64 + t.bundle % 64 * 2 ^ 6 + b2n t.ac * 2 ^ 12 + b2n t.last * 2 ^ 13 + t.aop % 16 * 2 ^ 17 +
  t.status % 8 * 2 ^ 21 + t.btotal % 2 ^ 40 * 2 ^ 24

/-- A frame of link type 1: the link header with FCHK zero, the 24-byte head area and the data slots (R332). -/
def transportFrame (vc w0 w1 w2 : Nat) (data : List Byte) : List Byte :=
  toLE 8 (1 + vc * 16 + (1 + data.length / 32) * 64) ++ toLE 8 w0 ++ toLE 8 w1 ++ toLE 8 w2 ++ data

/-- A frame of VC 0 or VC 1. -/
def thdrFrame (vc : Nat) (t : THdr) (data : List Byte) : List Byte :=
  transportFrame vc (thdrW0 t) (thdrW1 t) (thdrW2 t) data

/-- A link-control frame: one slot, its head area padded to 24 bytes (R332). -/
def controlFrame (ftype : Nat) (head : List Byte) : List Byte :=
  toLE 8 (ftype + 64) ++ head ++ zeros (24 - head.length)

/-- The transport header of a received frame. -/
def thdrOf (f : List Byte) : THdr :=
  let w0 := leAt f 8 8
  let w1 := leAt f 16 8
  let w2 := leAt f 24 8
  { op := bits w0 4 0, cls := bits w0 6 5, dstHub := bits w0 16 8, srcHub := bits w0 25 17, dstSlice := bits w0 37 26,
    srcSlice := bits w0 49 38, ctx := bits w0 53 50, gen := bits w0 61 54, addr := bits w1 41 0, len := bits w1 45 42,
    tag := bits w1 63 48, acnum := bits w2 5 0, bundle := bits w2 11 6, ac := bit w2 12, last := bit w2 13,
    aop := bits w2 20 17, status := bits w2 23 21, btotal := bits w2 63 24 }

/-- The data slots of a received frame. -/
def frameData (f : List Byte) : List Byte := f.drop 32

def frameType (f : List Byte) : Nat := bits (leAt f 0 4) 3 0
def frameVc (f : List Byte) : Nat := bits (leAt f 0 4) 5 4
def frameSlots (f : List Byte) : Nat := bits (leAt f 0 4) 9 6

/-- The header of the response to a request: OP-independent fields copied, hubs and slices swapped (R342). -/
def respHdr (t : THdr) (op status : Nat) : THdr :=
  { t with op := op, dstHub := t.srcHub, srcHub := t.dstHub, dstSlice := t.srcSlice, srcSlice := t.dstSlice,
           addr := 0, len := 0, acnum := 0, bundle := 0, ac := false, last := false, aop := 0, status := status, btotal := 0 }

/-- The check value of a link frame sent in a block (R333, R436). -/
def Hub.linkChk (h : Hub) (l bseq : Nat) (f : List Byte) : Nat :=
  let z := patch f 4 (zeros 4)
  match h.appendOf 0 l with
  | none => crc32c z
  | some _ =>
    let vc := frameVc f
    let seed := if decide (frameType f = 1) && decide (vc ≤ 1) then
        checkSeed (thdrOf f).srcSlice bseq (thdrOf f).addr
      else checkSeed 0 bseq 0
    crc32c (seed ++ z)

/-- A frame put in the queue of its VC on a link (R334); a VC 2 frame with the time, for its residence (R158). -/
def Hub.sendFrame (h : Hub) (l vc : Nat) (f : List Byte) : Hub :=
  h.updLink l (fun k =>
    if vc = 0 then { k with vc0 := k.vc0 ++ [f] }
    else if vc = 1 then { k with vc1 := k.vc1 ++ [f] }
    else { k with vc2 := k.vc2 ++ [f ++ toLE 8 h.now] })

/-- A link-control frame queued. -/
def Hub.sendControl (h : Hub) (l : Nat) (f : List Byte) : Hub := h.updLink l (fun k => { k with ctl := k.ctl ++ [f] })

/-- The opcodes of VC 2 messages (R342). -/
def opBEAT : Nat := 0x10
def opVOTE : Nat := 0x11
def opECLIPSE : Nat := 0x12

/-- A VC 2 frame: the 16-byte message in W0 and W1, HOP in W2 (R163, R341). The spec names no place for its opcode;
the model puts it in bits [14:10] of the link header (DESIGN CHOICE, log entry 24). -/
def msgFrame (op w0 w1 w2 : Nat) : List Byte :=
  toLE 8 (1 + 2 * 16 + 64 + op * 1024) ++ toLE 8 w0 ++ toLE 8 w1 ++ toLE 8 w2

def msgOp (f : List Byte) : Nat := bits (leAt f 0 4) 14 10

/-- The oldest received frame of a virtual channel. -/
def Hub.rxHead (h : Hub) (l vc : Nat) : Option (List Byte) :=
  let k := h.link l
  if vc = 0 then k.rx0.head? else if vc = 1 then k.rx1.head? else k.rx2.head?

/-- The oldest received frame of a virtual channel taken: its slots are freed (R334). -/
def Hub.rxPop (h : Hub) (l vc : Nat) : Hub :=
  match h.rxHead l vc with
  | none => h
  | some f =>
    h.updLink l (fun k =>
      let k := { k with freed := k.freed.modify vc (fun n => (n + frameSlots f) % 65536) }
      if vc = 0 then { k with rx0 := k.rx0.tail }
      else if vc = 1 then { k with rx1 := k.rx1.tail }
      else { k with rx2 := k.rx2.tail, arrivedAt := k.arrivedAt.tail })

/-! ## Site packets -/

/-- The fields of a site packet that the hub sets or reads (R363). -/
structure PktF where
  op : Nat
  engine : Nat := 0
  ctx : Nat := 0
  ac : Bool := false
  acnum : Nat := 0
  aop : Nat := 0
  status : Nat := 0
  tag : Nat := 0
  len : Nat := 0
  addr : Nat := 0
  ctxid : Nat := 0
  vec : Nat := 0
  deriving DecidableEq, Repr, Inhabited

/-- A packet with PSEQ and FCHK zero. -/
def mkPacket (f : PktF) (data : List Byte) : Packet :=
  { w0 := BitVec.ofNat 64 (f.op % 32 + f.engine % 64 * 2 ^ 5 + f.ctx % 16 * 2 ^ 11 + b2n f.ac * 2 ^ 15 +
      f.acnum % 64 * 2 ^ 16 + f.aop % 16 * 2 ^ 22 + f.status % 8 * 2 ^ 26 + f.tag % 65536 * 2 ^ 32 + f.len % 16 * 2 ^ 48)
    w1 := BitVec.ofNat 64 f.addr
    w2 := BitVec.ofNat 64 (f.ctxid % 65536 + f.vec % 2048 * 2 ^ 16)
    w3 := 0
    data := data }

/-- The fields of a received packet. -/
def pktOf (p : Packet) : PktF :=
  let w := p.w0.toNat
  { op := bits w 4 0, engine := bits w 10 5, ctx := bits w 14 11, ac := bit w 15, acnum := bits w 21 16,
    aop := bits w 25 22, status := bits w 28 26, tag := bits w 47 32, len := bits w 51 48, addr := p.w1.toNat,
    ctxid := bits p.w2.toNat 15 0, vec := bits p.w2.toNat 26 16 }

def pktSeq (p : Packet) : Nat := bits p.w3.toNat 11 0

/-- The check value of a site packet, FCHK counted as zero (R333, R436). -/
def Hub.siteChk (h : Hub) (s : Nat) (p : Packet) : Nat :=
  let b := toLE 8 p.w0.toNat ++ toLE 8 p.w1.toNat ++ toLE 8 p.w2.toNat ++ toLE 8 (p.w3.toNat % 2 ^ 32) ++ p.data
  match h.appendOf 1 s with
  | none => crc32c b
  | some _ => crc32c (checkSeed (bits p.w2.toNat 15 4) (pktSeq p) p.w1.toNat ++ b)

/-- A packet with its sequence number and its check value. -/
def Hub.stampPacket (h : Hub) (s seq : Nat) (p : Packet) : Packet :=
  let q := { p with w3 := BitVec.ofNat 64 (seq % 4096) }
  { q with w3 := BitVec.ofNat 64 (seq % 4096 + h.siteChk s q * 2 ^ 32) }

/-- A packet sent toward the chiplet where the 256-packet replay buffer has room, else queued (R366). -/
def Hub.sendSite (h : Hub) (s : Nat) (p : Packet) : Hub :=
  let k := h.site s
  if decide (k.replay.length < 256) && k.txq.isEmpty && decide (h.fld (rSITE_STS s) fSITE_STS_STATE = 3) then
    let q := h.stampPacket s k.txSeq p
    (h.setSite s { k with txSeq := (k.txSeq + 1) % 4096, replay := k.replay ++ [(k.txSeq, p)] }).emit (.sitePacket s q)
  else h.setSite s { k with txq := k.txq ++ [p] }

/-- A CREDIT packet sent: it carries no sequence number of its own and is not kept for replay (DEDUCED, log entry 20). -/
def Hub.sendSiteCredit (h : Hub) (s ack : Nat) (nak : Bool) : Hub :=
  let p := mkPacket { op := 0x1E, addr := ack % 4096 + b2n nak * 4096 } []
  h.emit (.sitePacket s (h.stampPacket s 0 p))

end Sys2Proof.Machine
end

