-- ==== Sys2Proof/Machine/Records.lean ====
section
/-! DEFINITION. Command descriptors and completion records as data (R193, R194, R205, R206), and what waits for records to be visible
(R209, R230, R274, R381). -/
namespace Sys2Proof.Machine

/-- A queue's registers: ring size, ring addresses, context. -/
def Hub.qN (h : Hub) (q : Nat) : Nat := 2 ^ (h.fld (rFAB_Q_RING q) fFAB_Q_RING_LOG2 + 4)
def Hub.qBase (h : Hub) (q : Nat) : Nat := h.fld (rFAB_Q_RING q) fFAB_Q_RING_BASE * 4096
def Hub.qCBase (h : Hub) (q : Nat) : Nat := h.fld (rFAB_Q_CMPL q) fFAB_Q_CMPL_CBASE * 4096
def Hub.qCtx (h : Hub) (q : Nat) : Nat := h.fld (rFAB_Q_RING q) fFAB_Q_RING_CTX

def opCOPY : Nat := 1
def opFILL : Nat := 2
def opLOAD : Nat := 3
def opLAUNCH : Nat := 4
def opWAITAC : Nat := 5
def opFENCE : Nat := 6
def opKEYLOAD : Nat := 7

/-- The fields of a descriptor (R193, R194). -/
def dOpcode (d : List Byte) : Nat := leAt d 0 1
def dOrder (d : List Byte) : Bool := bit (leAt d 1 1) 0
def dIrq (d : List Byte) : Bool := bit (leAt d 1 1) 1
def dAc (d : List Byte) : Bool := bit (leAt d 1 1) 2
def dCheck (d : List Byte) : Bool := bit (leAt d 1 1) 3
def dCtx (d : List Byte) : Nat := leAt d 2 1 % 16
def dSrc (d : List Byte) : Nat := leAt d 8 8
def dDst (d : List Byte) : Nat := leAt d 0x10 8
def dLen (d : List Byte) : Nat := leAt d 0x18 8
def dAcnum (d : List Byte) : Nat := if dOpcode d = 5 then leAt d 8 4 else leAt d 0x20 4
def dCkch (d : List Byte) : Nat := leAt d 0x24 1
def dKid (d : List Byte) : Nat := if dOpcode d = 4 then leAt d 8 2 else leAt d 0x10 2
def dTarget (d : List Byte) : Word := BitVec.ofNat 64 (leAt d 0x10 8)
def dSlot (d : List Byte) : Nat := leAt d 0x10 2

def stDONE : Nat := 0x00
def stBAD_DESC : Nat := 0x01
def stBAD_CTX : Nat := 0x02
def stSPAN : Nat := 0x03
def stXLATE : Nat := 0x04
def stACCESS : Nat := 0x05
def stCHECK : Nat := 0x06
def stMEMORY : Nat := 0x07
def stREMOTE : Nat := 0x08
def stLOAD_IMAGE : Nat := 0x10
def stLOAD_FIT : Nat := 0x11
def stLOAD_GALLEY : Nat := 0x12
def stBUSY : Nat := 0x13
def stLOAD_PIN : Nat := 0x14
def stNO_KERNEL : Nat := 0x15
def stSQUASHED : Nat := 0x20
def stINVALIDATED : Nat := 0x21
def stSTOPPED : Nat := 0x22
def stFAULT : Nat := 0x23
def stECLIPSE : Nat := 0x24
def stKEY : Nat := 0x25

/-- The right an access needs (R241). -/
def Leaf.grants (l : Leaf) (k : ReqKind) : Bool :=
  match k with
  | .read => l.r
  | .write => l.w
  | .atomic .. => l.atom

/-- An access writes: a write or an atomic. -/
def isWrite (k : ReqKind) : Bool :=
  match k with
  | .read => false
  | _ => true

/-- A leaf covers an address. -/
def Leaf.covers (l : Leaf) (va : Nat) : Bool := decide (l.va ≤ va) && decide (va < l.va + 2 ^ l.size)

/-- The system physical address of a virtual address under a list of leaves. -/
def leafPa (ls : List Leaf) (va : Nat) : Option Nat :=
  (ls.find? (fun l => l.covers va)).map (fun l => l.pa + (va - l.va))

/-! ## Completion records -/

/-- The 16 bytes of a completion record (R205). -/
def recordBytes (seq q status : Nat) (phase irq : Bool) (detail opcode gen : Nat) : List Byte :=
  toLE 4 seq ++ toLE 2 q ++ toLE 1 status ++ toLE 1 (b2n phase + 2 * b2n irq) ++ toLE 4 detail ++ toLE 1 opcode ++ toLE 1 gen ++ [0, 0]

/-- The physical address of a management queue's hub-local address; one past the 42 bits of the address space stands for the last,
which nothing is assigned to (R15, R182). -/
def Hub.localPa (h : Hub) (va : Nat) : Nat := h.hubNum * 2 ^ 42 + min va (2 ^ 42 - 1)

/-- The physical address of a ring entry: by the ring's leaves, or hub-local for a management queue (R182). -/
def Hub.ringPa (h : Hub) (s : Option Nat) (ls : List Leaf) (va : Nat) : Option Nat :=
  match s with
  | none => some (h.localPa va)
  | some _ => leafPa ls va

/-- Descriptors of a queue that are in the command store. -/
def Hub.queueItems (h : Hub) (q : Nat) : List Nat := (h.items.filter (fun e => decide (e.2.queue = q))).map (·.1)

/-- Descriptors doorbelled and not yet taken. -/
def Hub.submitted (h : Hub) (q : Nat) : Nat :=
  (h.fld (rFAB_Q_PTR q) fFAB_Q_PTR_TAIL + 2 ^ 32 - h.fld (rFAB_Q_PTR q) fFAB_Q_PTR_HEAD) % 2 ^ 32

/-- A completion record of a queue is still to come: on its way to the ring, held until the ring translates, or of a descriptor that an
event ended and that is not taken yet (R208, R209, R272). -/
def Hub.recordsOut (h : Hub) (q : Nat) : Bool :=
  !(h.qrt q).heldRecords.isEmpty || decide (0 < (h.qrt q).cut.2) || h.reqs.any (fun e => match e.2.src with
    | .record p _ => p == q
    | _ => false)

/-- The write that disabled a queue completes once every record it caused is visible (R209). -/
def Hub.finishStop (h : Hub) (q : Nat) : Hub :=
  if (h.qrt q).stopping && (h.queueItems q).isEmpty && decide (h.submitted q = 0) && !h.recordsOut q then
    (h.setQrt q { h.qrt q with stopping := false }).regOk
  else h

/-- A compare channel's stream abandoned (R434). -/
def Hub.abandonStream (h : Hub) (s n : Nat) : Hub :=
  ((h.setF (rCKC_RESn s n) fCKC_RESn_ABANDONED 1).setF (rCKC_RESn s n) fCKC_RESn_BUSY 0).setF (rCKC_EXPn s n) fCKC_EXPn_ARM 0

/-- A descriptor of a slice taken before the slice's tags last rose is still there. -/
def Hub.oldWork (h : Hub) (s : Nat) : Bool :=
  h.items.any (fun e => decide (e.2.slice = some s) && decide (e.2.gen ≠ h.gen (ctxid s e.2.ctx)))

/-- A mover item of a slice has started and not ended. -/
def Hub.moverOut (h : Hub) (s : Nat) : Bool :=
  h.items.any (fun e => decide (e.2.slice = some s) && (decide (dOpcode e.2.desc = 1) || decide (dOpcode e.2.desc = 2)) &&
    (match e.2.st with | .running | .parked | .waitChan => true | _ => false))

/-- The function resets whose last slice has ended report complete (R381). -/
def Hub.flrStep (h : Hub) (s : Nat) : Hub :=
  let fs := h.flrs.map (fun f => (f.1, f.2.erase s))
  (fs.filter (fun f => f.2.isEmpty)).foldl (fun h f => h.emit (.flrDone f.1)) { h with flrs := fs.filter (fun f => !f.2.isEmpty) }

/-- A hold entry of a slice is on its way to the hold area. -/
def Hub.holdOut (h : Hub) (s : Nat) : Bool :=
  h.reqs.any (fun e => decide (e.2.slice = s) && (match e.2.src with
    | .hold _ => true
    | _ => false))

/-- A record of one of a slice's queues is not visible yet. -/
def Hub.sliceRecordsOut (h : Hub) (s : Nat) : Bool := ((h.slD s).queueIds).any h.recordsOut

/-- What waits for a slice's work to end: HOLD_DONE for its running mover items and its hold entries (R54; a LAUNCH, WAITAC or
FENCE that stands is not waited for: DEDUCED, log entry 27), and the end of a reset, its records visible (R209): the counters read
zero (R230), and an invalidation it cut across is done (R274). -/
def Hub.settleSlice (h : Hub) (s : Nat) : Hub :=
  let h1 := if (h.rt s).holdDue && !h.moverOut s && !h.holdOut s then
      (h.updRt s (fun r => { r with holdDue := false })).sliceEvt s fSLM_SLICE_EVT_HOLD_DONE
    else h
  if (h1.rt s).resetting && !h1.oldWork s && !h1.sliceRecordsOut s then
    let h2 := ((h1.updRt s (fun r => { r with resetting := false })).zeroAcs s).flrStep s
    if h2.flag (rHTU_INV_STS s) fHTU_INV_STS_BUSY then
      (h2.setF (rHTU_INV_STS s) fHTU_INV_STS_BUSY 0).setF (rHTU_INV_STS s) fHTU_INV_STS_DONE 1
    else h2
  else h1

/-- A completion record is visible: CDONE rises, the queue's vector is raised with IRQ, and what waited for the record goes on
(R205, R207, R209). The flag is false where the record's write failed: nothing is counted then (log entry 132). -/
def Hub.recordSeen (h : Hub) (q : Nat) (s : Option Nat) (irq ok : Bool) : Hub :=
  let h1 := if ok then h.bump (rFAB_Q_STS q) fFAB_Q_STS_CDONE 1 else h
  let h2 := match s, ok && irq with
    | some s, true => h1.raiseVf s (h.fld (rFAB_Q_CMPL q) fFAB_Q_CMPL_VECTOR)
    | _, _ => h1
  match s with
  | some s => (h2.finishStop q).settleSlice s
  | none => h2.finishStop q

end Sys2Proof.Machine
end

