-- ==== Sys2Proof/Machine/Memory.lean ====
section
/-! DEFINITION. HBM and cell windows as they are addressed (R276, R277), checked (R264, R266), kept under Umbra
(R304 to R322) and read and written; and how a request that fails or finishes answers its sender. -/
namespace Sys2Proof.Machine

def GRAN : Nat := 2097152
def HBM_END : Nat := 0x12000000000
def CELL_BASE : Nat := 0x20000000000
def CELL_END : Nat := 0x200d0000000
def SITE_BASE : Nat := 0x30000000000
def SITE_END : Nat := 0x38000000000
def REG_BASE : Nat := 0x3f000000000
def REG_END : Nat := 0x3f100000000

/-! ## Channels and interleave groups -/

def Hub.chState (h : Hub) (ch : Nat) : Nat := h.fld (rMEM_CH_STS ch) fMEM_CH_STS_STATE
def chABSENT : Nat := 0
def chACTIVE : Nat := 2
def chRETRAINING : Nat := 3
def chRETIRED : Nat := 4

/-- The interleave group that covers a granule. -/
def Hub.igOf (h : Hub) (g : Nat) : Option IGroup :=
  h.forme.igroups.find? (fun r => decide (r.first ≤ g) && decide (g < r.first + r.count))

/-- The interleave group a channel belongs to. -/
def Hub.igOfChan (h : Hub) (ch : Nat) : Option IGroup := h.forme.igroups.find? (fun r => r.chans.contains ch)

/-- The interleave unit of a STRIDE code (R277). -/
def strideBytes : Nat → Nat
  | 0 => 256
  | 1 => 2048
  | _ => 2097152

/-- The channel and the byte offset in it of an address in a group (R277). -/
def igDecode (r : IGroup) (a : Nat) : Nat × Nat :=
  let o := a - r.first * GRAN
  let u := strideBytes r.stride
  let n := o / u
  let k := r.chans.length
  (r.chans.getD (n % k) 0, n / k * u + o % u)

/-- The channel and offset of an HBM address: its group's decode, or the default map (R276); none where the default map
gives no usable granule. -/
def Hub.decode (h : Hub) (a : Nat) : Option (Nat × Nat) :=
  match h.igOf (a / GRAN) with
  | some r => some (igDecode r a)
  | none =>
    let ch := a / GRAN / 768
    if decide (a < HBM_END) && decide (h.chState ch ≠ chABSENT) && decide (h.chState ch ≠ chRETIRED) && (h.igOfChan ch).isNone
    then some (ch, a / GRAN % 768 * GRAN + a % GRAN) else none

/-- The hub-local address of an offset in a channel: the inverse of the decode. -/
def Hub.encodeAddr (h : Hub) (ch off : Nat) : Nat :=
  match h.igOfChan ch with
  | none => ch * 768 * GRAN + off
  | some r =>
    let u := strideBytes r.stride
    r.first * GRAN + ((off / u) * r.chans.length + r.chans.idxOf ch) * u + off % u

/-- The controller of an address: the stack of its channel. -/
def Hub.ctrlOf (h : Hub) (a : Nat) : Nat :=
  match h.decode a with
  | some (ch, _) => ch / 32
  | none => a / GRAN / 768 / 32

/-- A row of a channel as MEM_REMAP_CMD places it: pseudo-channel, bank and row (R277, R297). -/
def rowOf (off : Nat) : Nat :=
  let b := Config.bankRow off
  bits off 8 8 + b.1 % 64 * 2 + b.2 % 65536 * 128

/-! ## Owner checks (R25, R264, R266) -/

/-- The owner map lets a request through: its slice holds the granule, or it carries the management flag and no slice does. -/
def Hub.ownerOk (h : Hub) (mgmt : Bool) (s g : Nat) : Bool :=
  match h.owner g with
  | none => mgmt
  | some o => !mgmt && decide (o = s)

/-- A violation recorded in a controller's registers (R266): the fields hold the first since VALID was cleared. -/
def Hub.violation (h : Hub) (ctrl a : Nat) (mgmt remote : Bool) (cid : Nat) : Hub :=
  let r := rMEM_VIOL_INFOn ctrl
  let h1 := h.count r fMEM_VIOL_INFOn_COUNT 1
  if h.flag r fMEM_VIOL_INFOn_VALID then h1
  else
    let o := h.owner (a / GRAN)
    ((((((h1.setF (rMEM_VIOL_ADDRn ctrl) fMEM_VIOL_ADDRn_ADDR a).setF r fMEM_VIOL_INFOn_CTXID (if mgmt then 0 else cid)).setF
      r fMEM_VIOL_INFOn_OWNER (o.getD 0)).setF r fMEM_VIOL_INFOn_OWNED (b2n o.isSome)).setF r fMEM_VIOL_INFOn_MGMT (b2n mgmt)).setF
      r fMEM_VIOL_INFOn_REMOTE (b2n remote)).setF r fMEM_VIOL_INFOn_VALID 1

/-! ## Charging (R280 to R283) -/

/-- The credit of a master in the group of a channel. -/
def Hub.creditKey (h : Hub) (ch key : Nat) : Nat := (h.fld (rMEM_CH_STS ch) fMEM_CH_STS_IGRP) * 16384 + key

def Hub.credit (h : Hub) (ch key : Nat) : Nat := if key = 16384 then 0 else mapGetD h.credits (h.creditKey ch key) 0

/-- The charge of a request as it is admitted: 256 bytes of credit at step 2, counted; else counted as shared rest. A
master whose credit runs out is counted once in the window (EXHAUST). -/
def Hub.charge (h : Hub) (ch key : Nat) (paid : Bool) : Hub :=
  if key = 16384 then h
  else
    let s := key / 4
    let m := key % 4
    if paid then
      let c := h.credit ch key - 256
      let seen := (mapGet h.credits (2 ^ 32 + key)).isSome
      let h1 := { h with credits := mapPut h.credits (h.creditKey ch key) c }.bump (rMTR_GBYTESm s m) fMTR_GBYTESm_BYTES 256
      if c = 0 ∧ seen = false then
        { h1 with credits := mapPut h1.credits (2 ^ 32 + key) 1 }.count (rMTR_STSm s m) fMTR_STSm_EXHAUST 1
      else h1
    else h.bump (rMTR_SBYTESm s m) fMTR_SBYTESm_BYTES 256

/-- Bytes served in a class of a controller. -/
def Hub.served (h : Hub) (ctrl cls n : Nat) : Hub := h.bump (rMEM_CLSn_c ctrl cls) fMEM_CLSn_c_BYTES n

/-- The aligned 256-byte runs of a range: offset and length (R278). -/
def runs : Nat → Nat → Nat → List (Nat × Nat)
  | 0, _, _ => []
  | k + 1, a, n =>
    if n = 0 then []
    else
      let m := min n (256 - a % 256)
      (0, m) :: (runs k (a + m) (n - m)).map (fun p => (p.1 + m, p.2))

/-- A charge of 256 bytes to a master: its credit pays while it has some. -/
def Hub.chargeTo (h : Hub) (ch key : Nat) : Hub := h.charge ch key (decide (0 < h.credit ch key))

/-! ## Sealed regions and their sides -/

/-- Lines of a region, and the node counts of its levels, level 0 first (R309). -/
def sealLines (r : SealedRec) : Nat := 32768 * r.count

def treeFrom : Nat → Nat → List Nat
  | 0, _ => []
  | k + 1, n => n :: (if n ≤ 8 then [] else treeFrom k ((n + 7) / 8))

def treeLevels (r : SealedRec) : List Nat := treeFrom 10 (sealLines r / 8)

/-- The region line index of an address. -/
def lineIdx (r : SealedRec) (a : Nat) : Nat := (a - r.first * GRAN) / 64

/-- A sweep runs in the region, and a line lies below its boundary: it belongs to the new side (R324). -/
def Hub.onNewSide (h : Hub) (r i : Nat) : Bool :=
  decide (h.fld (rUMB_REG_STS r) fUMB_REG_STS_STATE = 2) && decide (i < h.fld (rUMB_REG_SWEEP r) fUMB_REG_SWEEP_BOUNDARY)

def Hub.side (h : Hub) (r : Nat) (new : Bool) : SealSide := if new then (h.seal r).nxt else (h.seal r).cur

def Hub.setSide (h : Hub) (r : Nat) (new : Bool) (x : SealSide) : Hub :=
  h.updSeal r (fun k => if new then { k with nxt := x } else { k with cur := x })

/-- The key of a counter: level 0 counts lines, level k + 1 the nodes of level k (R310). -/
def ctrKey (lv i : Nat) : Nat := lv * 2 ^ 40 + i

def SealSide.ctr (x : SealSide) (lv i : Nat) : Nat := mapGetD x.ctrs (ctrKey lv i) 0

def SealSide.setCtr (x : SealSide) (lv i v : Nat) : SealSide := { x with ctrs := mapPutD 0 x.ctrs (ctrKey lv i) v }

/-- The counter of a sealed line on the side that holds it. -/
def Hub.lineCtr (h : Hub) (r : SealedRec) (a : Nat) : Nat :=
  let i := lineIdx r a
  (h.side r.region (h.onNewSide r.region i)).ctr 0 i

/-! ## Bytes of HBM as Umbra returns them -/

/-- What an unlisted byte of HBM reads as where that is fixed: zero in a sealed region (R312) and in a scrubbed granule
(R61); elsewhere none, its value free (R307). -/
def Hub.hbmFill (h : Hub) (a : Nat) : Option Byte :=
  if (h.regionOf a).isSome || h.zeroed.contains (a / GRAN) then some 0 else none

/-- One byte of HBM as Umbra returns it: zero in a sealed line with counter 0 (R312, R314); a byte that has not been
written since the keys were drawn is free (R307). -/
def Hub.hbmByte (h : Hub) (a : Nat) : Byte :=
  let v := mapGetD h.hbm a ((h.hbmFill a).getD (Config.hbmNoise h.keyDraw a))
  match h.regionOf a with
  | some r => if h.lineCtr r a = 0 then 0 else v
  | none => v

def Hub.hbmGet (h : Hub) (a n : Nat) : List Byte := (List.range n).map (fun i => h.hbmByte (a + i))

/-- One byte written: listed, but where it is what an unlisted byte reads as. -/
def putByte (fill : Option Byte) (m : SMap Byte) (a : Nat) (b : Byte) : SMap Byte :=
  if fill = some b then mapDel m a else mapPut m a b

/-- Consecutive bytes written. -/
def putBytes (fill : Option Byte) : SMap Byte → Nat → List Byte → SMap Byte
  | m, _, [] => m
  | m, a, b :: bs => putBytes fill (putByte fill m a b) (a + 1) bs

/-- Bytes of one line put into the stack as they stand, without a check or a counter. -/
def Hub.hbmSet (h : Hub) (a : Nat) (bs : List Byte) : Hub := { h with hbm := putBytes (h.hbmFill a) h.hbm a bs }

/-- A line written whole leaves the lost-line list (R298). -/
def Hub.unlose (h : Hub) (ch off : Nat) : Hub :=
  if (h.chan ch).lost.contains (off / 64) then
    let l := (h.chan ch).lost.erase (off / 64)
    (h.updChan ch (fun x => { x with lost := l })).setF (rMEM_CH_ECC ch) fMEM_CH_ECC_LOST l.length
  else h

/-- The line at an address leaves its channel's lost-line list. -/
def Hub.unloseAt (h : Hub) (a : Nat) : Hub := match h.decode a with
  | some (ch, off) => h.unlose ch off
  | none => h

/-! ## Keys, ciphertext and MACs (R304, R305, R310, R311)

`Hub.hbm` holds each line as Umbra returns it. What the stack holds of a line is `Hub.stackLine`, its ciphertext under the key that the
line belongs to; MAC lines and tree nodes lie in `hbm` too, at the addresses of R309, under the hub line key as every line outside
sealed regions (DEDUCED, log entry 136). -/

/-- The hub line key, and the line, MAC and tree keys of a side, each from draws of its own (R305). -/
def Hub.hubLineKey (h : Hub) : List Byte := toLE 64 (Config.random (h.keyDraw - 1)).toNat
def SealSide.lineKey (x : SealSide) : List Byte := toLE 64 (Config.random (x.key - 1)).toNat
def SealSide.macKey (x : SealSide) : List Byte := (toLE 64 (Config.random x.key).toNat).take 32
def SealSide.treeKey (x : SealSide) : List Byte := (toLE 64 (Config.random (x.key + 1)).toNat).take 32

/-- A side with fresh keys, counters at zero and a zero root: three draws (R305, R314). -/
def Hub.newSide (h : Hub) : SealSide × Hub :=
  ({ key := h.draws + 1 }, { h with draws := h.draws + 3, generated := h.generated + 1 })

/-- The line key of an address. -/
def Hub.lineKeyAt (h : Hub) (a : Nat) : List Byte :=
  match h.regionOf a with
  | some r => (h.side r.region (h.onNewSide r.region (lineIdx r a))).lineKey
  | none => h.hubLineKey

/-- The XTS data unit number of a line: bits [41:6] of its hub-local address (R304). -/
def unitOf (a : Nat) : Nat := a / 64 % 2 ^ 36

/-- The ciphertext of the line at an address as the stack holds it (R304). -/
def Hub.stackLine (h : Hub) (a : Nat) : List Byte := xtsEnc (h.lineKeyAt a) (unitOf a) (h.hbmGet (a / 64 * 64) 64)

/-- The MAC of a line's ciphertext (R311). The IV's 12 bytes are little-endian, as every field of the spec is (DEDUCED, log entry 136). -/
def SealSide.lineMac (x : SealSide) (r i ctr : Nat) (line : List Byte) : List Byte :=
  gmac64 x.macKey (toLE 12 (r % 64 + i % 2 ^ 31 * 2 ^ 6 + ctr % 2 ^ 56 * 2 ^ 37)) line

/-- The MAC of a node's bytes 0 to 55 against its parent's counter (R311); LEVEL keeps its low three bits (log entry 134). -/
def SealSide.nodeMac (x : SealSide) (r lv j ctr : Nat) (bytes : List Byte) : List Byte :=
  gmac64 x.treeKey (toLE 12 (r % 64 + lv % 8 * 2 ^ 6 + j % 2 ^ 28 * 2 ^ 9 + ctr % 2 ^ 56 * 2 ^ 37 + 2 ^ 93)) bytes

/-- The eight counters of a node, as bytes 7i to 7i + 6 (R310). -/
def SealSide.nodeBytes (x : SealSide) (lv j : Nat) : List Byte :=
  (List.range 8).flatMap (fun n => toLE 7 (x.ctr lv (8 * j + n)))

/-- The counters a node's bytes give, taken into a side (R310). -/
def SealSide.takeNode (x : SealSide) (lv j : Nat) (bytes : List Byte) : SealSide :=
  (List.range 8).foldl (fun x n => x.setCtr lv (8 * j + n) (leAt bytes (7 * n) 7)) x

/-! ## Counters, nodes and the node cache -/

/-- The hub halt of R318: no further HBM command, the address kept, a fatal fault; every engine of the hub stands. -/
def Hub.halt (h : Hub) (a kind region : Nat) : Hub :=
  ((((h.setF rUMB_STS fUMB_STS_HALT 1).setReg rUMB_HALT_ADDR 0).setF rUMB_HALT_ADDR fUMB_HALT_ADDR_ADDR a).setF
    rUMB_HALT_ADDR fUMB_HALT_ADDR_KIND kind |>.setF rUMB_HALT_ADDR fUMB_HALT_ADDR_REGION region |>.setF
    rUMB_HALT_ADDR fUMB_HALT_ADDR_VALID 1).fault
    { source := srcOf uUMB (h.ctrlOf a), kind := kUMB_MAC, cls := clsFatal, addr := some a }

/-- Key of a node-cache entry: region, key draw of its side, level, node. -/
abbrev NodeKey := Nat × Nat × Nat × Nat

/-- The address of a node: its bank's start, its level's start, 64 bytes each (R309). -/
def Hub.nodeAddr (h : Hub) (r : SealedRec) (new : Bool) (lv j : Nat) : Nat :=
  let tree := treeLevels r
  let bankB := decide (h.fld (rUMB_REG_STS r.region) fUMB_REG_STS_BANK = 1) != new
  r.metaFirst * GRAN + 8 * sealLines r + (if bankB then 64 * tree.sum else 0) + 64 * (tree.take lv).sum + 64 * j

/-- The address of the MAC of a line (R309). -/
def macAddr (r : SealedRec) (i : Nat) : Nat := r.metaFirst * GRAN + 8 * i

/-- The MAC of a line written to the MAC area (R309, R313). -/
def Hub.putMac (h : Hub) (r : SealedRec) (new : Bool) (i : Nat) : Hub :=
  let x := h.side r.region new
  h.hbmSet (macAddr r i) (x.lineMac r.region i (x.ctr 0 i) (h.stackLine (r.first * GRAN + 64 * i)))

/-- The master key of a request in the channel queues: slice and master, or management. -/
def Req.master (q : Req) : Nat := if q.mgmt then 16384 else q.slice * 4 + q.cls

/-- Who an access of metadata is for: the master that pays, none where no access needed it, and the traffic class (R280, R325). -/
structure Payer where
  key : Option Nat := none
  cls : Nat := 11
  deriving DecidableEq, Repr

/-- The payer of the metadata that a request needs. -/
def Req.payer (q : Req) : Payer := { key := some q.master }

/-- A 64-byte line of metadata read or written: charged to the master of the access that needed it, and counted (R280, R281). -/
def Hub.metaTraffic (h : Hub) (w : Payer) (a : Nat) : Hub :=
  let h1 := match w.key, h.decode a with
    | some k, some (ch, _) => h.chargeTo ch k
    | _, _ => h
  h1.bump (rMEM_CLSn_c (h.ctrlOf a) w.cls) fMEM_CLSn_c_BYTES 64

/-- A region due for a sweep at once: queued where it was ready (R326). -/
def Hub.queueSweep (h : Hub) (r : Nat) : Hub :=
  if h.fld (rUMB_REG_STS r) fUMB_REG_STS_STATE = 1 then
    (h.setF (rUMB_REG_STS r) fUMB_REG_STS_STATE 3).updSeal r (fun k => { k with queuedAt := some h.now, lateRaised := false })
  else h

/-- A write takes a counter to 2^55 or above: CTR_HIGH is set, a corrected fault is raised, and the region's sweep is queued (R317). -/
def Hub.ctrHigh (h : Hub) (r : SealedRec) (ctrl : Nat) : Hub :=
  ((h.queueSweep r.region).setF (rUMB_REG_STS r.region) fUMB_REG_STS_CTR_HIGH 1).faultS uUMB ctrl kUMB_CTR_HIGH clsCorrected none 0

/-- A node written to its bank: its parent's counter rises, its counters and MAC stand in the stack, and the parent is dirty (R313). -/
def Hub.writeBackNode (h : Hub) (w : Payer) (r : SealedRec) (new : Bool) (lv j : Nat) : Hub :=
  let x := h.side r.region new
  let v := x.ctr (lv + 1) j + 1
  let a := h.nodeAddr r new lv j
  if 2 ^ 56 ≤ v then h.halt a 2 r.region
  else
    let d := x.dirty.filter (fun e => e != (lv, j))
    let d := if lv + 1 < (treeLevels r).length ∧ ¬ d.contains (lv + 1, j / 8) then d ++ [(lv + 1, j / 8)] else d
    let b := x.nodeBytes lv j
    let h1 := ((h.setSide r.region new { (x.setCtr (lv + 1) j v) with dirty := d }).hbmSet a (b ++ x.nodeMac r.region lv j v b)).metaTraffic w a
    if 2 ^ 55 ≤ v then h1.ctrHigh r (h.ctrlOf a) else h1

/-- The entry a fill replaces: the least recently used of a region that holds more than 512 entries (R315). -/
def ncVictim (l : List NodeKey) : Option NodeKey :=
  l.reverse.find? (fun e => decide (512 < (l.filter (fun x => x.1 == e.1)).length))

/-- The region and side that a node-cache entry belongs to. -/
def Hub.ncSide (h : Hub) (e : NodeKey) : Option (SealedRec × Bool) :=
  (h.forme.sealedRegs.find? (fun x => x.region == e.1)).map (fun r =>
    (r, decide ((h.side e.1 true).key = e.2.1) && decide (h.fld (rUMB_REG_STS e.1) fUMB_REG_STS_STATE = 2)))

/-- A node-cache entry used, filled where it was absent; a full cache of 131,072 entries replaces one (R315), a dirty node
being written back, with its parent brought into the cache (R313). -/
def Hub.ncPut : Nat → Hub → Payer → SealedRec → Bool → Nat → Nat → Hub
  | 0, h, _, _, _, _, _ => h
  | n + 1, h, w, r, new, lv, j =>
    let k : NodeKey := (r.region, (h.side r.region new).key, lv, j)
    if h.nodeCache.contains k then { h with nodeCache := k :: h.nodeCache.erase k }
    else
      let h := h.count rUMB_NC_STS fUMB_NC_STS_FILLS 1
      if h.nodeCache.length < 131072 then { h with nodeCache := k :: h.nodeCache }
      else match ncVictim h.nodeCache with
        | none => h
        | some v =>
          let h := { h with nodeCache := k :: h.nodeCache.erase v }
          match h.ncSide v with
          | none => h
          | some (rv, nv) =>
            if (h.side v.1 nv).dirty.contains (v.2.2.1, v.2.2.2) then
              let h1 := h.writeBackNode w rv nv v.2.2.1 v.2.2.2
              if v.2.2.1 + 1 < (treeLevels rv).length then Hub.ncPut n h1 w rv nv (v.2.2.1 + 1) (v.2.2.2 / 8) else h1
            else h

def Hub.ncTouch (h : Hub) (w : Payer) (r : SealedRec) (new : Bool) (lv j : Nat) : Hub := Hub.ncPut 4096 h w r new lv j

/-- An entry stands in the node cache. -/
def Hub.ncHas (h : Hub) (r : SealedRec) (new : Bool) (lv j : Nat) : Bool :=
  h.nodeCache.contains (r.region, (h.side r.region new).key, lv, j)

/-- A node written back, its parent held in the node cache (R313). -/
def Hub.writeBack (h : Hub) (w : Payer) (r : SealedRec) (new : Bool) (lv j : Nat) : Hub :=
  let h1 := h.writeBackNode w r new lv j
  if lv + 1 < (treeLevels r).length then
    let fetched := !h.ncHas r new (lv + 1) (j / 8) && decide ((h.side r.region new).ctr (lv + 2) (j / 8) ≠ 0)
    (if fetched then h1.metaTraffic w (h.nodeAddr r new (lv + 1) (j / 8)) else h1).ncTouch w r new (lv + 1) (j / 8)
  else h1

/-- The levels of a line's path below its nearest cached node, and that node's level where one is cached (R312). -/
def Hub.pathOut (h : Hub) (r : SealedRec) (new : Bool) (i : Nat) : List Nat :=
  (List.range (treeLevels r).length).takeWhile (fun lv => !h.ncHas r new lv (i / 8 ^ (lv + 1)))

/-- The levels of a line's path that are not in the node cache and not virgin: what a fetch reads from HBM (R312). -/
def Hub.pathFetch (h : Hub) (r : SealedRec) (new : Bool) (i : Nat) : List Nat :=
  (h.pathOut r new i).filter (fun lv => decide ((h.side r.region new).ctr (lv + 1) (i / 8 ^ (lv + 1)) ≠ 0))

/-- The path of a line brought into the node cache down from its nearest cached node, with its traffic. -/
def Hub.pathTouch (h : Hub) (w : Payer) (r : SealedRec) (new : Bool) (i : Nat) : Hub :=
  let h1 := (h.pathFetch r new i).foldl (fun h lv => h.metaTraffic w (h.nodeAddr r new lv (i / 8 ^ (lv + 1)))) h
  ((List.range (min ((h.pathOut r new i).length + 1) (treeLevels r).length)).reverse).foldl
    (fun h lv => h.ncTouch w r new lv (i / 8 ^ (lv + 1))) h1

/-- The MAC line of a sealed line read, where the node cache does not hold it (R312, R315). -/
def Hub.macTouch (h : Hub) (w : Payer) (r : SealedRec) (new : Bool) (i : Nat) : Hub :=
  (if h.ncHas r new 15 (i / 8) then h else h.metaTraffic w (macAddr r i)).ncTouch w r new 15 (i / 8)

/-- A full-line write to a sealed line (R313): its counter rises and its level-0 node is dirty; at 2^55 CTR_HIGH, past
2^56 - 1 the halt and no write (R317). The flag says whether the line is written. -/
def Hub.sealBump (h : Hub) (w : Payer) (r : SealedRec) (a : Nat) : Bool × Hub :=
  let i := lineIdx r a
  let new := h.onNewSide r.region i
  let x := h.side r.region new
  let v := x.ctr 0 i + 1
  if 2 ^ 56 ≤ v then (false, h.halt (a / 64 * 64) 2 r.region)
  else
    let d := if x.dirty.contains (0, i / 8) then x.dirty else x.dirty ++ [(0, i / 8)]
    let h1 := ((h.setSide r.region new { (x.setCtr 0 i v) with dirty := d }).pathTouch w r new i).ncTouch w r new 15 (i / 8)
    let h1 := h1.metaTraffic w (macAddr r i)
    (true, if 2 ^ 55 ≤ v then h1.ctrHigh r (h.ctrlOf a) else h1)

/-- A write within one 64-byte line: a sealed line is written whole, merged with what it reads as, and its MAC with it (R306, R313). -/
def Hub.hbmPutLine (h : Hub) (w : Payer) (a : Nat) (bs : List Byte) : Hub :=
  match h.regionOf a with
  | none => (h.hbmSet a bs).unloseAt a
  | some r =>
    let base := a / 64 * 64
    let line := patch (h.hbmGet base 64) (a - base) bs
    let (ok, h1) := h.sealBump w r a
    if ok then ((h1.hbmSet base line).unloseAt a).putMac r (h.onNewSide r.region (lineIdx r a)) (lineIdx r a) else h1

/-! ## The unverifiable list (R320 to R322) -/

/-- Entry k of the unverifiable list covers line i of region r (R320). -/
def Hub.lostBy (h : Hub) (r i k : Nat) : Bool :=
  h.flag (rUMB_LOSTi k) fUMB_LOSTi_VALID && decide (h.fld (rUMB_LOSTi k) fUMB_LOSTi_REGION = r) &&
  decide (i / 8 ^ (h.fld (rUMB_LOSTi k) fUMB_LOSTi_LEVEL + 1) = h.fld (rUMB_LOSTi k) fUMB_LOSTi_NODE)

/-- A line of a region is unverifiable: LOST_ALL, or an entry of the unverifiable list covers it (R320). -/
def Hub.lineLost (h : Hub) (r i : Nat) : Bool :=
  h.flag (rUMB_REG_STS r) fUMB_REG_STS_LOST_ALL || (List.range 64).any (h.lostBy r i)

/-- The granules that the entry of a node covers in part or whole. -/
def nodeGrans (r : SealedRec) (lv j : Nat) : Nat :=
  let span := 8 ^ (lv + 1)
  (min (j * span + span) (sealLines r) * 64 + GRAN - 1) / GRAN - j * span * 64 / GRAN

/-- The granule count of the unverifiable entry over an address, the region's under LOST_ALL (AUX of UMB_LOST, R387). -/
def Hub.lostGrans (h : Hub) (a : Nat) : Nat :=
  match h.regionOf a with
  | none => 0
  | some r => match (List.range 64).find? (h.lostBy r.region (lineIdx r a)) with
    | some k => nodeGrans r (h.fld (rUMB_LOSTi k) fUMB_LOSTi_LEVEL) (h.fld (rUMB_LOSTi k) fUMB_LOSTi_NODE)
    | none => r.count

/-- A contained UMB_LOST for each slice that holds one of the granules from an address on. -/
def Hub.nameLoss (h : Hub) (a n : Nat) : Hub :=
  (h.forme.slices.filter (fun e => e.2.ranges.any (fun x => decide (x.first < a / GRAN + n) && decide (a / GRAN < x.first + x.count)))).foldl
    (fun h e => h.fault { source := srcOf uUMB (h.ctrlOf a), kind := kUMB_LOST, cls := clsContained, slice := some e.1, addr := some a, aux := n }) h

/-- A loss from a line on, made while the region's sweep has passed that line: it stands past the end of that sweep (R322). -/
def Hub.lossStays (h : Hub) (r i : Nat) : Bool := h.onNewSide r i

/-- One entry of the unverifiable list, or LOST_ALL where it is full, with the faults it raises (R320, R321). -/
def Hub.enterLoss (h : Hub) (r : SealedRec) (lv j : Nat) : Hub :=
  match (List.range 64).find? (fun k => !h.flag (rUMB_LOSTi k) fUMB_LOSTi_VALID) with
  | some k =>
    (((((h.setF (rUMB_LOSTi k) fUMB_LOSTi_REGION r.region).setF (rUMB_LOSTi k) fUMB_LOSTi_LEVEL lv).setF
      (rUMB_LOSTi k) fUMB_LOSTi_NODE j).setF (rUMB_LOSTi k) fUMB_LOSTi_VALID 1).bump rUMB_STS fUMB_STS_LOST_N 1 |>.updSeal r.region
      (fun x => { x with newLost := if h.lossStays r.region (j * 8 ^ (lv + 1)) then x.newLost ++ [k] else x.newLost })).nameLoss (r.first * GRAN + 64 * (j * 8 ^ (lv + 1))) (nodeGrans r lv j)
  | none =>
    ((h.setF (rUMB_REG_STS r.region) fUMB_REG_STS_LOST_ALL 1).updSeal r.region (fun x => { x with newLostAll := h.lossStays r.region 0 })).nameLoss
      (r.first * GRAN) r.count

/-- A loss recorded (R320). LEVEL has three bits: a node above level 7, of a region of more than 4,096 granules, is entered as the
level-7 nodes below it that the region has, until the list is full (DESIGN CHOICE, log entry 134). -/
def Hub.recordLoss (h : Hub) (r : SealedRec) (lv j : Nat) : Hub :=
  if lv ≤ 7 then h.enterLoss r lv j
  else
    let span := 8 ^ (lv - 7)
    ((List.range span).map (j * span + ·)).foldl (fun h n =>
      if (treeLevels r).getD 7 0 ≤ n ∨ h.flag (rUMB_REG_STS r.region) fUMB_REG_STS_LOST_ALL = true then h else h.enterLoss r 7 n) h

/-! ## Granules and cell windows -/

/-- The pieces of a byte range by 64-byte granules: offset in the range and length (R215). -/
def granules : Nat → Nat → Nat → List (Nat × Nat)
  | 0, _, _ => []
  | k + 1, a, n =>
    if n = 0 then []
    else
      let m := min n (64 - a % 64)
      (0, m) :: (granules k (a + m) (n - m)).map (fun p => (p.1 + m, p.2))

/-- The cell window an address falls in: global cell number and offset; none in the reserved 48 KiB (R16). -/
def windowOf (a : Nat) : Option (Nat × Nat) :=
  if decide (CELL_BASE ≤ a) && decide (a < CELL_END) then
    let o := a - CELL_BASE
    let c := o / 0x1000000 * 128 + o % 0x1000000 / 0x20000
    if o % 0x20000 < 0x14000 then some (c, o % 0x20000) else none
  else none

def Hub.cellGet (h : Hub) (c off n : Nat) : List Byte := mapBytes 0 (h.cell c).mem off n
def Hub.cellPut (h : Hub) (c off : Nat) (bs : List Byte) : Hub :=
  h.updCell c (fun x => { x with mem := mapWriteBytes 0 x.mem off bs })

/-! ## Atomics (R235) -/

/-- The new value of an atomic; none where CAS writes nothing. -/
def atomicNew (aop : Nat) (old opd cmp : Word) : Option Word :=
  match aop with
  | 0 => some opd
  | 1 => if old = cmp then some opd else none
  | 2 => some (old + opd)
  | 3 => some (old &&& opd)
  | 4 => some (old ||| opd)
  | 5 => some (old ^^^ opd)
  | 6 => some (if old.toInt < opd.toInt then opd else old)
  | 7 => some (if opd.toInt < old.toInt then opd else old)
  | 8 => some (if old.toNat < opd.toNat then opd else old)
  | _ => some (if opd.toNat < old.toNat then opd else old)

def wordAt (l : List Byte) : Word := BitVec.ofNat 64 (leNat (l.take 8))

/-- Counting of a channel's errors: corrected reads, with MEM_CE at most once per second (R294), and the row tracker. -/
def Hub.countCE (h : Hub) (ch off : Nat) : Hub :=
  let x := h.chan ch
  let row := rowOf off
  let rows := if (mapGet x.rows row).isSome ∨ x.rows.length < 64 then mapPut x.rows row (mapGetD x.rows row 0 + 1) else x.rows
  let due := match x.ceAt with
    | none => true
    | some t => decide (t + 1000 * psMs ≤ h.now)
  let h1 := (h.setChan ch { x with rows := rows, ceAt := if due then some h.now else x.ceAt }).count (rMEM_CH_ECC ch) fMEM_CH_ECC_CORR 1
  if due then h1.faultS uMEM (ch / 32) kMEM_CE clsCorrected none ch else h1

/-- Counting of an uncorrected read: with AUTO_UE its row is a repair candidate. -/
def Hub.countUE (h : Hub) (ch off : Nat) : Hub :=
  let x := h.chan ch
  let row := rowOf off
  let mark := h.flag rMEM_ECC_CFG fMEM_ECC_CFG_AUTO_UE && ((mapGet x.rows row).isSome || decide (x.rows.length < 64))
  (h.setChan ch { x with rows := if mark then mapPut x.rows row 65536 else x.rows }).count (rMEM_CH_ECC ch) fMEM_CH_ECC_UNCORR 1

/-- What the stack reports for a read of a line: uncorrected where the line is in the lost-line list (R298). -/
def Hub.eccOf (h : Hub) (ch off : Nat) (e : Ecc) : Ecc :=
  if (h.chan ch).lost.contains (off / 64) then .uncorrected else e

def Hub.countEcc (h : Hub) (ch off : Nat) (e : Ecc) : Hub :=
  match e with
  | .clean => h
  | .corrected => h.countCE ch off
  | .uncorrected => h.countUE ch off
  | .umbra _ => h

/-! ## Stopping a cell (R49, R407, R412) -/

/-- A cell reset begins: sequencer and units stop, queued unit operations are discarded, the inbound buffers are copied
into the log and emptied, and pending sends are withdrawn. Registers are zeroed when it ends (CELL_RESET). -/
def Cell.beginReset (k : Nat) (x : Cell) : Cell :=
  { x with run := .inReset, wait := .none, tensor := [], vector := [], gather := [], chan := [],
           bufCopy := x.inbuf, inbuf := Vector.replicate 4 none, closed := true, wasReset := some k, portStall := false,
           replay := none }


/-! ## Failing and finishing requests -/

/-- Failure statuses of a request. -/
def fsACCESS : Nat := 1
def fsMEMORY : Nat := 2
def fsXLATE : Nat := 3
def fsSTOPPED : Nat := 4
def fsROUTE : Nat := 5
def fsTIMEOUT : Nat := 6
def fsLOST : Nat := 7
def fsREMOTE : Nat := 8

/-- The status of a site response for a failure (R363, R368). -/
def siteStatus : Nat → Nat
  | 1 => 1 | 2 => 2 | 3 => 3 | 4 => 4 | 5 => 1 | 6 => 5 | 7 => 2 | _ => 5

/-- The status of a completion record for a failure of a mover item (R206, R358). -/
def itemStatus : Nat → Nat
  | 1 => 5 | 2 => 7 | 3 => 4 | 4 => 8 | 5 => 5 | 6 => 8 | 7 => 7 | _ => 8

/-- The status of a transport response for a failure (R341). -/
def linkStatus : Nat → Nat
  | 1 => 1 | 2 => 2 | 4 => 4 | 5 => 5 | 7 => 2 | _ => 1

/-- The opcode of the response to an engine's request (R364). -/
def siteRspOp (k : ReqKind) : Nat :=
  match k with
  | .write => 0x08
  | .read => 0x09
  | .atomic .. => 0x0A

def linkRspOp (k : ReqKind) : Nat :=
  match k with
  | .write => 0x08
  | .read => 0x09
  | .atomic .. => 0x0B - 1

/-- A FABRIC operation's log entry completed or left (R407, R409). -/
def Hub.logDone (h : Hub) (c : Nat) (e : Option Nat) : Hub :=
  match e with
  | none => h
  | some i => h.updCell c (fun x => { x with log := x.log.modify i (fun l => { l with done := true }) })

/-- One request of a FABRIC operation answered. -/
def Hub.opStep (h : Hub) (op : Nat) (failed : Option Nat) : Hub :=
  match mapGet h.fabricOps op with
  | none => h
  | some o =>
    let o := { o with left := o.left - 1, failed := o.failed.or failed }
    { h with fabricOps := if o.left = 0 ∧ o.failed.isSome then mapDel h.fabricOps op else mapPut h.fabricOps op o }

/-- A request has not left its port yet. -/
def Req.unsent (q : Req) : Bool :=
  match q.stage with
  | .xlate | .fault | .held | .waiting => true
  | _ => false

/-- A stopped cell's requests that have not been issued are withdrawn (R255, R412). -/
def Hub.dropUnsent (h : Hub) (c : Nat) : Hub :=
  let mine := h.reqs.filterMap (fun e => match e.2.src with
    | .cell d op _ => if d = c ∧ e.2.unsent = true then some (e.1, op) else none
    | _ => none)
  mine.foldl (fun h e => (h.dropReq e.1).opStep e.2 (some fsSTOPPED)) h

/-- A contained fault stops one cell: the cell is reset (R49) and the message goes to the collector. -/
def Hub.stopCell (h : Hub) (c : Nat) (m : FaultMsg) : Hub :=
  ((h.dropUnsent c).updCell c (Cell.beginReset m.kind)).fault m

/-- A fault confined to a cell, named to the slice that holds it (R49, R388). -/
def Hub.stopCellS (h : Hub) (c kind : Nat) : Hub :=
  h.stopCell c { source := srcOf uCELL (c / 128), kind := kind, cls := clsContained, slice := h.cellOwner c, aux := c }

/-- A request of the remote hub `t.srcHub` answered on VC 1 of the route back (R342, R353). -/
def Hub.sendRsp (h : Hub) (t : THdr) (op status : Nat) (data : List Byte) : Hub :=
  let r := rQL_ROUTEh t.srcHub
  let st := h.fld (rQL_LINK_STS (h.fld r fQL_ROUTEh_LINK)) fQL_LINK_STS_STATE
  if h.flag r fQL_ROUTEh_VALID ∧ (st = 4 ∨ st = 5) then
    h.sendFrame (h.fld r fQL_ROUTEh_LINK) 1 (thdrFrame 1 { respHdr t op status with len := data.length / 32 } data)
  else h

/-- A frame of a counted bundle noted in its tracker; the counter rises once LAST has come and every byte is visible, and the
acknowledgement of LAST follows. A bundle with a failed frame adds nothing (R226, R344). The flag says that the frame's own
acknowledgement may go now. -/
def Hub.trackBundle (h : Hub) (f : List Byte) (ok : Bool) : Bool × Hub :=
  let t := thdrOf f
  if !t.ac then (true, h)
  else
    let k := t.srcHub * 64 + t.bundle
    let b := mapGetD h.bundles k {}
    let n := 32 * t.len
    let b := if ok then { b with sum := b.sum + n } else { b with bad := b.bad + n }
    let b := { b with lastSeen := b.lastSeen || t.last, lastHdr := if t.last && ok then some f else b.lastHdr }
    if b.lastSeen && decide (b.sum + b.bad = t.btotal) then
      let h1 : Hub := { h with bundles := mapDel h.bundles k }
      let h2 := if b.bad = 0 then h1.addAc t.dstSlice t.acnum t.btotal else h1
      if t.last then (true, h2) else (true, match b.lastHdr with
        | some g => h2.sendRsp (thdrOf g) 8 0 []
        | none => h2)
    else (!(t.last && ok), { h with bundles := mapPut h.bundles k b })

/-- A request of another hub refused: its bundle fails, a corrected fault names DST_SLICE (with the context once the LINK entry has
assigned one, R388), and the response carries the STATUS (R343, R358). -/
def Hub.remoteRefuse (h : Hub) (l : Nat) (f : List Byte) (st : Nat) : Hub :=
  let t := thdrOf f
  let h1 := (h.trackBundle f false).2
  let h2 := if st = 2 then h1
    else h1.fault { source := srcOf uQL l, kind := if st = 1 then kACCESS else kLINK_REFUSED, cls := clsCorrected,
                    slice := some t.dstSlice, ctx := if st = 1 then some t.ctx else none, addr := some l, aux := if st = 1 then 0 else t.srcHub }
  h2.sendRsp t (t.op + 7) st []

/-- A request of another hub served: its bundle counts it, and the answer goes back (R342, R344). -/
def Hub.remoteAnswer (h : Hub) (f data : List Byte) : Hub :=
  let t := thdrOf f
  let (now, h1) := h.trackBundle f true
  if now then h1.sendRsp t (t.op + 7) 0 (if t.op = 1 then [] else if t.op = 3 then data ++ zeros 24 else data) else h1

/-- A site engine's state (SITE_ENGe.STATE). -/
def Hub.engState (h : Hub) (s e v : Nat) : Hub := h.setF (rSITE_ENGe s e) fSITE_ENGe_STATE v

/-- A site engine closes (R370): held requests end STOPPED, key deliveries to it end with ERR 5 (R463), QUIESCE goes to the
chiplet, the engine quiesces. -/
def Hub.closeEngine (h : Hub) (s e : Nat) : Hub :=
  let k := h.site s
  if k.closedEng.contains e then h
  else
    let mine := (h.reqs.filterMap (fun r => match r.2.src with
      | .site a b tag => if decide (a = s) && decide (b = e) && decide (r.2.stage = .held) then some (r.1, tag, r.2.kind) else none
      | _ => none))
    let h1 := mine.foldl (fun h r => if (h.req r.1).isNone then h else (h.dropBoth r.1).sendSite s
      (mkPacket { op := siteRspOp r.2.2, engine := e, tag := r.2.1, status := 4 } [])) h
    let h2 := (h1.updSite s (fun k => { k with closedEng := k.closedEng ++ [e], closing := mapPut k.closing e h.now })).engState s e 3
    let keys := k.wins.filter (fun w => decide (w.2.engine = e) && w.2.key.isSome)
    let h3 := keys.foldl (fun h w => (h.updSite s (fun k => { k with wins := mapDel k.wins w.1 })).keyOpDone (w.2.key.getD 0) 5) h2
    h3.sendSite s (mkPacket { op := 0x1C, engine := e } [])

/-- A request ends with a failure: the fabric's error response reaches its sender. A cell stops with a contained fault
of the kind; a mover item takes the status, with a contained ROUTE_MISS where it has no route (R29, R358); a site engine gets an error
completion and, but for a violation, a contained fault that closes it (R370; log entry 135). FAB_PARITY is contained for every sender. `kind` and the source unit are those of the unit that
failed it (R25, R266, R293, R321, R358, R416). A record whose write fails is not counted, and what waited for it goes on (log entry 132). -/
def Hub.failReq (h : Hub) (i status kind unit inst : Nat) : Hub :=
  match h.req i with
  | none => h
  | some q =>
    let h1 := h.dropBoth i
    let a := if kind = kROUTE_MISS ∨ kind = kREMOTE_TO then q.pa else if unit = uQL then inst else q.pa % 2 ^ 42
    let x := if unit = uMEM then ((h.decode (q.pa % 2 ^ 42)).map (·.1)).getD 0
      else if unit = uCELL then ((windowOf (q.pa % 2 ^ 42)).map (·.1)).getD 0
      else if unit = uSITE then q.pa % 2 ^ 36 / 2 ^ 30
      else if kind = kUMB_LOST then h.lostGrans (q.pa % 2 ^ 42)
      else if kind = kREMOTE_TO ∨ kind = kLINK_REFUSED then q.remoteHub.getD 0 else 0
    let m : FaultMsg :=
      { source := srcOf unit inst, kind := kind, cls := clsContained, slice := some q.slice, ctx := some q.ctx,
        addr := if kind = kCTX_RESET then none else some a, aux := x }
    let raises := decide (kind = kROUTE_MISS) || decide (kind = kFAB_PARITY)
    match q.src with
    | .cell c op _ =>
      let h2 := h1.opStep op (some status)
      let h2 := if (decide (status = fsTIMEOUT) && (match q.kind with | .atomic .. => true | _ => q.acnum.isSome)) = true
        then h2.updCell c (fun x => { x with logTimeout := true }) else h2
      if q.slice ≠ (h.cellOwner c).getD 4096 then h2 else h2.stopCell c m
    | .item n off =>
      let h2 := h1.updItem n (fun t => { t with left := t.left - 1, failed := t.failed.or (some (itemStatus status)), failOff := min t.failOff off })
      if raises && !q.mgmt then h2.fault m else h2
    | .site s e tag =>
      let p := mkPacket { op := siteRspOp q.kind, engine := e, tag := tag,
                           status := if q.remoteHub.isSome then 5 else siteStatus status } []
      let h2 := h1.sendSite s p
      if kind = kACCESS ∧ q.remoteHub = none then h2 else (h2.fault m).closeEngine s e
    | .host f =>
      let ur := decide (status = fsACCESS) || decide (status = fsROUTE) || decide (kind = kFAB_TO)
      let rest := if ur || decide (q.kind ≠ .write) then { h1 with reqs := h1.reqs.filter (fun e => decide (e.2.hostNo = 0) || decide (e.2.hostNo ≠ q.hostNo)) } else h1
      let h2 := if q.mgmt then rest
        else if (kind = kMEM_UE ∧ unit ≠ uSITE) ∨ kind = kMEM_CHANNEL ∨ kind = kUMB_LOST then rest.fault { m with cls := clsCorrected }
        else if kind = kFAB_TO ∨ raises = true then rest.fault m else rest
      if q.kind = .write then (if ur then h2.emit (.aer f) else h2)
      else h2.emit (if ur then .hostUR f else .hostCA f)
    | .record n _ =>
      (if raises && !q.mgmt then h1.fault m else h1).recordSeen n (if q.mgmt then none else some q.slice) false false
    | .hold c => (h1.stopCell c m).settleSlice q.slice
    | .remote l =>
      let st := linkStatus status
      (if st = 2 then h1.fault { m with cls := if kind = kFAB_PARITY then clsContained else clsCorrected } else h1).remoteRefuse l q.hdr st
    | .own _ => (if raises && !q.mgmt then h1.fault m else h1).setReq i { q with stage := .failed status }
    | .management => h1
    | .faultEntry _ => if raises && !q.mgmt then h1.fault m else h1

/-- The completion of a site engine's request (R364). -/
def Hub.siteDone (h : Hub) (s e tag : Nat) (k : ReqKind) (data : List Byte) : Hub :=
  let dat := match k with | .read => data | .write => [] | .atomic .. => data ++ zeros (32 - data.length)
  h.sendSite s (mkPacket { op := siteRspOp k, engine := e, tag := tag, len := dat.length / 32 } dat)

/-- The counter of a site engine's counted write rises once the whole write is visible; the parts at another hub are counted there
(R226, R344). -/
def Hub.siteCount (h : Hub) (qs : List Req) : Hub :=
  (qs.filter (fun q => isWrite q.kind && q.bundle.isNone)).foldl (fun h q => match q.acnum with
    | some n => h.addAc q.slice n q.len
    | none => h) h

/-- A request is done: what follows at once. A site engine's completion leaves, once both parts are done where it has two; a cell's and an item's wait for the
commands that take them. -/
def Hub.doneReq (h : Hub) (i : Nat) : Hub :=
  match h.req i with
  | none => h
  | some q =>
    match q.src with
    | .site s e tag =>
      match q.pair.bind (fun j => (h.req j).map (fun p => (j, p))) with
      | none => ((h.dropReq i).siteCount [q]).siteDone s e tag q.kind q.data
      | some (j, p) =>
        if p.stage ≠ .done then h.setReq i { q with stage := .done }
        else ((h.dropBoth i).siteCount [q, p]).siteDone s e tag q.kind (if i < j then q.data ++ p.data else p.data ++ q.data)
    | .cell .. => h.setReq i { q with stage := .done }
    | .item n off =>
      let h1 := h.dropReq i
      let fill (b : List Byte) : List Byte := match q.kind with | .read => patch b off q.data | _ => b
      h1.updItem n (fun t => { t with left := t.left - 1, buf := fill t.buf })
    | .host f => match q.kind with
      | .write => h.dropReq i
      | _ => (h.dropReq i).emit (.hostDone f q.data)
    | .record n irq => (h.dropReq i).recordSeen n (if q.mgmt then none else some q.slice) irq true
    | .faultEntry s => (h.dropReq i).raiseVf s (h.fld (rHTU_FQ_CTL s) fHTU_FQ_CTL_VECTOR)
    | .hold _ => (h.dropReq i).settleSlice q.slice
    | .remote _ => (h.dropReq i).remoteAnswer q.hdr q.data
    | .own _ => h.setReq i { q with stage := .done }
    | .management => h.dropReq i

/-! ## Traffic classes (R280, "Traffic classes") -/

def classOf (q : Req) : Nat :=
  if q.mgmt then 15
  else
    let w := match q.kind with | .read => 0 | _ => 1
    match q.src with
    | .remote _ => 8 + w
    | .own (some c) => c
    | _ => 2 * q.cls + w

end Sys2Proof.Machine
end

