-- ==== Sys2Proof/Machine/Sequencer.lean ====
section
/-! DEFINITION. The sequencer of a cell: registers and scratch, the program counter and its loops (R120, R489), what it
waits for (R116, R147, R219), and how it reaches SHEET and END (R147, R168, R406). -/
namespace Sys2Proof.Machine

/-! ## Registers and scratch -/

/-- A scalar register; s0 reads as zero, and a write to it is discarded. -/
def Cell.r (x : Cell) (i : Nat) : Word := if i = 0 then 0 else x.regs.toList.getD i 0
def Cell.setR (x : Cell) (i : Nat) (v : Word) : Cell :=
  if i = 0 then x else { x with regs := x.regs.setIfInBounds i v }

def Cell.get (x : Cell) (off n : Nat) : List Byte := mapBytes 0 x.mem off n
def Cell.put (x : Cell) (off : Nat) (bs : List Byte) : Cell := { x with mem := mapWriteBytes 0 x.mem off bs }

/-- A scratch operand lies in 0x0000 to 0xFFFF and keeps its alignment (R121). -/
def scratchOk (a n al : Nat) : Bool := decide (a + n ≤ 0x10000) && decide (a % al = 0)

/-! ## Program counter -/

/-- Where control goes from instruction `i` in sequence: back to the top of each loop that ends there and has runs left,
innermost level first, else past it. -/
def loopEnd (i : Nat) : Nat → Vector LoopLvl 4 → Nat × Vector LoopLvl 4
  | 0, ls => (i + 1, ls)
  | k + 1, ls =>
    let l := ls.toList.getD k {}
    if l.rem = 0 ∨ l.last ≠ i then loopEnd i k ls
    else if 1 < l.rem then (l.start, ls.setIfInBounds k { l with rem := l.rem - 1 })
    else loopEnd i k (ls.setIfInBounds k { l with rem := 0 })

/-- The length of the galley a cell holds. -/
def Cell.count (x : Cell) : Nat := match x.galley with
  | some (_, n) => n
  | none => 0

/-- The sequencer past the instruction at `i`. -/
def Cell.past (x : Cell) (i : Nat) : Cell :=
  let (p, ls) := loopEnd i 4 x.loops
  { x with pc := p, loops := ls }

/-- A sequencer about to fetch past its galley's last instruction stops with ADDR (R489). -/
def Hub.fetchCheck (h : Hub) (c : Nat) : Hub :=
  if (h.cell c).count ≤ (h.cell c).pc then h.stopCellS c kADDR else h

/-- A cell goes on past its present instruction, its state changed by `f`. -/
def Hub.goOn (h : Hub) (c : Nat) (f : Cell → Cell) : Hub :=
  (h.updCell c (fun x => { (f x).past x.pc with wait := .none })).fetchCheck c

/-- The mode of an array; where it is not 0 the array runs its self-test, is in reset, retired or dark: its cells wait (R153). -/
def Hub.arrMode (h : Hub) (a : Nat) : Nat := h.fld (rARR_STAT a) fARR_STAT_MODE

/-! ## Waiting for units -/

/-- A FABRIC operation counts as a load: FLD, FATOM (R237). -/
def FabricOp.loads (o : FabricOp) : Bool := match o.op with
  | .fld | .fatom => true
  | _ => false

def FabricOp.stores (o : FabricOp) : Bool := match o.op with
  | .fld => false
  | _ => true

/-- Loads and stores of a cell in flight at its fabric port. -/
def Hub.loadsOut (h : Hub) (c : Nat) : Nat := (h.fabricOps.filter (fun e => decide (e.2.cell = c) && e.2.loads)).length
def Hub.storesOut (h : Hub) (c : Nat) : Nat := (h.fabricOps.filter (fun e => decide (e.2.cell = c) && e.2.stores)).length

/-- Every store of a cell has been accepted by the hub fabric (R147, R219): none of its requests is still at the port. -/
def Hub.storesAccepted (h : Hub) (c : Nat) : Bool :=
  h.reqs.all (fun e => match e.2.src, e.2.kind with
    | .cell _ _ _, .read => true
    | .cell d _ _, _ => decide (d ≠ c) || !e.2.unsent
    | _, _ => true)

/-- The units a WAITU names are idle: bit 0 tensor, 1 vector, 2 gather, 3 channels, 4 fabric loads, 5 fabric stores. -/
def Hub.unitsIdle (h : Hub) (c mask : Nat) : Bool :=
  let x := h.cell c
  (!bit mask 0 || x.tensor.isEmpty) && (!bit mask 1 || x.vector.isEmpty) && (!bit mask 2 || x.gather.isEmpty) &&
  (!bit mask 3 || x.chan.isEmpty) && (!bit mask 4 || decide (h.loadsOut c = 0)) && (!bit mask 5 || h.storesAccepted c)

/-! ## SHEET and END -/

/-- The current sheet of the group of the slice that holds a cell. -/
def Hub.cellSheet (h : Hub) (c : Nat) : Nat :=
  match h.cellOwner c with
  | some s => h.fld (rQL_GRP_SHEET (h.slD s).group) fQL_GRP_SHEET_SHEET
  | none => 0

/-- A cell starts a sheet: its state is copied to its sheet mark, and its log starts empty (R406, R407). -/
def Cell.startSheet (x : Cell) (n : Nat) : Cell :=
  { x with run := .running, wait := .none, sheet := n, log := [], logOvf := false, logTimeout := false, replay := none, wasReset := none,
           mark := some { pc := x.pc, regs := x.regs, loops := x.loops, accs := x.accs, gstat := x.gstat, sheet := n } }

/-- SHEET reached with every unit idle: the cell waits for the next sheet, or goes on at once where the current sheet is
already past its own (R147, R168). -/
def Hub.reachSheet (h : Hub) (c : Nat) : Hub :=
  let x := (h.cell c).past (h.cell c).pc
  if x.sheet < h.cellSheet c then (h.setCell c (x.startSheet (x.sheet + 1))).fetchCheck c
  else h.setCell c { x with run := .atSheet, wait := .none, reachedAt := h.now }

/-- A started LAUNCH notes a cell that has reached END, and the sheet (R204). -/
def Item.noteEnd (t : Item) (c sheet : Nat) : Item :=
  if t.st = .running ∧ t.cells.contains c ∧ ¬ t.ended.contains c then { t with ended := t.ended ++ [c], lastSheet := max t.lastSheet sheet } else t

/-- END reached: the cell is idle, and every LAUNCH that runs it notes it (R147, R204). -/
def Hub.reachEnd (h : Hub) (c : Nat) : Hub :=
  let x := h.cell c
  let h1 := h.setCell c { x with run := .idle, wait := .none, reachedAt := h.now }
  { h1 with items := h1.items.map (fun e => (e.1, e.2.noteEnd c x.sheet)) }

/-- A waiting sequencer goes on where what it waits for has come about. -/
def Hub.settle (h : Hub) (c : Nat) : Hub :=
  let x := h.cell c
  if x.run ≠ .running then h
  else match x.wait with
    | .units m => if h.unitsIdle c m then h.goOn c id else h
    | .sheet => if h.unitsIdle c 63 then h.reachSheet c else h
    | .finish => if h.unitsIdle c 63 then h.reachEnd c else h
    | _ => h

/-- The cell that sent a request settles. -/
def Hub.settleSrc (h : Hub) (s : ReqSrc) : Hub :=
  match s with
  | .cell c _ _ => h.settle c
  | _ => h

end Sys2Proof.Machine
end

