-- ==== Sys2Proof/Machine/Serve.lean ====
section
/-! DEFINITION. Requests as they reach HBM and cell windows: arrival at a controller (R264, R266, R276, R301), the slots of a
channel (R281 to R285), window accesses (R149, R150, R224), and the fabric watchdog (R416). -/
namespace Sys2Proof.Machine

/-! ## Arrival (R264, R266, R276, R301) -/

/-! ## The order of one source (R216, R306) -/

/-- Two requests have one source: the port of a cell, a site engine, a host function, a slice-context of a remote hub (R216). -/
def Req.sameSource (p q : Req) : Bool :=
  match p.src, q.src with
  | .cell c _ _, .cell d _ _ => c == d
  | .site s e _, .site t f _ => s == t && e == f
  | .host f, .host g => decide (f = g)
  | .remote _, .remote _ =>
    let a := thdrOf p.hdr
    let b := thdrOf q.hdr
    a.srcHub == b.srcHub && a.srcSlice == b.srcSlice && a.ctx == b.ctx && a.dstSlice == b.dstSlice
  | _, _ => false

/-- A request has its physical address. -/
def Req.routed (q : Req) : Bool :=
  match q.stage with
  | .xlate | .fault | .held => false
  | _ => true

/-- The 64-byte granules from `lo` to `hi` of a request meet granules not yet served of an earlier one: by physical address, or,
where one has none yet, by the address in its page, which translation keeps. -/
def Req.meets (p q : Req) (lo hi : Nat) : Bool :=
  let phys := p.routed && q.routed
  let base (x : Req) : Nat := if phys then x.pa else x.va % GRAN
  let left := (granules (p.len / 64 + 2) (base p) p.len).zipIdx.filter (fun g => !p.got.contains g.2)
  left.any (fun g =>
    let a := (base p + g.1.1) / 64
    decide ((base q + lo) / 64 ≤ a) && decide (a ≤ (base q + hi) / 64))

/-- An earlier request of the same source that satisfies a condition still stands before a range of this one. -/
def Hub.behind (h : Hub) (i : Nat) (q : Req) (lo hi : Nat) (p : Req → Bool) : Bool :=
  h.reqs.any (fun e => decide (e.1 < i) && e.2.sameSource q && p e.2 && e.2.meets q lo hi)

/-- A request has not reached its point of service yet. -/
def Req.coming (q : Req) : Bool :=
  match q.stage with
  | .xlate | .fault | .held | .waiting | .flight => true
  | _ => false

/-- A request has not been answered. -/
def Req.open_ (q : Req) : Bool :=
  match q.stage with
  | .done | .failed _ => false
  | _ => true

/-- A management-flag request refused: a corrected fault that names no slice (R25, R293). -/
def Hub.mgmtFault (h : Hub) (q : Req) (unit inst kind : Nat) : Hub :=
  if q.mgmt then h.fault { source := srcOf unit inst, kind := kind, cls := clsCorrected, addr := some (q.pa % 2 ^ 42) } else h

/-- A request fails at an HBM controller. -/
def Hub.failAtMem (h : Hub) (i : Nat) (q : Req) (status kind : Nat) : Hub :=
  let ctrl := h.ctrlOf (q.pa % 2 ^ 42)
  (h.failReq i status kind uMEM ctrl).mgmtFault q uMEM ctrl kind

/-- A translated request reaches its HBM controller, behind the earlier ones of its source to the same granules (R216): a violation of the owner map gets an error response, an access no
channel serves fails, any other joins its master's queue on its channel. -/
def Hub.arrive (h : Hub) (i : Nat) : Hub :=
  match h.req i with
  | none => h
  | some q =>
    let a := q.pa % 2 ^ 42
    if q.stage ≠ .flight ∨ h.halted = true ∨ h.behind i q 0 (q.len - 1) Req.coming = true then h
    else if !h.ownerOk q.mgmt q.slice (a / GRAN) then
      (h.violation (h.ctrlOf a) a q.mgmt (q.hdr ≠ []) (ctxid q.slice q.ctx)).failAtMem i q fsACCESS kACCESS
    else match h.decode a with
      | none => h.failAtMem i q fsACCESS kACCESS
      | some (ch, _) =>
        if h.chState ch = chRETIRED ∨ h.chState ch = chABSENT ∨ h.stoppedInst uMEM (ch / 32) = true then h.failAtMem i q fsMEMORY kMEM_CHANNEL
        else
          let x := h.chan ch
          let k := q.master
          (h.setReq i { q with stage := .queued }).setChan ch { x with queues := mapPut x.queues k (mapGetD x.queues k [] ++ [i]) }

/-- A request whose words fail their parity on the hub fabric fails with a contained FAB_PARITY (R386, R425). -/
def Hub.parityFail (h : Hub) (i : Nat) : Hub :=
  match h.req i with
  | none => h
  | some q =>
    let h1 := h.failReq i fsMEMORY kFAB_PARITY uFAB 0
    if q.mgmt then h1.fault { source := srcOf uFAB 0, kind := kFAB_PARITY, cls := clsContained, addr := some (q.pa % 2 ^ 42) } else h1

/-- A request on its way that stands in no crossing FIFO reaches its controller, or fails the parity of its words. -/
def Hub.reachMem (h : Hub) (i : Nat) (parityOk : Bool) : Hub :=
  match h.req i with
  | none => h
  | some q => if q.stage ≠ .flight ∨ h.crossing i = true ∨ h.halted = true then h else if parityOk then h.arrive i else h.parityFail i

/-- HBM_REQUEST_ARRIVE (R21, R264, R276, R280, R425). -/
def execHbmRequestArrive (r : FabMsg) (s : State) : Res := onHub s (fun h => h.reachMem r.req r.parityOk)

/-! ## Crossing FIFOs (R21, R23) -/

/-- A request may be offered to a controller's FIFO: it is on its way there. -/
def Hub.mayCross (h : Hub) (ep r : Nat) : Bool :=
  match h.req r with
  | none => false
  | some q => decide (q.stage = .flight) && decide (h.ctrlOf (q.pa % 2 ^ 42) = ep) && !h.crossing r

/-- What happens at a crossing (R21): a word is offered, enters where there is room, or leaves, the oldest first. A request that leaves
into the memory island arrives at its controller, and stays where it has to wait for an earlier one of its source (R216). -/
def Hub.fifoDo (h : Hub) (i : Island) (ep : Nat) (inward : Bool) (act : FifoAct) : Hub :=
  let k := fifoKey i ep inward
  let mem := decide (i = .memory) && inward
  match act with
  | .offer w => if mem && !h.mayCross ep w then h else h.fifoOffer k w
  | .enter => h.fifoEnter k
  | .leave => match h.fifoLeave k with
    | none => h
    | some (w, h1) =>
      if mem then
        let h2 := h1.arrive w
        if (h2.req w).any (fun q => q.stage == .flight) then h else h2
      else h1.emit (.islandWord i ep w)

/-- CROSSING_FIFO_TRANSFER (R21). -/
def execCrossingFifoTransfer (n : FifoId) (act : FifoAct) (s : State) : Res :=
  onHub s (fun h => h.fifoDo n.island n.ep n.inward act)

/-- A reset of an island or a block in it: every word held in a crossing FIFO goes back to its source as failed, a request with its
error response (R23). -/
def Hub.failFifo (h : Hub) (k : Nat) : Hub :=
  let x := h.fifo k
  let i := islandOf (k / 64)
  (x.inside ++ x.offered).foldl (fun h w =>
    let h1 := if i = .memory ∧ k % 2 = 1 then (match h.req w with
      | some q => h.failAtMem w q fsMEMORY kMEM_CHANNEL
      | none => h) else h
    h1.emit (.islandFail i (k % 64 / 2) w)) (h.setFifo k {})

/-- The FIFOs of one endpoint, and of every island. -/
def Hub.failEndpoint (h : Hub) (i : Island) (ep : Nat) : Hub := (h.failFifo (fifoKey i ep false)).failFifo (fifoKey i ep true)
def Hub.failFifos (h : Hub) : Hub := (h.fifos.map (·.1)).foldl (fun h k => h.failFifo k) h

/-! ## The channel scheduler (R281 to R284) -/

/-- The first live request of a queue. -/
def Hub.headOf (h : Hub) (l : List Nat) : Option (Nat × Req) :=
  l.findSome? (fun i => match h.req i with
    | some q => if q.stage = .queued ∨ q.stage = .sealedGo then some (i, q) else none
    | none => none)

/-- The pseudo-channel and bank of the row remap that runs on a channel (R297 step 2). -/
def Hub.remapBank (h : Hub) (ch : Nat) : Option Nat :=
  match h.remapJob with
  | none => none
  | some (row, _) => if row % 1024 = ch then some (row / 1024 % 128) else none

/-- A request that has not begun waits for its channel: it touches the bank that a row remap holds (R297), or an earlier request of
its source to the same granules stands in another queue (R216). -/
def Hub.slotBarred (h : Hub) (ch i : Nat) (q : Req) : Bool :=
  !q.admitted &&
    ((match h.remapBank ch, h.decode (q.pa % 2 ^ 42) with
      | some b, some (_, off) => decide (rowOf off % 128 = b)
      | _, _ => false) || h.behind i q 0 (q.len - 1) Req.open_)

/-- The heads of a channel's queues that may take a slot now, by master key. -/
def Hub.heads (h : Hub) (ch : Nat) : List (Nat × Nat × Req) :=
  (h.chan ch).queues.filterMap (fun e => match h.headOf e.2 with
    | some (i, q) => if q.stage = .queued ∧ h.slotBarred ch i q = false then some (e.1, i, q) else none
    | none => none)

/-- WEIGHT of a master, in use since the last meter window (R105); management traffic has 256 (R280). -/
def Hub.weightOf (h : Hub) (key : Nat) : Nat :=
  if key = 16384 then 256 else mapGetD h.weights key 0

/-- The next key after the last one served, cyclically. -/
def pickAfter (last : Nat) (ks : List Nat) : Option Nat := ((ks.filter (fun k => decide (last < k))).min?).or ks.min?

/-- The master served next: a head that has been admitted goes on; else step 2, 3 or 4 of R283, with the deficits after
step 3. The flag says that credit pays. -/
def Hub.pickMaster (h : Hub) (ch : Nat) : Option (Nat × Bool × SMap Int) :=
  let hs := h.heads ch
  let x := h.chan ch
  match hs.find? (fun e => e.2.2.admitted) with
  | some e => some (e.1, false, x.deficits)
  | none =>
    match pickAfter x.rr ((hs.filter (fun e => decide (0 < h.credit ch e.1))).map (·.1)) with
    | some k => some (k, true, x.deficits)
    | none =>
      let ks := (hs.filter (fun e => decide (0 < h.weightOf e.1))).map (·.1)
      if ks = [] then (pickAfter x.rr (hs.map (·.1))).map (fun k => (k, false, x.deficits))
      else
        let d (k : Nat) : Int := mapGetD x.deficits k 0
        let rounds := (ks.map (fun k => if 256 ≤ d k then 0 else ((256 - d k).toNat + h.weightOf k - 1) / h.weightOf k)).foldl min (2 ^ 32)
        let ds : SMap Int := ks.map (fun k => (k, d k + rounds * h.weightOf k))
        (pickAfter x.rr (ks.filter (fun k => decide (256 ≤ mapGetD ds k 0)))).map (fun k => (k, false, mapPut ds k (mapGetD ds k 0 - 256)))

/-- The 64-byte pieces of a request, and the one a slot serves: the one named, or the first not yet done. -/
def Req.pieces (q : Req) : List (Nat × Nat) := granules (q.len / 64 + 2) (q.pa % 2 ^ 42) q.len

def Req.pickPiece (q : Req) (n : Nat) : Option Nat :=
  let left := (List.range q.pieces.length).filter (fun i => !q.got.contains i)
  if left.contains n then some n else left.head?

/-- A request leaves its channel's queue, whole or failed. -/
def Hub.leaveQueue (h : Hub) (i : Nat) (q : Req) : Hub :=
  match h.decode (q.pa % 2 ^ 42) with
  | none => h
  | some (ch, _) => h.updChan ch (fun x => { x with queues := x.queues.map (fun e => (e.1, e.2.erase i)) })

/-- One piece of a request applied at its point of coherence (R215, R235): the bytes read, or written. -/
def Hub.applyPiece (h : Hub) (q : Req) (off n : Nat) : Req × Hub :=
  let a := q.pa % 2 ^ 42 + off
  match q.kind with
  | .read => ({ q with data := patch (if q.data = [] then zeros q.len else q.data) off (h.hbmGet a n) }, h)
  | .write => (q, h.hbmPutLine q.payer a (sub q.data off n))
  | .atomic aop opd cmp =>
    let old := h.hbmGet a 8
    ({ q with data := old }, match atomicNew aop (wordAt old) opd cmp with
      | some v => h.hbmPutLine q.payer a (toLE 8 v.toNat)
      | none => h)

/-- A request with one more piece done: answered once it is whole. -/
def Hub.pieceDone (h : Hub) (i : Nat) (q : Req) (p : Nat) : Hub :=
  let q1 := { q with got := q.got ++ [p] }
  let h1 := h.setReq i q1
  if q1.got.length < q1.pieces.length then h1 else (h1.leaveQueue i q1).doneReq i

/-- A read error of the stack meets a piece: a read, or a write of part of a line, which is read first (R293, R306). -/
def readsLine (k : ReqKind) (n : Nat) : Bool := match k with
  | .write => decide (n < 64)
  | _ => true

/-- A slot serves one piece of an unsealed request; a sealed one goes to Umbra (R306). -/
def Hub.servePiece (h : Hub) (ch i : Nat) (q : Req) (piece : Nat) (ecc : Ecc) : Hub :=
  match q.pickPiece piece with
  | none => (h.leaveQueue i q).doneReq i
  | some p =>
    let (off, n) := q.pieces.getD p (0, 0)
    let a := q.pa % 2 ^ 42 + off
    match h.regionOf a with
    | some _ => { h with nextId := h.nextId + 1 }.setReq i { q with stage := .sealedGo, umbNo := h.nextId }
    | none =>
      let co := ((h.decode a).map (·.2)).getD 0
      let e := if readsLine q.kind n then h.eccOf ch co ecc else .clean
      let h1 := (h.countEcc ch co e).served (ch / 32) (classOf q) n
      if e = .uncorrected then (h1.leaveQueue i q).failAtMem i q fsMEMORY kMEM_UE
      else
        let (q1, h2) := h1.applyPiece q off n
        h2.pieceDone i q1 p

/-- The deliverable bandwidth of a group in bytes per window, times 256: 58.88 GB/s times AVAIL for each active channel; and that
bandwidth rounded down (R287). -/
def Hub.delivNum (h : Hub) (g : IGroup) : Nat :=
  (g.chans.map (fun c => if h.chState c = chACTIVE then 58880 * h.fld (rMEM_CH_STS c) fMEM_CH_STS_AVAIL else 0)).sum

def Hub.deliverable (h : Hub) (g : IGroup) : Nat := h.delivNum g / 256

/-- A sweep runs in a region of a group. -/
def Hub.sweepsIn (h : Hub) (g : IGroup) (r : SealedRec) : Bool :=
  decide (g.first ≤ r.first) && decide (r.first < g.first + g.count) && decide (h.fld (rUMB_REG_STS r.region) fUMB_REG_STS_STATE = 2)

def Hub.sweepIn (h : Hub) (g : IGroup) : Bool := h.forme.sealedRegs.any (h.sweepsIn g)

/-- The lines of the step that a region's sweep reads next: written under the old keys, on a channel in service, not unverifiable. -/
def Hub.stepLines (h : Hub) (r : SealedRec) (b : Nat) : List Nat :=
  ((List.range 8).map (b + ·)).filter (fun i =>
    decide ((h.side r.region false).ctr 0 i ≠ 0) && !h.lineLost r.region i &&
    decide (h.chState (((h.decode (r.first * GRAN + 64 * i)).map (·.1)).getD 0) ≠ chRETIRED))

/-- A sweep wants the slots of a channel: a line of its step lies there, and the group's sweep has not had its 64 GB/s in the
window that runs; with less than 64 GB/s to deliver it takes every slot (R283 step 1, R296, R325). One whose controller has stopped wants
none (R390). -/
def Hub.sweepWants (h : Hub) (ch : Nat) : Bool :=
  match h.igOfChan ch with
  | none => false
  | some g => (decide (mapGetD h.sweepBytes g.igrp 0 < 64000) || decide (h.deliverable g < 64000)) &&
    h.forme.sealedRegs.any (fun r => h.sweepsIn g r &&
      !h.stoppedInst uUMB (h.ctrlOf (r.first * GRAN + 64 * h.fld (rUMB_REG_SWEEP r.region) fUMB_REG_SWEEP_BOUNDARY)) &&
      (h.stepLines r (h.fld (rUMB_REG_SWEEP r.region) fUMB_REG_SWEEP_BOUNDARY)).any (fun i =>
        decide ((h.decode (r.first * GRAN + 64 * i)).map (·.1) = some ch)))

/-- CHANNEL_COMMAND_SLOT: the slot goes to a sweep that wants it, whose step is SWEEP_STEP, or to one master's head request (R283). -/
def Hub.commandSlot (h : Hub) (ch granule : Nat) (ecc : Ecc) : Hub :=
  if h.halted ∨ h.chState ch ≠ chACTIVE ∨ h.sweepWants ch = true then h
  else match h.pickMaster ch with
    | none => h
    | some (k, paid, ds) =>
      match (h.heads ch).find? (fun e => e.1 == k) with
      | none => h
      | some (_, i, q) =>
        if q.admitted then h.servePiece ch i q granule ecc
        else
          let q1 := { q with admitted := true, since := h.now }
          (((h.updChan ch (fun x => { x with rr := k, deficits := ds })).charge ch k paid).setReq i q1).servePiece ch i q1 granule ecc

/-- CHANNEL_COMMAND_SLOT (R215, R236, R281 to R284, R293, R294). -/
def execChannelCommandSlot (ch : ChanId) (granule : Nat) (ecc : Ecc) (s : State) : Res :=
  onHub s (fun h => h.commandSlot ch granule ecc)

/-! ## Cell windows (R149, R150, R224) -/

/-- The window check of R25, R93 and R265. -/
def Hub.windowOk (h : Hub) (mgmt : Bool) (s c : Nat) : Bool :=
  match h.cellOwner c with
  | none => mgmt
  | some o => !mgmt && decide (o = s)

/-- A window access fails at the array's port. Where the cell is not the slice's, a fault record names the slice whoever accessed
(R78): a cell's is contained (R266), a remote hub's is QL's, every other is corrected (log entry 54). -/
def Hub.failAtArr (h : Hub) (i : Nat) (q : Req) (c : Nat) : Hub :=
  let h1 := (h.failReq i fsACCESS kACCESS uARR (c / 128)).mgmtFault q uARR (c / 128) kACCESS
  match q.src with
  | .cell .. | .remote _ => h1
  | _ => if q.mgmt || h.windowOk q.mgmt q.slice c then h1
    else h1.fault { source := srcOf uARR (c / 128), kind := kACCESS, cls := clsCorrected, slice := some q.slice, ctx := some q.ctx,
                    addr := some (q.pa % 2 ^ 42) }

/-- A program store may be written: the cell is idle, held or stopped by a fault (R149). -/
def Cell.storeOpen (x : Cell) : Bool := decide (x.run = .idle) || decide (x.run = .held) || decide (x.run = .faulted)

/-- What a window access finds by the state of its array and cell: served, waiting, or an error (R224). -/
inductive WindowSays where
  | served
  | waits
  | refused
  deriving DecidableEq, Repr

def Hub.windowSays (h : Hub) (mgmt : Bool) (s c off : Nat) (writes : Bool) : WindowSays :=
  let m := h.arrMode (c / 128)
  if !h.windowOk mgmt s c || h.stoppedInst uARR (c / 128) || h.stoppedInst uCELL (c / 128) then .refused
  else if m = 1 then .waits
  else if m ≠ 0 ∨ (h.cell c).run = .inReset then .refused
  else if writes && decide (0x10000 ≤ off) && !(h.cell c).storeOpen then .refused
  else .served

/-- Bytes written to a window; a program-store write to a cell stopped by a fault discards its sheet mark (R149). -/
def Hub.windowPut (h : Hub) (c off : Nat) (bs : List Byte) : Hub :=
  h.updCell c (fun x => { x with mem := mapWriteBytes 0 x.mem off bs,
                                 mark := if x.run = .faulted ∧ 0x10000 ≤ off then none else x.mark })

/-- One 64-byte granule of a window request served at the cell's scratch port. -/
def Hub.windowPiece (h : Hub) (i : Nat) (q : Req) (c off : Nat) (p : Nat) : Hub :=
  let (o, n) := q.pieces.getD p (0, 0)
  let at_ := off + o
  let (q1, h1) : Req × Hub := match q.kind with
    | .read => ({ q with data := patch (if q.data = [] then zeros q.len else q.data) o (h.cellGet c at_ n) }, h)
    | .write => (q, h.windowPut c at_ (sub q.data o n))
    | .atomic aop opd cmp =>
      let old := h.cellGet c at_ 8
      ({ q with data := old }, match atomicNew aop (wordAt old) opd cmp with
        | some v => h.windowPut c at_ (toLE 8 v.toNat)
        | none => h)
  let q2 := { q1 with got := q1.got ++ [p] }
  let h2 := h1.setReq i q2
  if q2.got.length < q2.pieces.length then h2 else h2.doneReq i

/-- CELL_WINDOW_ACCESS: one granule of a request at an array's port, the one named or the first left, behind what its source sent
there before (R215, R216), with what the cell's ECC finds. -/
def Hub.windowAccess (h : Hub) (i granule : Nat) (z : Hazard) : Hub :=
  match h.req i with
  | none => h
  | some q =>
    match q.stage, windowOf (q.pa % 2 ^ 42) with
    | .window, some (c, off) =>
      if h.halted then h
      else match h.windowSays q.mgmt q.slice c off (isWrite q.kind) with
        | .waits => h
        | .refused => h.failAtArr i q c
        | .served =>
          let piece := (q.pickPiece granule).getD 0
          let (o, n) := q.pieces.getD piece (0, 0)
          if h.behind i q o (o + n - 1) Req.open_ then h
          else if z = .uncorrectable then
            ((h.count (rCELL_ECC (c / 128) (c % 128)) fCELL_ECC_UNCORR 1).stopCellS c kCELL_SRAM).failReq i fsACCESS kCELL_SRAM uCELL (c / 128)
          else
            let h1 := if z = .corrected then h.count (rCELL_ECC (c / 128) (c % 128)) fCELL_ECC_CORR 1 else h
            match q.pickPiece granule with
            | none => h1.doneReq i
            | some p => h1.windowPiece i q c off p
    | _, _ => h

/-- CELL_WINDOW_ACCESS (R16, R149, R150, R215, R216, R224, R265). -/
def execCellWindowAccess (r : Nat) (z : PortSlot) (s : State) : Res := onHub s (fun h => h.windowAccess r z.granule z.hazard)

/-- The limit of the fabric watchdog, in ps (R416). -/
def Hub.fabLimit (h : Hub) : Nat :=
  let t := h.fld rWDG_FAB fWDG_FAB_TIMEOUT_US
  (if t = 0 then 100 else t) * psUs

/-- FAB_TIMEOUT: a local request that passed its meter has had no reply within the limit: an error response, and FAB_TO
naming the slice and context (R416). -/
def Hub.fabTimeout (h : Hub) (i : Nat) : Hub :=
  match h.req i with
  | none => h
  | some q =>
    let running := q.hdr = [] && (match q.stage with
      | .queued | .sealedGo => q.admitted
      | .window => true
      | _ => false)
    if !running || decide (h.now < q.since + h.fabLimit) then h
    else
      let h1 := ((h.leaveQueue i q).failReq i fsTIMEOUT kFAB_TO uFAB 0).count rWDG_STS fWDG_STS_FAB_EXPIRED 1
      match q.src with
      | .item _ _ => if q.mgmt then h1 else h1.faultR uFAB 0 kFAB_TO clsContained q.slice q.ctx (q.pa % 2 ^ 42) 0
      | _ => h1

/-- FAB_TIMEOUT (R416). -/
def execFabTimeout (r : Nat) (s : State) : Res := onHub s (fun h => h.fabTimeout r)

end Sys2Proof.Machine
end

