-- ==== Sys2Proof/Machine/Seal.lean ====
section
/-! DEFINITION. Umbra on sealed lines (R306, R311 to R316, R321): what the stack returns, the checks of a path and a MAC, and verified
reads and writes. -/
namespace Sys2Proof.Machine

/-! ## The piece of a request that Umbra serves -/

/-- A sealed piece: its request, region, number, offset, length and address. -/
structure SealPiece where
  q : Req
  r : SealedRec
  p : Nat
  off : Nat
  n : Nat
  a : Nat
  deriving DecidableEq, Repr

/-- Another request reached the line of an address at Umbra before this one, and stands there (R306). -/
def Hub.lineTaken (h : Hub) (i no a : Nat) : Bool :=
  h.reqs.any (fun e => e.1 != i && decide (e.2.stage = .sealedGo) && decide (e.2.umbNo < no) &&
    e.2.pieces.zipIdx.any (fun g => !e.2.got.contains g.2 && decide ((e.2.pa % 2 ^ 42 + g.1.1) / 64 = a / 64)))

/-- The piece of an admitted request that waits with Umbra, first at its line. -/
def Hub.sealPiece (h : Hub) (i granule : Nat) : Option SealPiece :=
  match h.req i with
  | none => none
  | some q =>
    if q.stage ≠ .sealedGo ∨ h.halted = true then none
    else (q.pickPiece granule).bind (fun p =>
      let (off, n) := q.pieces.getD p (0, 0)
      let a := q.pa % 2 ^ 42 + off
      if h.lineTaken i q.umbNo a then none
      else (h.regionOf a).map (fun r => { q := q, r := r, p := p, off := off, n := n, a := a }))

/-- Channel and offset of an address. -/
def Hub.chanAt (h : Hub) (a : Nat) : Nat × Nat := (h.decode a).getD (0, 0)

/-- An error met at an address counted on its channel. -/
def Hub.countUEAt (h : Hub) (a : Nat) : Hub := let (ch, off) := h.chanAt a; h.countUE ch off
def Hub.countCEAt (h : Hub) (a : Nat) : Hub := let (ch, off) := h.chanAt a; h.countCE ch off

/-! ## What the stack returns, and the checks on it (R311, R312, R316) -/

/-- How an access of a sealed line goes on. -/
inductive SealSays where
  /-- Every check passed. -/
  | pass
  /-- The hub halts: the failing address, and KIND. -/
  | halt (a kind : Nat)
  /-- The stack lost the data line (R293). -/
  | dataLost
  /-- The lines below a node become unverifiable. -/
  | lost (level node : Nat)
  deriving DecidableEq, Repr

/-- The 64 bytes of a node as the stack returns them: its own, or those the environment reports. -/
def Hub.nodeRead (h : Hub) (r : SealedRec) (new : Bool) (lv j : Nat) (out : SealOutcome) : List Byte :=
  match out with
  | .nodeMac l k bytes _ => if l = lv ∧ k = j then bytes else h.hbmGet (h.nodeAddr r new lv j) 64
  | _ => h.hbmGet (h.nodeAddr r new lv j) 64

/-- A fetched node verifies against its parent's counter (R311, R312). -/
def Hub.nodeGood (h : Hub) (r : SealedRec) (new : Bool) (lv j : Nat) (out : SealOutcome) : Bool :=
  let x := h.side r.region new
  let b := h.nodeRead r new lv j out
  decide (x.nodeMac r.region lv j (x.ctr (lv + 1) j) (b.take 56) = b.drop 56)

/-- A line verifies: the MAC of the ciphertext the stack returns is the one in the MAC area, or in the node cache (R311, R312). -/
def Hub.lineGood (h : Hub) (r : SealedRec) (new : Bool) (i a : Nat) (out : SealOutcome) : Bool :=
  let x := h.side r.region new
  let mac (l : List Byte) : List Byte := x.lineMac r.region i (x.ctr 0 i) l
  let cached := h.ncHas r new 15 (i / 8)
  match out with
  | .lineMac line m _ => decide (mac line = if cached then mac (h.stackLine a) else m)
  | _ => cached || decide (mac (h.stackLine a) = h.hbmGet (macAddr r i) 8)

/-- An entry of the node cache is looked up as a line is accessed: the nearest cached node of its path, or its MAC line (R312). -/
def Hub.ncLooked (h : Hub) (r : SealedRec) (new : Bool) (i : Nat) (reads : Bool) (lv j : Nat) : Bool :=
  h.ncHas r new lv j &&
  (if lv = 15 then reads && decide (j = i / 8) else decide ((h.pathOut r new i).length = lv) && decide (i / 8 ^ (lv + 1) = j))

/-- A node-cache entry dropped. -/
def Hub.ncDrop (h : Hub) (r : SealedRec) (new : Bool) (lv j : Nat) : Hub :=
  { h with nodeCache := h.nodeCache.erase (r.region, (h.side r.region new).key, lv, j) }

/-- What the node cache reports before anything is fetched: a clean entry that is bad is counted and dropped, with a corrected UMB_NC,
so that it is fetched and checked again (R316); a corrected one is counted (R315). What is left to find follows. -/
def Hub.ncReport (h : Hub) (r : SealedRec) (new : Bool) (i : Nat) (reads : Bool) (out : SealOutcome) : SealOutcome × Hub :=
  match out with
  | .cacheCleanUncorrected lv j =>
    (.ok, if h.ncLooked r new i reads lv j && !(h.side r.region new).dirty.contains (lv, j) then
        ((h.ncDrop r new lv j).count rUMB_NC_STS fUMB_NC_STS_UNCORR 1).faultS uUMB (h.ctrlOf (r.first * GRAN + 64 * i)) kUMB_NC clsCorrected none 0
      else h)
  | .cacheCorrected lv j => (.ok, if h.ncLooked r new i reads lv j then h.count rUMB_NC_STS fUMB_NC_STS_CORR 1 else h)
  | o => (o, h)

/-- What the path fetch of a line finds first, from the nearest verified ancestor down: a node the stack lost, one that does not
verify (a loss where its stack reported a corrected error), or a bad dirty entry of the node cache (R312, R316). -/
def Hub.pathSays (h : Hub) (r : SealedRec) (new : Bool) (i : Nat) (reads : Bool) (out : SealOutcome) : SealSays :=
  let node (lv : Nat) : Option SealSays :=
    let j := i / 8 ^ (lv + 1)
    if out = .nodeUncorrected lv j then some (.lost lv j)
    else if h.nodeGood r new lv j out then none
    else match out with
      | .nodeMac l k _ true => some (if l = lv ∧ k = j then .lost lv j else .halt (h.nodeAddr r new lv j) 1)
      | _ => some (.halt (h.nodeAddr r new lv j) 1)
  match out with
  | .cacheDirtyUncorrected lv j =>
    if h.ncLooked r new i reads lv j && (h.side r.region new).dirty.contains (lv, j) then .lost lv j
    else ((h.pathFetch r new i).reverse.findSome? node).getD .pass
  | _ => ((h.pathFetch r new i).reverse.findSome? node).getD .pass

/-- What an access of a line finds (R312, R316): its path first; then, where the line and its MAC are read, an uncorrectable MAC
line, an uncorrectable data line, or a MAC that does not match, which halts the hub unless the stack reported a corrected error. -/
def Hub.sealSays (h : Hub) (r : SealedRec) (new : Bool) (i a : Nat) (reads : Bool) (out : SealOutcome) (ecc : Ecc) : SealSays :=
  match h.pathSays r new i reads out with
  | .pass =>
    if !reads then .pass
    else if decide (out = .macUncorrected) && !h.ncHas r new 15 (i / 8) then .lost 0 (i / 8)
    else if out = .dataUncorrected ∨ ecc = .uncorrected then .dataLost
    else if h.lineGood r new i a out then .pass
    else if ecc = .corrected then .dataLost
    else match out with
      | .lineMac _ _ true => if h.ncHas r new 15 (i / 8) then .halt (a / 64 * 64) 0 else .lost 0 (i / 8)
      | _ => .halt (a / 64 * 64) 0
  | s => s

/-- What verified is taken as the stack returned it: the counters of a node, the line decrypted (R312). -/
def Hub.sealTaken (h : Hub) (r : SealedRec) (new : Bool) (i a : Nat) (reads : Bool) (out : SealOutcome) : Hub :=
  match out with
  | .nodeMac lv j bytes ce =>
    if decide (i / 8 ^ (lv + 1) = j) && (h.pathFetch r new i).contains lv then
      let h1 := h.setSide r.region new ((h.side r.region new).takeNode lv j bytes)
      if ce then h1.countCEAt (h.nodeAddr r new lv j) else h1
    else h
  | .lineMac line mac ce =>
    if reads then
      let h1 := h.hbmSet (a / 64 * 64) (xtsDec (h.lineKeyAt a) (unitOf a) line)
      if h.ncHas r new 15 (i / 8) then h1
      else if ce then (h1.hbmSet (macAddr r i) mac).countCEAt (macAddr r i) else h1.hbmSet (macAddr r i) mac
    else h
  | _ => h

/-- A loss as Umbra records it: an entry of the unverifiable list; the lost node is not written back; a bad cache entry is
counted, an error in the stack goes to its channel. -/
def Hub.loseNode (h : Hub) (r : SealedRec) (new : Bool) (out : SealOutcome) (lv j : Nat) : Hub :=
  let x := h.side r.region new
  let h1 := ((h.setSide r.region new { x with dirty := x.dirty.filter (fun e => e != (lv, j)) }).ncDrop r new lv j).recordLoss r lv j
  match out with
  | .cacheDirtyUncorrected .. => h1.count rUMB_NC_STS fUMB_NC_STS_UNCORR 1
  | .macUncorrected => h1.countUEAt (macAddr r (8 * j))
  | .lineMac .. => h1.countCEAt (macAddr r (8 * j))
  | .nodeMac .. => h1.countCEAt (h.nodeAddr r new lv j)
  | _ => h1.countUEAt (h.nodeAddr r new lv j)

/-! ## Sealed accesses (R306, R312, R313, R321) -/

/-- A request that Umbra fails: it leaves its channel's queue with an error response. -/
def Hub.failAtUmb (h : Hub) (i : Nat) (q : Req) (a status kind unit : Nat) : Hub :=
  ((h.leaveQueue i q).failReq i status kind unit (h.ctrlOf a)).mgmtFault q unit (h.ctrlOf a) kind

/-- A piece whose checks have passed is applied; the request goes back to its queue for its next slot, or is done. A counter
past its end halts the hub instead (R317). -/
def Hub.sealApply (h : Hub) (i : Nat) (x : SealPiece) (new reads : Bool) (ecc : Ecc) : Hub :=
  let k := lineIdx x.r x.a
  let (ch, off) := h.chanAt x.a
  let h1 := h.pathTouch x.q.payer x.r new k
  let h2 := if reads then (h1.macTouch x.q.payer x.r new k).countEcc ch off ecc else h1
  let h3 := if reads || isWrite x.q.kind then h2.served (ch / 32) (classOf x.q) x.n else h2
  let (q1, h4) := h3.applyPiece x.q x.off x.n
  if h4.halted then h4 else h4.pieceDone i { q1 with stage := .queued } x.p

/-- One sealed piece served: an unverifiable line fails every access, and so does a controller's Umbra that a fatal fault has stopped
(R390); else the checks of R316 decide. -/
def Hub.sealServe (h : Hub) (i : Nat) (x : SealPiece) (out : SealOutcome) (ecc : Ecc) : Hub :=
  let k := lineIdx x.r x.a
  if h.lineLost x.r.region k || h.stoppedInst uUMB (h.ctrlOf x.a) then h.failAtUmb i x.q x.a fsLOST kUMB_LOST uUMB
  else
    let new := h.onNewSide x.r.region k
    let (ch, off) := h.chanAt x.a
    let e := h.eccOf ch off ecc
    let reads := readsLine x.q.kind x.n && decide ((h.side x.r.region new).ctr 0 k ≠ 0)
    let (o, h1) := h.ncReport x.r new k reads out
    match h1.sealSays x.r new k x.a reads o e with
    | .pass => (h1.sealTaken x.r new k x.a reads o).sealApply i x new reads e
    | .halt b kind => h1.halt b kind x.r.region
    | .dataLost => (h1.countUE ch off).failAtUmb i x.q x.a fsMEMORY kMEM_UE uMEM
    | .lost lv j => (h1.loseNode x.r new o lv j).failAtUmb i x.q x.a fsLOST kUMB_LOST uUMB

/-- SEALED_READ (R306, R311, R312, R316, R321): the piece of a read that waits with Umbra. -/
def execSealedRead (r granule : Nat) (out : SealOutcome) (ecc : Ecc) (s : State) : Res :=
  onHub s (fun h => match h.sealPiece r granule with
    | none => h
    | some x => if isWrite x.q.kind then h else h.sealServe r x out ecc)

/-- SEALED_WRITE (R306, R311, R313, R317): the piece of a write or atomic that waits with Umbra. -/
def execSealedWrite (r granule : Nat) (out : SealOutcome) (ecc : Ecc) (s : State) : Res :=
  onHub s (fun h => match h.sealPiece r granule with
    | none => h
    | some x => if isWrite x.q.kind then h.sealServe r x out ecc else h)

end Sys2Proof.Machine
end

