-- ==== Sys2Proof/Machine/Route.lean ====
section
/-! DEFINITION. A translated request leaves for its destination (R26, R29, R345, R349, R353, R361), and the hub's own reads and
writes of memory. -/
namespace Sys2Proof.Machine

/-! ## Routing a translated request (R26, R29, R353, R361) -/

/-- The tags a slice may hold: min(8, 16,384 / P) of its own and its part of the rest by MOVER_WEIGHT (R345). -/
def Hub.tagShare (h : Hub) (s : Nat) : Nat :=
  let waiting := (h.reqs.filterMap (fun e => match e.2.stage with
    | .waiting | .remote _ => some e.2.slice
    | _ => none)).eraseDups
  let ps := if waiting.contains s then waiting else s :: waiting
  let g := min 8 (16384 / ps.length)
  share 16384 (ps.map (fun p => (p, g, (h.slD p).moverWeight))) s

def Hub.tagsHeld (h : Hub) (s : Nat) : Nat := (h.tags.filter (fun t => decide (t.2.slice = s) && t.2.freeAt.isNone)).length

/-- The lowest number of a table below a limit that is free. -/
def freeKey {α : Type} (m : SMap α) (limit : Nat) : Option Nat :=
  let rec go : Nat → Nat → Option Nat
    | 0, _ => none
    | n + 1, i => if (mapGet m i).isNone then some i else go n (i + 1)
  go (min limit (m.length + 1)) 0

/-- The lowest bundle number toward a hub that is free (R344). -/
def Hub.freeBundle (h : Hub) (hub : Nat) : Option Nat :=
  (List.range 64).find? (fun b => !h.bundlesOut.contains (hub, b) &&
    h.tags.all (fun t => decide (t.2.hub ≠ hub) || decide (t.2.bundle ≠ some b)))

/-- The route to a hub stands held while requests sent toward it on another link are unanswered (R349). -/
def Hub.routeHeld (h : Hub) (hub link : Nat) : Bool :=
  h.tags.any (fun t => decide (t.2.hub = hub) && decide (t.2.link ≠ link) && t.2.freeAt.isNone)

/-- The bundle that a counted request travels in: its operation's, its other part's, or a new one; none where none is free. -/
def Hub.bundleFor (h : Hub) (q : Req) (hub : Nat) : Option Nat :=
  match q.src with
  | .cell _ op _ => match mapGet h.fabricOps op with
    | some o => o.bundle.or (h.freeBundle hub)
    | none => h.freeBundle hub
  | .item i _ => match h.item i with
    | some t => t.bundle.or (h.freeBundle hub)
    | none => h.freeBundle hub
  | .site .. => match q.pair.bind h.req with
    | some p => if p.remoteHub = some hub ∧ p.va / GRAN = q.va / GRAN then p.bundle.or (h.freeBundle hub) else h.freeBundle hub
    | none => h.freeBundle hub
  | _ => h.freeBundle hub

/-- The sender of a counted request remembers its bundle and that its writes go to another hub. -/
def Hub.keepBundle (h : Hub) (q : Req) (hub b : Nat) : Hub :=
  let h1 := if h.bundlesOut.contains (hub, b) then h else { h with bundlesOut := h.bundlesOut ++ [(hub, b)] }
  match q.src with
  | .cell _ op _ => match mapGet h1.fabricOps op with
    | some o => { h1 with fabricOps := mapPut h1.fabricOps op { o with remote := true, bundle := some b } }
    | none => h1
  | .item i _ => h1.updItem i (fun t => { t with bundle := some b })
  | _ => h1

/-- The opcode of a request frame (R342). -/
def linkReqOp (k : ReqKind) : Nat :=
  match k with
  | .write => 1
  | .read => 2
  | .atomic .. => 3

/-- A request for another hub sent, or kept waiting for a tag, a bundle or its route (R29, R93, R345, R349, R353). -/
def Hub.sendRemote (h : Hub) (i : Nat) (q : Req) (hub : Nat) : Hub :=
  let rt := rQL_ROUTEh hub
  let link := h.fld rt fQL_ROUTEh_LINK
  if !h.flag rTOP_HUB_ID fTOP_HUB_ID_VALID || !h.flag rt fQL_ROUTEh_VALID ||
      (decide (h.fld (rQL_LINK_STS link) fQL_LINK_STS_STATE ≠ 4) && decide (h.fld (rQL_LINK_STS link) fQL_LINK_STS_STATE ≠ 5)) then
    h.failReq i fsROUTE kROUTE_MISS uQL link
  else
    match ((h.slD q.slice).links.find? (fun e => e.1 == hub)).map (·.2) with
    | none => h.failReq i fsACCESS kACCESS uQL link
    | some peer =>
      if h.closedPairs.contains (q.slice, hub, peer) then
        (h.setReq i { q with remoteHub := some hub }).failReq i fsSTOPPED kLINK_REFUSED uQL link
      else
        let q := { q with remoteHub := some hub }
        let counted := q.acnum.isSome
        let tag := if decide (h.tagsHeld q.slice < h.tagShare q.slice) && !h.routeHeld hub link then freeKey h.tags 16384 else none
        let bun := if counted then h.bundleFor q hub else some 0
        match tag, bun with
        | some tg, some b =>
          let h1 := if counted then h.keepBundle q hub b else h
          let (opd, cmp) := match q.kind with | .atomic _ o c => (o, c) | _ => (0, 0)
          let aop := match q.kind with | .atomic a _ _ => a | _ => 0
          let data := match q.kind with
            | .write => q.data
            | .read => []
            | .atomic .. => toLE 8 opd.toNat ++ toLE 8 cmp.toNat ++ zeros 16
          let t : THdr :=
            { op := linkReqOp q.kind, cls := q.cls, dstHub := hub, srcHub := h.hubNum, dstSlice := peer, srcSlice := q.slice,
              ctx := q.ctx, gen := q.gen, addr := q.pa % 2 ^ 42, len := if data = [] then q.len / 32 else data.length / 32, tag := tg,
              acnum := q.acnum.getD 0, bundle := b, ac := counted, last := counted && q.last, aop := aop,
              btotal := if counted then q.btotal else 0 }
          let tr : Tag :=
            { req := some i, hub := hub, link := link, slice := q.slice, ctx := q.ctx, gen := q.gen,
              bundle := if counted then some b else none, since := h.now }
          let h2 := { h1 with tags := mapPut h1.tags tg tr }
          (h2.setReq i { q with stage := .remote tg, bundle := if counted then some b else none }).sendFrame link 0 (thdrFrame 0 t data)
        | _, _ => h.setReq i { q with stage := .waiting }

/-- A QUIESCE for the pair of a slice and its peer, where a route stands (R350). -/
def Hub.sendQuiesce (h : Hub) (s hub peer why : Nat) : Hub :=
  let h1 := { h with nextId := h.nextId + 1,
                     quiesces := mapPut h.quiesces h.nextId { slice := s, hub := hub, peer := peer, why := why, since := h.now } }
  let r := rQL_ROUTEh hub
  if h.flag r fQL_ROUTEh_VALID then
    h1.sendFrame (h.fld r fQL_ROUTEh_LINK) 0 (thdrFrame 0 { op := 4, dstHub := hub, srcHub := h.hubNum, dstSlice := peer, srcSlice := s } [])
  else h1

/-- A window request sent to its chiplet, or kept waiting for a window credit (R361, R365). -/
def Hub.sendWindow (h : Hub) (i : Nat) (q : Req) (a : Nat) : Hub :=
  let s := (a - SITE_BASE) / 2 ^ 36
  let e := (a - SITE_BASE) % 2 ^ 36 / 2 ^ 30
  let owner := h.engineOwner s e
  let adv := decide (e < h.fld (rSITE_STS s) fSITE_STS_ENGINES)
  let up := decide (h.fld (rSITE_STS s) fSITE_STS_STATE = 3) || decide (h.fld (rSITE_STS s) fSITE_STS_STATE = 4)
  let okOwner := if q.mgmt then owner.isNone else decide (owner = some q.slice)
  if !(adv && okOwner) then
    (h.count (rSITE_ERR s) fSITE_ERR_VIOL 1).failReq i fsACCESS kACCESS uSITE s
  else if !up then h.failReq i fsACCESS kSITE_DOWN uSITE s
  else
    let k := h.site s
    if k.wcred ≤ k.wins.length then h.setReq i { q with stage := .waiting }
    else
      let op := match q.kind with | .write => 0x11 | .read => 0x12 | .atomic .. => 0x13
      let (aop, opd, cmp) : Nat × Word × Word := match q.kind with | .atomic x o c => (x, o, c) | _ => (0, 0, 0)
      let data := match q.kind with
        | .write => q.data
        | .read => []
        | .atomic .. => toLE 8 opd.toNat ++ toLE 8 cmp.toNat ++ zeros 16
      let len := match q.kind with | .read => q.len / 32 | _ => data.length / 32
      let tag := k.nextTag
      let h1 := h.setSite s { k with nextTag := (k.nextTag + 1) % 65536, wins := mapPut k.wins tag { req := some i, engine := e, since := h.now } }
      (h1.setReq i { q with stage := .siteWin tag }).sendSite s
        (mkPacket { op := op, engine := e, aop := aop, tag := tag, len := len, addr := a % 2 ^ 30, ctxid := if q.mgmt then 0 else ctxid q.slice q.ctx } data)

/-- A translated request leaves for its destination: this hub's HBM, a cell window, a site window, or another hub (R26,
R29). The register range and every unassigned address get an error response (R15, R20). -/
def Hub.routeReq (h : Hub) (i : Nat) : Hub :=
  match h.req i with
  | none => h
  | some q =>
    let a := q.pa % 2 ^ 42
    if q.pa / 2 ^ 42 ≠ h.hubNum then (h.sendRemote i q (q.pa / 2 ^ 42)).settleSrc q.src
    else if a < HBM_END then (h.setReq i { q with stage := .flight, since := h.now }).settleSrc q.src
    else if CELL_BASE ≤ a ∧ a < CELL_END then
      if (windowOf a).isSome then (h.setReq i { q with stage := .window, since := h.now }).settleSrc q.src
      else h.failReq i fsACCESS kACCESS uHUB 0
    else if SITE_BASE ≤ a ∧ a < SITE_END then (h.sendWindow i q a).settleSrc q.src
    else h.failReq i fsACCESS kACCESS uHUB 0

/-! ## Accesses of the hub's own (R25, R76, R97, R205, R259)

A record, a fault entry or a hold entry is a request like any other, and so is a read for a descriptor, an image or a hold entry. Each
is served within its command while its turn is the next at its channel or port (R283, R284); a write whose turn is not the next stays
a request, and a command whose read cannot be served yet has no effect (DESIGN CHOICE, log entry 137). -/

/-- Hazards of a cell as the stack reports of HBM name them. -/
def eccHazard : Ecc → Hazard
  | .corrected => .corrected
  | .uncorrected => .uncorrectable
  | _ => .clean

/-- What Umbra finds for a read of the hub's own. -/
def eccSeal : Ecc → SealOutcome
  | .umbra o => o
  | _ => .ok

/-- A request is the next that its channel serves. -/
def Hub.isNext (h : Hub) (ch i : Nat) : Bool :=
  match h.pickMaster ch with
  | some (k, _) => ((h.heads ch).find? (fun e => e.1 == k)).any (fun e => e.2.1 == i)
  | none => false

/-- The steps that a request of the hub's own takes at once: arrival, its slots, Umbra, its granules at a port. `ec` is what is found
at each hub-local line address. -/
def Hub.runOwn : Nat → Hub → Nat → (Nat → Ecc) → Hub
  | 0, h, _, _ => h
  | n + 1, h, i, ec =>
    match h.req i with
    | none => h
    | some q =>
      let p := (q.pickPiece 0).getD 0
      let e := ec ((q.pa % 2 ^ 42 + (q.pieces.getD p (0, 0)).1) / 64)
      match q.stage with
      | .flight => Hub.runOwn n (h.arrive i) i ec
      | .queued => match h.decode (q.pa % 2 ^ 42) with
        | some (ch, _) => if h.isNext ch i then Hub.runOwn n (h.commandSlot ch p e) i ec else h
        | none => h
      | .sealedGo => match h.sealPiece i p with
        | some x => Hub.runOwn n (h.sealServe i x (eccSeal e) e) i ec
        | none => h
      | .window => Hub.runOwn n (h.windowAccess i p (eccHazard e)) i ec
      | _ => h

/-- A write of the hub's own sent, and served as far as its turn has come. -/
def Hub.ownWrite (h : Hub) (q : Req) : Hub :=
  if h.halted then h
  else
    let (i, h1) := h.newReq q
    Hub.runOwn 24 (h1.routeReq i) i (fun _ => .clean)

/-- The hub after a read that could not be served: as it was, but for a halt that the read met (R318). -/
def Hub.orHalted (h h1 : Hub) : Hub := if h1.halted then h1 else h

/-- What a read of the hub's own comes to: its bytes, a failure, or nothing yet. -/
inductive OwnSays where
  | data (bs : List Byte)
  | failed (status : Nat)
  | blocked
  deriving DecidableEq, Repr

/-- One read of at most an aligned 256-byte run. What another hub's memory or a chiplet's holds is that unit's, a free value (log
entry 23). -/
def Hub.ownRun (h : Hub) (q : Req) (ec : Nat → Ecc) : OwnSays × Hub :=
  if h.halted then (.blocked, h)
  else
    let (i, h1) := h.newReq { q with kind := .read }
    let h2 := Hub.runOwn 24 (h1.routeReq i) i ec
    match h2.req i with
    | none => (.blocked, h)
    | some r => match r.stage with
      | .done => (.data r.data, h2.dropReq i)
      | .failed st => (.failed st, h2.dropReq i)
      | .remote _ | .siteWin _ =>
        let h3 : Hub := { h with draws := h.draws + 1 }
        match (List.range q.len).mapM (fun k => Config.remoteByte h.draws (q.pa + k)) with
        | some l => (.data l, h3)
        | none => (.failed fsREMOTE, h3)
      | _ => (.blocked, h.orHalted h2)

/-- A read of the hub's own of consecutive physical addresses, run by run; `ec` gives what is found by line of the read. -/
def Hub.ownRead (h : Hub) (q : Req) (pa n : Nat) (ec : Nat → Ecc) : OwnSays × Hub :=
  let r := (runs (n / 256 + 2) pa n).foldl (fun r p => match r.1 with
    | .data l =>
      let (s, h1) := r.2.ownRun { q with pa := pa + p.1, len := p.2 } (fun a => ec (a - pa % 2 ^ 42 / 64))
      (match s with
        | .data m => .data (l ++ m)
        | o => o, h1)
    | _ => r) (OwnSays.data [], h)
  if r.1 = .blocked then (.blocked, h.orHalted r.2) else r

/-- Every request that waits for a tag, a bundle, a route or a window credit tries again, in order. -/
def Hub.pump (h : Hub) : Hub :=
  (h.reqs.filterMap (fun e => if e.2.stage = .waiting then some e.1 else none)).foldl (fun h i => h.routeReq i) h

end Sys2Proof.Machine
end

