-- ==== Sys2Proof/Machine/Items.lean ====
section
/-! DEFINITION. Command descriptors as items of the command store: their fields (R193 to R195), the operand ranges they
touch, and the completion record an item ends with (R205 to R207). -/
namespace Sys2Proof.Machine

/-- The opcode and flag checks of R189 order 1: reserved bits and fields, ranges and alignments (R193 to R195). -/
def descBodyOk (d : List Byte) (used : List (Nat × Nat)) : Bool :=
  (List.range 64).all (fun i => decide (i < 3) || used.any (fun u => decide (u.1 ≤ i) && decide (i < u.1 + u.2)) || decide (d.getD i 0 = 0))

/-- A COPY or FILL length: a multiple of 64, from 64 to 2^36 (R195). -/
def lenOk (n : Nat) : Bool := decide (n % 64 = 0) && decide (64 ≤ n) && decide (n ≤ 2 ^ 36)

/-- Check 1 of R189 on a descriptor of a queue: slice none for a management queue. COPY and FILL use ACNUM and CKCH whatever their flags:
ACNUM names a counter, CKCH a channel number, and with CHECK one that the slice holds (log entry 133). -/
def Hub.descOk (h : Hub) (s : Option Nat) (d : List Byte) : Bool :=
  let op := dOpcode d
  let head := decide (leAt d 1 1 < 16) && decide (leAt d 2 1 < 16)
  let mg := s.isNone
  let acOk := !dAc d || !mg
  match op with
  | 1 => head && acOk && decide (dSrc d % 64 = 0) && decide (dDst d % 64 = 0) && lenOk (dLen d) &&
      decide (dAcnum d < 64) &&
      (if dCheck d then (match s with | none => false | some s => (h.slD s).check.contains (dCkch d)) else decide (dCkch d < 224)) &&
      descBodyOk d [(8, 8), (0x10, 8), (0x18, 8), (0x20, 4), (0x24, 1)]
  | 2 => head && acOk && !dCheck d && decide (dDst d % 64 = 0) && lenOk (dLen d) &&
      decide (dAcnum d < 64) &&
      descBodyOk d [(8, 8), (0x10, 8), (0x18, 8), (0x20, 4)]
  | 3 => head && !mg && !dAc d && !dCheck d && decide (dSrc d % 4096 = 0) && descBodyOk d [(8, 8), (0x10, 2)]
  | 4 => head && !mg && !dAc d && !dCheck d && descBodyOk d [(8, 2)]
  | 5 => head && !dAc d && !dCheck d && decide (dAcnum d < 64) && descBodyOk d [(8, 4), (0x10, 8)]
  | 6 => head && !dAc d && !dCheck d && descBodyOk d []
  | 7 => head && !mg && !dAc d && !dCheck d && decide (dSrc d % 64 = 0) &&
      descBodyOk d [(8, 8), (0x10, 2)]
  | _ => false

/-- The operand ranges the hub translates when it queues a descriptor: address, length and access (R190, R241). A LOAD's
image is entered by its header; the rest is translated as the LOAD reads it (DEDUCED, log entry 21). -/
def descRanges (d : List Byte) : List (Nat × Nat × ReqKind) :=
  match dOpcode d with
  | 1 => [(dSrc d, dLen d, .read), (dDst d, dLen d, .write)]
  | 2 => [(dDst d, dLen d, .write)]
  | 3 => [(dSrc d, 64, .read)]
  | 7 => [(dSrc d, 128, .read)]
  | _ => []

/-- A leaf of a list serves an access: it covers the address with the right, checked for a write where it was taken for one (R190). -/
def Leaf.serves (l : Leaf) (va : Nat) (k : ReqKind) : Bool := l.covers va && l.grants k && (l.d || !isWrite k)

/-- The first address of a range that no leaf of a list serves and that no failed page holds, over at most `n` leaves. -/
def uncovered (ls : List Leaf) (bad : List (Nat × ReqKind)) (k : ReqKind) : Nat → Nat → Nat → Option Nat
  | 0, va, stop => if va < stop then some va else none
  | n + 1, va, stop =>
    if stop ≤ va then none
    else if bad.contains (va / 2 ^ 21 * 2 ^ 21, k) then uncovered ls bad k n (va / 2 ^ 21 * 2 ^ 21 + 2 ^ 21) stop
    else match ls.find? (fun l => l.serves va k) with
      | none => some va
      | some l => uncovered ls bad k n (l.va + 2 ^ l.size) stop

/-- The pages of an item whose translation failed, with the access. -/
def Item.badPages (t : Item) : List (Nat × ReqKind) := t.xbad.map (fun b => (b.1 / 2 ^ 21 * 2 ^ 21, b.2.1))

/-- What remains to be translated of an operand: the address, or none where at most 64 leaves serve the range. -/
def Item.rangeNeeds (t : Item) (r : Nat × Nat × ReqKind) : Option (Nat × ReqKind) :=
  (uncovered t.leaves t.badPages r.2.2 65 r.1 (r.1 + r.2.1)).map (fun v => (v, r.2.2))

/-- What an item needs translated next. -/
def Item.needs (t : Item) : Option (Nat × ReqKind) := (descRanges t.desc).findSome? t.rangeNeeds

/-- The leaves that a range touches, a failed page counting as one. -/
def Item.leavesTouched (t : Item) (r : Nat × Nat × ReqKind) : Nat :=
  let meets (va size : Nat) : Bool := decide (va < r.1 + r.2.1) && decide (r.1 < va + size)
  ((t.leaves.filter (fun l => meets l.va (2 ^ l.size))).map (·.va)).eraseDups.length +
    (t.badPages.filter (fun b => decide (b.2 = r.2.2) && meets b.1 (2 ^ 21))).length

/-- A leaf taken for an access of an item: checked for it, so that a leaf taken for a write serves writes (R190). -/
def Item.addLeaf (t : Item) (l : Leaf) (k : ReqKind) : Item := { t with leaves := t.leaves ++ [{ l with d := l.d || isWrite k }] }

/-- A completion record sent to its ring as one 16-byte write of master 1 (R205, R280); `Hub.recordSeen` follows once it is visible. A
ring that does not translate after an invalidation holds the record (R272). -/
def Hub.putRecord (h : Hub) (q : Nat) (s : Option Nat) (seq : Nat) (rec : List Byte) (irq : Bool) : Hub :=
  let x := h.qrt q
  let hold : Hub := h.setQrt q { x with heldRecords := x.heldRecords ++ [(seq, rec, irq)] }
  let va := h.qCBase q + 16 * (seq % h.qN q)
  if x.broken || !x.heldRecords.isEmpty then hold
  else match h.ringPa s x.cring va with
    | none => hold
    | some pa =>
      let c := h.qCtx q
      h.ownWrite { src := .record q irq, slice := s.getD 0, ctx := c, mgmt := s.isNone, cls := 1, kind := .write, va := va, pa := pa,
                   len := 16, data := rec, gen := match s with | some s => h.gen (ctxid s c) | none => 0 }

/-- An item ends: its record is written and it leaves the command store; a stream it still holds is abandoned, and its
requests are withdrawn (R205, R434). After a hub halt none does (R319). -/
def Hub.endItem (h : Hub) (i status detail : Nat) : Hub :=
  match h.item i with
  | none => h
  | some t =>
    if h.halted then h
    else
      let h1 := { h with items := mapDel h.items i, reqs := h.reqs.filter (fun e => match e.2.src with | .item j _ => j != i | _ => true) }
      let h1 : Hub := if status ≠ stDONE then
          { h1 with invals := h1.invals.map (fun v => if v.items.contains i then { v with failed := v.failed + 1 } else v) } else h1
      let h1 := match t.slice with
        | some s => if t.taken then h1.abandonStream s (dCkch t.desc) else h1
        | none => h1
      let op := if dOpcode t.desc < 8 then dOpcode t.desc else 0
      let phase := !(bit t.seq (h.fld (rFAB_Q_RING t.queue) fFAB_Q_RING_LOG2 + 4))
      let h2 := (h1.putRecord t.queue t.slice t.seq
        (recordBytes t.seq t.queue status phase (dIrq t.desc) detail op t.gen) (dIrq t.desc)).finishStop t.queue
      match t.slice with
      | some s => h2.settleSlice s
      | none => h2

/-- The DETAIL of an item that ends early: the granules known written from its start, for COPY and FILL (R206). -/
def Item.detail (t : Item) : Nat := if dOpcode t.desc = 1 ∨ dOpcode t.desc = 2 then t.granules else 0

/-- An item ends with a status, its DETAIL as R206 gives. -/
def Hub.failItem (h : Hub) (i status : Nat) : Hub :=
  match h.item i with
  | none => h
  | some t => h.endItem i status t.detail

/-- The items that satisfy a condition, in order of their numbers. -/
def Hub.itemsWhere (h : Hub) (p : Item → Bool) : List Nat := (h.items.filter (fun e => p e.2)).map (·.1)

/-- An item has started and not yet ended. -/
def Item.started (t : Item) : Bool :=
  match t.st with
  | .running | .parked | .waitChan | .armed | .waiting => true
  | _ => false

/-- A descriptor of the item's queue with an earlier sequence number has not completed (R196). -/
def Hub.earlierOpen (h : Hub) (t : Item) : Bool :=
  h.items.any (fun e => decide (e.2.queue = t.queue) && decide ((e.2.seq + 2 ^ 32 - t.seq) % 2 ^ 32 ≥ 2 ^ 31))

/-- An earlier descriptor of the queue holds this one back: it has not started, or it is a WAITAC or FENCE (R196). -/
def Hub.heldBack (h : Hub) (t : Item) : Bool :=
  h.items.any (fun e => decide (e.2.queue = t.queue) && decide ((e.2.seq + 2 ^ 32 - t.seq) % 2 ^ 32 ≥ 2 ^ 31) &&
    (!e.2.started || decide (dOpcode e.2.desc = 5) || decide (dOpcode e.2.desc = 6)))

/-- A descriptor may start: ready, nothing holds it back, with ORDER every earlier one completed (R196), its slice LIVE
or in no slice (R53, R187), its tag current (R191), no halt, the FAB unit not stopped (R390). -/
def Hub.mayStart (h : Hub) (t : Item) : Bool :=
  !h.halted && !h.stoppedInst uFAB 0 && decide (t.st = .ready) && !h.heldBack t && (!dOrder t.desc || !h.earlierOpen t) &&
  (match t.slice with
   | none => true
   | some s => decide (h.stateOf s = 1) && !(h.rt s).holdWritten)

end Sys2Proof.Machine
end

