-- ==== Sys2Proof/Machine/Translate.lean ====
section
/-! DEFINITION. Address translation (R239 to R263, R269 to R274): the walk, its cache, the routing of a translated request
(R29, R353, R361), translation faults and the fault ring, and invalidations. -/
namespace Sys2Proof.Machine

/-! ## The entry decoder (R246) -/

/-- A format slot as the walker uses it. -/
structure Fmt where
  ctl : Word
  pos : Word
  leaf : Word
  must0 : Word
  must1 : Word
  deriving DecidableEq, Repr, Inhabited

/-- The presets of slots 0 and 1. -/
def fmtPreset (f : Nat) : Fmt :=
  { ctl := if f = 0 then 0x80000000000f9384 else 0x80000000000f93cd
    pos := 0x2c0a070600020100
    leaf := 0xe
    must0 := 0x9fc0000000000000
    must1 := 0x10 }

def Hub.fmt (h : Hub) (f : Nat) : Fmt :=
  if f < 2 then fmtPreset f
  else { ctl := h.reg (rHTU_FMT_CTL f), pos := h.reg (rHTU_FMT_POS f), leaf := h.reg (rHTU_FMT_LEAF f),
         must0 := h.reg (rHTU_FMT_MUST0 f), must1 := h.reg (rHTU_FMT_MUST1 f) }

def Fmt.levels (f : Fmt) : Nat := getFld f.ctl fHTU_FMT_CTL_LEVELS
def Fmt.vaBits (f : Fmt) : Nat := getFld f.ctl fHTU_FMT_CTL_VA_BITS
def Fmt.idxBits (f : Fmt) : Nat := getFld f.ctl fHTU_FMT_CTL_IDX_BITS
def Fmt.pageShift (f : Fmt) : Nat := getFld f.ctl fHTU_FMT_CTL_PAGE_SHIFT
def Fmt.canon (f : Fmt) : Bool := decide (getFld f.ctl fHTU_FMT_CTL_CANON = 1)
def Fmt.adCheck (f : Fmt) : Bool := decide (getFld f.ctl fHTU_FMT_CTL_AD_CHECK = 1)
def Fmt.wrRule (f : Fmt) : Bool := decide (getFld f.ctl fHTU_FMT_CTL_WR_RULE = 1)
def Fmt.atomBit (f : Fmt) : Bool := decide (getFld f.ctl fHTU_FMT_CTL_ATOM_BIT = 1)
def Fmt.valid (f : Fmt) : Bool := decide (getFld f.ctl fHTU_FMT_CTL_VALID = 1)

/-- The conditions of R246 on a control value: VA_BITS adds up, and every field lies in its range. -/
def fmtCtlOk (c p : Word) : Bool :=
  let g (f : Fld) : Nat := getFld c f
  decide (g fHTU_FMT_CTL_VA_BITS = g fHTU_FMT_CTL_PAGE_SHIFT + g fHTU_FMT_CTL_LEVELS * g fHTU_FMT_CTL_IDX_BITS) &&
  decide (2 ≤ g fHTU_FMT_CTL_LEVELS) && decide (g fHTU_FMT_CTL_LEVELS ≤ 5) && decide (32 ≤ g fHTU_FMT_CTL_VA_BITS) &&
  decide (4 ≤ g fHTU_FMT_CTL_IDX_BITS) && decide (g fHTU_FMT_CTL_IDX_BITS ≤ 13) && decide (12 ≤ g fHTU_FMT_CTL_PAGE_SHIFT) &&
  decide (1 ≤ getFld p fHTU_FMT_POS_PPN_WIDTH) && decide (getFld p fHTU_FMT_POS_PPN_WIDTH ≤ 52)

/-- The fault reasons of R249. -/
def rsOFF : Nat := 1
def rsNON_CANON : Nat := 2
def rsWALK_READ : Nat := 3
def rsNOT_VALID : Nat := 4
def rsBAD_ENTRY : Nat := 5
def rsNO_LEAF : Nat := 6
def rsPAGE_SIZE : Nat := 7
def rsMISALIGNED : Nat := 8
def rsRIGHTS : Nat := 9
def rsAD_CLEAR : Nat := 10
def rsRANGE : Nat := 11

/-- The address bits above VA_BITS - 1 keep the CANON rule (R246). -/
def canonOk (f : Fmt) (va : Nat) : Bool :=
  let hi := va / 2 ^ f.vaBits % 2 ^ (64 - f.vaBits)
  if f.canon && bit va (f.vaBits - 1) then decide (hi = 2 ^ (64 - f.vaBits) - 1) else decide (hi = 0)

/-- What one page entry leads to. -/
inductive WalkStep where
  | fault (reason : Nat)
  | down (table : Nat)
  | leaf (pa size : Nat)
  deriving DecidableEq, Repr

def posBit (f : Fmt) (p : Fld) (e : Nat) : Bool := e.testBit (getFld f.pos p)

/-- One pass of the walk's loop on the entry read at level `lv`, with the leaf checks that do not depend on the access
(R247). -/
def walkEntry (f : Fmt) (lv e : Nat) : WalkStep :=
  if !posBit f fHTU_FMT_POS_V_POS e then .fault rsNOT_VALID
  else if e &&& f.must0.toNat ≠ 0 then .fault rsBAD_ENTRY
  else
    let a := (e / 2 ^ getFld f.pos fHTU_FMT_POS_PPN_LO % 2 ^ getFld f.pos fHTU_FMT_POS_PPN_WIDTH) * 2 ^ f.pageShift
    if e &&& f.leaf.toNat = 0 then (if lv = 0 then .fault rsNO_LEAF else .down a)
    else
      let sz := f.pageShift + lv * f.idxBits
      if sz ≠ 21 ∧ sz ≠ 30 then .fault rsPAGE_SIZE
      else if f.wrRule && posBit f fHTU_FMT_POS_W_POS e && !posBit f fHTU_FMT_POS_R_POS e then .fault rsBAD_ENTRY
      else if a % 2 ^ sz ≠ 0 then .fault rsMISALIGNED
      else .leaf a sz

/-- The cached form of a leaf: its rights (none where MUST1 is broken), A and D as the format has them. -/
def mkLeaf (f : Fmt) (cid va pa size lv e : Nat) : Leaf :=
  let u := decide (e &&& f.must1.toNat = f.must1.toNat)
  let r := posBit f fHTU_FMT_POS_R_POS e
  let w := posBit f fHTU_FMT_POS_W_POS e
  { ctxid := cid, va := va / 2 ^ size * 2 ^ size, pa := pa, size := size, r := u && r, w := u && w,
    atom := u && (if f.atomBit then posBit f fHTU_FMT_POS_ATOM_POS e else r && w),
    d := posBit f fHTU_FMT_POS_D_POS e, entry := e, level := lv }

/-- The checks of a leaf that depend on the access, in the walk's order; none where it passes (R247). -/
def leafFault (f : Fmt) (l : Leaf) (k : ReqKind) : Option Nat :=
  if !l.grants k then some rsRIGHTS
  else if f.adCheck && (!posBit f fHTU_FMT_POS_A_POS l.entry || (isWrite k && !l.d)) then some rsAD_CLEAR
  else if 2 ^ 51 ≤ l.pa then some rsRANGE
  else none

/-! ## Contexts and the translation cache -/

def Hub.ctxCfg (_h : Hub) (cid : Nat) : Nat := rHTU_CTX_CFGn (cid / 16) (cid % 16)
def Hub.ctxValid (h : Hub) (cid : Nat) : Bool := h.flag (h.ctxCfg cid) fHTU_CTX_CFGn_VALID
def Hub.ctxFmt (h : Hub) (cid : Nat) : Fmt := h.fmt (h.fld (h.ctxCfg cid) fHTU_CTX_CFGn_FMT)
def Hub.ctxLoc (h : Hub) (cid : Nat) : Bool := h.flag (h.ctxCfg cid) fHTU_CTX_CFGn_LOC
def Hub.ctxRoot (h : Hub) (cid : Nat) : Nat :=
  h.fld (rHTU_CTX_ROOTn (cid / 16) (cid % 16)) fHTU_CTX_ROOTn_ADDR * 4096

/-- A cached leaf that serves an access: the page, and D set where the access writes (R252). -/
def Hub.lookup (h : Hub) (cid va : Nat) (k : ReqKind) : Option Leaf :=
  h.cache.find? (fun l => decide (l.ctxid = cid) && l.covers va && (l.d || !isWrite k))

/-- The entry a fill replaces: the least recently used of a slice that holds more than 4 (R251), or of the filling slice. -/
def cacheVictim (ls : List Leaf) (s : Nat) : Option Leaf :=
  ls.reverse.find? (fun l => decide (l.ctxid / 16 = s) || decide (4 < (ls.filter (fun x => x.ctxid / 16 == l.ctxid / 16)).length))

/-- A leaf put in the translation cache of 32,768 entries, most recently used first (R251). -/
def Hub.fillLeaf (h : Hub) (l : Leaf) : Hub :=
  let c := h.cache.filter (fun x => !(decide (x.ctxid = l.ctxid) && decide (x.va = l.va) && decide (x.size = l.size)))
  let c := if c.length < 32768 then c else match cacheVictim c (l.ctxid / 16) with
    | some v => c.erase v
    | none => c.dropLast
  { h with cache := l :: c }

def Hub.useLeaf (h : Hub) (l : Leaf) : Hub := { h with cache := l :: h.cache.erase l }

/-- The start of a walk: the table and level to read, from the lowest non-leaf entry the walk cache holds (R251). -/
def Hub.walkStart (h : Hub) (cid va : Nat) : Nat × Nat :=
  let f := h.ctxFmt cid
  match h.walkCache.filter (fun e => decide (e.ctxid = cid) && decide (va / 2 ^ (f.pageShift + (e.lv + 1) * f.idxBits) = e.tag)) with
  | [] => (h.ctxRoot cid, f.levels - 1)
  | e :: es => let b := es.foldl (fun b x => if x.lv < b.lv then x else b) e; (b.table, b.lv)

/-- A non-leaf entry kept in the walk cache of 4,096 entries: the table that level `lv` reads for this address. -/
def Hub.fillWalk (h : Hub) (cid va lv table : Nat) : Hub :=
  let f := h.ctxFmt cid
  let e : WalkEnt := { ctxid := cid, lv := lv, tag := va / 2 ^ (f.pageShift + (lv + 1) * f.idxBits), table := table }
  { h with walkCache := e :: (h.walkCache.erase e).take 4095 }

/-- What a table read comes to: the entry, a failure, or nothing yet. -/
inductive TableSays where
  | entry (e : Nat)
  | failed
  | blocked
  deriving DecidableEq, Repr

/-- A table read at an address (R248): LOC 0 a read of the slice in this hub's HBM, class 10, by the master whose request caused the walk
(R280); LOC 1 from the host. -/
def Hub.tableRead (h : Hub) (cid a who : Nat) (host : Option Word) (ecc : Ecc) : TableSays × Hub :=
  if h.ctxLoc cid then ((host.map (fun w => TableSays.entry w.toNat)).getD .failed, h)
  else if a / 2 ^ 42 ≠ h.hubNum ∨ HBM_END ≤ a % 2 ^ 42 then (.failed, h)
  else
    let r := h.ownRun { src := .own (some 10), slice := cid / 16, ctx := cid % 16, cls := who, pa := a, len := 8 } (fun _ => ecc)
    (match r.1 with
      | .data l => .entry (leNat l)
      | .failed _ => .failed
      | .blocked => .blocked, r.2)

/-- The address of the entry for a virtual address in a table (R247). -/
def entryAddr (f : Fmt) (table lv va : Nat) : Nat :=
  table + 8 * (va / 2 ^ (f.pageShift + lv * f.idxBits) % 2 ^ f.idxBits)

/-- What a translation made at once comes to: the leaf; a reason with the last entry and its level; nothing yet. -/
inductive XSays where
  | leaf (l : Leaf)
  | fault (reason entry level : Nat)
  | blocked
  deriving DecidableEq, Repr

/-- A whole walk at once, for accesses the hub makes within one command (host requests, ring translations, pins). Host-memory entries
come from `host`. -/
def Hub.syncWalk (cid va who : Nat) (k : ReqKind) (host : Nat → Option Word) (ecc : Ecc) :
    Nat → Hub → Nat → Nat → Nat → XSays × Hub
  | 0, hub, _, _, n => (.fault rsWALK_READ 0 n, hub)
  | fuel + 1, hub, table, lv, n =>
    let f := hub.ctxFmt cid
    match hub.tableRead cid (entryAddr f table lv va) who (host n) ecc with
    | (.failed, hub) => (.fault rsWALK_READ 0 lv, hub)
    | (.blocked, hub) => (.blocked, hub)
    | (.entry e, hub) =>
      match walkEntry f lv e with
      | .fault r => (.fault r e lv, hub)
      | .down t => Hub.syncWalk cid va who k host ecc fuel hub t (lv - 1) (n + 1)
      | .leaf a sz =>
        let l := mkLeaf f cid va a sz lv e
        match leafFault f l k with
        | some r => (.fault r e lv, hub)
        | none => (.leaf l, hub)

/-- A translation made at once: the cache, else a whole walk from the root. A stopped HTU reads no entry (R390). -/
def Hub.xlateNow (h : Hub) (cid va who : Nat) (k : ReqKind) (host : Nat → Option Word) (ecc : Ecc) : XSays × Hub :=
  if h.stoppedInst uHTU 0 then (.fault rsWALK_READ 0 0, h)
  else if !h.ctxValid cid then (.fault rsOFF 0 0, h)
  else if !canonOk (h.ctxFmt cid) va then (.fault rsNON_CANON 0 0, h)
  else match h.lookup cid va k with
    | some l => match leafFault (h.ctxFmt cid) l k with
      | some r => (.fault r l.entry l.level, h)
      | none => (.leaf l, h)
    | none => Hub.syncWalk cid va who k host ecc 6 h (h.ctxRoot cid) ((h.ctxFmt cid).levels - 1) 0

/-- The host entries the environment gives in order. -/
def hostList (l : List Word) (n : Nat) : Option Word := l[n]?

/-- The host entries of a translation without an operand for them: free values. -/
def Hub.hostFree (h : Hub) (n : Nat) : Option Word := Config.hostRead h.draws n

/-! ## Translation faults (R254 to R262) -/

/-- Bits [63:21] of an address. -/
def page21 (va : Nat) : Nat := va / GRAN

/-- Two faults share one entry (R260). -/
def XFault.joins (x : XFault) (cid reason va : Nat) : Bool :=
  decide (x.ctxid = cid) && decide (x.reason = reason) && decide (page21 x.va = page21 va)

def Hub.fqN (h : Hub) (s : Nat) : Nat := 2 ^ (h.fld (rHTU_FQ_BASE s) fHTU_FQ_BASE_LOG2 + 4)

/-- The ring has no space: PROD - CONS = N. -/
def Hub.fqFull (h : Hub) (s : Nat) : Bool :=
  decide ((h.fld (rHTU_FQ_PTR s) fHTU_FQ_PTR_PROD + 2 ^ 32 - h.fld (rHTU_FQ_PTR s) fHTU_FQ_PTR_CONS) % 2 ^ 32 = h.fqN s)

/-- The 32 bytes of a fault ring entry (R259). -/
def faultEntry (x : XFault) (fid : Nat) (phase : Bool) : List Byte :=
  toLE 8 x.va ++ toLE 4 fid ++ toLE 2 x.ctxid ++ toLE 1 x.reason ++ toLE 1 x.access ++ toLE 8 x.entry ++ toLE 1 x.level ++
  toLE 1 (b2n phase) ++ zeros 6

/-- A fault entry sent to the ring as one 32-byte write under the faulting context, its vector raised once it is visible (R259). The spec
charges it to no master of R280's table; the model takes master 1, as for the other rings (DESIGN CHOICE, log entry 138). -/
def Hub.writeFault (h : Hub) (x : XFault) : XFault × Hub :=
  let s := x.slice
  let fid := h.fld (rHTU_FQ_PTR s) fHTU_FQ_PTR_PROD
  let phase := !(bit fid (h.fld (rHTU_FQ_BASE s) fHTU_FQ_BASE_LOG2 + 4))
  let a := h.fld (rHTU_FQ_BASE s) fHTU_FQ_BASE_ADDR * 4096 + 32 * (fid % h.fqN s)
  let h1 := h.setF (rHTU_FQ_PTR s) fHTU_FQ_PTR_PROD (fid + 1)
  ({ x with fid := some fid, since := h.now },
   h1.ownWrite { src := .faultEntry s, slice := s, ctx := x.ctxid % 16, cls := 1, kind := .write, va := a, pa := h.localPa a, len := 32,
                 data := faultEntry x fid phase, gen := h.gen x.ctxid })

/-- The waiting faults of a slice written while the ring has space, in the order they began to wait (R260). -/
def Hub.drainFaults : Nat → Hub → Nat → Hub
  | 0, h, _ => h
  | n + 1, h, s =>
    match h.xfaults.find? (fun x => decide (x.slice = s) && x.fid.isNone) with
    | none => h
    | some x =>
      if h.fqFull s then h
      else
        let (y, h1) := h.writeFault x
        Hub.drainFaults n { h1 with xfaults := h1.xfaults.map (fun z => if z = x then y else z) } s

/-- A translation fault answered FAIL for a request (R254). -/
def Hub.xlateFail (h : Hub) (i : Nat) : Hub :=
  match h.req i with
  | none => h
  | some q =>
    match q.src with
    | .cell c op _ =>
      ((h.dropReq i).opStep op (some fsXLATE)).stopCell c
        { source := srcOf uHTU 0, kind := kXLATE, cls := clsContained, slice := some q.slice, ctx := some q.ctx }
    | .site s e tag =>
      let h1 := ((h.dropBoth i).sendSite s (mkPacket { op := siteRspOp q.kind, engine := e, tag := tag, status := 3 } [])).closeEngine s e
      h1.fault { source := srcOf uHTU 0, kind := kXLATE, cls := clsContained, slice := some q.slice, ctx := some q.ctx, aux := 0 }
    | _ => h.dropReq i

/-- A descriptor's translation fails: it ends XLATE (R190, R257). -/
def Hub.xlateFailItem (h : Hub) (i : Nat) : Hub := h.failItem i stXLATE

/-- Who a walk or fault is for, as ACCESS bits [5:4] have it (R259). -/
def Hub.whoOf (h : Hub) (reqs items : List Nat) : Nat :=
  if items ≠ [] ∧ reqs = [] then 1
  else match (reqs.head?).bind h.req with
    | some q => (match q.src with | .site .. => 2 | .item .. => 1 | _ => 0)
    | none => 1

/-- The access bits of R259. -/
def accessBits (k : ReqKind) (who : Nat) : Nat :=
  (match k with | .read => 1 | .write => 2 | .atomic .. => 4) + who * 16

/-- The accesses waiting on a faulted walk stall: a cell's port and a site engine (R255, R369). -/
def Hub.stallReq (h : Hub) (i : Nat) : Hub :=
  match h.req i with
  | none => h
  | some q =>
    let h1 := h.setReq i { q with stage := .fault }
    match q.src with
    | .cell c _ _ => h1.updCell c (fun x => { x with portStall := true, run := if x.run = .running then .stalled else x.run })
    | .site s e _ => if (h1.site s).closedEng.contains e then h1 else h1.engState s e 2
    | _ => h1

/-- A translation fault of accesses under one slice (R254, R259, R260, R262). CR7 mode fails a cell's and a site
engine's access at once; a descriptor's fault is native in either mode (R190). With EN = 0 a native fault is FAIL at once. -/
def Hub.xlateFault (h : Hub) (s cid reason va : Nat) (k : ReqKind) (entry level : Nat) (reqs items : List Nat) : Hub :=
  let rq := if h.cr7 s then [] else reqs
  let h1 := if h.cr7 s then reqs.foldl (fun h i => h.xlateFail i) h else h
  if rq = [] ∧ items = [] then h1
  else if !h1.flag (rHTU_FQ_CTL s) fHTU_FQ_CTL_EN then
    items.foldl (fun h i => h.xlateFailItem i) (rq.foldl (fun h i => h.xlateFail i) h1)
  else
    let h2 := rq.foldl (fun h i => h.stallReq i) h1
    match h2.xfaults.find? (fun x => x.joins cid reason va) with
    | some x => { h2 with xfaults := h2.xfaults.map (fun z => if z = x then { z with reqs := z.reqs ++ rq, items := z.items ++ items } else z) }
    | none =>
      let x : XFault :=
        { slice := s, ctxid := cid, reason := reason, va := va, access := accessBits k (h.whoOf rq items), entry := entry,
          level := level, since := h.now, reqs := rq, items := items }
      if h2.fqFull s then
        { (h2.setF (rHTU_FQ_CTL s) fHTU_FQ_CTL_FULL 1) with xfaults := h2.xfaults ++ [x] }
      else
        let (y, h3) := h2.writeFault x
        { h3 with xfaults := h3.xfaults ++ [y] }

/-! ## Requests enter the HTU (R239, R242) -/

/-- A walk for an access, or one of the same slice-context and 2 MiB page joined (R242). -/
def Hub.needWalk (h : Hub) (s ctx va : Nat) (k : ReqKind) (who : Nat) (req item : List Nat) : Hub :=
  match h.walks.find? (fun w => decide (w.2.slice = s) && decide (w.2.ctx = ctx) && decide (page21 w.2.va = page21 va)) with
  | some (i, w) => { h with walks := mapPut h.walks i { w with reqs := w.reqs ++ req, items := w.items ++ item } }
  | none =>
    let (i, h1) := h.fresh
    { h1 with walks := mapPut h1.walks i { slice := s, ctx := ctx, va := va, kind := k, who := who, reqs := req, items := item } }

/-- The port or engine of a request is stalled on an earlier translation fault (R255, R369). -/
def Hub.portBlocked (h : Hub) (q : Req) : Bool :=
  match q.src with
  | .cell c _ _ => (h.cell c).portStall
  | .site s e _ => decide (h.fld (rSITE_ENGe s e) fSITE_ENGe_STATE = 2)
  | _ => false

/-- An earlier request of the same source to the same page waits on a walk (R242). -/
def Hub.walkAhead (h : Hub) (i : Nat) (q : Req) : Bool :=
  h.walks.any (fun w => decide (w.2.slice = q.slice) && decide (w.2.ctx = q.ctx) && decide (page21 w.2.va = page21 q.va) &&
    w.2.reqs.any (fun j => decide (j < i) && (match h.req j with
      | some p => p.sameSource q
      | none => false)))

/-- A request looked up in the HTU: held behind a stalled access of its port, refused for a context that is not enabled
(R51), translated by the cache, or put on a walk: its own, or the one an earlier request of its source to that page waits on (R242). A
stopped HTU answers with an error (R390). -/
def Hub.htu (h : Hub) (i : Nat) : Hub :=
  match h.req i with
  | none => h
  | some q =>
    let cid := ctxid q.slice q.ctx
    if h.stoppedInst uHTU 0 then h.failReq i fsXLATE kXLATE uHTU 0
    else if h.portBlocked q then h.setReq i { q with stage := .held }
    else if h.walkAhead i q then h.needWalk q.slice q.ctx q.va q.kind q.cls [i] []
    else match h.lookup cid q.va q.kind with
      | some l =>
        if !h.ctxValid cid then h.xlateFault q.slice cid rsOFF q.va q.kind 0 0 [i] []
        else match leafFault (h.ctxFmt cid) l q.kind with
          | some r => h.xlateFault q.slice cid r q.va q.kind l.entry l.level [i] []
          | none => ((h.useLeaf l).setReq i { q with pa := l.pa + (q.va - l.va) }).routeReq i
      | none => h.needWalk q.slice q.ctx q.va q.kind q.cls [i] []

/-- The requests a stalled port held go to the HTU again, in order, once the replay has been issued (R255). -/
def Hub.releaseHeld (h : Hub) (same : Req → Bool) : Hub :=
  (h.reqs.filterMap (fun e => if e.2.stage = .held && same e.2 then some e.1 else none)).foldl (fun h i => h.htu i) h

/-- The stall of a port or engine ends once no access of it waits on a fault. -/
def Hub.unstall (h : Hub) (q : Req) : Hub :=
  match q.src with
  | .cell c _ _ =>
    if h.reqs.any (fun e => decide (e.2.stage = .fault) && (match e.2.src with | .cell d _ _ => d == c | _ => false)) then h
    else (h.updCell c (fun x => { x with portStall := false, run := if x.run = .stalled then .running else x.run })).releaseHeld
      (fun r => match r.src with | .cell d _ _ => d == c | _ => false)
  | .site s e _ =>
    if h.reqs.any (fun x => decide (x.2.stage = .fault) && (match x.2.src with | .site a b _ => a == s && b == e | _ => false)) then h
    else (if (h.site s).closedEng.contains e then h else h.engState s e 1).releaseHeld (fun r => match r.src with | .site a b _ => a == s && b == e | _ => false)
  | _ => h

/-! ## Items' translations (R190, R192) -/

/-- An item translated as far as the cache goes; on a miss its walk is asked for, and where every operand is served the item is ready.
An operand that more than 64 leaves cover ends the item SPAN, before a page that does not translate counts (R189); then the first such
page is the item's translation fault. A context whose VALID is 0 ends in OFF (R245). -/
def Hub.xlateItem : Nat → Hub → Nat → Hub
  | 0, h, _ => h
  | n + 1, h, i =>
    match h.item i with
    | none => h
    | some t =>
      match t.slice with
      | none => h.setItem i { t with st := .ready }
      | some s =>
        let cid := ctxid s t.ctx
        if (descRanges t.desc).any (fun r => decide (64 < t.leavesTouched r)) then h.failItem i stSPAN
        else if t.needs.isSome && h.stoppedInst uHTU 0 then h.failItem i stXLATE
        else match t.needs with
          | none => match t.xbad with
            | [] => h.setItem i { t with st := .ready }
            | (va, k, r, e, lv) :: _ => (h.setItem i { t with st := .xlate, xbad := [] }).xlateFault s cid r va k e lv [] [i]
          | some (va, k) =>
            let bad (r e lv : Nat) : Hub := h.setItem i { t with st := .xlate, xbad := t.xbad ++ [(va, k, r, e, lv)] }
            if !h.ctxValid cid then Hub.xlateItem n (bad rsOFF 0 0) i
            else match h.lookup cid va k with
              | some l => match leafFault (h.ctxFmt cid) l k with
                | some r => Hub.xlateItem n (bad r l.entry l.level) i
                | none => Hub.xlateItem n ((h.useLeaf l).setItem i (t.addLeaf l k)) i
              | none => (h.setItem i { t with st := .xlate }).needWalk s t.ctx va k 1 [] [i]

/-- The most leaves an item's two operands can touch before it ends SPAN, plus the last pass. -/
def xlateFuel : Nat := 140

/-! ## Walks -/

/-- The walkers of a slice and in all (R250). -/
def Hub.walkersOf (h : Hub) (s : Nat) : Nat := (h.walks.filter (fun w => decide (w.2.slice = s) && w.2.started)).length
def Hub.walkersBusy (h : Hub) : Nat := (h.walks.filter (fun w => w.2.started)).length

/-- A slice may take a walker now: one is free, and the slice has had none in the round that runs, or every slice whose walks wait
has had one and the slice starts the next round or its share of the rest by WALKER_WEIGHT leaves it another (R250). -/
def Hub.walkerMay (h : Hub) (s : Nat) : Bool :=
  let ps := (h.walks.map (fun w => w.2.slice)).eraseDups
  let waiting := ((h.walks.filter (fun w => !w.2.started)).map (fun w => w.2.slice)).eraseDups
  decide (h.walkersBusy < 96) &&
  (!h.walkRound.contains s ||
   (waiting.all h.walkRound.contains &&
    (decide (h.walkersOf s = 0) ||
     decide (h.walkersOf s < share 96 (ps.map (fun p => (p, 1, (h.slD p).walkerWeight))) s))))

/-- The round after a slice has taken a walker. -/
def Hub.roundAfter (h : Hub) (s : Nat) : List Nat :=
  if !h.walkRound.contains s then s :: h.walkRound else if h.walkersOf s = 0 then [s] else h.walkRound

/-- What waits on a walk gets one outcome each, in the order of issue: a request behind one of its port that has stalled is held (R242,
R255), an item goes on where the page is the one it needs. -/
def Hub.walkOut (h : Hub) (x : Walk) (req : Hub → Nat → Req → Hub) (item : Hub → Nat → Item → Nat → ReqKind → Hub) : Hub :=
  let h2 := x.reqs.foldl (fun h i => match h.req i with
    | none => h
    | some q => if h.portBlocked q && decide (q.stage ≠ .fault) then h.setReq i { q with stage := .held } else req h i q) h
  x.items.foldl (fun h i => match h.item i with
    | none => h
    | some t => match t.needs with
      | none => Hub.xlateItem xlateFuel h i
      | some (va, k) => if page21 va = page21 x.va then item h i t va k else Hub.xlateItem xlateFuel h i) h2

/-- A walk ends in a fault for everything that waits on it: each access has its own address and kind (R259). Accesses to the page that
were issued before the fault go on to it together (R255, R260). -/
def Hub.walkFault (h : Hub) (w : Nat) (x : Walk) (reason entry level : Nat) : Hub :=
  let h1 := x.reqs.foldl (fun h i => match h.req i with
    | none => h
    | some q => h.xlateFault x.slice (ctxid x.slice x.ctx) reason q.va q.kind entry level [i] []) { h with walks := mapDel h.walks w }
  h1.walkOut { x with reqs := [] } (fun h _ _ => h) (fun h i t va k =>
    Hub.xlateItem xlateFuel (h.setItem i { t with xbad := t.xbad ++ [(va, k, reason, entry, level)] }) i)

/-- A walk takes a walker: the context must translate and the address keep the CANON rule, or it faults at once (R247). -/
def Hub.startWalk (h : Hub) (w : Nat) : Hub :=
  match mapGet h.walks w with
  | none => h
  | some x =>
    let cid := ctxid x.slice x.ctx
    if x.started || !h.walkerMay x.slice then h
    else if !h.ctxValid cid then h.walkFault w x rsOFF 0 0
    else if !canonOk (h.ctxFmt cid) x.va then h.walkFault w x rsNON_CANON 0 0
    else
      let (t, lv) := h.walkStart cid x.va
      { h with walks := mapPut h.walks w { x with started := true, table := t, lv := lv }, walkRound := h.roundAfter x.slice }

/-- A walk's leaf given to what waits on it, each access checked for itself (R247, R261). A page at or above 2^51 is not cached. -/
def Hub.walkLeaf (h : Hub) (w : Nat) (x : Walk) (l : Leaf) : Hub :=
  let f := h.ctxFmt l.ctxid
  let h1 : Hub := { h with walks := mapDel h.walks w }
  let h2 := if l.pa < 2 ^ 51 then h1.fillLeaf l else h1
  h2.walkOut x
    (fun h i q => match leafFault f l q.kind with
      | some r => h.xlateFault q.slice l.ctxid r q.va q.kind l.entry l.level [i] []
      | none => ((h.setReq i { q with pa := l.pa + (q.va - l.va) }).routeReq i).unstall q)
    (fun h i t va k => match leafFault f l k with
      | some r => Hub.xlateItem xlateFuel (h.setItem i { t with xbad := t.xbad ++ [(va, k, r, l.entry, l.level)] }) i
      | none => Hub.xlateItem xlateFuel (h.setItem i (t.addLeaf l k)) i)

/-- A page entry returns: the walk descends, ends in a leaf, or faults (R247, R248). -/
def Hub.walkReturn (h : Hub) (w : Nat) (host : Option Word) (ecc : Ecc) : Hub :=
  match mapGet h.walks w with
  | none => h
  | some x =>
    let cid := ctxid x.slice x.ctx
    let f := h.ctxFmt cid
    if !x.started then h
    else if !h.ctxValid cid then h.walkFault w x rsOFF 0 0
    else match h.tableRead cid (entryAddr f x.table x.lv x.va) (if x.who = 3 then 1 else x.who) host ecc with
      | (.blocked, h1) => h.orHalted h1
      | (.failed, h1) => h1.walkFault w x rsWALK_READ 0 0
      | (.entry e, h1) =>
        match walkEntry f x.lv e with
        | .fault r => h1.walkFault w x r e x.lv
        | .down t =>
          { (h1.fillWalk cid x.va (x.lv - 1) t) with walks := mapPut h1.walks w { x with table := t, lv := x.lv - 1 } }
        | .leaf p sz => h1.walkLeaf w x (mkLeaf f cid x.va p sz x.lv e)

/-! ## Answers (R261) -/

/-- An entry answered FAIL: every access waiting on it fails. -/
def Hub.answerFail (h : Hub) (x : XFault) : Hub :=
  let h1 := { h with xfaults := h.xfaults.erase x }
  x.items.foldl (fun h i => h.xlateFailItem i) (x.reqs.foldl (fun h i => h.xlateFail i) h1)

/-- An entry answered RETRY: every access waiting on it is walked again. -/
def Hub.answerRetry (h : Hub) (x : XFault) : Hub :=
  let h1 := { h with xfaults := h.xfaults.erase x }
  let h2 := x.reqs.foldl (fun h i => match h.req i with
    | none => h
    | some q =>
      (h.setReq i { q with stage := .fault }).needWalk q.slice q.ctx q.va q.kind q.cls [i] []) h1
  x.items.foldl (fun h i => match h.item i with
    | none => h
    | some t => match t.needs with
      | none => Hub.xlateItem xlateFuel h i
      | some (va, k) => h.needWalk x.slice t.ctx va k 1 [] [i]) h2

/-- Every unanswered entry of a slice, or of one of its contexts, answered FAIL. -/
def Hub.failAllFaults (h : Hub) (s : Nat) (c : Option Nat) : Hub :=
  (h.xfaults.filter (fun x => decide (x.slice = s) && (match c with | none => true | some c => decide (x.ctxid % 16 = c)))).foldl
    (fun h x => h.answerFail x) h

end Sys2Proof.Machine
end

