-- ==== Sys2Proof/Machine/Htu.lean ====
section
/-! DEFINITION. The commands of the hub translation unit: walks and their reads, fault answers, the fault ring's registers,
contexts and format slots, and invalidations (R239 to R274). -/
namespace Sys2Proof.Machine

/-- TRANSLATION_WALK (R247, R250): a walk that waits takes a walker. -/
def execTranslationWalk (w : Nat) (s : State) : Res :=
  onHub s (guardHub (!s.hub.halted && !s.hub.stoppedInst uHTU 0) (fun h => h.startWalk w))

/-- WALK_TABLE_READ_RETURN (R247, R248): the page entry a walk waits for returns. -/
def execWalkTableReadReturn (w : Nat) (host : Option Word) (ecc : Ecc) (s : State) : Res :=
  onHub s (guardHub (!s.hub.halted && !s.hub.stoppedInst uHTU 0) (fun h => h.walkReturn w host ecc))

/-! ## Answers -/

/-- A write of HTU_FQ_RESP (R258, R261): a FAULT_ID that no unanswered entry holds is ignored. -/
def Hub.fqRespond (h : Hub) (o : Origin) (s : Nat) (fid : Nat) (fail : Bool) : Hub :=
  h.sliceWrite o s (fun h =>
    let h := h.regOk
    match h.xfaults.find? (fun x => decide (x.slice = s) && decide (x.fid = some fid)) with
    | none => h
    | some x => if fail then h.answerFail x else h.answerRetry x)

/-- FAULT_RETRY (R261). -/
def execFaultRetry (o : Origin) (sl : SliceId) (v : Word) (s : State) : Res :=
  onReg o s (fun h => h.fqRespond o sl (vFld v fHTU_FQ_RESP_FAULT_ID) false)

/-- FAULT_FAIL (R261). -/
def execFaultFail (o : Origin) (sl : SliceId) (v : Word) (s : State) : Res :=
  onReg o s (fun h => h.fqRespond o sl (vFld v fHTU_FQ_RESP_FAULT_ID) true)

/-- TIMEOUT in ps: units of 100 microseconds, 0 selects 100 (R258). -/
def Hub.fqTimeout (h : Hub) (s : Nat) : Nat :=
  let t := h.fld (rHTU_FQ_CTL s) fHTU_FQ_CTL_TIMEOUT
  (if t = 0 then 100 else t) * 100 * psUs

/-- An unanswered entry times out: FAIL, and a corrected XLATE_TIMEOUT (R261). -/
def Hub.xlateTimeout (h : Hub) (s fid : Nat) : Hub :=
  match h.xfaults.find? (fun x => decide (x.slice = s) && decide (x.fid = some fid)) with
  | none => h
  | some x =>
    if x.since + h.fqTimeout s ≤ h.now then
      (h.answerFail x).fault
        { source := srcOf uHTU 0, kind := kXLATE_TIMEOUT, cls := clsCorrected, slice := some s, ctx := some (x.ctxid % 16) }
    else h

/-- XLATE_TIMEOUT (R261). -/
def execXlateTimeout (sl : SliceId) (fid : Nat) (s : State) : Res := onHub s (fun h => h.xlateTimeout sl fid)

/-! ## Fault ring registers -/

/-- A write of HTU_FQ_PTR: CONS moves, and faults that wait for space are written (R258, R260). -/
def Hub.writeFqPtr (h : Hub) (o : Origin) (s : Nat) (v : Word) : Hub :=
  h.sliceWrite o s (fun h =>
    Hub.drainFaults 4096 (h.regOk.writeRW (rHTU_FQ_PTR s) [fHTU_FQ_PTR_CONS] [] v) s)

/-- FAULT_RING_CONSUME (R258, R260). -/
def execFaultRingConsume (o : Origin) (sl : SliceId) (v : Word) (s : State) : Res := onReg o s (fun h => h.writeFqPtr o sl v)

/-- A write of HTU_FQ_BASE (R258, R487): refused while EN is 1, outside the slice's granules, or with LOG2 9 to 15. -/
def Hub.writeFqBase (h : Hub) (o : Origin) (s : Nat) (v : Word) : Hub :=
  h.mgrWrite o (fun h =>
    let log2 := vFld v fHTU_FQ_BASE_LOG2
    let a := vFld v fHTU_FQ_BASE_ADDR * 4096
    if h.flag (rHTU_FQ_CTL s) fHTU_FQ_CTL_EN || decide (8 < log2) || !h.inGranules s a (32 * 2 ^ (log2 + 4)) then h.regErr
    else h.regOk.writeRW (rHTU_FQ_BASE s) [fHTU_FQ_BASE_LOG2, fHTU_FQ_BASE_ADDR] [] v)

/-- FAULT_RING_BASE_WRITE (R258). -/
def execFaultRingBaseWrite (o : Origin) (sl : SliceId) (v : Word) (s : State) : Res := onReg o s (fun h => h.writeFqBase o sl v)

/-- A write of HTU_FQ_CTL (R258, R487): a virtual function reaches FULL alone; setting EN zeroes the pointers, and faults that wait for space are written (R260). -/
def Hub.writeFqCtl (h : Hub) (o : Origin) (s : Nat) (v : Word) : Hub :=
  if h.isMgr o then
    if 10000 < vFld v fHTU_FQ_CTL_TIMEOUT then h.regErr
    else
      let up := vFlag v fHTU_FQ_CTL_EN && !h.flag (rHTU_FQ_CTL s) fHTU_FQ_CTL_EN
      let h1 := h.regOk.writeRW (rHTU_FQ_CTL s) [fHTU_FQ_CTL_EN, fHTU_FQ_CTL_VECTOR, fHTU_FQ_CTL_TIMEOUT] [fHTU_FQ_CTL_FULL] v
      if up then Hub.drainFaults 4096 (h1.setReg (rHTU_FQ_PTR s) 0) s else h1
  else h.sliceWrite o s (fun h =>
    if h.changes (rHTU_FQ_CTL s) [fHTU_FQ_CTL_EN, fHTU_FQ_CTL_VECTOR, fHTU_FQ_CTL_TIMEOUT] v then h.regErr
    else h.regOk.writeRW (rHTU_FQ_CTL s) [] [fHTU_FQ_CTL_FULL] v)

/-- FAULT_RING_CTL_WRITE (R258). -/
def execFaultRingCtlWrite (o : Origin) (sl : SliceId) (v : Word) (s : State) : Res := onReg o s (fun h => h.writeFqCtl o sl v)

/-! ## Invalidations (R269, R270) -/

/-- Two address ranges overlap in the bits [56:0] that HTU_INV_VA names: an address that CANON extends counts by those bits, as does one
of a wider format (R269; DEDUCED, log entry 139). -/
def vaOverlap (a n b m : Nat) : Bool := decide (a % 2 ^ 57 < b % 2 ^ 57 + m) && decide (b % 2 ^ 57 < a % 2 ^ 57 + n)

/-- An address range a leaf's page overlaps, or the whole tag. -/
def invCovers (range : Option (Nat × Nat)) (l : Leaf) : Bool :=
  match range with
  | none => true
  | some (va, n) => vaOverlap l.va (2 ^ l.size) va (n * GRAN)

/-- An item's operands overlap the covered pages. -/
def invHits (range : Option (Nat × Nat)) (t : Item) : Bool :=
  match range with
  | none => true
  | some (va, n) => (descRanges t.desc).any (fun r => vaOverlap r.1 r.2.1 va (n * GRAN))

/-- What the translation of a ring comes to: its leaves, a failure, or nothing yet. -/
inductive RingSays where
  | leaves (ls : List Leaf)
  | bad
  | blocked
  deriving DecidableEq, Repr

/-- A ring translated as one run of leaves (R272). -/
def Hub.xlateRing (cid : Nat) (k : ReqKind) : Nat → Hub → List Leaf → Nat → Nat → RingSays × Hub
  | 0, h, _, _, _ => (.bad, h)
  | n + 1, h, ls, va, stop =>
    if stop ≤ va then (.leaves ls, h)
    else match h.xlateNow cid va 1 k h.hostFree .clean with
      | (.fault .., h1) => (.bad, h1)
      | (.blocked, h1) => (.blocked, h1)
      | (.leaf l, h1) => Hub.xlateRing cid k n h1 (ls ++ [l]) (l.va + 2 ^ l.size) stop

/-- What the translation of a queue's two rings comes to. -/
inductive QueueSays where
  | rings (ring cring : List Leaf)
  | bad
  | blocked
  deriving DecidableEq, Repr

/-- The leaves of a queue's two rings, each with its right (R241, R272). A management queue's rings are hub-local and need none. -/
def Hub.queueRings (h : Hub) (q : Nat) : QueueSays × Hub :=
  match h.queueOwner q with
  | none => (.rings [] [], h)
  | some s =>
    let cid := ctxid s (h.qCtx q)
    match Hub.xlateRing cid .read 8 h [] (h.qBase q) (h.qBase q + 64 * h.qN q) with
    | (.bad, h1) => (.bad, h1)
    | (.blocked, h1) => (.blocked, h1)
    | (.leaves a, h1) => match Hub.xlateRing cid .write 8 h1 [] (h.qCBase q) (h.qCBase q + 16 * h.qN q) with
      | (.bad, h2) => (.bad, h2)
      | (.blocked, h2) => (.blocked, h2)
      | (.leaves b, h2) => (.rings a b, h2)

/-- A ring translated again under an invalidation (R272): a failure names a contained XLATE to the slice and holds the queue. Where its
table cannot be read yet, the queue has no leaves until its next use translates it. -/
def Hub.retranslateQueue (h : Hub) (q : Nat) : Hub :=
  match h.queueRings q with
  | (.rings a b, h1) => h1.setQrt q { h1.qrt q with ring := a, cring := b }
  | (.blocked, h1) => (h.orHalted h1).setQrt q { h.qrt q with ring := [], cring := [] }
  | (.bad, h1) =>
    match h.queueOwner q with
    | none => h1
    | some s => (h1.setQrt q { h1.qrt q with broken := true }).fault
        { source := srcOf uHTU 0, kind := kXLATE, cls := clsContained, slice := some s, ctx := some (h.qCtx q) }

/-- The records a queue held, written in order once its rings translate (R272). -/
def Hub.flushRecords (h : Hub) (q : Nat) : Hub :=
  let x := h.qrt q
  if x.broken || x.cring.isEmpty then h
  else x.heldRecords.foldl (fun h r => h.putRecord q (h.queueOwner q) r.1 r.2.1 r.2.2) (h.setQrt q { x with heldRecords := [] })

/-- A queue has something to do with its rings: it is enabled, or descriptors and records of an event are left (R208, R272). -/
def Hub.ringsUsed (h : Hub) (q : Nat) : Bool :=
  h.flag (rFAB_Q_RING q) fFAB_Q_RING_EN || decide (0 < (h.qrt q).cut.2) || !(h.qrt q).heldRecords.isEmpty

/-- A queue whose ring an invalidation broke tried again; where both rings translate, the records it held are written (R272). -/
def Hub.mendQueue (h : Hub) (q : Nat) : Hub :=
  if (h.queueOwner q).isNone || !h.ringsUsed q then h
  else if !(h.qrt q).broken && !(h.qrt q).cring.isEmpty then h.flushRecords q
  else match h.queueRings q with
    | (.rings a b, h1) => (h1.setQrt q { h1.qrt q with ring := a, cring := b, broken := false }).flushRecords q
    | (.blocked, h1) => h.orHalted h1
    | (.bad, h1) => h1

/-- A queue made ready for its next use: rings without leaves are translated again; a broken one is tried again once its slice is out of
FAULT (R272). -/
def Hub.readyQueue (h : Hub) (q : Nat) : Hub :=
  match h.queueOwner q with
  | none => h
  | some s =>
    if !h.ringsUsed q then h
    else if (h.qrt q).broken then (if h.stateOf s = 3 then h else h.mendQueue q)
    else if (h.qrt q).cring.isEmpty then (h.retranslateQueue q).flushRecords q
    else h

/-- The requests of a context that a translation already gave an address and that have not ended (R270 step 7); a host function's was
translated as it came. -/
def Hub.ctxInFlight (h : Hub) (s c : Nat) : List Nat :=
  h.reqs.filterMap (fun e => if decide (e.2.slice = s) && decide (e.2.ctx = c) && !e.2.mgmt &&
    (match e.2.src with | .remote _ => false | .host _ => true | _ => e.2.routed && e.2.open_) then some e.1 else none)

/-- The hubs to which a context's requests are out, each with the slice's peer there (R350). -/
def Hub.ctxPeers (h : Hub) (s c : Nat) : List (Nat × Nat) :=
  (h.slD s).links.filter (fun p => h.tags.any (fun t => decide (t.2.slice = s) && decide (t.2.ctx = c) && decide (t.2.hub = p.1) && t.2.freeAt.isNone))

/-- Steps 3 to 7 of R270: cached entries go, walks start again, items that have not started are translated again at start,
running mover items end at their chunk, rings are translated again; what is out is noted, and the hubs it went to are asked to quiesce
(R350). -/
def Hub.startInval (h : Hub) (v : Inval) : Hub :=
  let cid := ctxid v.slice v.ctx
  let ws : SMap Walk := h.walks.map (fun (e : Nat × Walk) =>
    if decide (e.2.slice = v.slice) && decide (e.2.ctx = v.ctx) then (e.1, { e.2 with started := false }) else e)
  let h1 : Hub := { h with cache := h.cache.filter (fun l => !(decide (l.ctxid = cid) && invCovers v.range l)),
                           walkCache := h.walkCache.filter (fun e => decide (e.ctxid ≠ cid)), walks := ws }
  let mine := h1.itemsWhere (fun t => decide (t.slice = some v.slice) && decide (t.ctx = v.ctx))
  let mark (t : Item) : Item :=
    if !t.started then { t with leaves := [], xbad := [] }
    else if (dOpcode t.desc = 1 ∨ dOpcode t.desc = 2) ∧ invHits v.range t = true then { t with squash := some stINVALIDATED } else t
  let h2 := mine.foldl (fun (h : Hub) (i : Nat) => h.updItem i mark) h1
  let run := mine.filter (fun i => match h2.item i with | some t => t.squash == some stINVALIDATED | none => false)
  let qs := ((h.slD v.slice).queueIds).filter (fun q => h.flag (rFAB_Q_RING q) fFAB_Q_RING_EN && decide (h.qCtx q = v.ctx))
  let h3 := qs.foldl (fun (h : Hub) (q : Nat) => h.retranslateQueue q) h2
  let w := { v with started := true, since := h.now, reqs := h.ctxInFlight v.slice v.ctx, items := run }
  (h.ctxPeers v.slice v.ctx).foldl (fun h p => h.sendQuiesce v.slice p.1 p.2 2)
    { h3 with invals := h3.invals.map (fun x => if x = v then w else x) }

/-- The invalidation at the head of a slice's list starts where none runs. -/
def Hub.nextInval (h : Hub) (s : Nat) : Hub :=
  match h.invals.find? (fun x => x.slice == s) with
  | some v => if v.started then h else h.startInval v
  | none => h

/-- An invalidation entered: BUSY rises and DONE falls, REMOTE_TO and FAILED of the last one clear. Each context has one that waits
(R245). -/
def Hub.queueInval (h : Hub) (v : Inval) : Hub :=
  if h.invals.any (fun x => decide (x.slice = v.slice) && decide (x.ctx = v.ctx) && !x.started && x.range.isNone) then h
  else
    let r := rHTU_INV_STS v.slice
    let busy := h.invals.any (fun x => x.slice == v.slice)
    let h2 := ({ h with invals := h.invals ++ [v] }.setF r fHTU_INV_STS_BUSY 1).setF r fHTU_INV_STS_DONE 0
    let h3 := if busy then h2 else (h2.setF r fHTU_INV_STS_REMOTE_TO 0).setF r fHTU_INV_STS_FAILED 0
    h3.nextInval v.slice

/-- A write of HTU_INV_CTL (R269). -/
def Hub.writeInvCtl (h : Hub) (o : Origin) (s : Nat) (v : Word) : Hub :=
  h.sliceWrite o s (fun h =>
    let c := vFld v fHTU_INV_CTL_CTX
    let range := vFlag v fHTU_INV_CTL_RANGE
    let n := vFld v fHTU_INV_CTL_COUNT
    let rw := [fHTU_INV_CTL_CTX, fHTU_INV_CTL_RANGE, fHTU_INV_CTL_IRQ, fHTU_INV_CTL_VECTOR, fHTU_INV_CTL_COUNT]
    if !vFlag v fHTU_INV_CTL_GO then h.regOk.writeRW (rHTU_INV_CTL s) rw [] v
    else if h.flag (rHTU_INV_STS s) fHTU_INV_STS_BUSY || !h.ctxOn s c || (range && decide (n = 0)) then h.regErr
    else
      let h1 := h.regOk.writeRW (rHTU_INV_CTL s) rw [] v
      h1.queueInval
        { slice := s, ctx := c, range := if range then some (h.fld (rHTU_INV_VA s) fHTU_INV_VA_VA * GRAN, n) else none,
          irq := vFlag v fHTU_INV_CTL_IRQ, vector := vFld v fHTU_INV_CTL_VECTOR })

/-- INVALIDATE (R269, R270). -/
def execInvalidate (o : Origin) (sl : SliceId) (v : Word) (s : State) : Res := onReg o s (fun h => h.writeInvCtl o sl v)

/-- What an invalidation waits for is over: what it noted has ended, and its quiesces (R270 step 7). -/
def Hub.invalEnds (h : Hub) (v : Inval) : Bool :=
  v.items.all (fun i => (h.item i).isNone) && v.reqs.all (fun i => match h.req i with
    | none => true
    | some q => !q.open_) &&
  !h.quiesces.any (fun e => decide (e.2.slice = v.slice) && decide (e.2.why = 2))

/-- The remote requests of an invalidation that are unanswered after 100 microseconds, with the link each left on. -/
def Hub.invalLate (h : Hub) (v : Inval) : List (Nat × Nat) :=
  if h.now < v.since + 100 * psUs then []
  else v.reqs.filterMap (fun i => match h.req i with
    | none => none
    | some q => match q.stage with
      | .remote tag => some (i, ((mapGet h.tags tag).map (·.link)).getD 0)
      | _ => none)

/-- Those requests reported failed: REMOTE_TO is set, and each item or access ends with the failure (R270 step 7). -/
def Hub.failLate (h : Hub) (s : Nat) (v : Inval) : Hub :=
  let late := h.invalLate v
  if late = [] then h
  else
    let lone := (late.filter (fun e => match h.req e.1 with
      | some q => (match q.src with | .item .. => false | _ => true)
      | none => false)).length
    let touched (i : Nat) : Bool := late.any (fun e => match h.req e.1 with
      | some q => (match q.src with | .item j _ => j == i | _ => false)
      | none => false)
    let w := { v with failed := v.failed + lone, items := (v.items ++ (h.items.map (·.1)).filter touched).eraseDups }
    let h1 : Hub := { h with invals := h.invals.map (fun x => if x = v then w else x) }
    (late.foldl (fun h e => match h.req e.1 with
      | some q => (h.failReq e.1 fsTIMEOUT kREMOTE_TO uQL e.2).settleSrc q.src
      | none => h) h1).setF (rHTU_INV_STS s) fHTU_INV_STS_REMOTE_TO 1

/-- INVALIDATION_DONE: remote requests still unanswered after 100 microseconds fail; with all it noted ended, the next waiting one starts,
and with the last of them BUSY falls, DONE is set and the vector is raised (R245, R270). -/
def Hub.endInval (h : Hub) (s : Nat) : Hub :=
  match h.invals.find? (fun x => x.slice == s) with
  | none => h
  | some v0 =>
    if !v0.started then h
    else
      let h1 := h.failLate s v0
      match h1.invals.find? (fun x => x.slice == s) with
      | none => h1
      | some v =>
        if !h1.invalEnds v then h1
        else
          let h2 := { h1 with invals := h1.invals.erase v }.count (rHTU_INV_STS s) fHTU_INV_STS_FAILED v.failed
          if h2.invals.any (fun x => x.slice == s) then
            { h2 with invals := h2.invals.map (fun (x : Inval) => if x.slice = s ∧ v.irq = true then { x with irq := true, vector := v.vector } else x) }.nextInval s
          else
            let h3 := (h2.setF (rHTU_INV_STS s) fHTU_INV_STS_BUSY 0).setF (rHTU_INV_STS s) fHTU_INV_STS_DONE 1
            if v.irq then h3.raiseVf s v.vector else h3

/-- INVALIDATION_DONE (R270 step 8). -/
def execInvalidationDone (sl : SliceId) (s : State) : Res := onHub s (fun h => h.endInval sl)

/-- ATS_INVALIDATION (R273): the walk-cache entries of every context of the function whose PASID is named are gone. -/
def Hub.atsInval (h : Hub) (f : HostFn) (pasid : Nat) : Hub :=
  match f with
  | .pf _ => h.emit (.atsDone f)
  | .vf p i =>
    match h.vfSlice p i with
    | none => h.emit (.atsDone f)
    | some s =>
      ({ h with walkCache := h.walkCache.filter (fun e => !(decide (e.ctxid / 16 = s) && h.ctxLoc e.ctxid &&
          decide (h.fld (h.ctxCfg e.ctxid) fHTU_CTX_CFGn_PASID = pasid))) }).emit (.atsDone f)

/-- ATS_INVALIDATION (R273). -/
def execAtsInvalidation (f : HostFn) (pasid : Nat) (s : State) : Res := onHub s (fun h => h.atsInval f pasid)

/-! ## Contexts and format slots -/

/-- A write of HTU_CTX_ROOTn (R243, R244). -/
def Hub.writeCtxRoot (h : Hub) (o : Origin) (s n : Nat) (v : Word) : Hub :=
  h.mgrWrite o (fun h =>
    if h.ctxValid (ctxid s n) then h.regErr else h.regOk.writeRW (rHTU_CTX_ROOTn s n) [fHTU_CTX_ROOTn_ADDR] [] v)

/-- The conditions of R244 on a write that sets VALID. -/
def Hub.ctxSetOk (h : Hub) (s n : Nat) (v : Word) : Bool :=
  let f := h.fmt (vFld v fHTU_CTX_CFGn_FMT)
  let a := h.ctxRoot (ctxid s n)
  let size := 8 * 2 ^ f.idxBits
  h.ctxOn s n && f.valid && decide (a % size = 0) &&
  (vFlag v fHTU_CTX_CFGn_LOC || (decide (a / 2 ^ 42 = h.hubNum) && h.inGranules s (a % 2 ^ 42) size))

/-- A write of HTU_CTX_CFGn (R243, R244, R245): clearing VALID starts an invalidation of the whole tag. -/
def Hub.writeCtxCfg (h : Hub) (o : Origin) (s n : Nat) (v : Word) : Hub :=
  h.mgrWrite o (fun h =>
    let r := rHTU_CTX_CFGn s n
    let rest := [fHTU_CTX_CFGn_FMT, fHTU_CTX_CFGn_LOC, fHTU_CTX_CFGn_PASID]
    if h.flag r fHTU_CTX_CFGn_VALID then
      if vFlag v fHTU_CTX_CFGn_VALID || h.changes r rest v then h.regErr
      else (h.regOk.setF r fHTU_CTX_CFGn_VALID 0).queueInval
        { slice := s, ctx := n, range := none, irq := h.flag (rHTU_INV_CTL s) fHTU_INV_CTL_IRQ, vector := h.fld (rHTU_INV_CTL s) fHTU_INV_CTL_VECTOR }
    else if vFlag v fHTU_CTX_CFGn_VALID && !h.ctxSetOk s n v then h.regErr
    else h.regOk.writeRW r (fHTU_CTX_CFGn_VALID :: rest) [] v)

/-- CONTEXT_CFG_WRITE (R243 to R245). -/
def execContextCfgWrite (o : Origin) (sl : SliceId) (n : Fin 16) (v : Word) (s : State) : Res :=
  onReg o s (fun h => h.writeCtxCfg o sl n v)

/-- Some context's VALID root names a format slot (R246). -/
def Hub.fmtInUse (h : Hub) (f : Nat) : Bool :=
  h.forme.slices.any (fun e => (List.range 16).any (fun n =>
    h.ctxValid (ctxid e.1 n) && decide (h.fld (rHTU_CTX_CFGn e.1 n) fHTU_CTX_CFGn_FMT = f)))

/-- The register of a format slot by its place, 0 CTL to 4 MUST1. -/
def fmtReg (f reg : Nat) : Nat := rHTU_FMT_CTL f + 8 * reg

def fmtFields : Nat → List Fld
  | 0 => [fHTU_FMT_CTL_LEVELS, fHTU_FMT_CTL_VA_BITS, fHTU_FMT_CTL_IDX_BITS, fHTU_FMT_CTL_PAGE_SHIFT, fHTU_FMT_CTL_CANON,
          fHTU_FMT_CTL_AD_CHECK, fHTU_FMT_CTL_WR_RULE, fHTU_FMT_CTL_ATOM_BIT, fHTU_FMT_CTL_VALID]
  | 1 => [fHTU_FMT_POS_V_POS, fHTU_FMT_POS_R_POS, fHTU_FMT_POS_W_POS, fHTU_FMT_POS_ATOM_POS, fHTU_FMT_POS_A_POS,
          fHTU_FMT_POS_D_POS, fHTU_FMT_POS_PPN_LO, fHTU_FMT_POS_PPN_WIDTH]
  | _ => [fHTU_FMT_LEAF_MASK]

/-- A write of a format slot's register (R246): slots 0 and 1 are read-only; a slot in use, or a value that sets VALID on
a slot that breaks its ranges, is refused. -/
def Hub.writeFmt (h : Hub) (o : Origin) (f reg : Nat) (v : Word) : Hub :=
  h.mgrWrite o (fun h =>
    if h.fmtInUse f then h.regErr
    else if f < 2 then h.regOk
    else if decide (reg = 0) && vFlag v fHTU_FMT_CTL_VALID && !fmtCtlOk v (h.reg (rHTU_FMT_POS f)) then h.regErr
    else h.regOk.writeRW (fmtReg f reg) (fmtFields reg) [] v)

/-- FORMAT_SLOT_WRITE (R246). -/
def execFormatSlotWrite (o : Origin) (f : Fin 8) (reg : Fin 5) (v : Word) (s : State) : Res :=
  onReg o s (fun h => h.writeFmt o f reg v)

end Sys2Proof.Machine
end

