-- ==== Sys2Proof/Machine/Load.lean ====
section
/-! DEFINITION. LOAD and LAUNCH (R200 to R203): the kernel image, the checks of R122 and R201, the mesh of handshake
channels a galley may use (R47, R111, R115), and the reads a descriptor makes of its slice's memory. -/
namespace Sys2Proof.Machine

/-! ## The mesh -/

/-- The position in a direction inside the array, and across its edge: 0 north, 1 east, 2 south, 3 west (R115). -/
def meshInside (c dir : Nat) : Option Nat :=
  match dir with
  | 0 => if c % 128 / 16 = 0 then none else some (c - 16)
  | 1 => if c % 16 = 15 then none else some (c + 1)
  | 2 => if c % 128 / 16 = 7 then none else some (c + 16)
  | _ => if c % 16 = 0 then none else some (c - 1)

def meshAcross (c dir : Nat) : Option Nat :=
  let a := c / 128
  match dir with
  | 0 => if a / 16 = 0 then none else some ((a - 16) * 128 + 112 + c % 16)
  | 1 => if a % 16 = 15 then none else some ((a + 1) * 128 + c % 128 / 16 * 16)
  | 2 => if a / 16 = 12 then none else some ((a + 16) * 128 + c % 16)
  | _ => if a % 16 = 0 then none else some ((a - 1) * 128 + c % 128 / 16 * 16 + 15)

/-- The neighbour a channel joins; none where it is closed: beyond the array's edge outside a fused group, or toward a
cell of another slice (R47, R111, R115). -/
def Hub.neighbour (h : Hub) (c dir : Nat) : Option Nat :=
  let n := match meshInside c dir with
    | some n => some n
    | none => (meshAcross c dir).bind (fun n =>
        match h.fuseOf (c / 128) with
        | some g => if g.arrays.contains (n / 128) then some n else none
        | none => none)
  n.bind (fun n => if (h.cellOwner c).isSome && decide (h.cellOwner n = h.cellOwner c) then some n else none)

/-- The direction back. -/
def opposite (dir : Nat) : Nat := (dir + 2) % 4

/-! ## The checks of a galley (R122) -/

/-- The checks of one instruction that do not look at the others: flow targets, channels, contexts, window, formats. -/
def galleyInstrOk (isOpen ctxOn : Nat → Bool) (exactReq : Bool) (n pc : Nat) (i : GInstr) : Bool :=
  match i with
  | .loop _ _ body _ => decide (pc + body < n)
  | .br _ _ target => decide (target < n)
  | .tcfg _ w => decide (-512 ≤ signed w 16) && decide (signed w 16 ≤ 511)
  | .tmma fmt exact sparse _ _ _ _ rc rd _ =>
    decide (fmt ≤ 8) && !(decide (exact = 1) && decide (7 ≤ fmt)) && !(decide (sparse = 1) && decide (7 ≤ fmt)) &&
    (decide (fmt ≤ 4) || (decide (rc = 0) && decide (rd = 0))) &&
    !(exactReq && decide (exact = 0) && (decide (fmt ≤ 4) || decide (7 ≤ fmt)))
  | .tdrain ofmt .. => decide (7 ≤ ofmt) && decide (ofmt ≤ 11)
  | .chan op dir dir2 _ _ => isOpen dir && (match op with | .fwd | .pass => isOpen dir2 | _ => true)
  | .fab _ _ _ _ ctx _ _ => ctxOn ctx
  | _ => true

/-- A LOOP lies in the body of another without a higher level. -/
def loopNested (code : List (Option GInstr)) (pc : Nat) : Bool :=
  match code[pc]? with
  | some (some (.loop lvl _ _ _)) =>
    (List.range pc).any (fun j => match code[j]? with
      | some (some (.loop l _ body _)) => decide (pc ≤ j + body) && decide (lvl ≤ l)
      | _ => false)
  | _ => false

/-- Where control may go from an instruction. -/
def galleyNext (pc : Nat) (i : GInstr) : List Nat :=
  match i with
  | .end_ => []
  | .br cond _ target => if cond = 0 then [target] else [target, pc + 1]
  | .loop _ creg body count =>
    if creg ≠ 0 then [pc + 1, pc + 1 + body] else if count = 0 then [pc + 1 + body] else [pc + 1]
  | _ => [pc + 1]

/-- The instructions reachable from a work list. -/
def galleyReach (code : List (Option GInstr)) : Nat → List Nat → List Nat → List Nat
  | 0, _, seen => seen
  | _ + 1, [], seen => seen
  | k + 1, pc :: work, seen =>
    if seen.contains pc then galleyReach code k work seen
    else match code[pc]? with
      | some (some i) => galleyReach code k (galleyNext pc i ++ work) (pc :: seen)
      | _ => galleyReach code k work seen

/-- The instruction index a galley is refused with, none where R122 admits it (R201). -/
def galleyRefused (isOpen ctxOn : Nat → Bool) (exactReq : Bool) (words : List Nat) : Option Nat :=
  let code := words.map ginstrOf
  let n := code.length
  match (List.range n).find? (fun pc =>
      match code.getD pc none with
      | none => true
      | some i => !galleyInstrOk isOpen ctxOn exactReq n pc i || loopNested code pc) with
  | some pc => some pc
  | none =>
    if 2048 < n then some 2048
    else if (galleyReach code (3 * n + 1) [0] []).any (fun pc => code.getD pc none == some GInstr.end_) then none
    else some 0

/-! ## Reading the slice's memory for a descriptor -/

/-- The request by which the hub reads memory for a descriptor of a slice's context, or of a management queue: master 1 (R280). -/
def Hub.ownReq (h : Hub) (so : Option Nat) (c : Nat) : Req :=
  { src := .own none, slice := so.getD 0, ctx := c, mgmt := so.isNone, cls := 1,
    gen := match so with
      | some s => h.gen (ctxid s c)
      | none => 0 }

/-- What a read of a slice's virtual memory comes to: its bytes, a status of R206, a translation fault, or nothing yet. -/
inductive VirtSays where
  | data (bs : List Byte)
  | failed (status : Nat)
  | xlate (va reason entry level : Nat)
  | blocked
  deriving DecidableEq, Repr

/-- Bytes at a virtual address of a slice's context, leaf by leaf; `ec` gives what is found by line of the read. -/
def Hub.readVirtFrom (s c : Nat) (ec : Nat → Ecc) : Nat → Hub → Nat → Nat → Nat → VirtSays × Hub
  | 0, h, _, va, _ => (.xlate va rsWALK_READ 0 0, h)
  | k + 1, h, line, va, n =>
    if n = 0 then (.data [], h)
    else match h.xlateNow (ctxid s c) va 1 .read h.hostFree .clean with
      | (.fault r e lv, h1) => (.xlate va r e lv, h1)
      | (.blocked, h1) => (.blocked, h1)
      | (.leaf l, h1) =>
        let m := min n (l.va + 2 ^ l.size - va)
        match h1.ownRead (h.ownReq (some s) c) (l.pa + (va - l.va)) m (fun i => ec (line + i)) with
        | (.blocked, h2) => (.blocked, h2)
        | (.failed st, h2) => (.failed (itemStatus st), h2)
        | (.data b, h2) => match Hub.readVirtFrom s c ec k h2 (line + m / 64) (va + m) (n - m) with
          | (.data bs, h3) => (.data (b ++ bs), h3)
          | r => r

def Hub.readVirt (h : Hub) (s c : Nat) (ec : Nat → Ecc) (va n : Nat) : VirtSays × Hub := Hub.readVirtFrom s c ec 64 h 0 va n

/-- What a command reports of one line of a read. -/
def atLine (line : Nat) (ecc : Ecc) (i : Nat) : Ecc := if i = line then ecc else .clean

/-- A descriptor's read of its slice's memory: the item ends with the status of a failed one, waits on a translation fault (R190), and
goes on with the bytes; where the read cannot be served yet the command has no effect (log entry 137). -/
def Hub.readFor (h : Hub) (i : Nat) (t : Item) (s va n : Nat) (ec : Nat → Ecc) (go : Hub → List Byte → Hub) : Hub :=
  match h.readVirt s t.ctx ec va n with
  | (.blocked, h1) => h.orHalted h1
  | (.failed st, h1) => h1.failItem i st
  | (.xlate va r en lv, h1) => (h1.setItem i { t with st := .xlate }).xlateFault s (ctxid s t.ctx) r va .read en lv [] [i]
  | (.data d, h1) => go { h1 with draws := h1.draws + 1 } d

/-! ## LOAD (R200, R201) -/

/-- The header checks of order 1 that need no more than the 64 header bytes. -/
def imageHdrOk (d : List Byte) : Bool :=
  let len := leAt d 8 4
  decide (leAt d 0 4 = 0x4c524e4b) && decide (leAt d 4 2 = 1) && decide (leAt d 6 2 = 0x302) &&
  decide (len % 8 = 0) && decide (64 ≤ len) && decide (len ≤ 0x4000000) &&
  decide (1 ≤ leAt d 0xc 4) && decide (leAt d 0xc 4 ≤ 26624) && decide (1 ≤ leAt d 0x10 2) &&
  decide (leAt d 0x10 2 ≤ leAt d 0xc 4) && decide (leAt d 0x12 2 ≤ 1024) && allZero (sub d 0x20 28)

/-- The i-th cell entry: CELL_IDX, GALLEY and the reserved bytes; likewise galleys and pins. -/
def imgCell (d : List Byte) (i : Nat) : List Byte := sub d (leAt d 0x14 4 + 8 * i) 8
def imgGalley (d : List Byte) (i : Nat) : List Byte := sub d (leAt d 0x18 4 + 8 * i) 8
def imgPin (d : List Byte) (i : Nat) : List Byte := sub d (leAt d 0x1c 4 + 16 * i) 16

/-- The words of a galley of an image. -/
def imgWords (d : List Byte) (g : Nat) : List Nat :=
  let e := imgGalley d g
  (List.range (leAt e 4 2)).map (fun i => leAt d (leAt e 0 4 + 8 * i) 8)

/-- Order 1 of R201 on the whole image. -/
def imageOk (d : List Byte) : Bool :=
  let len := leAt d 8 4
  let nc := leAt d 0xc 4
  let ng := leAt d 0x10 2
  let np := leAt d 0x12 2
  decide (leAt d 0x3c 4 = crc32c (d.take 0x3c ++ d.drop 0x40)) &&
  decide (leAt d 0x14 4 + 8 * nc ≤ len) && decide (leAt d 0x18 4 + 8 * ng ≤ len) && decide (leAt d 0x1c 4 + 16 * np ≤ len) &&
  (List.range nc).all (fun i => let e := imgCell d i
    decide (leAt e 2 2 < ng) && decide (leAt e 4 4 = 0) && (decide (i = 0) || decide (leAt (imgCell d (i - 1)) 0 2 < leAt e 0 2))) &&
  (List.range ng).all (fun i => let e := imgGalley d i
    decide (leAt e 0 4 % 8 = 0) && decide (leAt e 0 4 + 8 * leAt e 4 2 ≤ len) && decide (leAt e 6 2 = 0)) &&
  (List.range np).all (fun i => let e := imgPin d i
    decide (leAt e 0 8 % GRAN = 0) && decide (1 ≤ leAt e 8 4) && decide (leAt e 12 1 < 16) && decide (leAt e 13 1 < 8) &&
    decide (leAt e 14 2 = 0))

/-- A cell is running a galley: running, at SHEET, stalled or held (R201, R203). -/
def Cell.busy (x : Cell) : Bool :=
  match x.run with
  | .running | .atSheet | .stalled | .held => true
  | _ => false

/-- What a check of LOAD comes to: passed, a status with its DETAIL, or nothing yet. -/
inductive LoadSays where
  | ok
  | refused (status detail : Nat)
  | blocked
  deriving DecidableEq, Repr

/-- The accesses that a pin entry's RIGHTS name. -/
def pinRights (e : List Byte) : List ReqKind :=
  (if bit (leAt e 13 1) 0 then [ReqKind.read] else []) ++ (if bit (leAt e 13 1) 1 then [ReqKind.write] else []) ++
    (if bit (leAt e 13 1) 2 then [ReqKind.atomic 0 0 0] else [])

/-- A pin range translates with its rights (R201); with RIGHTS of 0 it has to translate, with whatever rights (DEDUCED, log entry 140). -/
def Hub.pinOk (h : Hub) (s n : Nat) (e : List Byte) : LoadSays × Hub :=
  let c := leAt e 12 1 % 16
  let rights := pinRights e
  let asks := (List.range (leAt e 8 4)).flatMap (fun p => (if rights = [] then [ReqKind.read] else rights).map (fun k => (leAt e 0 8 + p * GRAN, k)))
  if !h.ctxOn s c then (.refused stLOAD_PIN n, h)
  else asks.foldl (fun r a => match r.1 with
    | .ok => match r.2.xlateNow (ctxid s c) a.1 1 a.2 r.2.hostFree .clean with
      | (.leaf _, h1) => (.ok, h1)
      | (.fault f _ _, h1) => (if decide (rights = []) && (decide (f = rsRIGHTS) || decide (f = rsAD_CLEAR)) then .ok else .refused stLOAD_PIN n, h1)
      | (.blocked, h1) => (.blocked, h1)
    | _ => r) (LoadSays.ok, h)

/-- Orders 1 to 4 of R201: the status and DETAIL of the first failure. -/
def Hub.imageRefused (h : Hub) (s : Nat) (d : List Byte) : LoadSays :=
  let r := h.slD s
  let cells := r.cells
  let nc := leAt d 0xc 4
  let idx (i : Nat) : Nat := leAt (imgCell d i) 0 2
  let at_ (i : Nat) : Nat := cells.getD (idx i) 0
  let bad (i : Nat) : Option Nat :=
    galleyRefused (fun dir => (h.neighbour (at_ i) dir).isSome) (h.ctxOn s) r.exactReq (imgWords d (leAt (imgCell d i) 2 2))
  if !imageOk d then .refused stLOAD_IMAGE 0
  else match (List.range nc).find? (fun i => decide (cells.length ≤ idx i)) with
    | some i => .refused stLOAD_FIT i
    | none => match (List.range nc).find? (fun i => (h.cell (at_ i)).busy) with
      | some i => .refused stBUSY i
      | none => match (List.range nc).findSome? (fun i => (bad i).map (fun k => i % 65536 + k * 65536)) with
        | some x => .refused stLOAD_GALLEY x
        | none => .ok

/-- The orders of R201, the pins of a slice in CR7 mode last. -/
def Hub.loadSays (h : Hub) (s : Nat) (d : List Byte) : LoadSays × Hub :=
  match h.imageRefused s d with
  | .ok =>
    if !h.cr7 s then (.ok, h)
    else (List.range (leAt d 0x12 2)).foldl (fun r n => match r.1 with
      | .ok => r.2.pinOk s n (imgPin d n)
      | _ => r) (LoadSays.ok, h)
  | r => (r, h)

/-- A galley written into a cell's program store: the cell holds it under KID, and its sheet mark is gone, so that a reset cell's channels
open again (R146, R201, R406). -/
def Hub.installGalley (h : Hub) (c kid : Nat) (words : List Nat) : Hub :=
  h.updCell c (fun x => { x with mem := mapWriteBytes 0 x.mem 0x10000 (words.flatMap (toLE 8)), galley := some (kid, words.length), mark := none, closed := false })

/-- The pin entries of a native slice translated ahead as a hint (R201). -/
def Hub.pinHints (h : Hub) (s : Nat) (d : List Byte) : Hub :=
  (List.range (leAt d 0x12 2)).foldl (fun h i =>
    let e := imgPin d i
    (List.range (leAt e 8 4)).foldl (fun h p => h.needWalk s (leAt e 12 1 % 16) (leAt e 0 8 + p * GRAN) .read 3 [] []) h) h

/-- An item whose tag no longer matches never starts (R191). -/
def Hub.stale (h : Hub) (t : Item) : Bool :=
  match t.slice with
  | none => false
  | some s => decide (t.gen ≠ h.gen (ctxid s t.ctx))

/-- An item about to start: squashed where its tag has changed, translated again where an invalidation took its leaves
(R192), else `go`. -/
def Hub.startItem (h : Hub) (i op : Nat) (go : Item → Hub) : Hub :=
  match h.item i with
  | none => h
  | some t =>
    if decide (dOpcode t.desc ≠ op) || !h.mayStart t then h
    else if h.stale t then h.failItem i stSQUASHED
    else if t.slice.isSome && t.needs.isSome then Hub.xlateItem xlateFuel h i
    else go t

/-- The galleys of an image installed in the cells it names, and LOAD completes (R201). -/
def Hub.installImage (h : Hub) (i s kid : Nat) (d : List Byte) : Hub :=
  let cells := (h.slD s).cells
  let h1 := (List.range (leAt d 0xc 4)).foldl (fun h k =>
    h.installGalley (cells.getD (leAt (imgCell d k) 0 2) 0) kid (imgWords d (leAt (imgCell d k) 2 2))) h
  (if h.cr7 s then h1 else h1.pinHints s d).endItem i stDONE 0

/-- LOAD as it runs (R201): its image read, checked, and installed. `ecc` is what is found at line `line` of the image. -/
def Hub.runLoad (h : Hub) (i line : Nat) (ecc : Ecc) (t : Item) : Hub :=
  match t.slice with
  | none => h
  | some s =>
    h.readFor i t s (dSrc t.desc) 64 (atLine line ecc) (fun h1 hd =>
      if !imageHdrOk hd then h1.endItem i stLOAD_IMAGE 0
      else match h1.readVirt s t.ctx (fun k => atLine line ecc (k + 1)) (dSrc t.desc + 64) (leAt hd 8 4 - 64) with
        | (.blocked, h2) => h.orHalted h2
        | _ => h1.readFor i t s (dSrc t.desc + 64) (leAt hd 8 4 - 64) (fun k => atLine line ecc (k + 1)) (fun h2 tl =>
          match h2.loadSays s (hd ++ tl) with
          | (.blocked, h3) => h.orHalted h3
          | (.refused st x, h3) => h3.endItem i st x
          | (.ok, h3) => h3.installImage i s (dKid t.desc) (hd ++ tl)))

/-! ## LAUNCH (R203) -/

/-- The cells of a slice that hold a kernel. -/
def Hub.kernelCells (h : Hub) (s kid : Nat) : List Nat :=
  (h.slD s).cells.filter (fun c => match (h.cell c).galley with | some (k, _) => k == kid | none => false)

/-- LAUNCH as it runs: refused, or its cells armed for the next boundary that starts a sheet. -/
def Hub.runLaunch (h : Hub) (i : Nat) (t : Item) : Hub :=
  match t.slice with
  | none => h
  | some s =>
    let cs := h.kernelCells s (dKid t.desc)
    if cs = [] then h.endItem i stNO_KERNEL 0
    else if cs.any (fun c => (h.cell c).busy) then h.endItem i stBUSY 0
    else cs.foldl (fun h c => h.updCell c (fun x => { x with armed := some i })) (h.setItem i { t with st := .armed, cells := cs, ended := [] })

end Sys2Proof.Machine
end

