-- ==== Sys2Proof/Machine/Queues.lean ====
section
/-! DEFINITION. Command queues and data movers (R182 to R210), compare channels (R430 to R434), and the arrival counters'
registers (R225 to R231). -/
namespace Sys2Proof.Machine

/-! ## Doorbells (R187) -/

/-- A doorbell on an enabled queue: ignored, ignored with ERR_DB and a corrected DOORBELL fault, or TAIL accepted. -/
def Hub.ring (h : Hub) (q : Nat) (so : Option Nat) (tail : Nat) : Hub :=
  let p := rFAB_Q_PTR q
  let head := h.fld p fFAB_Q_PTR_HEAD
  let d := (tail + 2 ^ 32 - head) % 2 ^ 32
  if h.qN q < d then
    (h.regOk.setF (rFAB_Q_STS q) fFAB_Q_STS_ERR_DB 1).fault
      { source := srcOf uFAB 0, kind := kDOORBELL, cls := clsCorrected, slice := so }
  else if d ≤ h.submitted q then h.regOk
  else h.regOk.setF p fFAB_Q_PTR_TAIL tail

/-- FAB_DOORBELL written on a slice's page (R187, R382). -/
def Hub.writeDoorbell (h : Hub) (o : Origin) (s : Nat) (v : Word) : Hub :=
  h.sliceWrite o s (fun h =>
    let q := vFld v fFAB_DOORBELL_QUEUE
    if decide (h.queueOwner q ≠ some s) || !h.active s || !h.flag (rFAB_Q_RING q) fFAB_Q_RING_EN ||
        !h.presented (h.slD s).vfPort (h.slD s).vfIndex || h.stoppedInst uFAB 0 then h.regErr
    else h.ring q (some s) (vFld v fFAB_DOORBELL_TAIL))

/-- DOORBELL (R187). -/
def execDoorbell (o : Origin) (sl : SliceId) (v : Word) (s : State) : Res := onReg o s (fun h => h.writeDoorbell o sl v)

/-- FAB_MDOORBELL: management queues only. -/
def Hub.writeMDoorbell (h : Hub) (o : Origin) (v : Word) : Hub :=
  h.mgrWrite o (fun h =>
    let q := vFld v fFAB_MDOORBELL_QUEUE
    if (h.queueOwner q).isSome || !h.flag (rFAB_Q_RING q) fFAB_Q_RING_EN || h.stoppedInst uFAB 0 then h.regErr
    else ({ h with queues := mapPut h.queues q { h.qrt q with rungBy := match o with | .pf k => some k.val | _ => none } }).ring q none
      (vFld v fFAB_MDOORBELL_TAIL))

/-- MANAGEMENT_DOORBELL (R187). -/
def execManagementDoorbell (o : Origin) (v : Word) (s : State) : Res := onReg o s (fun h => h.writeMDoorbell o v)

/-! ## Taking (R188 to R191) -/

/-- Descriptors of a slice in the command store. -/
def Hub.stored (h : Hub) (so : Option Nat) : Nat := (h.items.filter (fun e => decide (e.2.slice = so))).length

/-- A slice's queues with submitted descriptors that may be taken. -/
def Hub.queuesReady (h : Hub) (s : Nat) : List Nat :=
  ((h.slD s).queueIds).filter (fun q => decide (0 < h.submitted q) && !(h.qrt q).broken)

/-- The least number of a list above another, wrapping to the least. -/
def nextAfter (last : Option Nat) (l : List Nat) : Option Nat :=
  match last with
  | none => l.min?
  | some x => ((l.filter (fun y => decide (x < y))).min?).or l.min?

/-- A slice may put another descriptor in the command store of 16,384: 2 of its own, and its part of the rest by MOVER_WEIGHT. -/
def Hub.storeMay (h : Hub) (so : Option Nat) : Bool :=
  decide (h.items.length < 16384) &&
  (match so with
   | none => true
   | some s =>
     let ps := (h.forme.slices.map (·.1)).filter (fun p => decide (0 < h.stored (some p)) || !(h.queuesReady p).isEmpty)
     decide (h.stored so < share 16384 (ps.map (fun p => (p, 2, (h.slD p).moverWeight))) s))

/-- The fetch of a queue's next descriptor from its ring: its 64 bytes, a status, or nothing yet (R188). -/
def Hub.fetchDesc (h : Hub) (q : Nat) (ecc : Ecc) : VirtSays × Hub :=
  let so := h.queueOwner q
  let seq := h.fld (rFAB_Q_PTR q) fFAB_Q_PTR_HEAD
  match h.ringPa so (h.qrt q).ring (h.qBase q + 64 * (seq % h.qN q)) with
  | none => if (h.qrt q).broken then (.failed stXLATE, h) else (.blocked, h)
  | some pa => match h.ownRead (h.ownReq so (h.qCtx q)) pa 64 (fun _ => ecc) with
    | (.data d, h1) => (.data d, h1)
    | (.failed st, h1) => (.failed (itemStatus st), h1)
    | (.blocked, h1) => (.blocked, h1)

/-- A fetched descriptor enters the command store, stamped, and is checked in the order of R189 and translated; with `force` it ends
with that status (R208). -/
def Hub.enterDesc (h : Hub) (q : Nat) (rd : VirtSays) (force : Option Nat) : Hub :=
  let so := h.queueOwner q
  let seq := h.fld (rFAB_Q_PTR q) fFAB_Q_PTR_HEAD
  let d := match rd with
    | .data d => d
    | _ => zeros 64
  let t : Item :=
    { queue := q, seq := seq, slice := so, ctx := dCtx d, desc := d,
      gen := match so with
        | some s => h.gen (ctxid s (dCtx d))
        | none => 0 }
  let i := h.nextId
  let h1 := ({ h with draws := h.draws + 1, nextId := i + 1 }.setF (rFAB_Q_PTR q) fFAB_Q_PTR_HEAD (seq + 1)).setItem i t
  match force, rd with
  | some st, _ => h1.endItem i st 0
  | none, .failed e => h1.endItem i e 0
  | none, _ =>
    if !h.descOk so d then h1.endItem i stBAD_DESC 0
    else if (match so with | some s => !h.ctxOn s (dCtx d) | none => false) then h1.endItem i stBAD_CTX 0
    else Hub.xlateItem xlateFuel h1 i

/-- The next descriptor of a queue taken, once its fetch is served. -/
def Hub.takeDesc (h : Hub) (q : Nat) (ecc : Ecc) (force : Option Nat) : Hub :=
  match h.fetchDesc q ecc with
  | (.blocked, h1) => h.orHalted h1
  | (rd, h1) => h1.enterDesc q rd force

/-- An event ends a submitted descriptor: those of its contexts where it names some, else every one (R208, R424). -/
def QRt.cuts (x : QRt) (rd : VirtSays) : Bool :=
  x.cutCtx.isEmpty || (match rd with
    | .data d => x.cutCtx.contains (dCtx d)
    | _ => false)

/-- A submitted descriptor taken that an event ends, or that stands before one it ends, and one less left (R208, R424). -/
def Hub.takeCut (h : Hub) (q : Nat) (ecc : Ecc) : Hub :=
  let x := h.qrt q
  match h.fetchDesc q ecc with
  | (.blocked, h1) => h.orHalted h1
  | (rd, h1) =>
    (h1.setQrt q { h1.qrt q with cut := (x.cut.1, x.cut.2 - 1), cutCtx := if x.cut.2 ≤ 1 then [] else x.cutCtx }).enterDesc q rd
      (if x.cuts rd then some x.cut.1 else none)

/-- A queue's turn to have a descriptor taken: in round-robin order among its slice's, the slice not in FAULT, the ring translated
(R188, R208, R272). -/
def Hub.takeTurn (h : Hub) (q : Nat) : Bool :=
  !(h.qrt q).broken && (match h.queueOwner q with
    | none => true
    | some s => decide (h.stateOf s ≠ 3) && decide (nextAfter (mapGet h.queueRr s) (h.queuesReady s) = some q))

/-- DESCRIPTOR_TAKE (R188, R189): the queue's turn has come, and the command store has room for its slice. Descriptors that an event
ended are taken first (R208). -/
def Hub.takeNext (h0 : Hub) (q : Nat) (ecc : Ecc) : Hub :=
  if h0.halted || h0.stoppedInst uFAB 0 then h0
  else
    let h := h0.readyQueue q
    if decide (h.submitted q = 0) then h
    else if 0 < (h.qrt q).cut.2 then h.takeCut q ecc
    else if !h.takeTurn q || !h.storeMay (h.queueOwner q) then h
    else { h with queueRr := mapPut h.queueRr ((h.queueOwner q).getD 4096) q }.takeDesc q ecc none

/-- DESCRIPTOR_TAKE (R189). -/
def execDescriptorTake (q : QueueId) (ecc : Ecc) (s : State) : Res := onHub s (fun h => h.takeNext q ecc)

/-- The first submitted descriptors of a queue taken for an event, those it ends with a status; one whose fetch cannot be served yet is
taken by a later DESCRIPTOR_TAKE. -/
def Hub.takeFirst (h : Hub) (q status n : Nat) (cs : List Nat) : Hub :=
  if n = 0 then h
  else (List.range n).foldl (fun h _ => if 0 < (h.qrt q).cut.2 then h.takeCut q .clean else h)
    (h.setQrt q { h.qrt q with cut := (status, n), cutCtx := cs })

/-- Every submitted descriptor of a queue taken and ended with a status (R208). -/
def Hub.takeAll (h : Hub) (q status : Nat) : Hub := h.takeFirst q status (h.submitted q) []

/-- The queued, not started descriptors of a queue ended with a status. -/
def Hub.endQueued (h : Hub) (p : Item → Bool) (status : Nat) : Hub :=
  (h.itemsWhere (fun t => p t && !t.started)).foldl (fun h i => h.failItem i status) h

/-- What a queue has submitted, what has not started, and a WAITAC that waits, end STOPPED (R208, R231). -/
def Hub.cutQueue (h : Hub) (q : Nat) : Hub :=
  let h1 := (h.takeAll q stSTOPPED).endQueued (fun t => t.queue == q) stSTOPPED
  (h1.itemsWhere (fun t => decide (t.queue = q) && decide (t.st = .waiting) && decide (dOpcode t.desc = opWAITAC))).foldl
    (fun h i => h.failItem i stSTOPPED) h1

/-- A queue stopped (R208). -/
def Hub.stopQueue (h : Hub) (q : Nat) : Hub := (h.cutQueue q).finishStop q

/-! ## FAB_Q_RING (R184, R272) -/

def qRingRest : List Fld := [fFAB_Q_RING_CTX, fFAB_Q_RING_LOG2, fFAB_Q_RING_BASE]

/-- FAB_Q_RING written. A write that clears EN is answered once every record it causes is visible (R209); one that sets EN again waits
while descriptors that the last disabling ended are still to be taken (DESIGN CHOICE, log entry 142). -/
def Hub.writeQRing (h : Hub) (o : Origin) (q : Nat) (v : Word) : Hub :=
  h.mgrWrite o (fun h =>
    let r := rFAB_Q_RING q
    let en := h.flag r fFAB_Q_RING_EN
    let on := vFlag v fFAB_Q_RING_EN
    if (en && h.changes r qRingRest v) || decide (12 < vFld v fFAB_Q_RING_LOG2) then h.regErr
    else if en then
      if on then h.regOk
      else
        let h1 := h.setF r fFAB_Q_RING_EN 0
        (h1.setQrt q { h1.qrt q with stopping := true }).stopQueue q
    else if on && decide (0 < (h.qrt q).cut.2) then h
    else
      let h1 := h.writeRW r (fFAB_Q_RING_EN :: qRingRest) [] v
      if !on then h1.regOk
      else match h1.queueRings q with
        | (.bad, _) => h.regErr
        | (.blocked, h2) => h.orHalted h2
        | (.rings a b, h2) =>
          let h3 := h2.setQrt q { h2.qrt q with ring := a, cring := b, broken := false }
          let h4 := (h3.setReg (rFAB_Q_PTR q) 0).setF (rFAB_Q_STS q) fFAB_Q_STS_CDONE 0
          (if (match h.queueOwner q with | some s => decide (h.stateOf s = 3) | none => false) then h4 else h4.flushRecords q).regOk)

/-- QUEUE_RING_WRITE (R184, R272). -/
def execQueueRingWrite (o : Origin) (q : QueueId) (v : Word) (s : State) : Res := onReg o s (fun h => h.writeQRing o q v)

/-- FAB_Q_CMPL written (R184). -/
def Hub.writeQCmpl (h : Hub) (o : Origin) (q : Nat) (v : Word) : Hub :=
  h.mgrWrite o (fun h =>
    let fs := [fFAB_Q_CMPL_VECTOR, fFAB_Q_CMPL_CBASE]
    if h.flag (rFAB_Q_RING q) fFAB_Q_RING_EN && h.changes (rFAB_Q_CMPL q) fs v then h.regErr
    else h.regOk.writeRW (rFAB_Q_CMPL q) fs [] v)

/-! ## Movers (R197 to R199) -/

def Item.isMover (t : Item) : Bool := decide (dOpcode t.desc = 1) || decide (dOpcode t.desc = 2)

/-- An item holds a mover: it runs, or waits for its check channel. -/
def Item.onMover (t : Item) : Bool := t.isMover && (decide (t.st = .running) || decide (t.st = .waitChan))

/-- A slice's move copy has its mover (R77). -/
def Hub.moveRuns (h : Hub) (s : Nat) : Bool := h.flag (rSLM_MOVE s) fSLM_MOVE_BUSY && !(h.rt s).moveWaits

/-- Movers at work, for a slice and in all: of items and of move copies. -/
def Hub.moversOf (h : Hub) (so : Option Nat) : Nat :=
  (h.items.filter (fun e => e.2.onMover && decide (e.2.slice = so))).length + (match so with
    | some s => b2n (h.moveRuns s)
    | none => 0)
def Hub.moversBusy (h : Hub) : Nat :=
  (h.items.filter (fun e => e.2.onMover)).length + (h.forme.slices.filter (fun e => h.moveRuns e.1)).length

/-- The mover items of a slice, and its move copy, that are ready and wait for a mover. -/
def Hub.moverReady (h : Hub) (s : Nat) : Nat :=
  (h.items.filter (fun e => decide (e.2.slice = some s) && e.2.isMover && (decide (e.2.st = .parked) || h.mayStart e.2))).length +
    b2n (h.rt s).moveWaits

/-- The slices that share the 128 movers now: a slice claims of its guarantee what its work can use, and has a part in the rest while it
has work ready beyond its guarantee (R198). -/
def Hub.moverClaims (h : Hub) : List (Nat × Nat × Nat) :=
  h.forme.slices.filterMap (fun e =>
    let held := h.moversOf (some e.1)
    let ready := h.moverReady e.1
    if held + ready = 0 then none
    else some (e.1, min e.2.moverGuar (held + ready), if e.2.moverGuar < held + ready then e.2.moverWeight else 0))

/-- A slice may take another mover; a management item takes any free one (DESIGN CHOICE, log entry 12). -/
def Hub.moverMay (h : Hub) (so : Option Nat) : Bool :=
  decide (h.moversBusy < 128) && !h.stoppedInst uFAB 0 &&
  (match so with
   | none => true
   | some s => decide (h.moversOf so < share 128 h.moverClaims s))

/-- A slice holds more movers than its share: one goes back at the end of a chunk. -/
def Hub.moverOver (h : Hub) (so : Option Nat) : Bool :=
  match so with
  | none => false
  | some s => decide (share 128 h.moverClaims s < h.moversOf so)

/-- The system physical address of an item's virtual address; a management item's is hub-local (R182). -/
def Hub.itemPa (h : Hub) (t : Item) (va : Nat) : Option Nat :=
  match t.slice with
  | none => some (h.localPa va)
  | some _ => leafPa t.leaves va

def Item.chunk (t : Item) : Nat := min 65536 (dLen t.desc - t.pos)

/-- The requests of a chunk's reads or writes sent (R199). Writes with AC to another hub travel as one bundle (R344). -/
def Hub.issueRuns (h : Hub) (i : Nat) (t : Item) (write : Bool) (va n : Nat) (data : List Byte) : Hub :=
  let rs := runs (n / 256 + 2) va n
  let h1 := h.setItem i { t with st := .running, left := rs.length, writing := write, failOff := 65536 }
  rs.foldl (fun h p =>
    match h.itemPa t (va + p.1) with
    | none => h.updItem i (fun t => { t with left := t.left - 1, failed := t.failed.or (some stXLATE), failOff := min t.failOff p.1 })
    | some pa =>
      let counted := write && dAc t.desc && decide (pa / 2 ^ 42 ≠ h.hubNum)
      let q : Req :=
        { src := .item i p.1, slice := t.slice.getD 0, ctx := t.ctx, mgmt := t.slice.isNone, cls := 1,
          kind := if write then .write else .read, va := va + p.1, pa := pa, len := p.2,
          data := if write then sub data p.1 p.2 else [], gen := t.gen, acnum := if counted then some (dAcnum t.desc) else none,
          btotal := dLen t.desc, last := decide (t.pos + p.1 + p.2 = dLen t.desc) }
      let (r, h2) := h.newReq q
      h2.routeReq r) h1

/-- The pattern of a FILL over `n` bytes. -/
def fillBytes (d : List Byte) (n : Nat) : List Byte := (List.range n).map (fun j => d.getD (8 + j % 8) 0)

/-- An item's current chunk begins: a COPY reads it, a FILL writes it. -/
def Hub.startChunk (h : Hub) (i : Nat) (t : Item) : Hub :=
  if dOpcode t.desc = 1 then
    h.issueRuns i { t with buf := zeros t.chunk } false (dSrc t.desc + t.pos) t.chunk []
  else h.issueRuns i t true (dDst t.desc + t.pos) t.chunk (fillBytes t.desc t.chunk)

/-- A mover item starts, or resumes on the next mover its slice receives; a COPY with CHECK first waits for its channel. -/
def Hub.startMover (h : Hub) (i op : Nat) : Hub :=
  match h.item i with
  | none => h
  | some t =>
    if !h.moverMay t.slice then h
    else if decide (t.st = .parked) && decide (dOpcode t.desc = op) && !h.halted then h.startChunk i t
    else h.startItem i op (fun t =>
      let t1 := { t with startNo := h.nextId }
      let h1 := { h with nextId := h.nextId + 1 }
      if dCheck t.desc then h1.setItem i { t1 with st := .waitChan } else h1.startChunk i t1)

/-- COPY (R198, R199). -/
def execCopy (i : Nat) (s : State) : Res := onHub s (fun h => h.startMover i opCOPY)

/-- FILL (R198, R199). -/
def execFill (i : Nat) (s : State) : Res := onHub s (fun h => h.startMover i opFILL)

/-- LOAD (R201). -/
def execLoad (i : Nat) (e : LineEcc) (s : State) : Res := onHub s (fun h => h.startItem i opLOAD (fun t => h.runLoad i e.line e.ecc t))

/-- LAUNCH (R203). -/
def execLaunch (i : Nat) (s : State) : Res := onHub s (fun h => h.startItem i opLAUNCH (fun t => h.runLaunch i t))

/-- WAITAC_DESC (R196): the descriptor starts and holds every later one of its queue. -/
def execWaitacDesc (i : Nat) (s : State) : Res :=
  onHub s (fun h => h.startItem i opWAITAC (fun t => h.setItem i { t with st := .waiting }))

/-- FENCE (R196). -/
def execFence (i : Nat) (s : State) : Res :=
  onHub s (fun h => h.startItem i opFENCE (fun t => h.setItem i { t with st := .waiting }))

/-- The channel a COPY waits for is free and no COPY that started earlier waits for it (R432). -/
def Hub.chanTurn (h : Hub) (s : Nat) (t : Item) : Bool :=
  !h.flag (rCKC_RESn s (dCkch t.desc)) fCKC_RESn_BUSY &&
  h.items.all (fun e => !(decide (e.2.st = .waitChan) && decide (e.2.slice = some s) && decide (dCkch e.2.desc = dCkch t.desc) &&
    decide (e.2.startNo < t.startNo)))

/-- A COPY takes its check channel: unarmed, or stopped by a fatal fault (R390), it ends CHECK; armed, the channel is seeded and the first chunk begins (R432). -/
def Hub.takeChannel (h : Hub) (i : Nat) : Hub :=
  match h.item i with
  | none => h
  | some t =>
    match t.slice with
    | none => h
    | some s =>
      let n := dCkch t.desc
      if decide (t.st ≠ .waitChan) || !h.chanTurn s t || h.halted then h
      else if !h.flag (rCKC_EXPn s n) fCKC_EXPn_ARM || h.stoppedInst uCKC n then h.endItem i stCHECK 0
      else
        let seed := checkSeed s (h.fld (rCKC_EXPn s n) fCKC_EXPn_SEQ) (dSrc t.desc)
        (h.setF (rCKC_RESn s n) fCKC_RESn_BUSY 1).startChunk i { t with taken := true, crc := crcRun crcInit seed }

/-- CHECK_CHANNEL_TAKE (R432). -/
def execCheckChannelTake (i : Nat) (s : State) : Res := onHub s (fun h => h.takeChannel i)

/-- The end of a chunk's reads begins its writes, its bytes folded into the check stream; the end of its writes begins the
next chunk, or gives the mover back (R198, R199). An item that failed, was cut across or is whole waits for its end. -/
def Hub.chunkDone (h : Hub) (i : Nat) : Hub :=
  match h.item i with
  | none => h
  | some t =>
    if h.halted || decide (t.st ≠ .running) || !t.isMover || decide (t.left ≠ 0) || t.failed.isSome || decide (dLen t.desc ≤ t.pos) then h
    else if decide (dOpcode t.desc = 1) && !t.writing then
      h.issueRuns i { t with crc := if t.taken then crcRun t.crc t.buf else t.crc } true (dDst t.desc + t.pos) t.chunk t.buf
    else
      let t1 := { t with pos := t.pos + t.chunk, granules := (t.pos + t.chunk) / 64, writing := false, buf := [] }
      if dLen t.desc ≤ t1.pos ∨ t1.squash.isSome = true then h.setItem i t1
      else if h.moverOver t.slice then h.setItem i { t1 with st := .parked }
      else h.startChunk i t1

/-- MOVER_CHUNK_DONE (R198, R199). -/
def execMoverChunkDone (i : Nat) (s : State) : Res := onHub s (fun h => h.chunkDone i)

/-- A compare stream ends (R433): the channel's registers, the corrected fault, the interrupt after the record, and the
status the item ends with. -/
def Hub.streamEnd (h : Hub) (i s : Nat) (t : Item) : Hub :=
  let n := dCkch t.desc
  let r := rCKC_RESn s n
  let e := rCKC_EXPn s n
  let actual := crcEnd t.crc
  let good := decide (actual = h.fld e fCKC_EXPn_EXPECT)
  let h1 := ((((h.setF r fCKC_RESn_ACTUAL actual).setF r fCKC_RESn_MATCH (b2n good)).setF r fCKC_RESn_BUSY 0).bump e fCKC_EXPn_SEQ 1).setF
    e fCKC_EXPn_ARM 0
  let h2 := h1.setItem i { t with taken := false }
  if good then
    (if dAc t.desc && decide (t.bundle = none) then h2.addAc s (dAcnum t.desc) (dLen t.desc) else h2).endItem i stDONE t.granules
  else
    let h3 := (((h2.setF r fCKC_RESn_MISMATCH 1).count r fCKC_RESn_MISCOUNT 1).fault
      { source := srcOf uCKC n, kind := kCKC_COMPARE, cls := clsCorrected, slice := some s, ctx := some t.ctx }).endItem i stCHECK t.granules
    if h.flag (rCKC_SLICE_CTL s) fCKC_SLICE_CTL_IRQ_EN then h3.raiseVf s (h.fld (rCKC_SLICE_CTL s) fCKC_SLICE_CTL_VECTOR) else h3

/-- A remote bundle number is free again once its writes are answered (R344). -/
def Hub.freeItemBundle (h : Hub) (t : Item) : Hub :=
  match t.bundle, h.itemPa t (dDst t.desc) with
  | some b, some pa => { h with bundlesOut := h.bundlesOut.erase (pa / 2 ^ 42, b) }
  | _, _ => h

/-- A mover item ends: its writes visible, its counter raised, its record written (R220, R226, R433). -/
def Hub.itemDone (h : Hub) (i : Nat) : Hub :=
  match h.item i with
  | none => h
  | some t =>
    let running := decide (t.st = .running) || decide (t.st = .parked) || decide (t.st = .waitChan)
    if h.halted || !t.isMover || !running || decide (t.left ≠ 0) then h
    else
      let h1 := h.freeItemBundle t
      match t.failed with
      | some st =>
        (h1.setItem i { t with granules := if t.writing then (t.pos + min t.failOff t.chunk) / 64 else t.pos / 64 }).failItem i st
      | none =>
        if dLen t.desc ≤ t.pos then
          match t.slice with
          | none => h1.endItem i stDONE t.granules
          | some s =>
            if t.taken then h1.streamEnd i s t
            else (if dAc t.desc && decide (t.bundle = none) then h1.addAc s (dAcnum t.desc) (dLen t.desc) else h1).endItem i stDONE t.granules
        else match t.squash with
          | some st => h1.failItem i st
          | none => h

/-- MOVER_ITEM_DONE (R220). -/
def execMoverItemDone (i : Nat) (s : State) : Res := onHub s (fun h => h.itemDone i)

/-- A WAITAC completes once its counter has reached TARGET (R196, R227). -/
def Hub.waitacDone (h : Hub) (i : Nat) : Hub :=
  match h.item i with
  | none => h
  | some t =>
    match t.slice with
    | none => h
    | some s =>
      if decide (t.st = .waiting) && decide (dOpcode t.desc = 5) && h.acReached s (dAcnum t.desc) (dTarget t.desc) && !h.halted
      then h.endItem i stDONE 0 else h

/-- WAITAC_DESC_DONE (R196). -/
def execWaitacDescDone (i : Nat) (s : State) : Res := onHub s (fun h => h.waitacDone i)

/-- A FENCE completes once every earlier descriptor of its queue has completed (R196). -/
def Hub.fenceDone (h : Hub) (i : Nat) : Hub :=
  match h.item i with
  | none => h
  | some t =>
    if decide (t.st = .waiting) && decide (dOpcode t.desc = 6) && !h.earlierOpen t && !h.halted then h.endItem i stDONE 0 else h

/-- FENCE_DONE (R196). -/
def execFenceDone (i : Nat) (s : State) : Res := onHub s (fun h => h.fenceDone i)

/-- Every store of a kernel's cells is visible: none of their FABRIC operations is outstanding (R232). -/
def Hub.storesDone (h : Hub) (cs : List Nat) : Bool := h.fabricOps.all (fun e => !cs.contains e.2.cell)

/-- A kernel ends when every launched cell has reached END and its stores are visible (R204). -/
def Hub.kernelEnd (h : Hub) (i : Nat) : Hub :=
  match h.item i with
  | none => h
  | some t =>
    if decide (dOpcode t.desc = 4) && decide (t.st = .running) && h.storesDone t.cells && t.cells.all t.ended.contains then
      (t.cells.foldl (fun h c => h.updCell c (fun x => { x with launch := if x.launch = some i then none else x.launch })) h).endItem i stDONE
        (min (t.lastSheet + 1 - t.firstSheet) (2 ^ 32 - 1))
    else h

/-- KERNEL_END (R204). -/
def execKernelEnd (i : Nat) (s : State) : Res := onHub s (fun h => h.kernelEnd i)

/-! ## Arrival counters (R225 to R231) -/

def Hub.writeAc (h : Hub) (o : Origin) (s n : Nat) (v : Word) : Hub :=
  h.sliceWrite o s (fun h => h.regOk.setReg (rFAB_AC_n s n) v)

/-- ARRIVAL_COUNTER_WRITE (R226, R231). -/
def execArrivalCounterWrite (o : Origin) (sl : SliceId) (n : RegionId) (v : Word) (s : State) : Res :=
  onReg o s (fun h => h.writeAc o sl n v)

def Hub.writeAcAdd (h : Hub) (o : Origin) (s : Nat) (v : Word) : Hub :=
  h.sliceWrite o s (fun h => h.regOk.addAc s (vFld v fFAB_AC_ADD_NUM) (vFld v fFAB_AC_ADD_BYTES))

/-- ARRIVAL_COUNTER_ADD (R226). -/
def execArrivalCounterAdd (o : Origin) (sl : SliceId) (v : Word) (s : State) : Res := onReg o s (fun h => h.writeAcAdd o sl v)

/-! ## Compare channels (R430, R431, R437) -/

/-- A compare channel's registers answer only on the page of the slice that holds the channel. -/
def Hub.ckcHeld (h : Hub) (s n : Nat) : Bool := decide (h.checkOwner n = some s)

/-- CKC_EXPn written: refused while a stream runs (R430, R431). -/
def Hub.writeCkcExp (h : Hub) (o : Origin) (s n : Nat) (v : Word) : Hub :=
  h.sliceWrite o s (fun h =>
    if !h.ckcHeld s n || h.flag (rCKC_RESn s n) fCKC_RESn_BUSY || h.stoppedInst uCKC n then h.regErr
    else h.regOk.writeRW (rCKC_EXPn s n) [fCKC_EXPn_EXPECT, fCKC_EXPn_SEQ, fCKC_EXPn_ARM] [] v)

/-- CHECK_EXPECT_WRITE (R431). -/
def execCheckExpectWrite (o : Origin) (sl : SliceId) (n : Fin 224) (v : Word) (s : State) : Res :=
  onReg o s (fun h => h.writeCkcExp o sl n v)

/-- CKC_RESn written: MISMATCH and ABANDONED are W1C. -/
def Hub.writeCkcRes (h : Hub) (o : Origin) (s n : Nat) (v : Word) : Hub :=
  h.sliceWrite o s (fun h =>
    if !h.ckcHeld s n then h.regErr else h.regOk.writeRW (rCKC_RESn s n) [] [fCKC_RESn_MISMATCH, fCKC_RESn_ABANDONED] v)

/-- CKC_APPk written: CLR zeroes FAIL and LAST_SEQ. -/
def Hub.writeCkcApp (h : Hub) (o : Origin) (k : Nat) (v : Word) : Hub :=
  h.mgrWrite o (fun h =>
    if vFlag v fCKC_APPk_CLR then (h.regOk.setF (rCKC_APPk k) fCKC_APPk_FAIL 0).setF (rCKC_APPk k) fCKC_APPk_LAST_SEQ 0 else h.regOk)

/-- APPEND_CHANNEL_CLR (R437). -/
def execAppendChannelClr (o : Origin) (k : Fin 32) (s : State) : Res :=
  onReg o s (fun h => h.writeCkcApp o k (setFld 0 fCKC_APPk_CLR 1))

end Sys2Proof.Machine
end

