-- ==== Sys2Proof/Machine/Service.lean ====
section
/-! DEFINITION. The boot flash (R475) and the service record in it (R477): what Kelvy carries across a power-on reset. -/
namespace Sys2Proof.Machine

/-- The slots of the boot flash: offset and size. -/
def slotFW : Nat × Nat := (0, 0x100000)
def slotFORME : Nat × Nat := (0x100000, 0x200000)
def svcAt (copy : Nat) : Nat := if copy = 0 then 0x300000 else 0x340000

/-- Bytes of the flash; one that has not been programmed reads 0xFF (PRESUMED, log entry 44). -/
def Hub.flashGet (h : Hub) (a n : Nat) : List Byte := mapBytes 0xFF h.flash a n

/-- A part of the flash erased and programmed with some bytes from its start on. -/
def Hub.flashPut (h : Hub) (a size : Nat) (b : List Byte) : Hub := { h with flash := mapWriteBytes 0xFF (mapDropRange h.flash a size) a b }

/-! ## The service record (R477) -/

/-- An entry of the record: TYPE, remap STATE, and the row address, channel or array. -/
structure SvcEnt where
  typ : Nat
  state : Nat
  num : Nat
  deriving DecidableEq, Repr

def SvcEnt.bytes (e : SvcEnt) : List Byte := toLE 1 e.typ ++ toLE 1 e.state ++ zeros 6 ++ toLE 8 e.num

def svcEntOf (b : List Byte) : SvcEnt := { typ := leAt b 0 1, state := leAt b 1 1, num := leAt b 8 8 }

/-- What the hub has to carry: remap entries with STATE 1 or 2, retired channels and retired arrays. -/
def Hub.svcEntries (h : Hub) : List SvcEnt :=
  ((List.range 8192).filterMap (fun i =>
    let st := h.fld (rMEM_REMAPi i) fMEM_REMAPi_STATE
    if st = 0 then none else some { typ := 1, state := st, num := h.fld (rMEM_REMAPi i) fMEM_REMAPi_ROWADDR })) ++
  ((List.range 768).filterMap (fun c => if h.fld (rMEM_CH_STS c) fMEM_CH_STS_STATE = 4 then some { typ := 2, state := 0, num := c } else none)) ++
  ((List.range 208).filterMap (fun a => if h.fld (rARR_STAT a) fARR_STAT_MODE = 3 then some { typ := 3, state := 0, num := a } else none))

/-- A copy of the record with a sequence number. -/
def svcBytes (seq : Nat) (es : List SvcEnt) : List Byte :=
  let head := toLE 4 0x43565253 ++ toLE 2 1 ++ zeros 2 ++ toLE 8 seq ++ toLE 4 es.length ++ zeros 8
  let body := es.flatMap SvcEnt.bytes
  head ++ toLE 4 (crc32c (head ++ body)) ++ body

/-- A copy as it reads: valid when its MAGIC and CRC are correct. -/
def Hub.svcCopy (h : Hub) (copy : Nat) : Option (Nat × List SvcEnt) :=
  let b := h.flashGet (svcAt copy) 0x20
  let n := leAt b 0x10 4
  if leAt b 0 4 ≠ 0x43565253 ∨ 9168 < n then none
  else
    let body := h.flashGet (svcAt copy + 0x20) (16 * n)
    if crc32c (b.take 0x1c ++ body) = leAt b 0x1c 4 then some (leAt b 8 8, (List.range n).map (fun i => svcEntOf (sub body (16 * i) 16)))
    else none

/-- The copy in use, with its number: the valid one of the higher SEQ. -/
def Hub.svcBest (h : Hub) : Option (Nat × Nat × List SvcEnt) :=
  match h.svcCopy 0, h.svcCopy 1 with
  | some a, some b => if a.1 < b.1 then some (1, b) else some (0, a)
  | some a, none => some (0, a)
  | none, some b => some (1, b)
  | none, none => none

/-- Kelvy's firmware, while it runs, rewrites the copy of the lower SEQ when what the record holds has changed; here at the
change itself (DESIGN CHOICE, log entry 45). -/
def Hub.syncService (h : Hub) : Hub :=
  if h.fld rKLV_BOOT fKLV_BOOT_STAGE ≠ 6 then h
  else
    let es := h.svcEntries
    match h.svcBest with
    | none => if es.isEmpty then h else h.flashPut (svcAt 0) 0x40000 (svcBytes 1 es)
    | some (c, seq, old) => if es = old then h else h.flashPut (svcAt (1 - c)) 0x40000 (svcBytes (seq + 1) es)

end Sys2Proof.Machine
end

