-- ==== Sys2Proof/Machine/Slices.lean ====
section
/-! DEFINITION. Slices as they change state (R53 to R57, R74 to R78, R404 to R409, R422): hold entries, the SLM_SLICE_CTL
commands, teardown and scrub, the move copy, cell and array resets, and the rolling self-test (R153, R154). -/
namespace Sys2Proof.Machine

/-! ## Hold entries (R76, R148) -/

/-- The mode codes of R148. -/
def accCode : AccMode → Nat
  | .fp32 => 0
  | .int32 => 1
  | .exact => 2
  | .noMode => 3

def accOf : Nat → AccMode
  | 0 => .fp32
  | 1 => .int32
  | 2 => .exact
  | _ => .noMode

/-- The lanes of a set, 12 bytes each. -/
def laneBytes (a : AccSet) : List Byte := a.lanes.toList.flatMap (fun l => toLE 12 l.toNat)

/-- A set as bytes of its lanes, its window, its mode and its flags give it. -/
def accFrom (b : List Byte) (w mode flags : Nat) : AccSet :=
  { mode := accOf mode, w := signed w 16, lanes := Vector.ofFn (fun i => BitVec.ofNat 96 (leAt b (12 * i.val) 12)), flags := flags }

def loopBytes (l : LoopLvl) : List Byte := toLE 4 l.rem ++ toLE 2 l.start ++ toLE 2 l.last

/-- The 768 bytes a cell saves (R148). -/
def holdEntry (x : Cell) : List Byte :=
  let a := x.accs.toList.getD 0 {}
  let b := x.accs.toList.getD 1 {}
  let full := maskOf ((List.range 4).filter (fun d => (x.inbuf.toList.getD d none).isSome))
  toLE 2 x.pc ++ toLE 1 (b2n (decide (x.run = .atSheet))) ++ toLE 1 full ++ toLE 2 (wrap a.w 16) ++ toLE 2 (wrap b.w 16) ++
  toLE 2 (tstatValue a.flags b.flags 0 + accCode a.mode * 1024 + accCode b.mode * 4096) ++ toLE 2 (x.gstat % 16) ++ zeros 4 ++
  x.loops.toList.flatMap loopBytes ++ zeros 16 ++ x.regs.toList.flatMap (fun r => toLE 8 r.toNat) ++ laneBytes a ++ laneBytes b ++
  x.inbuf.toList.flatMap (fun w => match w with | some w => toLE 16 w.toNat | none => zeros 16)

/-- A cell reloaded from an entry: held where it had been waiting at SHEET, else idle (R76). -/
def Cell.reload (x : Cell) (e : List Byte) : Cell :=
  let f := leAt e 8 2
  { x with
    run := if bit (leAt e 2 1) 0 then .held else .idle
    wait := .none
    pc := leAt e 0 2
    regs := Vector.ofFn (fun i => BitVec.ofNat 64 (leAt e (0x40 + 8 * i.val) 8))
    loops := Vector.ofFn (fun i =>
      { rem := leAt e (0x10 + 8 * i.val) 4, start := leAt e (0x14 + 8 * i.val) 2, last := leAt e (0x16 + 8 * i.val) 2 })
    accs := (Vector.replicate 2 {}).setIfInBounds 0 (accFrom (sub e 0x140 192) (leAt e 4 2) (bits f 11 10) (bits f 4 0)) |>.setIfInBounds 1
      (accFrom (sub e 0x200 192) (leAt e 6 2) (bits f 13 12) (bits f 9 5))
    gstat := leAt e 0xA 2 % 16
    inbuf := Vector.ofFn (fun i =>
      if bit (leAt e 3 1) i.val then some (BitVec.ofNat 128 (leAt e (0x2C0 + 16 * i.val) 16)) else none)
    tensor := [], vector := [], gather := [], chan := [], replay := none, wasReset := none, closed := false }

/-- Entry i of a slice's hold area, hub-local. -/
def Hub.holdAddr (h : Hub) (s i : Nat) : Nat := (h.slD s).holdBase + 1024 * i

/-- A cell with a galley at SHEET is held; an idle cell stays idle. -/
def Cell.toHeld (x : Cell) : Cell := if x.busy then { x with run := .held, wait := .none } else x

/-- The request that saves or reads a part of a hold entry: master 0 of the slice, under its lowest-numbered enabled context (R280). -/
def Hub.holdReq (h : Hub) (s : Nat) (src : ReqSrc) : Req :=
  let c := ((List.range 16).find? (h.ctxOn s)).getD 0
  { src := src, slice := s, ctx := c, cls := 0, gen := h.gen (ctxid s c) }

/-- Entry i of the hold area written, in three requests (R76). -/
def Hub.writeEntry (h : Hub) (s i : Nat) (src : ReqSrc) (b : List Byte) : Hub :=
  let a := h.holdAddr s i
  [0, 256, 512].foldl (fun h k => h.ownWrite
    { h.holdReq s src with kind := .write, va := a + k, pa := h.hubNum * 2 ^ 42 + a + k, len := 256, data := sub b k 256 }) h

/-- Entry i of the hold area written with a cell's state (R76, R148). -/
def Hub.saveCell (h : Hub) (s c i : Nat) : Hub := h.writeEntry s i (.hold c) (holdEntry (h.cell c))

/-- Every cell of a slice saved to the hold area, and held (R76). -/
def Hub.saveCells (h : Hub) (s : Nat) : Hub :=
  let cs := (h.slD s).cells
  let kept := cs.map (fun c => (c, (h.cell c).launch, (h.cell c).armed))
  (cs.zipIdx.foldl (fun h p => (h.saveCell s p.1 p.2).updCell p.1 Cell.toHeld) h).updRt s (fun r => { r with saved := some kept, badEntries := [] })

/-- A cell number of an item replaced by the cell that reloads its entry. -/
def Hub.renameCell (h : Hub) (i : Option Nat) (old new : Nat) : Hub :=
  let f (c : Nat) : Nat := if c = old then new else c
  match i with
  | none => h
  | some i => h.updItem i (fun t => { t with cells := t.cells.map f, ended := t.ended.map f })

/-- Hold entries of a slice, in order: the bytes, or the status of a failed read; none where one cannot be read yet (R76). An entry that did
not read as a commit moved the hold area fails with the status it had then (R59). -/
def Hub.readEntries (h : Hub) (s n : Nat) : Option (List (Except Nat (List Byte))) × Hub :=
  (List.range n).foldl (fun r i => match r.1, mapGet (h.rt s).badEntries i with
    | none, _ => r
    | some l, some st => (some (l ++ [.error st]), r.2)
    | some l, none => match r.2.ownRead (h.holdReq s (.own none)) (h.hubNum * 2 ^ 42 + h.holdAddr s i) 768 (fun _ => .clean) with
      | (.data b, h1) => (some (l ++ [.ok b]), h1)
      | (.failed st, h1) => (some (l ++ [.error st]), h1)
      | (.blocked, h1) => (none, h.orHalted h1)) (some [], h)

/-- A cell whose hold entry does not read stops, as a cell whose read fails does (R293, R321). -/
def Hub.holdLost (h : Hub) (s c i st : Nat) : Hub :=
  let a := h.holdAddr s i
  let gone := decide (h.chState (((h.decode a).map (·.1)).getD 0) ≠ chACTIVE)
  let (unit, kind) := if st = fsLOST then (uUMB, kUMB_LOST) else if st = fsACCESS then (uMEM, kACCESS)
    else (uMEM, if gone then kMEM_CHANNEL else kMEM_UE)
  h.stopCell c { source := srcOf unit (h.ctrlOf a), kind := kind, cls := clsContained, slice := some s,
                 ctx := some (h.holdReq s (.own none)).ctx, addr := some a, aux := ((h.decode a).map (·.1)).getD 0 }

/-- Every saved cell reloaded: the i-th cell of the grant in force takes entry i, with the LAUNCH that the i-th saved cell
ran under (R76). The flag is false where an entry cannot be read yet: then no cell is reloaded. -/
def Hub.reloadCells (h : Hub) (s : Nat) : Bool × Hub :=
  match (h.rt s).saved with
  | none => (true, h)
  | some l => match h.readEntries s ((h.slD s).cells).length with
    | (none, h1) => (false, h1)
    | (some es, h1) => (true, (((h.slD s).cells).zip es).zipIdx.foldl (fun h e =>
        let (c, b) := e.1
        match b with
        | .error st => h.holdLost s c e.2 st
        | .ok b =>
          let (old, la, ar) := l.getD e.2 (c, none, none)
          ((h.updCell c (fun x => { x.reload b with launch := la, armed := ar })).renameCell la old c).renameCell ar old c) h1)

/-! ## Cells that a fault stopped (R404, R409) -/

/-- Kinds whose fault lets its slice leave FAULT by automatic exit (R386). A kind that is raised corrected or names no
slice, escalated, allows it. -/
def autoExit (k : Nat) : Bool :=
  !([kADDR, kCELL_SRAM, kARRAY_TEST, kECLIPSE, kACCESS, kMEM_UE, kMEM_CHANNEL, kUMB_LOST, kLINK_DOWN, kLINK_REFUSED, kROUTE_MISS,
     kSITE_PROTO, kSITE_QTO, kSITE_DOWN].contains k)

/-- A fault stopped the cell. -/
def Cell.stopped (x : Cell) : Bool := decide (x.run = .faulted) || decide (x.run = .inReset)

/-- A cell that a fault reset can run its sheet again (R409). -/
def Cell.replayable (x : Cell) : Bool :=
  match x.wasReset with
  | some k => autoExit k && !x.logOvf && !x.logTimeout && x.mark.isSome
  | none => false

/-- A stopped cell restarts, by replay or where it stood (R404). -/
def Cell.restarts (x : Cell) : Bool := x.wasReset.isNone || x.replayable

/-- A stopped cell of a slice. -/
def Hub.stoppedCells (h : Hub) (s : Nat) : List Nat := ((h.slD s).cells).filter (fun c => (h.cell c).stopped)

/-- SLM_FAULT.REPLAY (R409). -/
def Hub.mayRestart (h : Hub) (s : Nat) : Bool := (h.stoppedCells s).all (fun c => (h.cell c).restarts)

/-! ## Leaving FAULT -/

/-- A contained fault on its way to the collector names the slice. -/
def Hub.faultComing (h : Hub) (s : Nat) : Bool := h.fcol.msgs.any (fun m => decide (m.cls = clsContained) && decide (m.slice = some s))

/-- A request of a site engine waits on a translation fault (R369). -/
def Hub.engStalled (h : Hub) (st e : Nat) : Bool :=
  h.reqs.any (fun r => decide (r.2.stage = .fault) && (match r.2.src with
    | .site a b _ => a == st && b == e
    | _ => false))

/-- A closed engine opens once its quiesce is over, stalled while a request of it waits on a fault (R369, R370). -/
def Hub.openEngine (h : Hub) (st e : Nat) : Hub :=
  let k := h.site st
  if !k.closedEng.contains e || (mapGet k.closing e).isSome then h
  else (h.setSite st { k with closedEng := k.closedEng.erase e, dead := k.dead.erase e }).engState st e (if h.engStalled st e then 2 else 1)

/-- The engines of a slice, as (site, engine). -/
def SliceRec.engines (r : SliceRec) : List (Nat × Nat) :=
  (List.range 8).flatMap (fun st => (setBits (r.siteEng.getD st 0) 64).map (fun e => (st, e)))

def Hub.openEngines (h : Hub) (s : Nat) : Hub := ((h.slD s).engines).foldl (fun h p => h.openEngine p.1 p.2) h

/-- The rings that an invalidation broke translated again; where they do, the records they held are written (R272). -/
def Hub.mendQueues (h : Hub) (s : Nat) : Hub := ((h.slD s).queueIds).foldl (fun h q => h.mendQueue q) h

/-- A slice leaves FAULT for LIVE (R54, R404, R405): LOCK clears, its cells restart at the group's RELEASE boundary (R178). -/
def Hub.leaveFault (h : Hub) (s : Nat) : Hub :=
  let h1 := ((h.toState s slLIVE).recovered s).setF (rSLM_FAULT s) fSLM_FAULT_LOCK 0
  let h2 := h1.updRt s (fun r => { r with resumeWait := true })
  (h2.openEngines s).mendQueues s

/-- The group of a slice has ended by eclipse. -/
def Hub.eclipsed (h : Hub) (s : Nat) : Bool := decide (h.fld (rQL_GRP_STS (h.slD s).group) fQL_GRP_STS_STATE = 5)

/-! ## Cutting across a slice's work (R208, R274, R381) -/

/-- The requests of some cells withdrawn or failed, and their operations with them. -/
def Hub.dropCellWork (h : Hub) (cs : List Nat) : Hub :=
  let mine (q : Req) : Bool := match q.src with | .cell c _ _ => cs.contains c | _ => false
  { h with reqs := h.reqs.filter (fun e => !mine e.2), fabricOps := h.fabricOps.filter (fun e => !cs.contains e.2.cell) }

/-- The requests of a slice's site engines that have not left end: one that waits on a translation fault, whose ring entry is answered
FAIL, with XLATE, the others STOPPED (R274, R369, R370, R381). What has left ends on its own. -/
def Hub.stopSiteReqs (h : Hub) (s : Nat) : Hub :=
  let mine := h.reqs.filterMap (fun e => match e.2.src with
    | .site st en tag => if decide (e.2.slice = s) && !e.2.mgmt && e.2.unsent then some (e.1, st, en, tag, e.2) else none
    | _ => none)
  mine.foldl (fun h r =>
    let (i, st, en, tag, q) := r
    if (h.req i).isNone then h else (h.dropBoth i).sendSite st
      (mkPacket { op := siteRspOp q.kind, engine := en, tag := tag, status := if q.stage = .fault then 3 else 4 } [])) h

/-- A request of an item waits for another hub. -/
def Hub.itemRemote (h : Hub) (i : Nat) : Bool :=
  h.reqs.any (fun e => match e.2.src, e.2.stage with | .item j _, .remote _ => decide (j = i) | _, _ => false)

/-- A descriptor cut across: it ends SQUASHED, but for a running mover item whose requests are at another hub, which completes or ends
SQUASHED as they end, or REMOTE with the quiesce's timeout (R208). -/
def Hub.cutItem (h : Hub) (i : Nat) : Hub :=
  match h.item i with
  | none => h
  | some t =>
    if t.isMover && t.started && h.itemRemote i then h.setItem i { t with squash := some stSQUASHED } else h.failItem i stSQUASHED

/-- The hubs to which a slice's requests are out, each with the slice's peer there (R208, R350). -/
def Hub.remotePeers (h : Hub) (s : Nat) : List (Nat × Nat) :=
  (h.slD s).links.filter (fun p => h.tags.any (fun t => decide (t.2.slice = s) && decide (t.2.hub = p.1) && t.2.freeAt.isNone))

/-- Everything a slice has under way is cut across: tags rise, submitted and queued descriptors end SQUASHED, running ones
end, cells are reset and left idle without a galley, engines close, walks, cached translations and unanswered faults go. -/
def Hub.cutSlice (h : Hub) (s : Nat) : Hub :=
  let r := h.slD s
  let h1 := (h.bumpGens s).dropCellWork r.cells
  let h2 := r.cells.foldl (fun h c => h.setCell c { mem := (h.cell c).mem }) h1
  let h3 := (if (mapGet h2.keyJobs s).isSome then h2.keyOpDone s 9 else h2).stopSiteReqs s
  let h4 := r.queueIds.foldl (fun h q => h.takeAll q stSQUASHED) h3
  let h5 := (h4.itemsWhere (fun t => decide (t.slice = some s))).foldl (fun h i => h.cutItem i) h4
  let h6 : Hub := { h5 with
    walks := h5.walks.filter (fun w => decide (w.2.slice ≠ s)),
    xfaults := h5.xfaults.filter (fun x => decide (x.slice ≠ s)),
    cache := h5.cache.filter (fun l => decide (l.ctxid / 16 ≠ s)),
    walkCache := h5.walkCache.filter (fun e => decide (e.ctxid / 16 ≠ s)),
    invals := h5.invals.filter (fun v => decide (v.slice ≠ s)) }
  let h7 := (r.engines.foldl (fun h p => h.closeEngine p.1 p.2) h6).mendQueues s
  h7.updRt s (fun x => { x with holdWritten := false, relReady := false, resumeWait := false, holdDue := false, saved := none, reloadWait := false })

/-- A slice RESET's work on what the slice has under way (R54, R208, R230, R274): what is left ends later, and the hubs that requests
are out to are asked to quiesce. -/
def Hub.resetWork (h : Hub) (s : Nat) : Hub :=
  let h1 := (h.cutSlice s).updRt s (fun x => { x with resetting := true })
  ((h1.remotePeers s).foldl (fun h p => h.sendQuiesce s p.1 p.2 3) h1).settleSlice s

/-! ## SLM_SLICE_CTL (R54, R55, R62) -/

/-- HOLD: pending until the group is held; valid in LIVE alone. -/
def Hub.holdSlice (h : Hub) (s : Nat) : Hub :=
  if h.stateOf s = 1 then h.updRt s (fun r => { r with holdWritten := true, relReady := false }) else h.badCmd s

/-- RELEASE of a HELD or faulted slice (R76, R177, R405, R473). Entries that cannot be read yet are read later (log entry 137). -/
def Hub.releaseSlice (h : Hub) (s : Nat) : Hub :=
  let cells := (h.slD s).cells
  let t := h.rt s
  if h.stateOf s = 2 then
    if decide (h.pwrState = 1) && !cells.isEmpty then h.badCmd s
    else if !t.holdWritten || t.relReady || t.reloadWait then h
    else if (match t.saved with | some l => decide (l.length ≠ cells.length) | none => false) then h.badCmd s
    else
      let (done, h1) := h.reloadCells s
      h1.updRt s (fun r => { r with relReady := done, reloadWait := !done })
  else if h.stateOf s = 3 then
    if (decide (h.pwrState = 1) && !cells.isEmpty) || !h.mayRestart s || h.eclipsed s then h.badCmd s else h.leaveFault s
  else h.badCmd s

/-- RESET: from FAULT alone. -/
def Hub.resetSlice (h : Hub) (s : Nat) : Hub :=
  if h.stateOf s = 3 then
    (((h.resetWork s).toState s slLIVE).recovered s |>.setF (rSLM_FAULT s) fSLM_FAULT_LOCK 0).openEngines s
  else h.badCmd s

/-- The start of a teardown (R54, R422): DRAINING, the work cut across, and a QUIESCE to each LINK peer. -/
def Hub.startDrain (h : Hub) (s : Nat) : Hub :=
  let peers := (h.slD s).links
  let h1 := ((h.toState s slDRAINING).setF (rSLM_SLICE_STATE s) fSLM_SLICE_STATE_QTIMEOUT 0).cutSlice s
  let h2 := peers.foldl (fun h p => h.sendQuiesce s p.1 p.2 0) h1
  if peers.isEmpty then h2 else h2.setF (rSLM_SLICE_STATE s) fSLM_SLICE_STATE_REMOTE_WAIT 1

/-- TEARDOWN: from LIVE, HELD or FAULT. -/
def Hub.teardownSlice (h : Hub) (s : Nat) : Hub := if h.active s then h.startDrain s else h.badCmd s

/-- SLM_SLICE_CTL written; more than one command bit gets an error response (R62). -/
def Hub.writeSliceCtl (h : Hub) (o : Origin) (s : Nat) (v : Word) : Hub :=
  h.mgrWrite o (fun h =>
    let n := (setBits v.toNat 4).length
    if 1 < n then h.regErr
    else
      let h := h.regOk
      if vFlag v fSLM_SLICE_CTL_TEARDOWN then h.teardownSlice s
      else if vFlag v fSLM_SLICE_CTL_HOLD then h.holdSlice s
      else if vFlag v fSLM_SLICE_CTL_RELEASE then h.releaseSlice s
      else if vFlag v fSLM_SLICE_CTL_RESET then h.resetSlice s
      else h)

/-- SLICE_TEARDOWN (R54, R422). -/
def execSliceTeardown (o : Origin) (sl : SliceId) (s : State) : Res :=
  onReg o s (fun h => h.writeSliceCtl o sl (setFld 0 fSLM_SLICE_CTL_TEARDOWN 1))

/-- SLICE_HOLD (R54, R60, R176). -/
def execSliceHold (o : Origin) (sl : SliceId) (s : State) : Res :=
  onReg o s (fun h => h.writeSliceCtl o sl (setFld 0 fSLM_SLICE_CTL_HOLD 1))

/-- SLICE_RELEASE (R54, R177, R405). -/
def execSliceRelease (o : Origin) (sl : SliceId) (s : State) : Res :=
  onReg o s (fun h => h.writeSliceCtl o sl (setFld 0 fSLM_SLICE_CTL_RELEASE 1))

/-- SLICE_RESET (R54). -/
def execSliceReset (o : Origin) (sl : SliceId) (s : State) : Res :=
  onReg o s (fun h => h.writeSliceCtl o sl (setFld 0 fSLM_SLICE_CTL_RESET 1))

/-! ## DRAINING and SCRUB (R54, R422) -/

/-- An engine of the slice is still quiescing. -/
def Hub.enginesClosing (h : Hub) (s : Nat) : Bool := ((h.slD s).engines).any (fun p => (mapGet (h.site p.1).closing p.2).isSome)

/-- Everything of a draining slice has ended: descriptors, their records, requests, quiesces, engine closings, a move copy (R209). -/
def Hub.drained (h : Hub) (s : Nat) : Bool :=
  h.items.all (fun e => decide (e.2.slice ≠ some s)) &&
  h.reqs.all (fun e => decide (e.2.slice ≠ s) || e.2.mgmt) &&
  h.quiesces.all (fun e => decide (e.2.slice ≠ s) || decide (e.2.why ≠ 0)) && !h.enginesClosing s &&
  !h.flag (rSLM_MOVE s) fSLM_MOVE_BUSY && !h.sliceRecordsOut s

/-- Both queues of a mailbox emptied, EMPTIED set on both sides, the sequence numbers zero (R380). -/
def Hub.emptyMailbox (h : Hub) (s : Nat) : Hub :=
  ({ h with mail := mapDel h.mail s }.setF (rMBX_M_STS s) fMBX_M_STS_EMPTIED 1).setF (rMBX_T_STS s) fMBX_T_STS_EMPTIED 1

/-- The compare channels of a slice read zero (R430). -/
def Hub.clearCheck (h : Hub) (s : Nat) (ns : List Nat) : Hub :=
  ns.foldl (fun h n => (h.setReg (rCKC_EXPn s n) 0).setReg (rCKC_RESn s n) 0) h

/-- SCRUB begins: key slots, check channels, counters and mailboxes are cleared, an invalidation cut across is done. -/
def Hub.enterScrub (h : Hub) (s : Nat) : Hub :=
  let r := h.slD s
  let h1 := (h.toState s slSCRUB).setF (rSLM_SLICE_STATE s) fSLM_SLICE_STATE_REMOTE_WAIT 0
  let h2 : Hub := { h1 with keySlots := h1.keySlots.filter (fun e => !r.keys.contains e.1) }
  let h3 := ((h2.clearCheck s r.check).zeroAcs s).emptyMailbox s
  let h4 := if h3.flag (rHTU_INV_STS s) fHTU_INV_STS_BUSY then
      (h3.setF (rHTU_INV_STS s) fHTU_INV_STS_BUSY 0).setF (rHTU_INV_STS s) fHTU_INV_STS_DONE 1
    else h3
  h4.sliceEvt s fSLM_SLICE_EVT_TEARDOWN_DONE

/-- DRAIN_COMPLETE (R54, R209, R272, R422): every outstanding item has completed or been reported failed, and its record is visible. -/
def execDrainComplete (sl : SliceId) (s : State) : Res :=
  onHub s (fun h =>
    if h.stateOf sl ≠ 4 then h
    else
      let h1 := h.mendQueues sl
      if h1.drained sl then h1.enterScrub sl else h1)

/-- One line of a scrub: zeros on a channel in service, but for an unverifiable line, every write of which fails; the line leaves its
channel's lost-line list (R61, R298, R313, R321). Traffic class 13. -/
def Hub.scrubLine (h : Hub) (a : Nat) : Hub :=
  if h.halted || decide (h.chState (((h.decode a).map (·.1)).getD 0) ≠ chACTIVE) then h
  else match h.regionOf a with
    | some r => if h.lineLost r.region (lineIdx r a) then h else (h.hbmPutLine {} a (zeros 64)).metaTraffic { cls := 13 } a
    | none => (h.unloseAt a).metaTraffic { cls := 13 } a

/-- A granule filled with zeros (R61). -/
def Hub.zeroGranule (h : Hub) (g : Nat) : Hub :=
  let h1 := (List.range 32768).foldl (fun h i => h.scrubLine (g * GRAN + 64 * i)) h
  if (h.regionOf (g * GRAN)).isSome then h1
  else { h1 with hbm := mapDropRange h1.hbm (g * GRAN) GRAN, zeroed := if h1.zeroed.contains g then h1.zeroed else h1.zeroed ++ [g] }

/-- The granules of a list of ranges. -/
def rangeGranules (rs : List GRange) : List Nat := rs.flatMap (fun x => (List.range x.count).map (x.first + ·))

/-- Cells given back blank: storage zero, no galley (R61). -/
def Hub.zeroCells (h : Hub) (cs : List Nat) : Hub := h.wipeCells cs.contains

/-- What the scrub leaves of a slice's own registers: its queues disabled and its contexts not valid (DEDUCED from R59 and
R105, log entry 28). -/
def Hub.closeRegs (h : Hub) (s : Nat) : Hub :=
  let h1 := ((h.slD s).queueIds).foldl (fun h q => (h.setF (rFAB_Q_RING q) fFAB_Q_RING_EN 0).setQrt q {}) h
  (List.range 16).foldl (fun h n => h.setF (rHTU_CTX_CFGn s n) fHTU_CTX_CFGn_VALID 0) h1

/-- FREE: the holdings are zero, the slice's records leave the live forme, and its mirror reads as a free slice's (R72, R491). -/
def Hub.scrubDone (h : Hub) (s : Nat) : Hub :=
  let r := h.slD s
  let h1 := (rangeGranules r.ranges).foldl (fun h g => h.zeroGranule g) (h.zeroCells r.cells)
  let h2 := ((h1.toState s slFREE).sliceEvt s fSLM_SLICE_EVT_SCRUB_DONE).closeRegs s
  let h3 := (h2.setReg (rSLM_SLICE_STATE s) 0).updRt s (fun x =>
    { mirrorSeq := x.mirrorSeq, recoveries := 0 })
  { h3 with forme := { h3.forme with slices := mapDel h3.forme.slices s } }

/-- SCRUB_COMPLETE (R54, R61, R491). -/
def execScrubComplete (sl : SliceId) (s : State) : Res :=
  onHub s (fun h => if h.stateOf sl = 5 ∧ h.halted = false then h.scrubDone sl else h)

/-! ## The move copy (R56, R77) -/

/-- The cell numbers within an array that a slice holds. -/
def SliceRec.pattern (r : SliceRec) (a : Nat) : List Nat := (r.cellsOf a).map (· % 128)

/-- SLM_MOVE written; GO sets BAD_CMD outside HELD, between arrays of different patterns, or while a copy runs. The copy waits where the
slice receives no mover now (R77, R198). -/
def Hub.writeMove (h : Hub) (o : Origin) (s : Nat) (v : Word) : Hub :=
  h.mgrWrite o (fun h =>
    let m := rSLM_MOVE s
    let src := vFld v fSLM_MOVE_SRC_ARRAY
    let dst := vFld v fSLM_MOVE_DST_ARRAY
    let h1 := h.regOk.writeRW m [fSLM_MOVE_SRC_ARRAY, fSLM_MOVE_DST_ARRAY] [] v
    if !vFlag v fSLM_MOVE_GO then h1
    else
      let p := (h.slD s).pattern src
      if decide (h.stateOf s ≠ 2) || p.isEmpty || decide (p ≠ (h.slD s).pattern dst) || h.flag m fSLM_MOVE_BUSY then h1.badCmd s
      else
        let h2 := ((h1.setF m fSLM_MOVE_BUSY 1).setF m fSLM_MOVE_ERR 0).updRt s (fun r => { r with moving := (src, dst), moveWaits := true })
        if h2.moverMay (some s) then h2.updRt s (fun r => { r with moveWaits := false }) else h2)

/-- SLICE_MOVE_GO (R77). -/
def execSliceMoveGo (o : Origin) (sl : SliceId) (v : Word) (s : State) : Res :=
  onReg o s (fun h => h.writeMove o sl (setFld v fSLM_MOVE_GO 1))

/-- The copy ends: scratch, program store and the galley it holds pass to the matching cells, and MOVE_DONE is set; or it
stopped, and ERR is set (R56, R77). -/
def Hub.moveDone (h : Hub) (s : Nat) (ok : Bool) : Hub :=
  let m := rSLM_MOVE s
  if !h.flag m fSLM_MOVE_BUSY then h
  else
    let h1 := (h.setF m fSLM_MOVE_BUSY 0).updRt s (fun r => { r with moveWaits := false })
    if !ok then h1.setF m fSLM_MOVE_ERR 1
    else
      let (src, dst) := (h.rt s).moving
      (((h.slD s).pattern src).foldl (fun h c =>
        let x := h.cell (src * 128 + c)
        h.updCell (dst * 128 + c) (fun y => { y with mem := x.mem, galley := x.galley, mark := none })) h1).sliceEvt s fSLM_SLICE_EVT_MOVE_DONE

/-- A copy that waits takes its mover once the slice may have one; one that has it ends (R77; that the event which would end the copy
starts it instead is a DESIGN CHOICE, log entry 141). -/
def Hub.moveStep (h : Hub) (s : Nat) (ok : Bool) : Hub :=
  if (h.rt s).moveWaits && ok then
    (if h.moverMay (some s) && !h.halted then h.updRt s (fun r => { r with moveWaits := false }) else h)
  else h.moveDone s ok

/-- SLICE_MOVE_DONE (R77). -/
def execSliceMoveDone (sl : SliceId) (ok : Bool) (s : State) : Res := onHub s (fun h => h.moveStep sl ok)

/-! ## Cell and array resets (R412, R413) -/

/-- A cell has a fabric request outstanding. -/
def Hub.cellBusyOut (h : Hub) (c : Nat) : Bool :=
  h.fabricOps.any (fun e => decide (e.2.cell = c)) ||
  h.reqs.any (fun e => match e.2.src with | .cell d _ _ => decide (d = c) | _ => false)

/-- The end of a cell reset: registers, accumulators and flags zero, RUN 5. -/
def Cell.endReset (x : Cell) : Cell :=
  { x with run := .faulted, wait := .none, pc := 0, regs := Vector.replicate 32 0, loops := Vector.replicate 4 {},
           accs := Vector.replicate 2 {}, gstat := 0, stopRun := .idle }

/-- An array's mode set. -/
def Hub.setArrMode (h : Hub) (a m : Nat) : Hub := h.setF (rARR_STAT a) fARR_STAT_MODE m

/-- The cells that a LAUNCH or LOAD in the command store is for: those it has launched; those that hold its kernel; those that the image
in memory names (R200, R203). -/
def Hub.itemCells (h : Hub) (t : Item) : List Nat :=
  match t.slice with
  | none => []
  | some s =>
    if dOpcode t.desc = opLAUNCH then (if t.cells = [] then h.kernelCells s (dKid t.desc) else t.cells)
    else if dOpcode t.desc = opLOAD then
      match (h.readVirt s t.ctx (fun _ => .clean) (dSrc t.desc) 64).1 with
      | .data hd => match (h.readVirt s t.ctx (fun _ => .clean) (dSrc t.desc) (min (leAt hd 8 4) 0x4000000)).1 with
        | .data d => (List.range (min (leAt d 0xc 4) 26624)).map (fun i => ((h.slD s).cells).getD (leAt (imgCell d i) 0 2) 26624)
        | _ => []
      | _ => []
    else []

/-- LAUNCHes and LOADs for some cells that were reset end with a status, queued or running; a started kernel's other cells go on without
it (R208). -/
def Hub.endLaunches (h : Hub) (cs : List Nat) (status : Nat) : Hub :=
  let is := h.itemsWhere (fun t => (h.itemCells t).any (fun c => cs.contains c))
  is.foldl (fun h i =>
    let mine := match h.item i with | some t => t.cells | none => []
    (mine.foldl (fun h c => h.updCell c (fun x =>
      { x with launch := if x.launch = some i then none else x.launch, armed := if x.armed = some i then none else x.armed })) h).failItem i status) h

/-- CELL_RESET (R412): the reset ends once the cell's last request has completed or failed. The LAUNCHes and LOADs for a cell that cannot
replay end FAULT; for one that can they stay (R208, R409; DEDUCED, log entry 74). -/
def Hub.cellReset (h : Hub) (c : Nat) : Hub :=
  if decide ((h.cell c).run ≠ .inReset) || h.cellBusyOut c then h
  else (if (h.cell c).replayable then h else h.endLaunches [c] stFAULT).updCell c Cell.endReset

/-- CELL_RESET (R208, R412). -/
def execCellReset (c : CellId) (s : State) : Res := onHub s (fun h => h.cellReset c)

/-- The array reset of a whole fused group begins: every array reads MODE 2, and its cells stop (R48, R112, R413). -/
def Hub.startArrayReset (h : Hub) (a : Nat) : Hub :=
  (h.fusedWith a).foldl (fun h b =>
    if h.fld (rARR_STAT b) fARR_STAT_MODE = 2 ∨ h.badArrays.contains b then h
    else
      ((List.range 128).map (b * 128 + ·)).foldl (fun h c =>
        if h.cells.any (fun e => e.1 == c) then (h.dropUnsent c).updCell c (Cell.beginReset kARRAY_TEST) else h) (h.setArrMode b 2)) h

/-- ARRAY_RESET (R413): the cells' requests are over; storage is zero, galleys and sheet marks are gone, the LAUNCHes of the
array's cells end FAULT, and the self-test runs in MODE 1. A cell of a slice stays stopped until the slice is reset. -/
def Hub.arrayReset (h : Hub) (a : Nat) : Hub :=
  let cs := (List.range 128).map (a * 128 + ·)
  if h.fld (rARR_STAT a) fARR_STAT_MODE ≠ 2 ∨ cs.any h.cellBusyOut = true then h
  else
    let h1 := h.endLaunches cs stFAULT
    let h2 := h1.wipeCells (fun c => decide (c / 128 = a))
    let h3 := cs.foldl (fun h c =>
      if (h.cellOwner c).isSome ∧ (h1.cell c).stopped = true then h.setCell c { run := .faulted, wasReset := some kARRAY_TEST } else h) h2
    h3.setArrMode a 1

/-- ARRAY_RESET (R413). -/
def execArrayReset (a : ArrayId) (s : State) : Res := onHub s (fun h => h.arrayReset a)

/-! ## The rolling self-test (R153, R154) -/

/-- Seconds since the last complete self-test of an array. -/
def Hub.testAge (h : Hub) (a : Nat) : Nat := (h.now - (mapGetD h.tests a (0, false)).1) / (1000 * psMs)

/-- Every cell of an array is idle or held, and has been for `ps`: since the last of them came to rest (R153). -/
def Hub.arrIdle (h : Hub) (a ps : Nat) : Bool :=
  h.cells.all (fun e => decide (e.1 / 128 ≠ a) || e.2.atRest) && decide (mapGetD h.restAt a 0 + ps ≤ h.now)

/-- A self-test starts: the array idle for 100 microseconds and its age above 3,600 s, or at the next idle moment after
RUN_NOW; only lit (R153, R473). That a hub halt holds it back as it does every engine is a DESIGN CHOICE (R318, log entry 145). -/
def Hub.startTest (h : Hub) (a : Nat) : Hub :=
  let asked := (mapGetD h.tests a (0, false)).2
  if decide (h.arrMode a = 0) && decide (h.pwrState = 0) && !h.halted &&
      ((decide (3600 < h.testAge a) && h.arrIdle a (100 * psUs)) || (asked && h.arrIdle a 0)) then
    { h with tests := mapPut h.tests a ((mapGetD h.tests a (0, false)).1, false) }.setArrMode a 1
  else h

/-- SELF_TEST_START (R153). -/
def execSelfTestStart (a : ArrayId) (s : State) : Res := onHub s (fun h => h.startTest a)

/-- ARR_TEST written: RUN_NOW asks for a run. -/
def Hub.writeArrTest (h : Hub) (o : Origin) (a : Nat) (v : Word) : Hub :=
  h.mgrWrite o (fun h =>
    if vFlag v fARR_TEST_RUN_NOW then { h.regOk with tests := mapPut h.tests a ((mapGetD h.tests a (0, false)).1, true) } else h.regOk)

/-- SELF_TEST_RUN_NOW (R153). -/
def execSelfTestRunNow (o : Origin) (a : ArrayId) (s : State) : Res :=
  onReg o s (fun h => h.writeArrTest o a (setFld 0 fARR_TEST_RUN_NOW 1))

/-- ARRAY_TEST raised for an array that failed its self-test: named to every slice with cells in it, or to none where there
is no such slice (R413, R486). -/
def Hub.failTest (h0 : Hub) (a : Nat) : Hub :=
  let h : Hub := { h0 with badArrays := a :: h0.badArrays.erase a }
  match h.arraySlices a with
  | [] => h.faultS uARR a kARRAY_TEST clsContained none 0
  | l => l.foldl (fun h s => h.faultS uARR a kARRAY_TEST clsContained (some s) 0) h

/-- A self-test ends: the array is in service; or it failed, ARRAY_TEST names each slice with cells in it, the reset of R48
begins for every array fused with it (R112), and MODE stays 1 until the array is retired (R413). An array whose retirement waits is gated
whatever the result (R486). A RUN_NOW written while the test ran asked for no other (DESIGN CHOICE, log entry 145). -/
def Hub.testDone (h : Hub) (a : Nat) (pass : Bool) : Hub :=
  let retire := h.flag (rARR_CTL a) fARR_CTL_RETIRE
  if h.arrMode a ≠ 1 ∨ (h.badArrays.contains a ∧ retire = false) then h
  else
    let r := rARR_TEST a
    let h1 := ({ h with tests := mapPut h.tests a (h.now, false) }.setF r fARR_TEST_PASS (b2n pass)).setF r fARR_TEST_DUE 0
    if retire then (({ h1 with badArrays := h1.badArrays.erase a }.setF (rARR_CTL a) fARR_CTL_RETIRE 0).setArrMode a 3).syncService
    else if pass then h1.setArrMode a 0
    else
      let cs := h1.cells.filterMap (fun e => if decide (e.1 / 128 = a) && !e.2.stopped then some e.1 else none)
      let h2 := cs.foldl (fun h c => (h.dropUnsent c).updCell c (Cell.beginReset kARRAY_TEST)) h1
      (h2.failTest a).startArrayReset a

/-- SELF_TEST_DONE (R153, R413). -/
def execSelfTestDone (a : ArrayId) (pass : Bool) (s : State) : Res := onHub s (fun h => h.testDone a pass)

/-- TEST_DUE (R154): AGE_S has passed 82,800. -/
def execTestDue (a : ArrayId) (s : State) : Res :=
  onHub s (fun h =>
    if decide (82800 < h.testAge a) && !h.flag (rARR_TEST a) fARR_TEST_DUE then
      (h.setF (rARR_TEST a) fARR_TEST_DUE 1).faultS uARR a kTEST_DUE clsCorrected none 0
    else h)

/-! ## Automatic exit (R404) -/

/-- The quiet period in ps. -/
def Hub.quietPs (h : Hub) : Nat := h.fld rFCOL_CTL fFCOL_CTL_QUIET_MS * psMs

/-- Every condition of R404: the failed items ended, no stopped cell with a request out, quiet, every kind allows it, no
LOCK, no latch entry that blocks, every stopped cell restarts. -/
def Hub.exitReady (h : Hub) (s : Nat) : Bool :=
  decide (h.stateOf s = 3) && !h.faultComing s && h.items.all (fun e => decide (e.2.slice ≠ some s) || e.2.failed.isNone) &&
  (h.stoppedCells s).all (fun c => !h.cellBusyOut c && decide ((h.cell c).run = .faulted)) &&
  decide ((h.rt s).faultAt + h.quietPs ≤ h.now) && h.flag (rSLM_FAULT s) fSLM_FAULT_AUTO && !h.flag (rSLM_FAULT s) fSLM_FAULT_LOCK &&
  h.fcol.blocked.all (fun l => !l.contains s) && h.mayRestart s && !h.eclipsed s

/-- AUTOMATIC_EXIT (R404). -/
def execAutomaticExit (sl : SliceId) (s : State) : Res := onHub s (fun h => if h.exitReady sl then h.leaveFault sl else h)

end Sys2Proof.Machine
end

