-- ==== Sys2Proof/Machine/Beat.lean ====
section
/-! DEFINITION. Schedule groups and the beat (R155 to R179): forming, beat and vote messages, what a boundary does, the
check, the origin's verdict, holds, and eclipses (R351, R352, R418 to R421). -/
namespace Sys2Proof.Machine

def vSTART : Nat := 0
def vADVANCE : Nat := 1
def vSLIP : Nat := 2
def vHOLD : Nat := 3
def vHELD : Nat := 4
def vRELEASE : Nat := 5
def vHANG : Nat := 6

/-- Which verdicts carry a check, and which start a sheet (R167). -/
def verdictChecks (v : Nat) : Bool := [vADVANCE, vHOLD, vHELD, vRELEASE].contains v
def verdictStarts (v : Nat) : Bool := [vSTART, vADVANCE, vRELEASE].contains v

/-! ## The tree -/

def Hub.gState (h : Hub) (g : Nat) : Nat := h.fld (rQL_GRP_STS g) fQL_GRP_STS_STATE
def Hub.setGState (h : Hub) (g st : Nat) : Hub := h.setF (rQL_GRP_STS g) fQL_GRP_STS_STATE st
def Hub.gSheet (h : Hub) (g : Nat) : Nat := h.fld (rQL_GRP_SHEET g) fQL_GRP_SHEET_SHEET
def Hub.gBoundary (h : Hub) (g : Nat) : Nat := h.fld (rQL_GRP_BND g) fQL_GRP_BND_BOUNDARY

/-- This hub times the group: its SCHED record has BEAT_LINK 0xFF. -/
def Sched.origin (r : Sched) : Bool := decide (r.beatLink = 0xFF)

/-- The SCHED record by which this hub takes part in a group's beat: none once a fatal fault has stopped the group's source (R390). -/
def Hub.beatSched (h : Hub) (g : Nat) : Option Sched := if h.stoppedInst uBEAT g then none else h.sched g

/-- The lead and the sheet length, in ps (R158). -/
def Sched.lead (r : Sched) : Nat := 400 * r.hops * psNs
def Sched.sheet (r : Sched) : Nat := r.sheetNs * psNs

/-- The child links of a group (R156). -/
def Hub.children (h : Hub) (g : Nat) : List Nat := setBits (h.fld (rQL_GRP_STS g) fQL_GRP_STS_CHILDREN) 24

/-- The measured one-way delay of a link, in ps (R355). -/
def Hub.linkDelay (h : Hub) (l : Nat) : Nat := h.fld (rQL_LINK_DLY l) fQL_LINK_DLY_DELAY

/-- The slices of a group that can be in its job: LIVE, HELD or in FAULT. -/
def Hub.groupActive (h : Hub) (g : Nat) : List Nat := (h.groupSlices g).filter h.active

/-- A fault of a group named to one of its slices. -/
def Hub.beatFault (h : Hub) (g kind s : Nat) : Hub := h.faultS uBEAT g kind clsContained (some s) g

/-- A corrected fault of a group. -/
def Hub.beatNote (h : Hub) (g kind : Nat) : Hub := h.faultS uBEAT g kind clsCorrected none g

/-! ## Messages (R163, R164, R351) -/

def beatW0 (g verdict boundary : Nat) : Nat := g % 1024 + verdict * 2 ^ 10 + boundary % 2 ^ 48 * 2 ^ 16
def beatW1 (elapsed chk : Nat) : Nat := min elapsed (2 ^ 32 - 1) + chk % 2 ^ 32 * 2 ^ 32

/-- A beat message to each child: each sender adds the delay of the link it leaves on (R158; that the origin does so too is
DEDUCED, log entry 26). -/
def Hub.sendBeat (h : Hub) (g verdict boundary elapsed chk hop : Nat) : Hub :=
  (h.children g).foldl (fun h l =>
    h.sendFrame l 2 (msgFrame opBEAT (beatW0 g verdict boundary) (beatW1 (elapsed + h.linkDelay l) chk) (hop % 16))) h

def voteW0 (g : Nat) (v : Vote) (forming : Bool) : Nat :=
  g % 1024 + b2n v.late * 2 ^ 10 + b2n v.fault * 2 ^ 11 + b2n v.holdReq * 2 ^ 12 + b2n v.relReady * 2 ^ 13 + b2n forming * 2 ^ 14 +
  v.boundary % 2 ^ 48 * 2 ^ 16

def voteW1 (v : Vote) : Nat := v.count % 1024 + v.lateHub.getD 0 % 512 * 2 ^ 10 + b2n v.lateHub.isSome * 2 ^ 19

/-- A vote sent up the beat link; SUBTREE is its COUNT. -/
def Hub.sendVote (h : Hub) (g : Nat) (r : Sched) (v : Vote) (forming : Bool) : Hub :=
  (h.sendFrame r.beatLink 2 (msgFrame opVOTE (voteW0 g v forming) (voteW1 v) 0)).setF (rQL_GRP_STS g) fQL_GRP_STS_SUBTREE v.count

/-- Two votes combined (R164). -/
def Vote.join (a b : Vote) : Vote :=
  { late := a.late || b.late, fault := a.fault || b.fault, holdReq := a.holdReq || b.holdReq, relReady := a.relReady && b.relReady,
    boundary := a.boundary, count := a.count + b.count,
    lateHub := match a.lateHub, b.lateHub with
      | some x, some y => some (min x y)
      | x, y => x.or y }

/-- The combined vote of a hub: its own and the children's it holds. -/
def GroupRt.combined (k : GroupRt) : Option Vote := k.own.map (fun v => k.votes.foldl (fun a e => a.join e.2) v)

/-! ## Forming (R156, R157) -/

/-- The hubs in this hub's subtree, by the forming votes it holds. -/
def Hub.formCount (h : Hub) (g : Nat) : Nat := 1 + ((h.grp g).forming.map (·.2)).sum

/-- The origin sends START once the total equals HUBS. -/
def Hub.tryStart (h : Hub) (g : Nat) (r : Sched) : Hub :=
  if r.origin && decide (h.gState g = 1) && decide (h.formCount g = r.hubs) && (h.grp g).fixed.isNone && (h.grp g).pend.isNone && !(h.grp g).started then
    h.updGrp g (fun k => { k with fixed := some vSTART, lastVerdict := vSTART, ostate := 2, consec := 0, holdPending := false })
  else h

/-- FORMING_VOTE_TIMER (R157): a hub of a forming group votes its subtree's count; the origin looks at its total. -/
def execFormingVoteTimer (g : GroupId) (s : State) : Res :=
  onHub s (fun h => match h.beatSched g with
    | none => h
    | some r =>
      if h.gState g ≠ 1 then h
      else if r.origin then h.tryStart g r
      else h.sendVote g r { count := h.formCount g } true)

/-- GROUP_FORM_TIMEOUT (R157): one corrected fault where the group has not started within 10 ms of its commit. -/
def execGroupFormTimeout (g : GroupId) (s : State) : Res :=
  onHub s (fun h =>
    let k := h.grp g
    if decide (h.gState g = 1) && !k.formRaised && decide (k.commitAt + 10 * psMs ≤ h.now) then
      (h.updGrp g (fun k => { k with formRaised := true })).beatNote g kGROUP_FORM
    else h)

/-! ## The origin's beat (R158, R170) -/

/-- The sheet number after a boundary with a verdict. -/
def Hub.sheetAfter (h : Hub) (g v : Nat) : Nat :=
  if v = vSTART then 0 else if verdictStarts v then h.gSheet g + 1 else h.gSheet g

/-- BEAT_SEND: at T(n) - L the origin sends the fixed verdict of boundary n, and acts on it itself at T(n). START falls L
after the moment it is sent. -/
def Hub.beatSend (h : Hub) (g : Nat) (r : Sched) : Hub :=
  let k := h.grp g
  match k.fixed with
  | none => h
  | some v =>
    let due := k.lastAt + r.sheet
    if !r.origin || decide (h.gState g = 5) || (k.started && decide (h.now + r.lead < due)) then h
    else
      let n := if k.started then h.gBoundary g + 1 else 0
      let chk := h.sheetAfter g v % 2 ^ 32
      let m : BeatMsg :=
        { verdict := v, boundary := n, elapsed := 0, chk := chk, hop := 0, link := 31, actAt := if k.started then due else h.now + r.lead }
      (h.updGrp g (fun k => { k with fixed := none, pend := some m })).sendBeat g v n 0 chk 1

/-- BEAT_SEND (R158). -/
def execBeatSend (g : GroupId) (s : State) : Res :=
  onHub s (fun h => match h.beatSched g with
    | none => h
    | some r => h.beatSend g r)

/-! ## BEAT (R158, R160, R163) -/

/-- A beat message taken from a link: discarded where it breaks R163, comes from no parent, or meets an ended group; else
forwarded at once, and kept to be acted on. -/
def Hub.takeBeat (h : Hub) (l arrived : Nat) (f : List Byte) : Hub :=
  let w0 := leAt f 8 8
  let w1 := leAt f 16 8
  let w2 := leAt f 24 8
  let g := bits w0 9 0
  let v := bits w0 13 10
  let e := bits w1 31 0
  let hop := bits w2 3 0
  match h.beatSched g with
  | none => h
  | some r =>
    if decide (6 < v) || decide (bits w0 15 14 ≠ 0) || decide (bits w2 63 4 ≠ 0) || decide (hop = 0) || decide (r.hops < hop) ||
        decide (r.beatLink ≠ l) || decide (h.gState g = 5) || decide (h.gState g = 0) then h
    else
      let late := decide (r.lead < e)
      let m : BeatMsg :=
        { verdict := v, boundary := bits w0 63 16, elapsed := e, chk := bits w1 63 32, hop := hop, link := l,
          actAt := if late then arrived else arrived + r.lead - e }
      let h1 := (h.updGrp g (fun k => { k with pend := some m, beatSilent := false })).setF (rQL_GRP_TIME g) fQL_GRP_TIME_ELAPSED
        (min e (2 ^ 24 - 1))
      let h2 := if late then (h1.count (rQL_GRP_TIME g) fQL_GRP_TIME_LATE_ARR 1).beatNote g kBEAT_SKEW else h1
      h2.sendBeat g v m.boundary (e + (h.now - arrived)) m.chk (hop + 1)

/-- BEAT (R158, R160, R163). -/
def execBeat (l : LinkId) (s : State) : Res :=
  onHub s (fun h => match h.rxHead l 2 with
    | none => h
    | some f => if msgOp f = opBEAT then (h.rxPop l 2).takeBeat l ((h.link l).arrivedAt.headD h.now) f else h)

/-! ## Eclipse (R351, R352, R418 to R421) -/

/-- A cell stopped where it stands (R490). -/
def Cell.stopHere (x : Cell) : Cell := if x.busy then { x with run := .faulted, stopRun := x.run } else x

/-- The LAUNCHes of a slice, queued or running, end with a status. -/
def Hub.endSliceLaunches (h : Hub) (s status : Nat) : Hub :=
  (h.itemsWhere (fun t => decide (t.slice = some s) && decide (dOpcode t.desc = opLAUNCH))).foldl (fun h i =>
    (((h.slD s).cells).foldl (fun h c => h.updCell c (fun x =>
      { x with launch := if x.launch = some i then none else x.launch, armed := if x.armed = some i then none else x.armed })) h).failItem
        i status) h

/-- The first eclipse of a group acts: STATE 5, each of its slices gets a contained ECLIPSE with the source hub in AUX, its
cells stop where they stand and its LAUNCHes end (R420). -/
def Hub.endGroup (h : Hub) (g src : Nat) : Hub :=
  if h.gState g = 5 then h
  else
    let h1 := (h.setGState g 5).updGrp g (fun k => { k with pend := none, fixed := none })
    (h1.groupActive g).foldl (fun h s =>
      let h2 := ((h.slD s).cells).foldl (fun h c => h.updCell c Cell.stopHere) h
      (h2.endSliceLaunches s stECLIPSE).faultS uBEAT g kECLIPSE clsContained (some s) src) h1

/-- An eclipse message sent on the parent link and every child link but one. -/
def Hub.sendEclipse (h : Hub) (g w0 w1 : Nat) (skip : Option Nat) : Hub :=
  let up := match h.sched g with
    | some r => if r.origin then [] else [r.beatLink]
    | none => []
  ((up ++ h.children g).filter (fun l => decide (some l ≠ skip))).foldl (fun h l => h.sendFrame l 2 (msgFrame opECLIPSE w0 w1 0)) h

/-- An eclipse raised by this hub (R418, R419). -/
def Hub.raiseEclipse (h : Hub) (g reason : Nat) : Hub :=
  let seq := h.fcol.eclSeq
  let w0 := g % 1024 + h.hubNum * 2 ^ 10 + reason * 2 ^ 24 + seq % 2 ^ 32 * 2 ^ 32
  let h1 : Hub := { h with fcol := { h.fcol with eclSeq := seq + 1 } }
  ((h1.updGrp g (fun k => { k with eclSeen := k.eclSeen ++ [(h.hubNum, seq % 2 ^ 32)] })).sendEclipse g w0 (h.gBoundary g) none).endGroup g h.hubNum

/-- An eclipse received: forwarded once for each source and number, and acted on (R352, R420). -/
def Hub.takeEclipse (h : Hub) (l : Nat) (f : List Byte) : Hub :=
  let w0 := leAt f 8 8
  let g := bits w0 9 0
  let key := (bits w0 18 10, bits w0 63 32)
  if (h.sched g).isNone ∨ (h.grp g).eclSeen.contains key then h
  else ((h.updGrp g (fun k => { k with eclSeen := k.eclSeen ++ [key] })).sendEclipse g w0 (leAt f 16 8) (some l)).endGroup g key.1

/-- ECLIPSE (R352, R420). -/
def execEclipse (l : LinkId) (s : State) : Res :=
  onHub s (fun h => match h.rxHead l 2 with
    | none => h
    | some f => if msgOp f = opECLIPSE then (h.rxPop l 2).takeEclipse l f else h)

/-- A group has started on this hub and has not ended. -/
def Hub.groupStarted (h : Hub) (g : Nat) : Bool := let st := h.gState g; decide (st = 2) || decide (st = 3) || decide (st = 4)

/-- FCOL_ECL written: GO raises an eclipse of a started group, else an error response. -/
def Hub.writeEcl (h : Hub) (o : Origin) (v : Word) : Hub :=
  h.mgrWrite o (fun h =>
    let g := vFld v fFCOL_ECL_GROUP
    if vFlag v fFCOL_ECL_GO then
      if h.groupStarted g then (h.regOk.writeRW rFCOL_ECL [fFCOL_ECL_GROUP] [] v).raiseEclipse g 1 else h.regErr
    else h.regOk.writeRW rFCOL_ECL [fFCOL_ECL_GROUP] [] v)

/-- MANAGER_ECLIPSE (R418). -/
def execManagerEclipse (o : Origin) (v : Word) (s : State) : Res :=
  onReg o s (fun h => h.writeEcl o (setFld v fFCOL_ECL_GO 1))

/-! ## What a boundary does (R166 to R174, R203, R408) -/

/-- A cell that a LAUNCH has armed starts at PC 0, its registers, accumulator sets and flags zero (R203). -/
def Cell.launchStart (x : Cell) (i sheet : Nat) : Cell :=
  { x with pc := 0, regs := Vector.replicate 32 0, loops := Vector.replicate 4 {}, accs := Vector.replicate 2 {}, gstat := 0,
           armed := none, launch := some i, wasReset := none, stopRun := .idle }.startSheet sheet

/-- The armed LAUNCHes of a slice start (R203). -/
def Hub.startLaunches (h : Hub) (s sheet : Nat) : Hub :=
  (h.itemsWhere (fun t => decide (t.slice = some s) && decide (t.st = .armed))).foldl (fun h i =>
    match h.item i with
    | none => h
    | some t =>
      t.cells.foldl (fun h c => (h.updCell c (fun x => x.launchStart i sheet)).fetchCheck c)
        (h.setItem i { t with st := .running, firstSheet := sheet, lastSheet := sheet, ended := [] })) h

/-- A cell that a fault reset restored from its sheet mark and its log, to run its sheet again (R408). -/
def Cell.startReplay (x : Cell) : Cell :=
  match x.mark with
  | none => x
  | some m =>
    { x with run := .running, wait := .none, pc := m.pc, regs := m.regs, loops := m.loops, accs := m.accs, gstat := m.gstat,
             sheet := m.sheet, inbuf := x.bufCopy, bufCopy := Vector.replicate 4 none, closed := false, wasReset := none,
             replay := if x.log = [] then none else some 0 }

/-- A stopped cell goes on: by replay where a fault reset it, else where it stood (R404, R408). -/
def Cell.restart (x : Cell) : Cell :=
  if x.run = .faulted then (if x.wasReset.isSome then x.startReplay else { x with run := x.stopRun, stopRun := .idle }) else x

/-- Cells at SHEET whose sheet is past go on with their next one (R167, R168). -/
def Hub.resumeAtSheet (h : Hub) (cur : Nat) (cs : List Nat) : Hub :=
  cs.foldl (fun h c =>
    let x := h.cell c
    if decide (x.run = .atSheet) && decide (x.sheet < cur) then (h.setCell c (x.startSheet (x.sheet + 1))).fetchCheck c else h) h

/-- Held cells start the sheet of the RELEASE boundary (R76). -/
def Hub.resumeHeld (h : Hub) (cur : Nat) (cs : List Nat) : Hub :=
  cs.foldl (fun h c =>
    let x := h.cell c
    if x.run = .held then (h.setCell c (x.startSheet cur)).fetchCheck c else h) h

/-- A HELD slice is LIVE at a boundary, its cells reloaded where no RELEASE had done so (R177); they resume at once, or as soon as their
entries are read (log entry 137). -/
def Hub.resumeSlice (h : Hub) (s cur : Nat) : Hub :=
  let (done, h1) := if (h.rt s).relReady then (true, h) else h.reloadCells s
  let h2 := (h1.updRt s (fun r => { r with holdWritten := false, relReady := false, holdDue := false, reloadWait := !done,
                                           saved := if done then none else r.saved })).toState s slLIVE
  if done then (h2.resumeHeld cur (h.slD s).cells).startLaunches s cur else h2

/-- Hold entries that could not be read are read now: a HELD slice is ready to resume, a LIVE one resumes (R177, log entry 137). -/
def Hub.reloadLate (h : Hub) (s : Nat) : Hub :=
  if !(h.rt s).reloadWait then h
  else match h.reloadCells s with
    | (false, h1) => h1
    | (true, h1) =>
      if h.stateOf s = 1 then
        let cur := h.gSheet (h.slD s).group
        ((h1.updRt s (fun r => { r with reloadWait := false, saved := none })).resumeHeld cur (h.slD s).cells).startLaunches s cur
      else h1.updRt s (fun r => { r with reloadWait := false, relReady := decide (h.stateOf s = 2) })

/-- Every slice whose hold entries could not be read yet tries again. -/
def Hub.reloadAll (h : Hub) : Hub := (h.forme.slices.map (·.1)).foldl (fun h s => h.reloadLate s) h

/-- A boundary that starts a sheet, for one slice; a HELD slice that a commit moved into this group resumes here once its RELEASE
is written (R59). -/
def Hub.advanceSlice (h : Hub) (s cur : Nat) : Hub :=
  if decide (h.stateOf s = 1) && !(h.rt s).resumeWait && !(h.rt s).reloadWait then (h.resumeAtSheet cur (h.slD s).cells).startLaunches s cur
  else if decide (h.stateOf s = 2) && (h.rt s).relReady then h.resumeSlice s cur
  else h

/-- The first HELD boundary for one slice: a LIVE slice's cells are saved and it is HELD (R76, R176). -/
def Hub.holdAt (h : Hub) (s : Nat) : Hub :=
  if decide (h.stateOf s = 1) && !(h.rt s).resumeWait then
    (((h.saveCells s).toState s slHELD).updRt s (fun r => { r with holdDue := true })).settleSlice s
  else h

/-- The RELEASE boundary for one slice: a HELD slice is LIVE, its cells reloaded where no RELEASE had done so (R177), but for one that a
HOLD or a change of its group leaves HELD until its own RELEASE (R59); a slice that left FAULT restarts its cells (R178, R408). -/
def Hub.releaseAt (h : Hub) (s cur : Nat) : Hub :=
  let cs := (h.slD s).cells
  let t := h.rt s
  if h.stateOf s = 2 then (if t.holdWritten && !t.relReady then h else h.resumeSlice s cur)
  else if decide (h.stateOf s = 1) && t.resumeWait then
    let h1 := (cs.foldl (fun h c => h.updCell c Cell.restart) h).updRt s (fun r => { r with resumeWait := false, saved := none, holdWritten := false })
    let h2 := cs.foldl (fun h c => h.settle c) (h1.resumeAtSheet cur cs)
    (h2.resumeHeld cur cs).startLaunches s cur
  else h.advanceSlice s cur

/-- HANG for one slice: where it has a late cell, those cells stop where they stand and SHEET_HANG names it (R173, R490). -/
def Hub.hangAt (h : Hub) (g s : Nat) (late : List Nat) : Hub :=
  let mine := ((h.slD s).cells).filter late.contains
  if mine = [] then h else (mine.foldl (fun h c => h.updCell c Cell.stopHere) h).beatFault g kSHEET_HANG s

/-- SLIPS counted, and SLIP_RATE where more than SLIP_THR fell within 1 ms, at most once per 1 ms (R174). -/
def Hub.countSlip (h : Hub) (g : Nat) : Hub :=
  let ts := h.now :: (h.grp g).slipTimes.filter (fun t => decide (h.now < t + psMs))
  let thr := h.fld (rQL_GRP_CTL g) fQL_GRP_CTL_SLIP_THR
  let h1 := (h.count (rQL_GRP_SLIP g) fQL_GRP_SLIP_SLIPS 1).updGrp g (fun k => { k with slipTimes := ts })
  let quiet := match (h.grp g).slipRaisedAt with
    | none => true
    | some t => decide (t + psMs ≤ h.now)
  if decide (thr ≠ 0) && decide (thr < ts.length) && quiet then
    (h1.updGrp g (fun k => { k with slipRaisedAt := some h.now })).beatNote g kSLIP_RATE
  else h1

/-- CONSEC as a hub sees it: one more at each cancelled boundary, 0 once a check has found no late cell or a hold has
completed (R170, R172). -/
def consecAfter (v prev st old : Nat) : Nat :=
  if v = vSLIP ∨ v = vHANG then min (old + 1) 4
  else if v = vADVANCE then (if prev = vSLIP ∨ prev = vHANG then old else 0)
  else if v = vHOLD then (if (prev = vSLIP ∨ prev = vHANG) ∨ st = 3 then old else 0)
  else 0

/-- The group's state after a verdict: running 2, holding 3, held 4. -/
def stateAfter (v : Nat) : Nat := if v = vHOLD then 3 else if v = vHELD ∨ v = vHANG then 4 else 2

/-- The sheet mark of the check that a boundary carries: the time from the last counted cell reaching SHEET. -/
def Hub.lastReach (h : Hub) (g : Nat) (at_ : Nat) : Option Nat :=
  let cs := (h.groupSlices g).flatMap (fun s => if decide (h.stateOf s = 1) || decide (h.stateOf s = 2) then (h.slD s).cells.filter (fun c => (h.cell c).busy) else [])
  if cs.all (fun c => decide ((h.cell c).run = .atSheet) || decide ((h.cell c).run = .held)) then
    some (at_ - (cs.map (fun c => (h.cell c).reachedAt)).foldl max 0)
  else none

/-- The verdict of a boundary applied to the slices of the group. -/
def Hub.applyVerdict (h : Hub) (g v cur : Nat) (late : List Nat) : Hub :=
  let ss := h.groupActive g
  if v = vSTART ∨ v = vADVANCE then ss.foldl (fun h s => h.advanceSlice s cur) h
  else if v = vRELEASE then ss.foldl (fun h s => h.releaseAt s cur) h
  else if v = vHELD then
    if (h.grp g).saveDone then h else (ss.foldl (fun h s => h.holdAt s) h).updGrp g (fun k => { k with saveDone := true })
  else if v = vHANG then ss.foldl (fun h s => h.hangAt g s late) h
  else h

/-- BOUNDARY_ACT (R158, R162, R167): at its moment the hub takes the pending message's verdict. -/
def Hub.boundaryAct (h : Hub) (g : Nat) : Hub :=
  let k := h.grp g
  match k.pend with
  | none => h
  | some m =>
    if h.now < m.actAt ∨ h.gState g = 5 ∨ h.stoppedInst uBEAT g = true then h
    else
      let v := m.verdict
      let own := h.sheetAfter g v
      let desync := decide (own % 2 ^ 32 ≠ m.chk)
      let cur := if desync then own / 2 ^ 32 * 2 ^ 32 + m.chk else own
      let prev := h.fld (rQL_GRP_BND g) fQL_GRP_BND_VERDICT
      let cons := consecAfter v prev (h.gState g) (h.fld (rQL_GRP_SLIP g) fQL_GRP_SLIP_CONSEC)
      let slack := h.lastReach g m.actAt
      let h1 := h.updGrp g (fun k => { k with
        pend := none, started := true, lastAt := m.actAt, own := none, sent := false, votes := [],
        chkSheet := if verdictStarts v then cur - 1 else cur, slack := slack,
        saveDone := k.saveDone && decide (v = vHELD) })
      let h2 := (((h1.setReg (rQL_GRP_BND g) 0).setF (rQL_GRP_BND g) fQL_GRP_BND_BOUNDARY m.boundary).setF (rQL_GRP_BND g) fQL_GRP_BND_VERDICT v).setF
        (rQL_GRP_SHEET g) fQL_GRP_SHEET_SHEET cur
      let h3 := ((h2.setGState g (stateAfter v)).setF (rQL_GRP_STS g) fQL_GRP_STS_DEPTH m.hop).setF (rQL_GRP_SLIP g) fQL_GRP_SLIP_CONSEC cons
      let h4 := if v = vSLIP ∨ v = vHANG then h3.countSlip g
        else if v = vHOLD ∨ v = vHELD ∨ v = vRELEASE then h3.count (rQL_GRP_SLIP g) fQL_GRP_SLIP_HELD 1 else h3
      let h5 := if desync then (h4.groupSlices g).foldl (fun h s => h.beatFault g kBEAT_DESYNC s) h4 else h4
      let h6 := h5.applyVerdict g v cur k.lateCells
      if v = vHANG ∧ h.flag rFCOL_CTL fFCOL_CTL_ECL_ON_HANG = true then h6.raiseEclipse g 4 else h6

/-- BOUNDARY_ACT (R167). -/
def execBoundaryAct (g : GroupId) (s : State) : Res := onHub s (fun h => h.boundaryAct g)

/-! ## Checks and votes (R164 to R166) -/

/-- The counted cells of a group: cells that run a galley in its LIVE and HELD slices, but for a slice that waits for the
RELEASE boundary after a fault (R166, R178). -/
def Hub.countedCells (h : Hub) (g : Nat) : List Nat :=
  (h.groupSlices g).flatMap (fun s =>
    if (decide (h.stateOf s = 1) && !(h.rt s).resumeWait) || decide (h.stateOf s = 2) then (h.slD s).cells.filter (fun c => (h.cell c).busy)
    else [])

/-- A counted cell has finished sheet j by a boundary: it has started a later one, is held, or reached SHEET within 20 ns. -/
def Cell.finished (x : Cell) (j at_ : Nat) : Bool :=
  decide (j < x.sheet) || decide (x.run = .held) || (decide (x.run = .atSheet) && decide (x.sheet = j) && decide (x.reachedAt ≤ at_ + 20 * psNs))

/-- Every slice of the group on this hub is ready to resume (R177). -/
def Hub.relReadyOf (h : Hub) (g : Nat) : Bool :=
  (h.groupSlices g).all (fun s =>
    let t := h.rt s
    match h.stateOf s with
    | 1 => !t.resumeWait || (h.stoppedCells s).all (fun c => decide ((h.cell c).run = .faulted))
    | 2 => !t.holdWritten || t.relReady
    | 3 => false
    | _ => true)

/-- The combined vote sent, where this hub has a parent and the beat is not lost. -/
def Hub.sendCombined (h : Hub) (g : Nat) (r : Sched) : Hub :=
  let k := h.grp g
  match k.combined with
  | none => h
  | some v =>
    if r.origin || k.sent || k.beatSilent then h
    else (h.updGrp g (fun k => { k with sent := true })).sendVote g r v false

/-- Every child's vote for the check has arrived. -/
def Hub.votesIn (h : Hub) (g : Nat) : Bool := (h.children g).all (fun l => (mapGet (h.grp g).votes l).isSome)

/-- The telemetry of a check: SLACK_MIN, and the lowest-numbered late cell with its slice. -/
def Hub.noteSlack (h : Hub) (g : Nat) (late : List Nat) : Hub :=
  let r := rQL_GRP_SLACK g
  match late.min? with
  | some c =>
    (((h.setF r fQL_GRP_SLACK_SLACK_MIN 0).setF r fQL_GRP_SLACK_LATE_CELL c).setF r fQL_GRP_SLACK_LATE_V 1).setF r fQL_GRP_SLACK_LATE_SLICE
      ((h.cellOwner c).getD 0)
  | none => match (h.grp g).slack with
    | some t => h.setF r fQL_GRP_SLACK_SLACK_MIN (min (h.fld r fQL_GRP_SLACK_SLACK_MIN) (min (t / psNs) 65535))
    | none => h.setF r fQL_GRP_SLACK_SLACK_MIN 0

/-- SHEET_CHECK (R166): 20 ns after a boundary with a check the hub's own vote is made. -/
def Hub.sheetCheck (h : Hub) (g : Nat) (r : Sched) : Hub :=
  let k := h.grp g
  if !k.started || k.own.isSome || !verdictChecks (h.fld (rQL_GRP_BND g) fQL_GRP_BND_VERDICT) || decide (h.gState g = 5) ||
      decide (h.now < k.lastAt + 20 * psNs) then h
  else
    let counted := h.countedCells g
    let late := counted.filter (fun c => !(h.cell c).finished k.chkSheet k.lastAt)
    let ss := h.groupSlices g
    let v : Vote :=
      { late := !late.isEmpty, fault := ss.any (fun s => (h.rt s).votedFault),
        holdReq := ss.any (fun s => (h.rt s).holdWritten && (decide (h.stateOf s = 1) || decide (h.stateOf s = 3))) && decide (h.gState g ≠ 4),
        relReady := h.relReadyOf g, boundary := h.gBoundary g, count := 1, lateHub := if late = [] then none else some h.hubNum }
    let h1 := h.updGrp g (fun k => { k with own := some v, lateCells := late })
    let h2 := ss.foldl (fun h s => h.updRt s (fun t => { t with votedFault := false })) h1
    let h3 := if counted = [] then h2 else h2.noteSlack g late
    if h3.votesIn g then h3.sendCombined g r else h3

/-- SHEET_CHECK (R164, R166). -/
def execSheetCheck (g : GroupId) (s : State) : Res :=
  onHub s (fun h => match h.beatSched g with
    | none => h
    | some r => h.sheetCheck g r)

/-- A vote taken from a link: discarded with a reserved bit or a COUNT out of range, else its link is a child link, and the
vote is kept; the combined vote goes on once it is complete (R156, R157, R163 to R165). -/
def Hub.takeVote (h : Hub) (l : Nat) (f : List Byte) : Hub :=
  let w0 := leAt f 8 8
  let w1 := leAt f 16 8
  let g := bits w0 9 0
  let n := bits w1 9 0
  match h.beatSched g with
  | none => h
  | some r =>
    if bit w0 15 || decide (bits w1 63 20 ≠ 0) || decide (n = 0) || decide (512 < n) || decide (h.gState g = 5) then h
    else
      let h1 := h.setF (rQL_GRP_STS g) fQL_GRP_STS_CHILDREN (h.fld (rQL_GRP_STS g) fQL_GRP_STS_CHILDREN ||| 2 ^ l)
      if bit w0 14 then (h1.updGrp g (fun k => { k with forming := mapPut k.forming l n })).tryStart g r
      else
        let v : Vote :=
          { late := bit w0 10, fault := bit w0 11, holdReq := bit w0 12, relReady := bit w0 13, boundary := bits w0 63 16, count := n,
            lateHub := if bit w1 19 then some (bits w1 18 10) else none }
        if v.boundary ≠ h.gBoundary g ∨ (h.grp g).sent = true ∨ (h.grp g).started = false then h1
        else
          let h2 := h1.updGrp g (fun k => { k with votes := mapPut k.votes l v })
          if h2.votesIn g then h2.sendCombined g r else h2

/-- VOTE (R156, R164, R165). -/
def execVote (l : LinkId) (s : State) : Res :=
  onHub s (fun h => match h.rxHead l 2 with
    | none => h
    | some f => if msgOp f = opVOTE then (h.rxPop l 2).takeVote l f else h)

/-- VOTE_DEADLINE (R165): at T(n+1) - L - 100 ns - 400 ns x d the combined vote goes without the votes still missing. T(n+1) is counted
with this hub's own SHEET_NS, where the origin's may differ (R179; DESIGN CHOICE, log entry 146). -/
def execVoteDeadline (g : GroupId) (s : State) : Res :=
  onHub s (fun h => match h.beatSched g with
    | none => h
    | some r =>
      let k := h.grp g
      let d := h.fld (rQL_GRP_STS g) fQL_GRP_STS_DEPTH
      if decide (k.lastAt + r.sheet ≤ h.now + r.lead + (100 + 400 * d) * psNs) && decide (h.gState g ≠ 5) then h.sendCombined g r else h)

/-! ## The verdict (R170, R175) -/

/-- One run of the origin's procedure on its state, with the combined vote of a boundary that carried a check. That a
completed hold ends a run of late checks after a HANG too is DEDUCED (R172, log entry 30). -/
def fixVerdict (k : GroupRt) (v : Vote) (hubs : Nat) : Nat × GroupRt :=
  let late := v.late || decide (v.count < hubs)
  let hp := k.holdPending || v.holdReq
  match k.ostate with
  | 2 =>
    if v.fault then (vHOLD, { k with ostate := 3, holdPending := false, consec := 0 })
    else if late then
      if k.consec + 1 = 4 then (vHANG, { k with ostate := 4, holdPending := hp, consec := 4 })
      else (vSLIP, { k with holdPending := hp, consec := k.consec + 1 })
    else if hp then (vHOLD, { k with ostate := 3, holdPending := false, consec := 0 })
    else (vADVANCE, { k with holdPending := false, consec := 0 })
  | 3 =>
    if late then
      if k.consec + 1 = 4 then (vHANG, { k with ostate := 4, holdPending := hp, consec := 4 })
      else (vHOLD, { k with holdPending := hp, consec := k.consec + 1 })
    else (vHELD, { k with ostate := 4, holdPending := hp, consec := 0 })
  | _ =>
    if v.relReady && decide (v.count = hubs) then (vRELEASE, { k with ostate := 2, holdPending := hp })
    else (vHELD, { k with holdPending := hp })

/-- The verdict after a boundary without a check: START, SLIP or HANG. -/
def fixUnchecked (k : GroupRt) : Nat × GroupRt :=
  if k.ostate = 4 then (vHELD, { k with holdPending := false, consec := 0 })
  else if k.holdPending then (vHOLD, { k with ostate := 3, holdPending := false })
  else (vADVANCE, k)

/-- VERDICT_FIX: the origin fixes the verdict of the next boundary at T(n+1) - L - 100 ns; a missing hub counts as late, with
VOTE_MISSING. -/
def Hub.verdictFix (h : Hub) (g : Nat) (r : Sched) : Hub :=
  let k := h.grp g
  if !r.origin || !k.started || k.fixed.isSome || k.pend.isSome || decide (h.gState g = 5) ||
      decide (h.now + r.lead + 100 * psNs < k.lastAt + r.sheet) then h
  else
    let checked := verdictChecks k.lastVerdict
    let v := k.combined.getD { count := 0 }
    let p := if checked then fixVerdict k v r.hubs else fixUnchecked k
    let h1 := h.setGrp g { p.2 with fixed := some p.1, lastVerdict := p.1 }
    if checked && decide (v.count < r.hubs) then h1.beatNote g kVOTE_MISSING else h1

/-- VERDICT_FIX (R165, R170). -/
def execVerdictFix (g : GroupId) (s : State) : Res :=
  onHub s (fun h => match h.beatSched g with
    | none => h
    | some r => h.verdictFix g r)

/-- BEAT_LOST_TIMEOUT (R161): no beat message within SHEET_NS + 1 microsecond after the boundary the hub expects. -/
def Hub.beatLost (h : Hub) (g : Nat) (r : Sched) : Hub :=
  let k := h.grp g
  if r.origin || !k.started || k.beatSilent || k.pend.isSome || !h.groupStarted g || decide (h.now < k.lastAt + 2 * r.sheet + psUs) then h
  else (h.groupSlices g).foldl (fun h s => h.beatFault g kBEAT_LOST s) (h.updGrp g (fun k => { k with beatSilent := true }))

/-- BEAT_LOST_TIMEOUT (R161). -/
def execBeatLostTimeout (g : GroupId) (s : State) : Res :=
  onHub s (fun h => match h.beatSched g with
    | none => h
    | some r => h.beatLost g r)

/-- QL_GRP_CTL written: SLIP_THR, and CLR zeroes the telemetry. -/
def Hub.writeGrpCtl (h : Hub) (o : Origin) (g : Nat) (v : Word) : Hub :=
  h.mgrWrite o (fun h =>
    let h1 := h.regOk.writeRW (rQL_GRP_CTL g) [fQL_GRP_CTL_SLIP_THR] [] v
    if vFlag v fQL_GRP_CTL_CLR then
      ((((h1.setF (rQL_GRP_SLIP g) fQL_GRP_SLIP_SLIPS 0).setF (rQL_GRP_SLIP g) fQL_GRP_SLIP_HELD 0).setF (rQL_GRP_TIME g) fQL_GRP_TIME_LATE_ARR 0).setF
        (rQL_GRP_SLACK g) fQL_GRP_SLACK_SLACK_MIN 0xFFFF).setF (rQL_GRP_SLACK g) fQL_GRP_SLACK_LATE_V 0
    else h1)

/-- GROUP_TELEMETRY_CLR. -/
def execGroupTelemetryClr (o : Origin) (g : GroupId) (s : State) : Res :=
  onReg o s (fun h => h.writeGrpCtl o g ((h.reg (rQL_GRP_CTL g)) ||| fldMask fQL_GRP_CTL_CLR))

end Sys2Proof.Machine
end

