-- ==== Sys2Proof/Machine/Collector.lean ====
section
/-! DEFINITION. The fault collector's stores (R387 to R402): records, escalation, the fault queue and the fatal latch; and the
interrupt, the trap and the error pin (R391 to R393, R403). -/
namespace Sys2Proof.Machine

/-! ## Interrupt, trap, pin and the hub fault state -/

/-- An event of R403: the hub is in the fault state, and its quiet period starts again. -/
def Hub.hubFault (h : Hub) : Hub :=
  { h.setF rFCOL_STS fFCOL_STS_HUB_FAULT 1 with fcol := { h.fcol with quietFrom := h.now } }

/-- The interrupt reaction: Kelvy's fault interrupt, and vector 2 where FCOL_CTL lets it reach a port (R391). -/
def Hub.irq (h : Hub) : Hub :=
  let h1 := h.emit .kelvyIrq
  let h2 := if h1.flag rFCOL_CTL fFCOL_CTL_PF0_IRQ then h1.raisePort 0 2 else h1
  if h2.flag rFCOL_CTL fFCOL_CTL_PF1_IRQ then h2.raisePort 1 2 else h2

/-- A non-maskable trap: Kelvy's non-maskable interrupt, vector 2 of both ports, TRAP, and the hub fault state (R391, R403). -/
def Hub.trap (h : Hub) : Hub := ((((h.emit .kelvyNmi).raisePort 0 2).raisePort 1 2).setF rFCOL_STS fFCOL_STS_TRAP 1).hubFault

/-- ERR_OUT_N driven: HOLD, and the pulse of at least 2 microseconds (R392). -/
def Hub.errOut (h : Hub) : Hub :=
  { (h.setF rFCOL_PIN fFCOL_PIN_HOLD 1).setF rFCOL_PIN fFCOL_PIN_PULSE 1 with
    fcol := { h.fcol with pulseEnd := some (h.now + 2 * psUs), clrPending := false } }

/-- The pin is low: HOLD or the pulse (R392); a boot that has stopped (R38, R455); a firmware image that failed until a pushed
one runs (R478). -/
def Hub.pinLow (h : Hub) : Bool :=
  h.flag rFCOL_PIN fFCOL_PIN_HOLD || h.flag rFCOL_PIN fFCOL_PIN_PULSE || decide (h.fld rKLV_BOOT fKLV_BOOT_STAGE = 8) ||
    (decide (h.fld rKLV_BOOT fKLV_BOOT_STAGE = 7) && h.flag rKLV_BOOT fKLV_BOOT_FW_ERR)

/-! ## Records (R387, R388) -/

/-- A fault as the collector keeps it: its class after escalation, and the marks of R396 and R397. -/
structure FaultRec where
  msg : FaultMsg
  cls : Nat
  esc : Bool
  lock : Bool
  seq : Nat
  deriving DecidableEq, Repr

/-- CTXID of a message: the slice in [15:4], the context in [3:0]. -/
def FaultMsg.ctxid (m : FaultMsg) : Nat := m.slice.getD 0 * 16 + m.ctx.getD 0

/-- FLAGS of a record. -/
def FaultRec.flags (r : FaultRec) : Nat :=
  r.cls + 4 * b2n r.msg.slice.isSome + 8 * b2n r.msg.ctx.isSome + 16 * b2n r.msg.addr.isSome + 32 * b2n r.esc + 64 * b2n r.lock

/-- The four words of a record taken at a time in ps. -/
def FaultRec.words (r : FaultRec) (t : Nat) : List Word :=
  [BitVec.ofNat 64 (t / psNs), BitVec.ofNat 64 (r.msg.addr.getD 0 % 2 ^ 51),
   BitVec.ofNat 64 (r.seq % 2 ^ 32 + r.msg.source * 2 ^ 32 + r.msg.kind * 2 ^ 48),
   BitVec.ofNat 64 (r.msg.ctxid % 2 ^ 16 + r.flags * 2 ^ 16 + r.msg.gen % 2 ^ 8 * 2 ^ 24 + r.msg.aux % 2 ^ 32 * 2 ^ 32)]

/-- Fields of a stored record, from its words 2 and 3. -/
def recSeq (w2 : Word) : Nat := bits w2.toNat 31 0
def recSource (w2 : Word) : Nat := bits w2.toNat 47 32
def recClass (w3 : Word) : Nat := bits w3.toNat 17 16
def recSlice (w3 : Word) : Option Nat := if bit w3.toNat 18 then some (bits w3.toNat 15 4) else none

/-! ## Escalation (R394 to R397) -/

/-- The slots of the queue that hold unacknowledged records, oldest slot first. -/
def Hub.unacked (h : Hub) : List Nat :=
  let c := h.fld rFCOL_Q_PTR fFCOL_Q_PTR_CONS
  (List.range (min 1024 ((h.fld rFCOL_Q_PTR fFCOL_Q_PTR_PROD + 2 ^ 32 - c) % 2 ^ 32))).map (fun k => (c + k) % 1024)

/-- The escalation key of a message: its source, and the slice it names, one more than its number (0: none). -/
def FaultMsg.key (m : FaultMsg) : Nat × Nat := (m.source, (m.slice.map (· + 1)).getD 0)

/-- A key holds an unacknowledged fault of a class (R395). -/
def Hub.holdsKey (h : Hub) (m : FaultMsg) (cls : Nat) : Bool :=
  h.unacked.any (fun i =>
    let w2 := h.reg (rFCOL_Qi_k i 2)
    let w3 := h.reg (rFCOL_Qi_k i 3)
    decide (recSource w2 = m.source) && decide (recSlice w3 = m.slice) && decide (recClass w3 = cls)) ||
  (decide (cls = clsContained) && h.flag rFCOL_STS fFCOL_STS_OVF_CONTAINED && h.fcol.ovfKeys.contains m.key)

/-- A message numbered and classed: raised one class where its key holds a fault of its class, but never to fatal where it
names a slice; such a record carries LOCK beside ESC (R396, R397; log entry 53). -/
def Hub.classed (h : Hub) (m : FaultMsg) : FaultRec :=
  let again := h.holdsKey m m.cls
  if !again || decide (m.cls = clsFatal) then { msg := m, cls := m.cls, esc := false, lock := false, seq := h.fcol.seq }
  else if decide (m.cls = clsContained) && m.slice.isSome then { msg := m, cls := clsContained, esc := true, lock := true, seq := h.fcol.seq }
  else { msg := m, cls := m.cls + 1, esc := true, lock := false, seq := h.fcol.seq }

/-! ## The queue and the latch (R398 to R402) -/

/-- A record's words put at an address. -/
def Hub.putRec (h : Hub) (reg : Nat → Nat) (r : FaultRec) : Hub :=
  ((r.words h.now).zipIdx).foldl (fun h w => h.setReg (reg w.2) w.1) h

/-- The slot of the oldest unacknowledged corrected record, by SEQ. -/
def Hub.oldestCorrected (h : Hub) : Option Nat :=
  let age (i : Nat) : Nat := (h.fcol.seq + 2 ^ 32 - recSeq (h.reg (rFCOL_Qi_k i 2))) % 2 ^ 32
  let l := h.unacked.filter (fun i => decide (recClass (h.reg (rFCOL_Qi_k i 3)) = clsCorrected))
  l.find? (fun i => l.all (fun j => decide (age j ≤ age i)))

/-- Where a record went. -/
inductive Stored where
  | kept
  | dropped
  | uncounted        -- contained, no slot: counted under R399
  | latched (n : Nat)
  | fifth            -- fatal, every entry VALID (R401)
  deriving DecidableEq, Repr

/-- A record into the queue: at PROD, or over the oldest corrected record where the queue is full; a corrected one is then
dropped, and a contained one that finds none is counted (R398, R399). -/
def Hub.enqueueRec (h : Hub) (r : FaultRec) : Stored × Hub :=
  let p := h.fld rFCOL_Q_PTR fFCOL_Q_PTR_PROD
  if h.unacked.length < 1024 then (.kept, (h.putRec (rFCOL_Qi_k (p % 1024)) r).setF rFCOL_Q_PTR fFCOL_Q_PTR_PROD (p + 1))
  else if r.cls = clsCorrected then (.dropped, h.count rFCOL_OVF fFCOL_OVF_CORR_DROP 1)
  else match h.oldestCorrected with
    | some i => (.kept, (h.putRec (rFCOL_Qi_k i) r).count rFCOL_OVF fFCOL_OVF_CORR_DROP 1)
    | none =>
      (.uncounted, { (h.count rFCOL_OVF fFCOL_OVF_CONT_DROP 1).setF rFCOL_STS fFCOL_STS_OVF_CONTAINED 1 with
        fcol := { h.fcol with ovfKeys := h.fcol.ovfKeys ++ [r.msg.key], quietFrom := h.now } }.setF rFCOL_STS fFCOL_STS_HUB_FAULT 1)

def Hub.latchValid (h : Hub) (n : Nat) : Bool := bit (h.fld rFCOL_FATAL_STS fFCOL_FATAL_STS_VALID) n
def Hub.latchPre (h : Hub) (n : Nat) : Bool := bit (h.fld rFCOL_FATAL_STS fFCOL_FATAL_STS_PRE_RESET) n

/-- The latch entry that a fatal fault takes: a free one, else the PRE_RESET entry of the earliest TIME (R400). -/
def Hub.latchSlot (h : Hub) : Option Nat :=
  let t (n : Nat) : Nat := (h.reg (rFCOL_FATALn_k n 0)).toNat
  let pre := (List.range 4).filter h.latchPre
  ((List.range 4).find? (fun n => !h.latchValid n && !h.latchPre n)).or (pre.find? (fun n => pre.all (fun j => decide (t n ≤ t j))))

/-- A bit of a four-bit field set or cleared. -/
def setBit4 (v n : Nat) (b : Bool) : Nat := maskOf ((List.range 4).filter (fun i => if i = n then b else v.testBit i))

/-- A fatal record into the latch. -/
def Hub.latchRec (h : Hub) (r : FaultRec) : Stored × Hub :=
  match h.latchSlot with
  | none => (.fifth, h)
  | some n =>
    (.latched n, ((h.putRec (rFCOL_FATALn_k n) r).setF rFCOL_FATAL_STS fFCOL_FATAL_STS_VALID
        (setBit4 (h.fld rFCOL_FATAL_STS fFCOL_FATAL_STS_VALID) n true)).setF rFCOL_FATAL_STS fFCOL_FATAL_STS_PRE_RESET
        (setBit4 (h.fld rFCOL_FATAL_STS fFCOL_FATAL_STS_PRE_RESET) n false))

/-- A message taken: SEQ rises, and the record is stored by its class (R389, R390). -/
def Hub.storeFault (h : Hub) (m : FaultMsg) : FaultRec × Stored × Hub :=
  let r := h.classed m
  let h1 : Hub := { h with fcol := { h.fcol with seq := (h.fcol.seq + 1) % 2 ^ 32 } }
  (r, if r.cls = clsFatal then h1.latchRec r else h1.enqueueRec r)

/-- FCOL_STS as it reads: FATAL_N counts the VALID entries (R480). -/
def Hub.fcolStsView (h : Hub) : Word := setFld (h.reg rFCOL_STS) fFCOL_STS_FATAL_N ((List.range 4).filter h.latchValid).length

/-- FCOL_PIN as it reads. -/
def Hub.pinView (h : Hub) : Word := setFld (h.reg rFCOL_PIN) fFCOL_PIN_LOW (b2n h.pinLow)

end Sys2Proof.Machine
end

