-- ==== Sys2Proof/Machine/Functions.lean ====
section
/-! DEFINITION. Host functions: MSI-X messages (R376, R377), mailboxes (R378 to R380), function resets, removal, and host links
going down and up (R372, R381 to R383). -/
namespace Sys2Proof.Machine

/-! ## MSI-X (R376) -/

/-- Raises that waited in a backlog take the slots they now may. -/
def Hub.promote (h : Hub) (k : Nat) : Hub :=
  (h.msixOf k).backlog.foldl (fun h v =>
    let m := h.msixOf k
    if h.msixMay k { m with backlog := m.backlog.erase v } v.1 then
      h.setMsix k { m with slots := m.slots ++ [v], backlog := m.backlog.erase v }
    else h) h

/-- Messages leave a host link: it is up, and no fatal fault has stopped its unit (R390). -/
def Hub.msixRuns (h : Hub) (k : Nat) : Bool :=
  decide (h.fld (rHOST_LINK_STS k) fHOST_LINK_STS_STATE = 2) && !h.stoppedInst uHOST k

/-- The vector of the oldest slot leaves: its message is sent or, masked, its Pending Bit is set. -/
def Hub.msixSend (h : Hub) (k : Nat) (masked : Bool) : Hub :=
  let m := h.msixOf k
  match m.slots with
  | [] => h
  | v :: vs =>
    if masked then
      (h.setMsix k { m with slots := vs, pendBits := if m.pendBits.contains v then m.pendBits else m.pendBits ++ [v] }).promote k
    else ((h.setMsix k { m with slots := vs, pendBits := m.pendBits.erase v }).promote k).emit (.msix k v.1 v.2)

/-- A vector whose Pending Bit is set and whose mask has been cleared is sent (R376, R377). -/
def Hub.msixUnmask (h : Hub) (k n : Nat) : Hub :=
  let m := h.msixOf k
  match m.pendBits[n]? with
  | none => h
  | some v => (h.setMsix k { m with pendBits := m.pendBits.erase v }).emit (.msix k v.1 v.2)

/-- MSIX_SEND (R376, R377): the message of the oldest slot, masked or not, or that of a pending vector that is masked no longer. -/
def execMsixSend (k : HostLink) (pick : MsixPick) (s : State) : Res :=
  onHub s (fun h =>
    if !h.msixRuns k then h
    else match pick with
      | .oldest masked => h.msixSend k masked
      | .pending n => h.msixUnmask k n)

/-- The MSI-X state of a function cleared. -/
def Hub.clearMsix (h : Hub) (k fn : Nat) : Hub :=
  let m := h.msixOf k
  let keep (l : List (Nat × Nat)) : List (Nat × Nat) := l.filter (fun v => decide (v.1 ≠ fn))
  (h.setMsix k { slots := keep m.slots, backlog := keep m.backlog, pendBits := keep m.pendBits }).promote k

/-! ## Mailboxes (R378 to R380) -/

def Hub.mbx (h : Hub) (s : Nat) : Mailbox := mapGetD h.mail s {}
def Hub.setMbx (h : Hub) (s : Nat) (x : Mailbox) : Hub := { h with mail := mapPutD {} h.mail s x }

/-- The message a side has composed: its eight TXD registers. -/
def Hub.composed (h : Hub) (txd : Nat → Nat) : List Byte := (List.range 8).flatMap (fun n => toLE 8 (h.reg (txd n)).toNat)

/-- A message may be queued: a place is free, and LEN is at most 56 (R379). -/
def mayQueue (q : List (List Byte)) (m : List Byte) : Bool := decide (q.length < 4) && decide (leAt m 2 1 ≤ 56)

/-- SEND of the tenant side: the message goes toward the manager, and vector 1 is raised. That the first message carries SEQ 1 is
DEDUCED (log entry 37). -/
def Hub.sendToMgr (h : Hub) (s : Nat) : Hub :=
  let m := h.composed (rMBX_T_TXDn s)
  let b := h.mbx s
  if mayQueue b.toMgr m then
    let n := (b.seqM + 1) % 65536
    (h.setMbx s { b with toMgr := b.toMgr ++ [patch m 0 (toLE 2 n)], seqM := n }).raisePfOf s 1
  else h.setF (rMBX_T_STS s) fMBX_T_STS_TX_REFUSED 1

/-- SEND of the manager side: the message goes toward the tenant, and the tenant's vector is raised where IRQ_EN is 1. -/
def Hub.sendToTen (h : Hub) (s : Nat) : Hub :=
  let m := h.composed (rMBX_M_TXDn s)
  let b := h.mbx s
  if mayQueue b.toTen m then
    let n := (b.seqT + 1) % 65536
    let h1 := h.setMbx s { b with toTen := b.toTen ++ [patch m 0 (toLE 2 n)], seqT := n }
    if h.flag (rMBX_T_CTL s) fMBX_T_CTL_IRQ_EN then h1.raiseVf s (h.fld (rMBX_T_CTL s) fMBX_T_CTL_VECTOR) else h1
  else h.setF (rMBX_M_STS s) fMBX_M_STS_TX_REFUSED 1

/-- The tenant side is written by the slice's virtual function alone, the manager side by the managers (R378). -/
def Hub.tenantWrite (h : Hub) (o : Origin) (s : Nat) (f : Hub → Hub) : Hub := if h.vfOf o = some s then f h else h.turnedAway o

/-- MBX_T_CTL written. -/
def Hub.writeMbxT (h : Hub) (o : Origin) (s : Nat) (v : Word) : Hub :=
  h.tenantWrite o s (fun h =>
    let h1 := h.regOk.writeRW (rMBX_T_CTL s) [fMBX_T_CTL_IRQ_EN, fMBX_T_CTL_VECTOR] [] v
    let h2 := if vFlag v fMBX_T_CTL_SEND then h1.sendToMgr s else h1
    if vFlag v fMBX_T_CTL_POP then h2.setMbx s { h2.mbx s with toTen := (h2.mbx s).toTen.tail } else h2)

/-- MBX_M_CTL written. -/
def Hub.writeMbxM (h : Hub) (o : Origin) (s : Nat) (v : Word) : Hub :=
  h.mgrWrite o (fun h =>
    let h1 := h.regOk.writeRW (rMBX_M_CTL s) [fMBX_M_CTL_IRQ_EN, fMBX_M_CTL_VECTOR] [] v
    let h2 := if vFlag v fMBX_M_CTL_SEND then h1.sendToTen s else h1
    if vFlag v fMBX_M_CTL_POP then h2.setMbx s { h2.mbx s with toMgr := (h2.mbx s).toMgr.tail } else h2)

/-- MAILBOX_TENANT_SEND (R222, R379). -/
def execMailboxTenantSend (o : Origin) (sl : SliceId) (s : State) : Res :=
  onReg o s (fun h => h.writeMbxT o sl (setFld (h.reg (rMBX_T_CTL sl)) fMBX_T_CTL_SEND 1))

/-- MAILBOX_TENANT_POP (R379). -/
def execMailboxTenantPop (o : Origin) (sl : SliceId) (s : State) : Res :=
  onReg o s (fun h => h.writeMbxT o sl (setFld (h.reg (rMBX_T_CTL sl)) fMBX_T_CTL_POP 1))

/-- MAILBOX_MANAGER_SEND (R378, R379). -/
def execMailboxManagerSend (o : Origin) (sl : SliceId) (s : State) : Res :=
  onReg o s (fun h => h.writeMbxM o sl (setFld (h.reg (rMBX_M_CTL sl)) fMBX_M_CTL_SEND 1))

/-- MAILBOX_MANAGER_POP (R378, R379). -/
def execMailboxManagerPop (o : Origin) (sl : SliceId) (s : State) : Res :=
  onReg o s (fun h => h.writeMbxM o sl (setFld (h.reg (rMBX_M_CTL sl)) fMBX_M_CTL_POP 1))

/-- The manager side of a mailbox emptied: what waits for the manager goes, and EMPTIED is set on both sides (R380). That the
SEQ which restarts is that of the emptied queue is DEDUCED (log entry 37). -/
def Hub.emptyMgrSide (h : Hub) (s : Nat) : Hub :=
  ((h.setMbx s { h.mbx s with toMgr := [], seqM := 0 }).setF (rMBX_M_STS s) fMBX_M_STS_EMPTIED 1).setF (rMBX_T_STS s) fMBX_T_STS_EMPTIED 1

/-! ## Function resets and removal (R381 to R383) -/

/-- What a function reset does to its slice's work: what a slice RESET does, its fault entries answered FAIL; a slice in FAULT ends
LIVE. One that drains or scrubs has been cut across already (R381). -/
def Hub.functionWork (h : Hub) (s : Nat) : Hub :=
  if !h.active s then h
  else
    let h1 := h.resetWork s
    (if h.stateOf s = 3 then ((h1.toState s slLIVE).recovered s).setF (rSLM_FAULT s) fSLM_FAULT_LOCK 0 else h1).openEngines s

/-- A function reset on its slice: its work, the mailboxes emptied, the apertures and the function's MSI-X state cleared. -/
def Hub.functionReset (h : Hub) (s : Nat) : Hub :=
  let r := h.slD s
  let h1 := (h.functionWork s).emptyMailbox s
  let h2 := (List.range 16).foldl (fun h n => h.setReg (rHOST_APn s n) 0) h1
  h2.clearMsix (h.vfLink r.vfPort r.vfIndex) (fnVf r.vfIndex)

/-- VF_FUNCTION_LEVEL_RESET (R208, R381). -/
def execVfFunctionLevelReset (port : Fin 2) (index : Nat) (s : State) : Res :=
  onHub s (fun h =>
    if !h.presented port index then h
    else match h.vfSlice port index with
      | none => h.emit (.flrDone (.vf port index))
      | some sl =>
        let h1 : Hub := { h with flrs := h.flrs ++ [(HostFn.vf port index, [sl])] }.functionReset sl
        if (h1.rt sl).resetting then h1 else h1.flrStep sl)

/-- The live slices whose virtual functions a host link presents. -/
def Hub.linkVfs (h : Hub) (k : Nat) : List Nat :=
  (h.forme.slices.filter (fun e => h.presented e.2.vfPort e.2.vfIndex && decide (h.vfLink e.2.vfPort e.2.vfIndex = k))).map (·.1)

/-- The slices whose mailboxes are on a host link: those whose virtual function it carries, presented or not (R380, R383). -/
def Hub.linkMail (h : Hub) (k : Nat) : List Nat :=
  (h.forme.slices.filter (fun e => decide (h.vfLink e.2.vfPort e.2.vfIndex = k))).map (·.1)

/-- The virtual functions of a link with VF Enable and NumVFs as given: those that are presented no longer are removed (R382). -/
def Hub.setVfs (h : Hub) (k n : Nat) (en : Bool) : Hub :=
  let before := h.linkVfs k
  let r := rHOST_LINK_STS k
  let m := min n (if h.portSplit (k / 2) then 1024 else 2048)
  let h1 := (h.setF r fHOST_LINK_STS_NUMVFS m).setF r fHOST_LINK_STS_VF_EN (b2n en)
  (before.filter (fun s => !(h1.linkVfs k).contains s)).foldl (fun h s => (h.functionReset s).faultS uHOST k kVF_REMOVED clsCorrected (some s) 0) h1

/-- SRIOV_CONFIG_WRITE (R372, R382): a NumVFs above the function's range is cut to it (DESIGN CHOICE, log entry 38). -/
def execSriovConfigWrite (k : HostLink) (numVfs : Nat) (vfEnable : Bool) (s : State) : Res :=
  onHub s (fun h => if h.linkUsed k then h.setVfs k numVfs vfEnable else h)

/-- What R383 adds to the removals: descriptors of the management queues that the function last rang end SQUASHED (DESIGN CHOICE,
log entry 38), and the manager sides of the link's mailboxes are emptied. -/
def Hub.endManager (h : Hub) (k : Nat) : Hub :=
  let qs := h.queues.filterMap (fun e => if e.2.rungBy = some k then some e.1 else none)
  let h1 := qs.foldl (fun h q =>
    (h.itemsWhere (fun t => decide (t.queue = q) && t.slice.isNone)).foldl (fun h i => h.failItem i stSQUASHED)
      (if (h.queueOwner q).isNone then h.takeAll q stSQUASHED else h)) h
  ((h1.linkMail k).foldl (fun h s => h.emptyMgrSide s) h1).clearMsix k fnPf

/-- PF_FUNCTION_LEVEL_RESET (R381 to R383): VF Enable is cleared, and the reset reports complete once every record it caused is
visible. -/
def Hub.pfReset (h : Hub) (k : HostLink) : Hub :=
  let ss := h.linkVfs k
  let h1 := (h.setVfs k 0 false).endManager k
  let left := ss.filter (fun s => (h1.rt s).resetting)
  if left.isEmpty then h1.emit (.flrDone (.pf k)) else { h1 with flrs := h1.flrs ++ [(.pf k, left)] }

/-- PF_FUNCTION_LEVEL_RESET. -/
def execPfFunctionLevelReset (k : HostLink) (s : State) : Res :=
  onHub s (fun h => if h.linkUsed k then h.pfReset k else h)

/-- HOST_LINK_DOWN (R382, R383): the functions go with the link, and its fields read as an untrained link's (DESIGN CHOICE, log
entry 38). -/
def execHostLinkDown (k : HostLink) (s : State) : Res :=
  onHub s (fun h =>
    let r := rHOST_LINK_STS k
    if h.linkUsed k ∧ h.fld r fHOST_LINK_STS_STATE = 2 then
      ((((h.setVfs k 0 false).endManager k).setF r fHOST_LINK_STS_STATE 3).setF r fHOST_LINK_STS_WIDTH 0).setF r fHOST_LINK_STS_SPEED 0
    else h)

/-- HOST_LINK_UP: a link in use has trained (R372). -/
def execHostLinkUp (k : HostLink) (width speed : Nat) (s : State) : Res :=
  onHub s (fun h =>
    let r := rHOST_LINK_STS k
    if h.linkUsed k ∧ h.fld r fHOST_LINK_STS_STATE ≠ 2 ∧ 1 ≤ width ∧ width ≤ 16 ∧ 1 ≤ speed ∧ speed ≤ 6 then
      ((h.setF r fHOST_LINK_STS_STATE 2).setF r fHOST_LINK_STS_WIDTH width).setF r fHOST_LINK_STS_SPEED speed
    else h)

end Sys2Proof.Machine
end

