-- ==== Sys2Proof/Machine/Hbm.lean ====
section
/-! DEFINITION. HBM and cell windows as requests reach them (R264, R276 to R285, R224), the meters (R280 to R291), temperature
(R292), errors (R293 to R295), row repair (R297 to R299), channel retraining and retirement (R300, R301), and the traffic
generators (R302, R303). -/
namespace Sys2Proof.Machine

/-! ## Meters (R107, R282, R287 to R290) -/

/-- The granules of a slice in an interleave group, and in all groups. -/
def SliceRec.granIn (r : SliceRec) (g : Nat) : Nat := ((r.ranges.filter (fun x => x.igrp == g)).map (·.count)).sum
def SliceRec.granAll (r : SliceRec) : Nat := (r.ranges.map (·.count)).sum

/-- A sum of fractions, each a numerator over a denominator. -/
def addFrac (x y : Nat × Nat) : Nat × Nat :=
  let d := Nat.lcm x.2 y.2
  (x.1 * (d / x.2) + y.1 * (d / y.2), d)

def sumFrac (l : List (Nat × Nat)) : Nat × Nat := l.foldl addFrac (0, 1)

/-- A slice's guarantees as charged to a group: a fraction over the slice's granules (R107). -/
def SliceRec.chargedTo (r : SliceRec) (g : Nat) : Nat × Nat :=
  if r.granAll = 0 then (0, 1) else (((List.range 4).map (fun m => (r.meters.getD m {}).guar)).sum * r.granIn g, r.granAll)

/-- The sum of guarantees charged to a group, in bytes per window: the exact fraction, and rounded down (R107). -/
def chargedFrac (f : Forme) (g : Nat) : Nat × Nat := sumFrac (f.slices.map (fun e => e.2.chargedTo g))

def chargedSum (f : Forme) (g : Nat) : Nat := (chargedFrac f g).1 / (chargedFrac f g).2

/-- The factor of a group in use. -/
def Hub.factor (h : Hub) (g : Nat) : Nat := h.fld (rMTR_GRP_STS g) fMTR_GRP_STS_FACTOR

/-- A master's credit in a group for one window, down to a multiple of 64 (R282). -/
def Hub.windowCredit (h : Hub) (r : SliceRec) (g m : Nat) : Nat :=
  if r.granAll = 0 then 0
  else (r.meters.getD m {}).guar * r.granIn g * h.factor g / (r.granAll * 32768) / 64 * 64

/-- The masters of the live forme: key, and what its slice's records say of it. -/
def Hub.masters (h : Hub) : List (Nat × SliceRec × Nat) :=
  h.forme.slices.flatMap (fun e => (List.range 4).map (fun m => (e.1 * 4 + m, e.2, m)))

/-- METER_WINDOW: the credits of a new window, from the guarantees and factors of now, and the weights; what was left is lost
(R105, R282). A meter that a fatal fault has stopped gives no credit (R390). -/
def execMeterWindow (s : State) : Res :=
  onHub s (fun h =>
    let cs := h.masters.flatMap (fun e => (h.forme.igroups.filter (fun g => !h.stoppedInst uMTR g.igrp)).map (fun g =>
      (g.igrp * 16384 + e.1, h.windowCredit e.2.1 g.igrp e.2.2)))
    { h with credits := cs.foldl (fun c e => mapPutD 0 c e.1 e.2) [],
             weights := h.masters.foldl (fun c e => mapPutD 0 c e.1 (e.2.1.meters.getD e.2.2 {}).weight) [],
             sweepBytes := [] })

/-- What the guarantees of a group may use, L of R288, in bytes per window times 25,600. -/
def Hub.meterLimit (h : Hub) (g : IGroup) : Nat :=
  let d := h.delivNum g
  let l := d * h.forme.ceilPct
  if h.sweepIn g then min l ((d - 64000 * 256) * 100) else l

/-- f of R288 for a group, held to 16 bits. -/
def Hub.meterF (h : Hub) (g : IGroup) : Nat :=
  let s := chargedFrac h.forme g.igrp
  if s.1 = 0 then 0x8000 else min 0x8000 (h.meterLimit g * s.2 * 32768 / (25600 * s.1))

/-- The smallest factor among the groups where a master's credit is charged (R289). -/
def Hub.scaleOf (h : Hub) (r : SliceRec) (m : Nat) : Nat :=
  if (r.meters.getD m {}).guar = 0 then 0x8000
  else (h.forme.igroups.filter (fun g => decide (0 < r.granIn g.igrp))).foldl (fun x g => min x (h.factor g.igrp)) 0x8000

/-- SCALE and SHORTFALL of every slice brought up to the factors in use, the mirror with them (R71, R289, R290). -/
def Hub.updateScales (h : Hub) : Hub :=
  h.forme.slices.foldl (fun h e =>
    let sc := (List.range 4).map (fun m => h.scaleOf e.2 m)
    let old := (List.range 4).map (fun m => h.fld (rMTR_STSm e.1 m) fMTR_STSm_SCALE)
    if sc = old then h
    else
      let mask := maskOf ((List.range 4).filter (fun m => decide (sc.getD m 0 < 0x8000)))
      (((List.range 4).foldl (fun h m => h.setF (rMTR_STSm e.1 m) fMTR_STSm_SCALE (sc.getD m 0)) h).updRt e.1
        (fun t => { t with shortfall := mask })).mirrorTick e.1) h

/-- The evaluations that matter to a higher factor: those of the last millisecond, and the one in force at its beginning. -/
def lastMs (now : Nat) (past : List (Nat × Nat)) : List (Nat × Nat) :=
  past.takeWhile (fun e => decide (now < e.1 + psMs)) ++ (past.dropWhile (fun e => decide (now < e.1 + psMs))).take 1

/-- The factor that f has stayed at or above for 1 ms; none where it is not known for so long (R288). -/
def heldFor (now : Nat) (past : List (Nat × Nat)) : Option Nat :=
  if past.any (fun e => decide (e.1 + psMs ≤ now)) then ((lastMs now past).map (·.2)).min? else none

/-- The factor in use after an evaluation: a lower f at once, a higher one that has held for 1 ms (R288). -/
def nextFactor (now cur f : Nat) (past : List (Nat × Nat)) : Nat :=
  if f < cur then f else max cur ((heldFor now past).getD 0)

/-- One group's evaluation; a fall of the factor is an event (R288, R290). -/
def Hub.evalGroup (h : Hub) (g : IGroup) : Hub :=
  let i := g.igrp
  if h.stoppedInst uMTR i then h
  else
    let k := mapGetD h.groupMeters i {}
    let f := h.meterF g
    let past := lastMs h.now ((h.now, f) :: k.past)
    let x := nextFactor h.now (h.factor i) f past
    let fall := decide (x < h.factor i)
    let due := fall && k.shortAt.all (fun t => decide (t + psMs ≤ h.now))
    let h1 := ((((h.setF (rMTR_GRP_BW i) fMTR_GRP_BW_DELIV (h.deliverable g)).setF (rMTR_GRP_BW i) fMTR_GRP_BW_CHARGED (chargedSum h.forme i)).setF
      (rMTR_GRP_STS i) fMTR_GRP_STS_SWEEP (b2n (h.sweepIn g))).setF (rMTR_GRP_STS i) fMTR_GRP_STS_FACTOR x).setF
      (rMTR_GRP_STS i) fMTR_GRP_STS_SHORT (b2n (decide (x < 0x8000)))
    let h2 : Hub := { h1 with groupMeters := mapPutD {} h1.groupMeters i { past := past, shortAt := if due then some h.now else k.shortAt } }
    let named := if fall then h.forme.slices.filter (fun e => decide ((e.2.chargedTo i).1 ≠ 0)) else []
    let h3 := named.foldl (fun h e => h.sliceEvt e.1 fSLM_SLICE_EVT_SHORTFALL) h2
    if due then h3.faultS uMTR i kGUAR_SHORTFALL clsCorrected none 0 else h3

/-- METER_EVALUATION: every channel reports AVAIL, each group's factor is computed, and SCALE follows (R287 to R290). -/
def execMeterEvaluation (avail : List Nat) (s : State) : Res :=
  onHub s (fun h =>
    let h1 := (List.range 768).foldl (fun h c =>
      if h.chState c = chABSENT then h else h.setF (rMEM_CH_STS c) fMEM_CH_STS_AVAIL (min 256 (avail.getD c 256))) h
    (h1.forme.igroups.foldl (fun h g => h.evalGroup g) h1).updateScales)

/-! ## Temperature (R292) -/

/-- The junction condition of R292 holds; kept beside the sensor readings. -/
def hotKey : Nat := 4096
def Hub.junctionHot (h : Hub) : Bool := decide (mapGetD h.sensors hotKey 0 = 1)

/-- The throttle step that a stack's own temperature gives: raised at 85, 95 and 105 °C, left below 82, 92 and 102 °C. -/
def throttleStep (temp cur : Nat) : Nat :=
  let up := if 105 ≤ temp then 3 else if 95 ≤ temp then 2 else if 85 ≤ temp then 1 else 0
  let stay := if 3 ≤ cur ∧ 102 ≤ temp then 3 else if 2 ≤ cur ∧ 92 ≤ temp then 2 else if 1 ≤ cur ∧ 82 ≤ temp then 1 else 0
  max up stay

def Hub.stackStep (h : Hub) (n : Nat) : Nat := mapGetD h.stackSteps n 0

/-- The throttle of a stack's channels set: its own step, at least 2 while the hub's junction is too hot. -/
def Hub.throttleStack (h : Hub) (n : Nat) : Hub :=
  let t := max (h.stackStep n) (if h.junctionHot then 2 else 0)
  (List.range 32).foldl (fun h i => h.setF (rMEM_CH_STS (32 * n + i)) fMEM_CH_STS_THROTTLE t) h

/-- STACK_TEMP_READ: the controller reads its stack and applies the throttle; entering step 2 or 3 by the stack's own
temperature raises HBM_HOT (R292). -/
def execStackTempRead (n : LinkId) (temp : Nat) (s : State) : Res :=
  onHub s (fun h =>
    if !h.flag (rMEM_STKn n) fMEM_STKn_PRESENT then h
    else
      let step := throttleStep temp (h.stackStep n)
      let h1 := { h with stackSteps := mapPutD 0 h.stackSteps n step }.setF (rMEM_STKn n) fMEM_STKn_TEMP (min temp 255)
      let h2 := h1.throttleStack n
      if 2 ≤ step ∧ h.stackStep n < step then h2.faultS uMEM n kHBM_HOT clsCorrected none 0 else h2)

/-! ## Patrol (R295) -/

/-- The patrol may take a slot: at most 32 MB/s, a line of 64 bytes in 2 µs (R295). -/
def Hub.patrolDue (h : Hub) (ch : Nat) : Bool := (h.chan ch).patrolAt.all (fun t => decide (t + 2 * psUs ≤ h.now))

/-- PATROL_READ: one line of a channel read; an uncorrected error raises MEM_UE_PATROL named to the slice that holds the granule, or to
none. -/
def execPatrolRead (ch : ChanId) (line : Nat) (ecc : Ecc) (s : State) : Res :=
  onHub s (fun h =>
    if h.halted ∨ h.chState ch ≠ chACTIVE ∨ 25165824 ≤ line ∨ h.patrolDue ch = false ∨ h.stoppedInst uMEM (ch.val / 32) = true then h
    else
      let e := h.eccOf ch (64 * line) ecc
      let h1 := ((h.updChan ch (fun x => { x with patrolAt := some h.now })).countEcc ch (64 * line) e).served (ch / 32) 13 64
      if e = .uncorrected then h1.faultS uMEM (ch / 32) kMEM_UE_PATROL clsCorrected (h.owner (h.encodeAddr ch (64 * line) / GRAN)) ch else h1)

/-! ## Retraining and retirement (R300, R301) -/

/-- A granule has lines on a channel. -/
def Hub.granOnChan (h : Hub) (ch g : Nat) : Bool :=
  match h.igOf g with
  | some r => if r.stride < 2 then r.chans.contains ch else decide ((igDecode r (g * GRAN)).1 = ch)
  | none => decide (g / 768 = ch)

/-- A slice holds a granule with lines on a channel. -/
def Hub.sliceOnChan (h : Hub) (ch : Nat) (r : SliceRec) : Bool := (rangeGranules r.ranges).any (fun g => h.granOnChan ch g)

/-- A channel starts retraining; the requests to it wait. -/
def Hub.retrainChan (h : Hub) (ch : Nat) : Hub :=
  if h.chState ch = chACTIVE then (h.setF (rMEM_CH_STS ch) fMEM_CH_STS_STATE chRETRAINING).count (rMEM_CH_STS ch) fMEM_CH_STS_RETRAINS 1 else h

/-- A channel retired: what waits on it fails, and each slice with lines on it gets a contained MEM_CHANNEL. -/
def Hub.retireChan (h : Hub) (ch : Nat) : Hub :=
  if h.chState ch = chRETIRED ∨ h.chState ch = chABSENT then h
  else
    let ids := (h.chan ch).queues.flatMap (·.2)
    let h1 := ((h.setF (rMEM_CH_STS ch) fMEM_CH_STS_STATE chRETIRED).setF (rMEM_CH_STS ch) fMEM_CH_STS_AVAIL 0).updChan ch
      (fun x => { x with queues := [] })
    let h2 := ids.foldl (fun h i => match h.req i with
      | some q => h.failAtMem i q fsMEMORY kMEM_CHANNEL
      | none => h) h1.syncService
    (h.forme.slices.filter (fun e => h.sliceOnChan ch e.2)).foldl (fun h e =>
      h.faultS uMEM (ch / 32) kMEM_CHANNEL clsContained (some e.1) ch) h2

/-- MEM_CH_CTL written. -/
def Hub.writeChCtl (h : Hub) (o : Origin) (ch : Nat) (v : Word) : Hub :=
  h.mgrWrite o (fun h =>
    if vFlag v fMEM_CH_CTL_RETIRE then h.regOk.retireChan ch
    else if vFlag v fMEM_CH_CTL_RETRAIN then h.regOk.retrainChan ch else h.regOk)

/-- CHANNEL_RETRAIN (R300): MEM_CH_CTL.RETRAIN written, or, with no sender, the controller's own answer to repeated failures of its
interface checks. -/
def execChannelRetrain (o : Option Origin) (ch : ChanId) (s : State) : Res :=
  match o with
  | some o => onReg o s (fun h => h.writeChCtl o ch (setFld 0 fMEM_CH_CTL_RETRAIN 1))
  | none => onHub s (fun h => h.retrainChan ch)

/-- CHANNEL_RETIRE (R301). -/
def execChannelRetire (o : Origin) (ch : ChanId) (s : State) : Res :=
  onReg o s (fun h => h.writeChCtl o ch (setFld 0 fMEM_CH_CTL_RETIRE 1))

/-- CHANNEL_RETRAIN_DONE: the channel is active again, trains once more, or after three failures in a row retires (R300). -/
def execChannelRetrainDone (ch : ChanId) (ok : Bool) (s : State) : Res :=
  onHub s (fun h =>
    if h.chState ch ≠ chRETRAINING then h
    else if ok then (h.setF (rMEM_CH_STS ch) fMEM_CH_STS_STATE chACTIVE).updChan ch (fun x => { x with trainFails := 0 })
    else if 2 ≤ (h.chan ch).trainFails then h.retireChan ch
    else (h.updChan ch (fun x => { x with trainFails := x.trainFails + 1 })).count (rMEM_CH_STS ch) fMEM_CH_STS_RETRAINS 1)

/-- MEM_CH_ECC written: CLR zeroes CORR and UNCORR. -/
def Hub.writeChEcc (h : Hub) (o : Origin) (ch : Nat) (v : Word) : Hub :=
  h.mgrWrite o (fun h =>
    if vFlag v fMEM_CH_ECC_CLR then (h.regOk.setF (rMEM_CH_ECC ch) fMEM_CH_ECC_CORR 0).setF (rMEM_CH_ECC ch) fMEM_CH_ECC_UNCORR 0 else h.regOk)

/-- CHANNEL_ECC_CLR (R294). -/
def execChannelEccClr (o : Origin) (ch : ChanId) (s : State) : Res :=
  onReg o s (fun h => h.writeChEcc o ch (setFld 0 fMEM_CH_ECC_CLR 1))

/-! ## Row repair (R297 to R299) -/

/-- A remap begins, of a row in the bit positions of MEM_REMAP_CMD; on a channel that is not active it ends with RESULT 4. -/
def Hub.startRemap (h : Hub) (row : Nat) (auto : Bool) : Hub :=
  if 768 ≤ row % 1024 ∨ h.chState (row % 1024) ≠ chACTIVE then h.setF rMEM_REMAP_CMD fMEM_REMAP_CMD_RESULT 4
  else { h with remapJob := some (row, auto) }.setF rMEM_REMAP_CMD fMEM_REMAP_CMD_BUSY 1

def remapFields : List Fld := [fMEM_REMAP_CMD_CH, fMEM_REMAP_CMD_PC, fMEM_REMAP_CMD_BANK, fMEM_REMAP_CMD_ROW]

/-- MEM_REMAP_CMD written; a GO while a remap runs gets an error response (DESIGN CHOICE, log entry 31). -/
def Hub.writeRemap (h : Hub) (o : Origin) (v : Word) : Hub :=
  h.mgrWrite o (fun h =>
    let go := vFlag v fMEM_REMAP_CMD_GO
    if go && h.remapJob.isSome then h.regErr
    else
      let h1 := h.regOk.writeRW rMEM_REMAP_CMD remapFields [] v
      if go then h1.startRemap (v.toNat % 2 ^ 33) false else h1)

/-- ROW_REMAP (R297). -/
def execRowRemap (o : Origin) (v : Word) (s : State) : Res :=
  onReg o s (fun h => h.writeRemap o (setFld v fMEM_REMAP_CMD_GO 1))

/-- REPAIR_CANDIDATE_REMAP: a row whose corrected errors have reached ROW_CE_THR, or marked by AUTO_UE, is remapped. -/
def execRepairCandidateRemap (ch : ChanId) (pc : Fin 2) (bank : RegionId) (row : QueueId) (s : State) : Res :=
  onHub s (fun h =>
    let r := pc.val + bank.val * 2 + row.val * 128
    let n := mapGetD (h.chan ch).rows r 0
    let thr := h.fld rMEM_ECC_CFG fMEM_ECC_CFG_ROW_CE_THR
    if h.remapJob.isSome ∨ ¬ (65536 ≤ n ∨ (thr ≠ 0 ∧ thr ≤ n)) then h
    else (h.updChan ch (fun x => { x with rows := mapDel x.rows r })).startRemap (ch.val + r * 1024) true)

/-- A request to the bank of a remap has begun and is not finished (R297 step 2). -/
def Hub.bankBusy (h : Hub) (ch bank : Nat) : Bool :=
  h.reqs.any (fun e => e.2.admitted && (decide (e.2.stage = .queued) || decide (e.2.stage = .sealedGo)) &&
    (match h.decode (e.2.pa % 2 ^ 42) with
      | some (c, off) => decide (c = ch) && decide (rowOf off % 128 = bank)
      | none => false))

/-- ROW_REMAP_DONE: the remap of R297 ends: no free entry, the lost-line list full, no spare, or the row repaired and its
entry made. `lost` are the row's lines that read uncorrectable. -/
def Hub.remapDone (h : Hub) (result : Nat) (lost : List Nat) : Hub :=
  match h.remapJob with
  | none => h
  | some (row, auto) =>
    let ch := row % 1024
    let h1 := { h with remapJob := none }.setF rMEM_REMAP_CMD fMEM_REMAP_CMD_BUSY 0
    let res (h : Hub) (n : Nat) : Hub := h.setF rMEM_REMAP_CMD fMEM_REMAP_CMD_RESULT n
    match (List.range 8192).find? (fun i => decide (h.fld (rMEM_REMAPi i) fMEM_REMAPi_STATE = 0)) with
    | none => (res h1 1).faultS uMEM (ch / 32) kREMAP_FULL clsCorrected none ch
    | some i =>
      let all := (h.chan ch).lost ++ lost.filter (fun x => !(h.chan ch).lost.contains x)
      if 64 < all.length then res h1 3
      else
        let h2 := (h1.updChan ch (fun x => { x with lost := all })).setF (rMEM_CH_ECC ch) fMEM_CH_ECC_LOST all.length
        if result = 2 then (res h2 2).faultS uMEM (ch / 32) kREMAP_NOSPARE clsCorrected none ch
        else res ((((h2.setF (rMEM_REMAPi i) fMEM_REMAPi_ROWADDR row).setF (rMEM_REMAPi i) fMEM_REMAPi_STATE 1).setF (rMEM_REMAPi i)
          fMEM_REMAPi_AUTO (b2n auto)).syncService) 0

/-- ROW_REMAP_DONE (R297). -/
def execRowRemapDone (result : Fin 4) (lost : List Nat) (s : State) : Res :=
  onHub s (fun h => match h.remapJob with
    | none => h
    | some (row, _) => if h.bankBusy (row % 1024) (row / 1024 % 128) then h else h.remapDone result lost)

/-! ## Traffic generators (R302, R303) -/

/-- A granule with lines on the channel is held by a slice, or lies in a sealed region or its metadata. -/
def Hub.chanInUse (h : Hub) (ch : Nat) : Bool :=
  h.forme.slices.any (fun e => h.sliceOnChan ch e.2) ||
  h.forme.sealedRegs.any (fun r =>
    (List.range r.count).any (fun k => h.granOnChan ch (r.first + k)) || (List.range r.metaCount).any (fun k => h.granOnChan ch (r.metaFirst + k)))

def tgFields : List Fld := [fMEM_TG_CTL_MODE, fMEM_TG_CTL_PATTERN, fMEM_TG_CTL_LOOP]

/-- The lines a generator has overwritten: their earlier contents are lost, they read free values through Umbra (R303), and they leave
the lost-line list (R298). -/
def Hub.loseLines (h : Hub) (ch first lines : Nat) : Hub :=
  let hit (a : Nat) : Bool := match h.decode a with
    | some (c, off) => decide (c = ch) && decide (first ≤ off / 64) && decide (off / 64 < first + lines)
    | none => false
  let keep := (h.chan ch).lost.filter (fun l => !(decide (first ≤ l) && decide (l < first + lines)))
  let h1 : Hub := { h with hbm := h.hbm.filter (fun e => !hit e.1),
                           zeroed := h.zeroed.filter (fun g => !(h.granOnChan ch g)) }
  (h1.updChan ch (fun x => { x with lost := keep })).setF (rMEM_CH_ECC ch) fMEM_CH_ECC_LOST keep.length

/-- The lines and bytes of a generator's pass: those overwritten, and the bytes served in class 14, of lines written and read. -/
def Hub.tgServed (h : Hub) (ch written read : Nat) : Hub :=
  let first := h.fld (rMEM_TG_RANGE ch) fMEM_TG_RANGE_FIRST
  let mode := h.fld (rMEM_TG_CTL ch) fMEM_TG_CTL_MODE
  let w := if mode = 2 then 0 else written
  let r := if mode = 1 then 0 else read
  (if w = 0 then h else h.loseLines ch first w).served (ch / 32) 14 (64 * (w + r))

/-- A pass cut short: the lines it has written and read by then are free numbers, the checker behind the generator (R303). -/
def Hub.tgCut (h : Hub) (ch : Nat) : Hub :=
  let lines := h.fld (rMEM_TG_RANGE ch) fMEM_TG_RANGE_LINES
  let w := Config.choice h.draws % (lines + 1)
  let r := Config.choice (h.draws + 1) % ((if h.fld (rMEM_TG_CTL ch) fMEM_TG_CTL_MODE = 0 then w else lines) + 1)
  ({ h with draws := h.draws + 2 }.tgServed ch w r).setF (rMEM_TG_CTL ch) fMEM_TG_CTL_BUSY 0

/-- MEM_TG_CTL written (R302, R487): GO refused as R302 gives, else the generator runs; STOP ends it; without GO the register stores
what is written. -/
def Hub.writeTgCtl (h : Hub) (o : Origin) (ch : Nat) (v : Word) : Hub :=
  h.mgrWrite o (fun h =>
    let c := rMEM_TG_CTL ch
    let first := h.fld (rMEM_TG_RANGE ch) fMEM_TG_RANGE_FIRST
    let lines := h.fld (rMEM_TG_RANGE ch) fMEM_TG_RANGE_LINES
    if vFlag v fMEM_TG_CTL_GO then
      if decide (vFld v fMEM_TG_CTL_MODE = 3) || decide (4 < vFld v fMEM_TG_CTL_PATTERN) || decide (h.chState ch ≠ chACTIVE) ||
          h.chanInUse ch || decide (25165824 < first + lines) || decide (lines = 0) || h.flag c fMEM_TG_CTL_BUSY then h.regErr
      else (((h.regOk.writeRW c tgFields [fMEM_TG_CTL_DONE] v).setF c fMEM_TG_CTL_BUSY 1).setF c fMEM_TG_CTL_ABORTED 0)
    else
      let h0 := if vFlag v fMEM_TG_CTL_STOP && h.flag c fMEM_TG_CTL_BUSY then h.tgCut ch else h
      h0.regOk.writeRW c tgFields [fMEM_TG_CTL_DONE] v)

/-- TRAFFIC_GENERATOR_GO (R302). -/
def execTrafficGeneratorGo (o : Origin) (ch : ChanId) (v : Word) (s : State) : Res :=
  onReg o s (fun h => h.writeTgCtl o ch (setFld v fMEM_TG_CTL_GO 1))

/-- TRAFFIC_GENERATOR_STOP. -/
def execTrafficGeneratorStop (o : Origin) (ch : ChanId) (s : State) : Res :=
  onReg o s (fun h => h.writeTgCtl o ch (setFld (h.reg (rMEM_TG_CTL ch) &&& fldsMask tgFields) fMEM_TG_CTL_STOP 1))

/-- TRAFFIC_GENERATOR_PASS_DONE: a pass ends with what the checker found (R303). -/
def execTrafficGeneratorPassDone (ch : ChanId) (failLines firstFail : Nat) (lanes : Word) (s : State) : Res :=
  onHub s (fun h =>
    let c := rMEM_TG_CTL ch
    if !h.flag c fMEM_TG_CTL_BUSY ∨ h.halted then h
    else
      let mode := h.fld c fMEM_TG_CTL_MODE
      let lines := h.fld (rMEM_TG_RANGE ch) fMEM_TG_RANGE_LINES
      let h1 := h.tgServed ch lines lines
      let fails := if mode = 1 then 0 else failLines
      let h2 := ((h1.setF (rMEM_TG_RES ch) fMEM_TG_RES_FAIL_LINES (min fails (2 ^ 32 - 1))).setF (rMEM_TG_RES ch) fMEM_TG_RES_FIRST_FAIL
        (if fails = 0 then 0 else firstFail)).setReg (rMEM_TG_LANES ch) (if fails = 0 then 0 else lanes)
      let h3 := ((h2.setF c fMEM_TG_CTL_DONE 1).setF c fMEM_TG_CTL_FAIL (b2n (decide (fails ≠ 0)))).count c fMEM_TG_CTL_PASSES 1
      h3.setF c fMEM_TG_CTL_BUSY (if h.flag c fMEM_TG_CTL_LOOP then 1 else 0))

end Sys2Proof.Machine
end

