-- ==== Sys2Proof/Machine/Umbra.lean ====
section
/-! DEFINITION. Umbra on sealed lines (R306, R311 to R322): verified reads and writes, node write-backs, unverifiable lines,
and the sweep that moves a region to fresh keys (R323 to R327). -/
namespace Sys2Proof.Machine

/-- A sealed region of the live forme. -/
def Hub.sealedRec (h : Hub) (r : Nat) : Option SealedRec := h.forme.sealedRegs.find? (fun x => x.region == r)

/-- The side on which a node is dirty. -/
def Hub.dirtySide (h : Hub) (r lv j : Nat) : Option Bool :=
  if (h.side r false).dirty.contains (lv, j) then some false
  else if (h.side r true).dirty.contains (lv, j) then some true else none

/-- NODE_WRITEBACK: a dirty node leaves the node cache and is written back, or its entry is bad and its lines are lost. -/
def Hub.nodeOut (h : Hub) (r : SealedRec) (lv j : Nat) (ok : Bool) : Hub :=
  match h.dirtySide r.region lv j with
  | none => h
  | some new =>
    if ok then (h.ncDrop r new lv j).writeBack { cls := if new then 12 else 11 } r new lv j
    else h.loseNode r new (.cacheDirtyUncorrected lv j) lv j

/-- NODE_WRITEBACK (R313, R316, R317). -/
def execNodeWriteback (r : RegionId) (level node : Nat) (ok : Bool) (s : State) : Res :=
  onHub s (fun h => match h.sealedRec r with
    | none => h
    | some x => if h.halted then h else h.nodeOut x level node ok)

/-! ## Sweeps (R322 to R327) -/

def Hub.regState (h : Hub) (r : Nat) : Nat := h.fld (rUMB_REG_STS r) fUMB_REG_STS_STATE

/-- UMB_REG_SWEEP written: GO queues a sweep; refused for no region, one that sweeps or one that is queued (R326, R327). -/
def Hub.writeSweep (h : Hub) (o : Origin) (r : Nat) (v : Word) : Hub :=
  h.mgrWrite o (fun h =>
    if !vFlag v fUMB_REG_SWEEP_GO then h.regOk
    else if (h.sealedRec r).isNone ∨ h.regState r ≠ 1 then h.regErr
    else ({ (h.regOk.queueSweep r) with nextId := h.nextId + 1 }).updSeal r (fun k => { k with byGo := some h.nextId }))

/-- SWEEP_GO (R326, R327). -/
def execSweepGo (o : Origin) (r : RegionId) (s : State) : Res :=
  onReg o s (fun h => h.writeSweep o r (setFld 0 fUMB_REG_SWEEP_GO 1))

/-- When a region's scheduled sweep comes due, in ps; none with SWEEP_H 0xFFFF. -/
def Hub.sweepDueAt (h : Hub) (r : SealedRec) : Option Nat :=
  if r.sweepH = 0xFFFF then none else some ((h.seal r.region).base + r.sweepH * psHour)

/-- SWEEP_DUE (R326): a region's scheduled sweep comes due. -/
def execSweepDue (r : RegionId) (s : State) : Res :=
  onHub s (fun h => match h.sealedRec r with
    | none => h
    | some x => match h.sweepDueAt x with
      | none => h
      | some t =>
        if decide (h.now < t) || decide (h.regState r = 2) || (h.seal r).dueAt.isSome then h
        else (h.queueSweep r).updSeal r (fun k => { k with dueAt := some t }))

/-- The place of a queued region in its group's order (R326): CTR_HIGH, then GO in order of writing, then due time. -/
def Hub.sweepRank (h : Hub) (r : Nat) : Nat × Nat :=
  if h.flag (rUMB_REG_STS r) fUMB_REG_STS_CTR_HIGH then (0, r)
  else match (h.seal r).byGo with
    | some n => (1, n)
    | none => (2, (h.seal r).dueAt.getD 0)

/-- The queued region of a group that sweeps next. -/
def Hub.nextSweep (h : Hub) (g : IGroup) : Option SealedRec :=
  (h.forme.sealedRegs.filter (fun r => decide (g.first ≤ r.first) && decide (r.first < g.first + g.count) &&
    decide (h.regState r.region = 3))).foldl (fun b r => match b with
      | none => some r
      | some x =>
        let p := h.sweepRank x.region
        let q := h.sweepRank r.region
        if q.1 < p.1 ∨ (q.1 = p.1 ∧ q.2 < p.2) then some r else some x) none

/-- A sweep starts: new keys, a zero root in the spare bank, BOUNDARY 0, STATE 2 (R323 step 1). -/
def Hub.startSweep (h : Hub) (g : IGroup) (r : SealedRec) : Hub :=
  let (side, h0) := h.newSide
  let h1 := h0.updSeal r.region (fun k =>
    { k with nxt := side, startedAt := h.now, queuedAt := none, byGo := none, dueAt := none, lateRaised := false,
             newLost := [], newLostAll := false })
  ((h1.setF (rUMB_REG_STS r.region) fUMB_REG_STS_STATE 2).setF (rUMB_REG_SWEEP r.region) fUMB_REG_SWEEP_BOUNDARY 0).setF
    (rMTR_GRP_STS g.igrp) fMTR_GRP_STS_SWEEP 1

/-- SWEEP_START (R323, R325, R326, R455): the group runs no sweep, and has a queued region. -/
def execSweepStart (g : RegionId) (s : State) : Res :=
  onHub s (fun h => match h.forme.igroups.find? (fun x => x.igrp == g.val) with
    | none => h
    | some x => match h.nextSweep x with
      | none => h
      | some r => if h.sweepIn x || h.halted || h.rngBad || decide (h.pwrState = 3) then h else h.startSweep x r)

/-- The payer of a sweep's traffic: no master, class 12 (R280, R325). -/
def sweepPayer : Payer := { cls := 12 }

/-- A started request stands at a line of a step: the step waits for it (R323 step 2). -/
def Hub.stepBusy (h : Hub) (r : SealedRec) (b : Nat) : Bool :=
  let a := r.first * GRAN + 64 * b
  h.reqs.any (fun e => decide (e.2.stage = .sealedGo) && e.2.pieces.zipIdx.any (fun g =>
    !e.2.got.contains g.2 && decide (a ≤ e.2.pa % 2 ^ 42 + g.1.1) && decide (e.2.pa % 2 ^ 42 + g.1.1 < a + 512)))

/-- The bytes that a step takes: a line's read and write, the MAC line's, and the nodes' (R325). -/
def Hub.stepBytes (h : Hub) (r : SealedRec) (b : Nat) : Nat :=
  match h.stepLines r b with
  | [] => 64 * (h.pathFetch r false b).length
  | ls => 128 * ls.length + 256

/-- A step's lines written under the new side with counter 1, their MACs with them, and BOUNDARY past them (R323 step 2, R325). -/
def Hub.stepMove (h : Hub) (r : SealedRec) (b : Nat) : Hub :=
  let ls := h.stepLines r b
  let x := h.side r.region true
  let y := ls.foldl (fun x i => x.setCtr 0 i 1) x
  let h1 := h.setSide r.region true { y with dirty := if ls = [] ∨ x.dirty.contains (0, b / 8) then y.dirty else y.dirty ++ [(0, b / 8)] }
  let h2 := if ls = [] then h1 else
    (((h1.macTouch sweepPayer r false b).pathTouch sweepPayer r true b).ncTouch sweepPayer r true 15 (b / 8)).metaTraffic sweepPayer (macAddr r b)
  let h3 := h2.setF (rUMB_REG_SWEEP r.region) fUMB_REG_SWEEP_BOUNDARY (b + 8)
  ls.foldl (fun h i => (h.putMac r true i).served (h.ctrlOf (r.first * GRAN + 64 * i)) 12 128) h3

/-- What a step finds at one of its lines; `line` is the one that the operands speak of. -/
def Hub.stepSays (h : Hub) (r : SealedRec) (b line i : Nat) (out : SealOutcome) (ecc : Ecc) : SealSays :=
  let a := r.first * GRAN + 64 * i
  let (ch, off) := h.chanAt a
  h.sealSays r false i a true (if i = b + line then out else .ok) (h.eccOf ch off (if i = b + line then ecc else .clean))

/-- A step whose checks have passed: what the stack returned is taken, and the lines move. -/
def Hub.stepTake (h : Hub) (r : SealedRec) (b line : Nat) (out : SealOutcome) (ecc : Ecc) : Hub :=
  let a := r.first * GRAN + 64 * (b + line)
  let (ch, off) := h.chanAt a
  let mine := (h.stepLines r b).contains (b + line)
  let h1 := (h.sealTaken r false (b + line) a mine out).pathTouch sweepPayer r false b
  (if mine then h1.countEcc ch off (h.eccOf ch off ecc) else h1).stepMove r b

/-- SWEEP_STEP: the 8 lines of a step read and checked under the old side, the step's node first. A mismatch halts the hub; an
uncorrectable error puts the lines on the unverifiable list and the sweep skips them (R316, R323, R326). -/
def Hub.sweepStep (h : Hub) (r : SealedRec) (line : Nat) (out : SealOutcome) (ecc : Ecc) : Hub :=
  let b := h.fld (rUMB_REG_SWEEP r.region) fUMB_REG_SWEEP_BOUNDARY
  let h0 := match h.igOf r.first with
    | some g => { h with sweepBytes := mapPutD 0 h.sweepBytes g.igrp (mapGetD h.sweepBytes g.igrp 0 + h.stepBytes r b) }
    | none => h
  if h.lineLost r.region b then h0.stepMove r b
  else
    let (o, h1) := h0.ncReport r false b true out
    let found : Nat × SealSays := match h1.pathSays r false b true o with
      | .pass => ((h1.stepLines r b).findSome? (fun i => let e := h1.stepSays r b line i o ecc; if e = .pass then none else some (i, e))).getD (b, .pass)
      | e => (b, e)
    match found.2 with
    | .pass => h1.stepTake r b line o ecc
    | .halt c kind => h1.halt c kind r.region
    | .dataLost => ((h1.countUEAt (r.first * GRAN + 64 * found.1)).recordLoss r 0 (b / 8)).stepMove r b
    | .lost lv j => (h1.loseNode r false o lv j).stepMove r b

/-- The interleave group a region lies in can deliver nothing: its sweep pauses (R325). -/
def Hub.sweepPaused (h : Hub) (r : SealedRec) : Bool :=
  match h.igOf r.first with
  | some g => decide (h.deliverable g = 0)
  | none => false

/-- SWEEP_STEP (R323, R324). -/
def execSweepStep (r : RegionId) (z : SweepSees) (s : State) : Res :=
  onHub s (fun h => match h.sealedRec r with
    | none => h
    | some x =>
      let b := h.fld (rUMB_REG_SWEEP r) fUMB_REG_SWEEP_BOUNDARY
      if decide (h.regState r ≠ 2) || h.halted || h.sweepPaused x || decide (sealLines x ≤ b) || h.stepBusy x b ||
          h.stoppedInst uUMB (h.ctrlOf (x.first * GRAN + 64 * b)) then h
      else h.sweepStep x z.line z.out z.ecc)

/-- The new bank's dirty nodes written back, level by level (R323 step 3). -/
def Hub.flushSide (h : Hub) (r : SealedRec) : Hub :=
  (List.range (treeLevels r).length).foldl (fun h lv =>
    ((h.side r.region true).dirty.filter (fun e => e.1 == lv)).foldl (fun h e => h.writeBack sweepPayer r true e.1 e.2) h) h

/-- The entries of the unverifiable list that the end of a region's sweep clears: those not made over lines that it had moved. -/
def Hub.lossesOf (h : Hub) (r : Nat) : List Nat :=
  (List.range 64).filter (fun k => h.flag (rUMB_LOSTi k) fUMB_LOSTi_VALID && decide (h.fld (rUMB_LOSTi k) fUMB_LOSTi_REGION = r) &&
    !(h.seal r).newLost.contains k)

/-- The end of a region's sweep clears LOST_ALL. -/
def Hub.clearsAll (h : Hub) (r : Nat) : Bool := h.flag (rUMB_REG_STS r) fUMB_REG_STS_LOST_ALL && !(h.seal r).newLostAll

/-- A granule of a region holds a line whose loss the end of the sweep clears. -/
def Hub.granLost (h : Hub) (r : SealedRec) (g : Nat) : Bool :=
  let lo := (g - r.first) * 32768
  h.clearsAll r.region ||
  (h.lossesOf r.region).any (fun k =>
    let span := 8 ^ (h.fld (rUMB_LOSTi k) fUMB_LOSTi_LEVEL + 1)
    let first := h.fld (rUMB_LOSTi k) fUMB_LOSTi_NODE * span
    decide (first < lo + 32768) && decide (lo < first + span))

/-- The end of a sweep clears the region's losses: each slice with a covered granule gets a corrected UMB_RELAID (R322). -/
def Hub.clearLosses (h : Hub) (r : SealedRec) : Hub :=
  let ss := h.forme.slices.filter (fun e => (List.range r.count).any (fun k => e.2.holdsGranule (r.first + k) && h.granLost r (r.first + k)))
  let ls := h.lossesOf r.region
  let h1 := (ls.foldl (fun h k => h.setReg (rUMB_LOSTi k) 0) h).setF rUMB_STS fUMB_STS_LOST_N (h.fld rUMB_STS fUMB_STS_LOST_N - ls.length)
  ss.foldl (fun h e => h.faultS uUMB (h.ctrlOf (r.first * GRAN)) kUMB_RELAID clsCorrected (some e.1) 0)
    (if h.clearsAll r.region then h1.setF (rUMB_REG_STS r.region) fUMB_REG_STS_LOST_ALL 0 else h1)

/-- SWEEP_END: the new bank is current and the old keys are gone (R322, R323 step 3). -/
def Hub.endSweep (h : Hub) (r : SealedRec) : Hub :=
  let sts := rUMB_REG_STS r.region
  let h1 := (h.flushSide r).clearLosses r
  let k := h1.seal r.region
  let gone := k.cur.key
  let side : SealSide := { k.nxt with dirty := [] }
  let dead (a : Nat) : Bool := decide (r.first * GRAN ≤ a) && decide (a < (r.first + r.count) * GRAN) && decide (side.ctr 0 (lineIdx r a) = 0)
  let h2 : Hub := { h1.setSeal r.region { cur := side, base := h.now } with
    nodeCache := h1.nodeCache.filter (fun e => !(decide (e.1 = r.region) && decide (e.2.1 = gone))),
    hbm := h1.hbm.filter (fun e => !dead e.1) }
  let h3 := (((h2.setF sts fUMB_REG_STS_STATE 1).setF sts fUMB_REG_STS_BANK (1 - h.fld sts fUMB_REG_STS_BANK)).setF sts fUMB_REG_STS_CTR_HIGH 0).count
    sts fUMB_REG_STS_SWEEPS 1
  let h4 := h3.setF (rUMB_REG_SWEEP r.region) fUMB_REG_SWEEP_BOUNDARY 0
  match h.igOf r.first with
  | some g => h4.setF (rMTR_GRP_STS g.igrp) fMTR_GRP_STS_SWEEP 0
  | none => h4

/-- SWEEP_END (R322, R323). -/
def execSweepEnd (r : RegionId) (s : State) : Res :=
  onHub s (fun h => match h.sealedRec r with
    | none => h
    | some x =>
      if h.regState r = 2 ∧ sealLines x ≤ h.fld (rUMB_REG_SWEEP r) fUMB_REG_SWEEP_BOUNDARY ∧ h.halted = false then h.endSweep x else h)

/-- UMB_SWEEP_LATE: a sweep not started 1 h after it came due, or not ended 1 h after it started, once each (R325, R326). -/
def execUmbSweepLate (r : RegionId) (s : State) : Res :=
  onHub s (fun h => match h.sealedRec r with
    | none => h
    | some x =>
      let k := h.seal r
      let since := if h.regState r = 2 then some k.startedAt else if h.regState r = 3 then (k.dueAt.toList ++ k.queuedAt.toList).min? else none
      match since with
      | none => h
      | some t =>
        if k.lateRaised || decide (h.now < t + psHour) then h
        else (h.updSeal r (fun k => { k with lateRaised := true })).faultS uUMB (h.ctrlOf (x.first * GRAN)) kUMB_SWEEP_LATE clsCorrected none 0)

end Sys2Proof.Machine
end

