-- ==== Sys2Proof/Machine/Links.lean ====
section
/-! DEFINITION. Quire links (R328 to R359): blocks and frames, credits and replay, requests and responses of other hubs, counted
bundles, tags and timeouts, quiesce, transit, bring-up, retraining and DOWN. -/
namespace Sys2Proof.Machine

/-! ## The state of a link -/

def lkABSENT : Nat := 0
def lkDISABLED : Nat := 1
def lkTRAINING : Nat := 2
def lkUPNONUM : Nat := 3
def lkUP : Nat := 4
def lkRETRAINING : Nat := 5
def lkDOWN : Nat := 6

def Hub.lkState (h : Hub) (l : Nat) : Nat := h.fld (rQL_LINK_STS l) fQL_LINK_STS_STATE
def Hub.setLk (h : Hub) (l st : Nat) : Hub := h.setF (rQL_LINK_STS l) fQL_LINK_STS_STATE st

/-- Blocks pass: the link is up, with or without hub numbers, and not in low-power idle. -/
def Hub.lkRuns (h : Hub) (l : Nat) : Bool :=
  (decide (h.lkState l = 3) || decide (h.lkState l = 4)) && !(h.link l).low && !h.halted

/-- Both ends report VALID (R28, R354). -/
def Hub.lkValid (h : Hub) (l : Nat) : Bool :=
  h.flag (rQL_LINK_STS l) fQL_LINK_STS_PEER_V && h.flag rTOP_HUB_ID fTOP_HUB_ID_VALID

/-- A fault of a link, which names no slice (R358). -/
def Hub.lkFault (h : Hub) (l kind cls : Nat) : Hub := h.fault { source := srcOf uQL l, kind := kind, cls := cls, addr := some l }

/-- A corrected fault of a link at most once in a period. -/
def Hub.lkRate (h : Hub) (l idx kind period : Nat) : Hub :=
  let due := match (h.link l).rateAt.getD idx none with
    | none => true
    | some t => decide (t + period ≤ h.now)
  if due then (h.updLink l (fun k => { k with rateAt := k.rateAt.set idx (some h.now) })).lkFault l kind clsCorrected else h

/-- A retraining begins: queues, replay buffer and credits stay (R356, R358). -/
def Hub.retrainLink (h : Hub) (l : Nat) : Hub :=
  if h.lkState l = 3 ∨ h.lkState l = 4 then
    ((h.setLk l lkRETRAINING).count (rQL_LINK_STS l) fQL_LINK_STS_RETRAINS 1).lkFault l kLINK_RETRAIN clsCorrected
  else h

/-! ## Sending blocks (R330 to R335, R338, R339) -/

/-- The slots each receiver offers (R334). -/
def vcOffer : Nat → Nat
  | 2 => 64
  | _ => 8192

/-- A sender's credit for a VC, in slots. -/
def LinkRt.credit (k : LinkRt) (vc : Nat) : Nat := (vcOffer vc + k.peerFreed.getD vc 0 + 65536 - k.sentSlots.getD vc 0) % 65536

/-- The head of a VC's queue, where its credit covers it. -/
def LinkRt.ready (k : LinkRt) (vc : Nat) : Option (List Byte) :=
  let q := if vc = 0 then k.vc0 else if vc = 1 then k.vc1 else k.vc2
  match q with
  | [] => none
  | f :: _ => if frameSlots f ≤ k.credit vc then some f else none

/-- A VC has a frame that waits for credit. -/
def LinkRt.waitsCredit (k : LinkRt) (vc : Nat) : Bool :=
  let q := if vc = 0 then k.vc0 else if vc = 1 then k.vc1 else k.vc2
  !q.isEmpty && (k.ready vc).isNone

/-- The head of a VC's queue taken, its slots counted as sent. -/
def LinkRt.popTx (k : LinkRt) (vc slots : Nat) : LinkRt :=
  let k := { k with sentSlots := k.sentSlots.modify vc (fun n => (n + slots) % 65536) }
  if vc = 0 then { k with vc0 := k.vc0.tail } else if vc = 1 then { k with vc1 := k.vc1.tail } else { k with vc2 := k.vc2.tail }

/-- A block under construction: its bytes, the first frame's slot, the beat frames' offsets, the tags of own requests. -/
structure Packing where
  bytes : List Byte := []
  first : Option Nat := none
  beats : List Nat := []
  tags : List Nat := []
  deriving DecidableEq, Repr, Inhabited

/-- A frame with its check value (R333). -/
def Hub.sealFrame (h : Hub) (l bseq : Nat) (f : List Byte) : List Byte := patch f 4 (toLE 4 (h.linkChk l bseq f))

/-- A DELAY frame stamped as it leaves: T1 on its way out, T3 on its way back (R355). That T2 and T3 are zero on the way out is
the model's (DESIGN CHOICE, log entry 32). -/
def Hub.stampDelay (h : Hub) (f : List Byte) : List Byte :=
  if frameType f ≠ 5 then f
  else if leAt f 16 8 = 0 then patch f 8 (toLE 8 h.now) else patch f 24 (toLE 8 h.now)

/-- ELAPSED of a beat message raised by a time in ps, within its 32 bits. -/
def raiseElapsed (f : List Byte) (d : Nat) : List Byte := patch f 16 (toLE 4 (min (leAt f 16 4 + d) (2 ^ 32 - 1)))

/-- A VC 2 frame as it leaves: a beat message's ELAPSED takes the time it waited here (R158). -/
def Hub.stampMsg (h : Hub) (f : List Byte) : List Byte :=
  let m := f.take 32
  if msgOp m = opBEAT then raiseElapsed m (h.now - leAt f 32 8) else m

/-- The tag of a request of this hub's own. -/
def Hub.ownTag (h : Hub) (vc : Nat) (f : List Byte) : Option Nat :=
  if decide (vc = 0) && decide ((thdrOf f).srcHub = h.hubNum) && decide ((thdrOf f).op ≠ 4) then some (thdrOf f).tag else none

/-- A whole frame put at a slot, as far as the block has room; the rest follows in the next. -/
def Packing.add (p : Packing) (k : LinkRt) (left vc : Nat) (f : List Byte) (tag : Option Nat) : Packing × LinkRt :=
  let n := min f.length (32 * left)
  ({ bytes := p.bytes ++ f.take n, first := p.first.or (some (p.bytes.length / 32)),
     beats := if vc = 2 ∧ msgOp f = opBEAT then p.beats ++ [p.bytes.length] else p.beats, tags := p.tags ++ tag.toList },
   { k with rest := f.drop n, restTag := if n < f.length then tag else none })

/-- The slots of a block filled (R335): the rest of a frame begun earlier, then link-control frames, VC 2, VC 1, VC 0. -/
def Hub.packSlots (h : Hub) (l bseq : Nat) (transport : Bool) : Nat → Packing → LinkRt → Packing × LinkRt
  | 0, p, k => (p, k)
  | n + 1, p, k =>
    let left := 20 - p.bytes.length / 32
    if left = 0 then (p, k)
    else if transport && !k.rest.isEmpty then
      let m := min k.rest.length (32 * left)
      h.packSlots l bseq transport n { p with bytes := p.bytes ++ k.rest.take m, tags := p.tags ++ k.restTag.toList }
        { k with rest := k.rest.drop m, restTag := if m < k.rest.length then k.restTag else none }
    else match k.ctl with
      | f :: fs =>
        let r := p.add { k with ctl := fs } left 3 (h.sealFrame l bseq (h.stampDelay f)) none
        h.packSlots l bseq transport n r.1 r.2
      | [] =>
        if !transport then (p, k)
        else match (List.range 3).reverse.find? (fun vc => (k.ready vc).isSome) with
          | none => (p, k)
          | some vc =>
            let f := (k.ready vc).getD []
            let g := if vc = 2 then h.stampMsg f else f
            let r := p.add (k.popTx vc (frameSlots f)) left vc (h.sealFrame l bseq g) (h.ownTag vc f)
            h.packSlots l bseq transport n r.1 r.2

/-- The slots left over, as IDLE frames. -/
def Hub.idleFill (h : Hub) (l bseq : Nat) (p : Packing) : Packing :=
  let n := 20 - p.bytes.length / 32
  let f := h.sealFrame l bseq (controlFrame 0 [])
  { p with bytes := p.bytes ++ (List.replicate n f).flatten, first := if n = 0 then p.first else p.first.or (some (p.bytes.length / 32)) }

/-- A block header (R330). -/
def blockHdr (btype bseq : Nat) (first : Option Nat) : BitVec 20 := BitVec.ofNat 20 (btype + bseq % 4096 * 4 + first.getD 31 * 2 ^ 14)

/-- The VCs that wait for credit, and since when (R358 LINK_STALL). -/
def Hub.noteStarved (h : Hub) (l : Nat) : Hub :=
  h.updLink l (fun k => { k with starved := (List.range 3).map (fun vc =>
    if k.waitsCredit vc then (k.starved.getD vc none).or (some h.now) else none) })

/-- A DATA block may be sent and has something to carry. -/
def Hub.dataBlock (h : Hub) (l : Nat) : Bool :=
  let k := h.link l
  decide (h.lkState l = 4) && decide (k.replay.length < 512) && (!k.rest.isEmpty || (List.range 3).any (fun vc => (k.ready vc).isSome))

/-- A block of the replay buffer sent again, its beat messages stamped again (R338, R339). -/
def Hub.resendBlock (h : Hub) (l n : Nat) : Hub :=
  let k := h.link l
  match k.replay.findIdx? (fun b => b.bseq == n) with
  | none => h.updLink l (fun k => { k with resend := none })
  | some i =>
    let b := k.replay.getD i { bseq := 0, hdr := 0, data := [], since := 0, sends := 0, beats := [] }
    let data := b.beats.foldl (fun d o => patch d o (h.sealFrame l b.bseq (raiseElapsed (patch (sub d o 32) 4 (zeros 4)) (h.now - b.since)))) b.data
    (h.setLink l { k with replay := k.replay.set i { b with sends := b.sends + 1 },
                          resend := (k.replay[i + 1]?).map (·.bseq) }).emit (.block l b.hdr data)

/-- BLOCK_TX: the block of one codeword. -/
def Hub.blockTx (h : Hub) (l : Nat) : Hub :=
  let k := h.link l
  if (h.lkState l = 2 ∨ h.lkState l = 5) ∧ h.halted = false then h.emit (.block l (blockHdr 1 0 none) (Config.trainData l))
  else if !h.lkRuns l then h
  else match k.resend with
    | some n => h.resendBlock l n
    | none =>
      if h.dataBlock l then
        let r := h.packSlots l k.bseq true 40 {} k
        let p := h.idleFill l k.bseq r.1
        let hdr := blockHdr 0 k.bseq p.first
        let b : TxBlock := { bseq := k.bseq, hdr := hdr, data := p.bytes, since := h.now, sends := 1, beats := p.beats, tags := p.tags }
        ((h.setLink l { r.2 with bseq := (k.bseq + 1) % 4096, replay := r.2.replay ++ [b] }).noteStarved l).emit (.block l hdr p.bytes)
      else
        let r := h.packSlots l 0 false 40 {} k
        let p := h.idleFill l 0 r.1
        ((h.setLink l r.2).noteStarved l).emit (.block l (blockHdr 2 0 p.first) p.bytes)

/-- BLOCK_TX (R330, R331, R333 to R335, R338, R436). -/
def execBlockTx (l : LinkId) (s : State) : Res := onHub s (fun h => h.blockTx l)

/-! ## Receiving blocks (R332, R333, R338, R340, R437) -/

/-- A NAK for the first block not yet accepted. -/
def Hub.sendNak (h : Hub) (l : Nat) : Hub := h.sendControl l (controlFrame 3 (toLE 2 (h.link l).rxSeq))

/-- The data slots an opcode of VC 0 or VC 1 carries as its LEN gives (R342). -/
def opSlotsOk (t : THdr) (vc slots : Nat) : Bool :=
  let even (n : Nat) : Bool := decide (n = 2) || decide (n = 4) || decide (n = 6) || decide (n = 8)
  match vc, t.op with
  | 0, 1 => even t.len && decide (slots = 1 + t.len)
  | 0, 2 => even t.len && decide (slots = 1)
  | 0, 3 => decide (slots = 2) && decide (t.aop ≤ 9)
  | 0, 4 => decide (slots = 1)
  | 1, 8 => decide (slots = 1)
  | 1, 9 => decide (slots = 1 + t.len)
  | 1, 10 => decide (slots = 1 + t.len) && decide (t.len ≤ 1)
  | 1, 11 => decide (slots = 1)
  | _, _ => false

/-- A frame that keeps no form of R332, R341 or R342 although its check value passes (R340, R358). That a reserved opcode, or a
slot count that is not its opcode's, is such a frame error is DEDUCED (log entry 33). -/
def frameBad (f : List Byte) : Bool :=
  if frameType f = 1 then
    decide (frameVc f = 3) || decide (frameSlots f = 0) || decide (9 < frameSlots f) ||
    (if frameVc f = 2 then decide (frameSlots f ≠ 1) || !([opBEAT, opVOTE, opECLIPSE].contains (msgOp f))
     else !opSlotsOk (thdrOf f) (frameVc f) (frameSlots f))
  else decide (5 < frameType f) || decide (frameSlots f ≠ 1)

/-- The whole frames at the front of a run of slots, and what is left of the last one. -/
def splitFrames : Nat → List Byte → List (List Byte) × List Byte
  | 0, b => ([], b)
  | n + 1, b =>
    if b = [] then ([], [])
    else
      let m := 32 * max 1 (frameSlots b)
      if b.length < m then ([], b)
      else
        let r := splitFrames n (b.drop m)
        (b.take m :: r.1, r.2)

/-- An accepted frame kept for the command that takes it; a DELAY frame with its time of arrival. -/
def Hub.keepFrame (h : Hub) (l : Nat) (f : List Byte) : Hub :=
  let g := patch f 4 (zeros 4)
  if frameType f ≠ 1 then h.updLink l (fun k => { k with rxCtl := k.rxCtl ++ [g ++ toLE 8 h.now] })
  else h.updLink l (fun k =>
    if frameVc f = 0 then { k with rx0 := k.rx0 ++ [g] }
    else if frameVc f = 1 then { k with rx1 := k.rx1 ++ [g] }
    else { k with rx2 := k.rx2 ++ [g], arrivedAt := k.arrivedAt ++ [h.now] })

/-- A check value failed in a block whose codeword decoded clean: CHKFAIL, LINK_CHK, the append channel's counts, a NAK. -/
def Hub.chkFail (h : Hub) (l seq : Nat) : Hub :=
  let h1 := ((h.count (rQL_LINK_ERR l) fQL_LINK_ERR_CHKFAIL 1).lkFault l kLINK_CHK clsCorrected).sendNak l
  match h.appendOf 0 l with
  | none => h1
  | some k => (h1.count (rCKC_APPk k) fCKC_APPk_FAIL 1).setF (rCKC_APPk k) fCKC_APPk_LAST_SEQ seq

/-- The frames of an accepted block taken; a bad one is discarded, with LINK_PROTO and a retraining. -/
def Hub.takeFrames (h : Hub) (l : Nat) (fs : List (List Byte)) : Hub :=
  let h1 := (fs.filter (fun f => !frameBad f)).foldl (fun h f => h.keepFrame l f) h
  if fs.any frameBad then (h1.lkFault l kLINK_PROTO clsContained).retrainLink l else h1

/-- Corrected symbols counted, with LINK_CE above 10^-6 of a second's symbols (R358): 312.5 million codewords of 544. -/
def Hub.countSymbols (h : Hub) (l n : Nat) : Hub :=
  let k := h.link l
  let w := if k.symWin.1 + 1000 * psMs ≤ h.now then (h.now, n) else (k.symWin.1, k.symWin.2 + n)
  let h1 := (h.setLink l { k with symWin := w }).count (rQL_LINK_FEC l) fQL_LINK_FEC_CORR_SYM n
  if 170000 < w.2 then h1.lkRate l 0 kLINK_CE (1000 * psMs) else h1

/-- The frames of a block's bytes, each with the BSEQ of the block its header came in, and the unfinished last one. -/
def rxFrames (k : LinkRt) (data : Bool) (bseq first : Nat) (b : List Byte) : List (Nat × List Byte) × List Byte :=
  let cont := data && !k.rxPart.isEmpty
  let bytes := if cont then k.rxPart ++ b else if first < 20 then b.drop (32 * first) else []
  let r := splitFrames 40 bytes
  (r.1.zipIdx.map (fun p => (if cont && decide (p.2 = 0) then k.rxPartSeq else bseq, p.1)), r.2)

/-- A DATA or IDLE block whose codeword decoded. -/
def Hub.rxBlock (h : Hub) (l : Nat) (isData : Bool) (bseq first : Nat) (b : List Byte) : Hub :=
  let k := h.link l
  let behind := (k.rxSeq + 4096 - bseq) % 4096
  if isData && decide (bseq ≠ k.rxSeq) then (if behind < 2048 then h else h.sendNak l)
  else
    let r := rxFrames k isData (if isData then bseq else 0) first b
    match r.1.find? (fun e => decide (leAt e.2 4 4 ≠ h.linkChk l e.1 e.2)) with
    | some e => h.chkFail l e.1
    | none =>
      let cont := isData && !k.rxPart.isEmpty && r.1.isEmpty
      let h1 := if isData then
          h.setLink l { k with rxSeq := (k.rxSeq + 1) % 4096, ackBlocks := k.ackBlocks + 1, rxPart := r.2,
                               rxPartSeq := if cont then k.rxPartSeq else bseq }
        else h
      h1.takeFrames l (r.1.map (·.2))

/-- BLOCK_RX: one received codeword. -/
def Hub.blockRx (h : Hub) (l : Nat) (cw : Codeword) : Hub :=
  if !h.lkRuns l then h
  else match cw with
    | .uncorrectable => (h.count (rQL_LINK_ERR l) fQL_LINK_ERR_UNCORR 1).sendNak l
    | .block n hdr b =>
      let h1 := if n = 0 then h else h.countSymbols l n
      let x := hdr.toNat
      let t := bits x 1 0
      if t = 0 then h1.rxBlock l true (bits x 13 2) (bits x 18 14) b
      else if t = 2 then h1.rxBlock l false 0 (bits x 18 14) b
      else h1

/-- BLOCK_RX (R330, R332, R333, R338, R340, R358). -/
def execBlockRx (l : LinkId) (cw : Codeword) (s : State) : Res := onHub s (fun h => h.blockRx l cw)

/-! ## Link-control frames -/

/-- The oldest received link-control frame of a type taken; the frame is followed by its time of arrival. -/
def Hub.takeCtl (h : Hub) (l ftype : Nat) (f : List Byte → Hub → Hub) : Hub :=
  match (h.link l).rxCtl.find? (fun x => frameType x == ftype) with
  | none => h
  | some x => f x (h.updLink l (fun k => { k with rxCtl := k.rxCtl.erase x }))

/-- IDLE_FRAME (R332): discarded. -/
def execIdleFrame (l : LinkId) (s : State) : Res := onHub s (fun h => h.takeCtl l 0 (fun _ h => h))

/-- ACK: the blocks up to ACK_SEQ leave the replay buffer (R338). -/
def Hub.takeAck (h : Hub) (l a : Nat) : Hub :=
  h.updLink l (fun k =>
    let keep := k.replay.filter (fun b => decide (2048 ≤ (a + 4096 - b.bseq) % 4096))
    { k with replay := keep,
             resend := k.resend.bind (fun n => if keep.any (fun b => b.bseq == n) then some n else keep.head?.map (·.bseq)) })

/-- ACK (R338). -/
def execAck (l : LinkId) (s : State) : Res := onHub s (fun h => h.takeCtl l 2 (fun f h => h.takeAck l (leAt f 8 2 % 4096)))

/-- REPLAY_MAX, 0 selecting 8 (R340). -/
def Hub.replayMax (h : Hub) : Nat := let n := h.fld rQL_CFG fQL_CFG_REPLAY_MAX; if n = 0 then 8 else n

/-- NAK: the blocks from NAK_SEQ on are sent again; a block sent REPLAY_MAX times retrains the link (R338, R340). -/
def Hub.takeNak (h : Hub) (l n : Nat) : Hub :=
  match (h.link l).replay.find? (fun b => b.bseq == n) with
  | none => h
  | some b =>
    let h1 := ((h.updLink l (fun k => { k with resend := some n })).count (rQL_LINK_ERR l) fQL_LINK_ERR_REPLAYS 1).lkRate l 1 kLINK_REPLAY psMs
    if h.replayMax ≤ b.sends then h1.retrainLink l else h1

/-- NAK (R338 to R340, R356). -/
def execNak (l : LinkId) (s : State) : Res := onHub s (fun h => h.takeCtl l 3 (fun f h => h.takeNak l (leAt f 8 2 % 4096)))

/-- CREDIT: the freed slots and the peer's hub number; a link both of whose ends report VALID is UP (R334, R354). -/
def Hub.takeCredit (h : Hub) (l : Nat) (f : List Byte) : Hub :=
  let n := leAt f 14 2
  let h1 := h.updLink l (fun k => { k with peerFreed := [leAt f 8 2, leAt f 10 2, leAt f 12 2] })
  let h2 := (h1.setF (rQL_LINK_STS l) fQL_LINK_STS_PEER_HUB (bits n 8 0)).setF (rQL_LINK_STS l) fQL_LINK_STS_PEER_V (bits n 9 9)
  if h2.lkState l = 3 ∨ h2.lkState l = 4 then h2.setLk l (if h2.lkValid l then lkUP else lkUPNONUM) else h2

/-- CREDIT (R334). -/
def execCredit (l : LinkId) (s : State) : Res := onHub s (fun h => h.takeCtl l 4 (fun f h => h.takeCredit l f))

/-- DELAY: sent back with its time of arrival, or a return whose pair gives a one-way delay; 64 pairs set DELAY to their mean
(R354, R355). -/
def Hub.takeDelay (h : Hub) (l : Nat) (f : List Byte) : Hub :=
  let t4 := leAt f 32 8
  if leAt f 16 8 = 0 ∧ leAt f 24 8 = 0 then h.sendControl l (controlFrame 5 (toLE 8 (leAt f 8 8) ++ toLE 8 t4 ++ zeros 8))
  else
    let d := ((t4 - leAt f 8 8) - (leAt f 24 8 - leAt f 16 8)) / 2
    let ds := (h.link l).delays ++ [d]
    if ds.length < 64 then h.updLink l (fun k => { k with delays := ds })
    else (h.updLink l (fun k => { k with delays := [] })).setF (rQL_LINK_DLY l) fQL_LINK_DLY_DELAY (ds.sum / ds.length)

/-- DELAY (R355). -/
def execDelay (l : LinkId) (s : State) : Res := onHub s (fun h => h.takeCtl l 5 (fun f h => h.takeDelay l f))

/-- ACK_TIMER: an ACK every 64 DATA blocks or 200 ns, whichever comes first (R338). -/
def execAckTimer (l : LinkId) (s : State) : Res :=
  onHub s (fun h =>
    let k := h.link l
    if h.lkRuns l && (decide (64 ≤ k.ackBlocks) || decide (k.lastAck + 200 * psNs ≤ h.now)) then
      (h.setLink l { k with ackBlocks := 0, lastAck := h.now }).sendControl l (controlFrame 2 (toLE 2 ((k.rxSeq + 4095) % 4096)))
    else h)

/-- A CREDIT frame with this hub's counts and number. -/
def Hub.sendCredit (h : Hub) (l : Nat) : Hub :=
  let k := h.link l
  (h.setLink l { k with lastCredit := h.now }).sendControl l
    (controlFrame 4 (k.freed.flatMap (toLE 2) ++ toLE 2 (h.hubNum + 512 * h.fld rTOP_HUB_ID fTOP_HUB_ID_VALID)))

/-- CREDIT_TIMER: a CREDIT frame at least every 200 ns (R334). -/
def execCreditTimer (l : LinkId) (s : State) : Res := onHub s (fun h => if h.lkRuns l then h.sendCredit l else h)

/-- DELAY_MEASURE_TIMER: an UP link measures its delay again with 64 DELAY frames (R355). -/
def execDelayMeasureTimer (l : LinkId) (s : State) : Res :=
  onHub s (fun h =>
    if h.lkRuns l ∧ h.lkState l = 4 then
      (List.range 64).foldl (fun h _ => h.sendControl l (controlFrame 5 [])) (h.updLink l (fun k => { k with delays := [] }))
    else h)

/-! ## Requests of other hubs (R343, R344) -/

/-- The kind of a VC 0 request. -/
def reqKindOf (t : THdr) (data : List Byte) : ReqKind :=
  match t.op with
  | 1 => .write
  | 2 => .read
  | _ => .atomic t.aop (wordAt data) (wordAt (data.drop 8))

/-- Checks 2 and 3 of R343: the STATUS of the first that fails. -/
def Hub.pairRefused (h : Hub) (t : THdr) : Option Nat :=
  match h.sl t.dstSlice with
  | none => some 3
  | some r =>
    if !r.links.contains (t.srcHub, t.srcSlice) then some 3
    else if !h.active t.dstSlice then some 4 else none

/-- Check 4 of R343: the bytes lie in HBM or in one cell window. -/
def linkAddrOk (a n : Nat) : Bool :=
  decide (a + n ≤ HBM_END) || (match windowOf a with
    | some (_, off) => decide (off + n ≤ 0x14000)
    | none => false)

/-- A request of another hub as this hub serves it, under DST_SLICE's context of the same number (R93, R280). -/
def Hub.remoteReq (h : Hub) (l : Nat) (f : List Byte) : Req :=
  let t := thdrOf f
  { src := .remote l, slice := t.dstSlice, ctx := t.ctx, cls := t.cls, kind := reqKindOf t (frameData f), gen := t.gen,
    pa := h.hubNum * 2 ^ 42 + t.addr, len := if t.op = 3 then 8 else 32 * t.len, data := if t.op = 1 then frameData f else [], hdr := f }

/-- An arriving WRITE, READ or ATOMIC for this hub taken through checks 1 to 4 of R343; it is then a request like those of this hub's
own engines. As many of its steps follow at once as `steps` says and its turn allows, `ecc` being what is found at its line `line`; the
commands of its channel or port take the rest. -/
def Hub.remoteTake (h : Hub) (l op steps line : Nat) (ecc : Ecc) : Hub :=
  match h.rxHead l 0 with
  | none => h
  | some f =>
    let t := thdrOf f
    if t.op ≠ op ∨ h.halted = true then h
    else if !h.lkValid l then h.rxPop l 0
    else if t.dstHub ≠ h.hubNum then h
    else
      let g := h.rxPop l 0
      match h.pairRefused t with
      | some st => g.remoteRefuse l f st
      | none =>
        let q := h.remoteReq l f
        if !linkAddrOk t.addr q.len then g.remoteRefuse l f 1
        else
          let (i, h1) := g.newReq q
          Hub.runOwn (min steps 24) (h1.routeReq i) i (fun a => if a = t.addr / 64 + line then ecc else .clean)

/-- WRITE (R343, R344). -/
def execWrite (l : LinkId) (steps : Nat) (e : LineEcc) (s : State) : Res := onHub s (fun h => h.remoteTake l 1 steps e.line e.ecc)

/-- READ (R343). -/
def execRead (l : LinkId) (steps : Nat) (e : LineEcc) (s : State) : Res := onHub s (fun h => h.remoteTake l 2 steps e.line e.ecc)

/-- ATOMIC (R235, R343). -/
def execAtomic (l : LinkId) (steps : Nat) (e : LineEcc) (s : State) : Res := onHub s (fun h => h.remoteTake l 3 steps e.line e.ecc)

/-! ## Quiesce (R350) -/

/-- Requests of a slice toward a hub are unanswered. -/
def Hub.pairOut (h : Hub) (s hub : Nat) : Bool :=
  h.tags.any (fun e => decide (e.2.slice = s) && decide (e.2.hub = hub) && e.2.freeAt.isNone)

/-- Each QUIESCE received whose requests have ended is answered. -/
def Hub.answerQuiesces (h : Hub) : Hub :=
  let ready := h.quiescesIn.filter (fun q => !h.pairOut q.slice q.hub)
  ready.foldl (fun h q =>
    h.sendRsp { op := 4, cls := bits q.w0 6 5, dstHub := h.hubNum, srcHub := q.hub, dstSlice := q.slice, srcSlice := q.peer, ctx := bits q.w0 53 50,
                gen := bits q.w0 61 54, tag := bits q.w1 63 48 } 11 0 [])
    { h with quiescesIn := h.quiescesIn.filter (fun q => h.pairOut q.slice q.hub) }

/-- QUIESCE: taken through checks 1 to 3 of R343 as every VC 0 request is (DEDUCED, log entry 85); the pair closes on this hub, and
QUIESCE_DONE follows once every request of the slice toward it has ended. -/
def Hub.takeQuiesce (h : Hub) (l : Nat) : Hub :=
  match h.rxHead l 0 with
  | none => h
  | some f =>
    let t := thdrOf f
    if t.op ≠ 4 ∨ h.halted = true then h
    else if !h.lkValid l then h.rxPop l 0
    else if t.dstHub ≠ h.hubNum then h
    else match h.pairRefused t with
    | some st => (h.rxPop l 0).remoteRefuse l f st
    | none =>
      let p := (t.dstSlice, t.srcHub, t.srcSlice)
      let h1 : Hub := { (h.rxPop l 0) with
        closedPairs := if h.closedPairs.contains p then h.closedPairs else h.closedPairs ++ [p],
        quiescesIn := h.quiescesIn ++ [{ link := l, w0 := leAt f 8 8, w1 := leAt f 16 8, slice := t.dstSlice, hub := t.srcHub, peer := t.srcSlice }] }
      h1.pump.answerQuiesces

/-- QUIESCE (R350). -/
def execQuiesce (l : LinkId) (s : State) : Res := onHub s (fun h => h.takeQuiesce l)

/-! ## Tags (R345 to R347, R358) -/

/-- RESP_TO in ps, 0 selecting 10 ms. -/
def Hub.respTo (h : Hub) : Nat := let n := h.fld rQL_CFG fQL_CFG_RESP_TO; (if n = 0 then 100 else n) * 100 * psUs

/-- The bundle numbers still in use by a tag, an operation or an item. -/
def Hub.sweepBundles (h : Hub) : Hub :=
  { h with bundlesOut := h.bundlesOut.filter (fun b =>
      h.tags.any (fun t => decide (t.2.hub = b.1) && decide (t.2.bundle = some b.2)) ||
      h.fabricOps.any (fun o => decide (o.2.bundle = some b.2)) || h.items.any (fun t => decide (t.2.bundle = some b.2))) }

/-- What a tag's end lets happen: bundles are free again, quiesces are answered, waiting requests try again. -/
def Hub.afterTag (h : Hub) : Hub := h.sweepBundles.answerQuiesces.pump

/-- A tag free at once, and one that is not reused for a further 2 x RESP_TO. -/
def Hub.freeTag (h : Hub) (tag : Nat) : Hub := { h with tags := mapDel h.tags tag }
def Hub.parkTag (h : Hub) (tag : Nat) : Hub :=
  match mapGet h.tags tag with
  | none => h
  | some t => { h with tags := mapPut h.tags tag { t with req := none, freeAt := some (h.now + 2 * h.respTo) } }

/-- The failure and the kind for a STATUS (R358). -/
def remoteFailure : Nat → Nat × Nat
  | 1 => (fsACCESS, kACCESS)
  | 2 => (fsMEMORY, kMEM_UE)
  | 3 => (fsREMOTE, kLINK_REFUSED)
  | 4 => (fsSTOPPED, kLINK_REFUSED)
  | 5 => (fsROUTE, kROUTE_MISS)
  | _ => (fsREMOTE, kREMOTE_TO)

/-- A response for a tag: the request is answered, or fails as its STATUS gives. -/
def Hub.answerTag (h : Hub) (l : Nat) (t : THdr) (data : List Byte) (x : Tag) : Hub :=
  let h1 := h.freeTag t.tag
  let h2 := match x.req.bind (fun i => (h1.req i).map (fun q => (i, q))) with
    | none => h1
    | some (i, q) =>
      if t.status = 0 then
        let d := match q.kind with
          | .read => data.take q.len
          | .write => []
          | .atomic .. => data.take 8
        ((h1.setReq i { q with data := if isWrite q.kind && decide (d = []) then q.data else d }).doneReq i).settleSrc q.src
      else
        let (st, k) := remoteFailure t.status
        (h1.failReq i st k uQL l).settleSrc q.src
  h2.afterTag

/-- A response for this hub taken: discarded as stale where its tag is not outstanding or its GEN is not current (R347). -/
def Hub.takeRsp (h : Hub) (l op : Nat) : Hub :=
  match h.rxHead l 1 with
  | none => h
  | some f =>
    let t := thdrOf f
    if t.op ≠ op ∨ h.halted = true then h
    else if !h.lkValid l then h.rxPop l 1
    else if t.dstHub ≠ h.hubNum then h
    else
      let h1 := h.rxPop l 1
      match mapGet h.tags t.tag with
      | none => h1.count (rQL_LINK_ERR l) fQL_LINK_ERR_STALE 1
      | some x =>
        if x.freeAt.isSome ∨ t.gen ≠ h.gen (ctxid x.slice x.ctx) then h1.count (rQL_LINK_ERR l) fQL_LINK_ERR_STALE 1
        else h1.answerTag l t (frameData f) x

/-- WRITE_ACK (R347, R358). -/
def execWriteAck (l : LinkId) (s : State) : Res := onHub s (fun h => h.takeRsp l 8)

/-- READ_RSP (R347, R358). -/
def execReadRsp (l : LinkId) (s : State) : Res := onHub s (fun h => h.takeRsp l 9)

/-- ATOMIC_RSP (R347, R358). -/
def execAtomicRsp (l : LinkId) (s : State) : Res := onHub s (fun h => h.takeRsp l 10)

/-- A tag's request fails without an answer: its tag and bundle rest for 2 x RESP_TO (R346, R357). -/
def Hub.failTag (h : Hub) (tag status : Nat) : Hub :=
  match mapGet h.tags tag with
  | none => h
  | some x =>
    if x.freeAt.isSome then h
    else
      let h1 := h.parkTag tag
      (match x.req.bind h1.req, x.req with
        | some q, some i => (h1.failReq i status kREMOTE_TO uQL x.link).settleSrc q.src
        | _, _ => h1).afterTag

/-- RESPONSE_TIMEOUT (R346, R358). -/
def execResponseTimeout (tag : QueueId) (s : State) : Res :=
  onHub s (fun h => match mapGet h.tags tag with
    | none => h
    | some x => if x.since + h.respTo ≤ h.now then h.failTag tag fsTIMEOUT else h)

/-- TAG_QUARANTINE_END (R346). -/
def execTagQuarantineEnd (tag : QueueId) (s : State) : Res :=
  onHub s (fun h => match mapGet h.tags tag with
    | none => h
    | some x => match x.freeAt with
      | none => h
      | some t => if t ≤ h.now then (h.freeTag tag).afterTag else h)

/-- A quiesce of this hub's ends: the slice's requests still out to that hub fail with REMOTE where it timed out or a teardown asked for
it, an invalidation's timeout sets REMOTE_TO, and with the last one of a teardown REMOTE_WAIT clears (R54, R208, R270, R350). -/
def Hub.quiesceOver (h : Hub) (i : Nat) (q : Quiesce) (timedOut : Bool) : Hub :=
  let h1 : Hub := { h with quiesces := mapDel h.quiesces i }
  let ts := (h1.tags.filter (fun e => decide (e.2.slice = q.slice) && decide (e.2.hub = q.hub) && e.2.freeAt.isNone)).map (·.1)
  let h2 := if q.why = 0 ∨ (timedOut ∧ q.why ≠ 2) then ts.foldl (fun h t => h.failTag t fsREMOTE) h1 else h1
  if q.why = 2 then (if timedOut then h2.setF (rHTU_INV_STS q.slice) fHTU_INV_STS_REMOTE_TO 1 else h2)
  else if q.why ≠ 0 then h2
  else
    let h3 := if timedOut then h2.setF (rSLM_SLICE_STATE q.slice) fSLM_SLICE_STATE_QTIMEOUT 1 else h2
    if h3.quiesces.any (fun e => decide (e.2.slice = q.slice) && decide (e.2.why = 0)) then h3
    else h3.setF (rSLM_SLICE_STATE q.slice) fSLM_SLICE_STATE_REMOTE_WAIT 0

/-- QUIESCE_DONE taken; one with a failure STATUS says that the QUIESCE was not carried out, and ends nothing (R353). -/
def Hub.takeQuiesceDone (h : Hub) (l : Nat) : Hub :=
  match h.rxHead l 1 with
  | none => h
  | some f =>
    let t := thdrOf f
    if t.op ≠ 11 ∨ h.halted = true then h
    else if !h.lkValid l then h.rxPop l 1
    else if t.dstHub ≠ h.hubNum then h
    else
      let h1 := h.rxPop l 1
      if t.status ≠ 0 then h1
      else match h1.quiesces.find? (fun e => decide (e.2.slice = t.dstSlice) && decide (e.2.hub = t.srcHub) && decide (e.2.peer = t.srcSlice)) with
      | none => h1
      | some (i, q) => h1.quiesceOver i q false

/-- QUIESCE_DONE (R350). -/
def execQuiesceDone (l : LinkId) (s : State) : Res := onHub s (fun h => h.takeQuiesceDone l)

/-- QUIESCE_TIMEOUT: no QUIESCE_DONE within 100 microseconds (R350). -/
def execQuiesceTimeout (i : Nat) (s : State) : Res :=
  onHub s (fun h => match mapGet h.quiesces i with
    | none => h
    | some q => if q.since + 100 * psUs ≤ h.now then h.quiesceOver i q true else h)

/-! ## Transit (R348, R353) -/

/-- A frame for another hub goes on by its route; without one, a request is answered ROUTE and a response is lost. -/
def Hub.transit (h : Hub) (l vc : Nat) : Hub :=
  match h.rxHead l vc with
  | none => h
  | some f =>
    let t := thdrOf f
    if h.halted then h
    else if !h.lkValid l then h.rxPop l vc
    else if t.dstHub = h.hubNum then h
    else
      let rt := rQL_ROUTEh t.dstHub
      let out := h.fld rt fQL_ROUTEh_LINK
      let h1 := h.rxPop l vc
      if h.flag rt fQL_ROUTEh_VALID && (decide (h.lkState out = 4) || decide (h.lkState out = 5)) then h1.sendFrame out vc f
      else if vc = 0 then h1.sendRsp t (t.op + 7) 5 [] else h1

/-- TRANSIT_FRAME (R29, R348, R353). -/
def execTransitFrame (l : LinkId) (vc : Fin 2) (s : State) : Res := onHub s (fun h => h.transit l vc)

/-! ## Stall, bring-up, retraining, DOWN (R337, R354 to R358) -/

/-- LINK_STALL: a VC has waited for credit for 1 ms (R358). -/
def execLinkStall (l : LinkId) (vc : Fin 3) (s : State) : Res :=
  onHub s (fun h => match (h.link l).starved.getD vc none with
    | none => h
    | some t =>
      if t + psMs ≤ h.now then (h.updLink l (fun k => { k with starved := k.starved.set vc (some h.now) })).lkFault l kLINK_STALL clsCorrected
      else h)

/-- The slices with a LINK entry whose route goes over a link. -/
def Hub.linkSlices (h : Hub) (l : Nat) : List Nat :=
  (h.forme.slices.filter (fun e => e.2.links.any (fun p =>
    h.flag (rQL_ROUTEh p.1) fQL_ROUTEh_VALID && decide (h.fld (rQL_ROUTEh p.1) fQL_ROUTEh_LINK = l)))).map (·.1)

/-- The tags of own requests among the frames that a link holds. -/
def Hub.linkTags (h : Hub) (l : Nat) : List Nat :=
  let k := h.link l
  (k.replay.flatMap (·.tags) ++ k.restTag.toList ++ k.vc0.filterMap (fun f => h.ownTag 0 f)).eraseDups

/-- A link goes DOWN: replay buffer and queues are discarded, own requests among them fail with REMOTE, and LINK_DOWN names each
slice routed over it (R357, R358). -/
def Hub.downLink (h : Hub) (l : Nat) : Hub :=
  let ts := h.linkTags l
  let h1 := ((h.setLk l lkDOWN).setF (rQL_LINK_STS l) fQL_LINK_STS_PEER_V 0).setLink l {}
  let h2 := ts.foldl (fun h t => h.failTag t fsREMOTE) h1
  ((h.linkSlices l).foldl (fun h s => h.fault { source := srcOf uQL l, kind := kLINK_DOWN, cls := clsContained, slice := some s, addr := some l }) h2).pump

/-- A bring-up starts: it has 100 ms (R354). -/
def Hub.startBringup (h : Hub) (l : Nat) : Hub := (h.setLk l lkTRAINING).updLink l (fun k => { k with enabledAt := h.now })

/-- QL_LINK_CTL written: EN brings a present link up or, cleared, disables it; DOWN; RETRAIN. -/
def Hub.writeLinkCtl (h : Hub) (o : Origin) (l : Nat) (v : Word) : Hub :=
  h.mgrWrite o (fun h =>
    let h1 := h.regOk.writeRW (rQL_LINK_CTL l) [fQL_LINK_CTL_EN] [] v
    let en := vFlag v fQL_LINK_CTL_EN
    let st := h.lkState l
    let live := decide (2 ≤ st) && decide (st ≤ 5)
    if st = 0 then h1
    else
      let h2 := if (vFlag v fQL_LINK_CTL_DOWN || !en) && live then h1.downLink l else h1
      if !en then h2.setLk l lkDISABLED
      else if st = 1 then h2.startBringup l
      else if vFlag v fQL_LINK_CTL_RETRAIN then h2.retrainLink l else h2)

/-- LINK_ENABLE (R354). -/
def execLinkEnable (o : Origin) (l : LinkId) (s : State) : Res :=
  onReg o s (fun h => h.writeLinkCtl o l (setFld (h.reg (rQL_LINK_CTL l)) fQL_LINK_CTL_EN 1))

/-- LINK_RETRAIN (R356). -/
def execLinkRetrain (o : Origin) (l : LinkId) (s : State) : Res :=
  onReg o s (fun h => h.writeLinkCtl o l (setFld (h.reg (rQL_LINK_CTL l)) fQL_LINK_CTL_RETRAIN 1))

/-- LINK_DOWN (R357). -/
def execLinkDown (o : Origin) (l : LinkId) (s : State) : Res :=
  onReg o s (fun h => h.writeLinkCtl o l (setFld (h.reg (rQL_LINK_CTL l)) fQL_LINK_CTL_DOWN 1))

/-- LANE_LOCK_LOSS (R356). -/
def execLaneLockLoss (l : LinkId) (s : State) : Res := onHub s (fun h => h.retrainLink l)

/-- Bring-up ends: block numbers and credit counts start again and CREDIT is sent; one past its 100 ms, or a third failure in a row,
takes the link DOWN (R354, R356). What a bring-up after a failed retraining held for replay is lost (DESIGN CHOICE, log entry 34). -/
def Hub.bringupDone (h : Hub) (l : Nat) (ok : Bool) (peer delay : Nat) : Hub :=
  if h.lkState l ≠ 2 then h
  else if (h.link l).enabledAt + 100 * psMs < h.now then h.downLink l
  else if !ok then
    if 2 ≤ (h.link l).bringFails then h.downLink l else (h.startBringup l).updLink l (fun k => { k with bringFails := k.bringFails + 1 })
  else
    let h1 := h.updLink l (fun k => { ctl := k.ctl, vc0 := k.vc0, vc1 := k.vc1, vc2 := k.vc2, rateAt := k.rateAt, symWin := k.symWin })
    (((h1.setLk l lkUPNONUM).setF (rQL_LINK_STS l) fQL_LINK_STS_PEER_LINK peer).setF (rQL_LINK_DLY l) fQL_LINK_DLY_DELAY delay).sendCredit l

/-- LINK_BRINGUP_DONE (R354, R357). -/
def execLinkBringupDone (l : LinkId) (ok : Bool) (peerLink : LinkId) (delayPs : Nat) (s : State) : Res :=
  onHub s (fun h => h.bringupDone l ok peerLink delayPs)

/-- A retraining ends: the link goes on from its first unacknowledged block, or runs full bring-up (R356). -/
def Hub.retrainOver (h : Hub) (l : Nat) (ok : Bool) (delay : Nat) : Hub :=
  if h.lkState l ≠ 5 then h
  else if !ok then h.startBringup l
  else
    ((h.setLk l (if h.lkValid l then lkUP else lkUPNONUM)).setF (rQL_LINK_DLY l) fQL_LINK_DLY_DELAY delay).updLink l
      (fun k => { k with resend := k.replay.head?.map (·.bseq), replay := k.replay.map (fun b => { b with sends := 0 }) })

/-- LINK_RETRAIN_DONE (R356). -/
def execLinkRetrainDone (l : LinkId) (ok : Bool) (delayPs : Nat) (s : State) : Res := onHub s (fun h => h.retrainOver l ok delayPs)

/-- QL_LINK_FEC written: CLR zeroes CORR_SYM and every count of QL_LINK_ERR. -/
def Hub.writeLinkFec (h : Hub) (o : Origin) (l : Nat) (v : Word) : Hub :=
  h.mgrWrite o (fun h =>
    if vFlag v fQL_LINK_FEC_CLR then (h.regOk.setReg (rQL_LINK_FEC l) 0).setReg (rQL_LINK_ERR l) 0 else h.regOk)

/-- LINK_FEC_CLR (R358). -/
def execLinkFecClr (o : Origin) (l : LinkId) (s : State) : Res :=
  onReg o s (fun h => h.writeLinkFec o l (setFld 0 fQL_LINK_FEC_CLR 1))

/-- LINK_WAKE: a frame arrives on a link in low-power idle; that link alone wakes (R472). -/
def execLinkWake (l : LinkId) (s : State) : Res := onHub s (fun h => h.updLink l (fun k => { k with low := false }))

end Sys2Proof.Machine
end

