-- ==== Sys2Proof/Machine/Sites.lean ====
section
/-! DEFINITION. Chiplet sites (R360 to R371): packets and their replay, engine requests, window responses, key deliveries on
the wire (R461), the closing of engines, bring-up and loss. -/
namespace Sys2Proof.Machine

/-! ## The state of a site -/

def stABSENT : Nat := 0
def stDISABLED : Nat := 1
def stTRAINING : Nat := 2
def stUP : Nat := 3
def stRETRAINING : Nat := 4
def stDOWN : Nat := 5

def Hub.stState (h : Hub) (s : Nat) : Nat := h.fld (rSITE_STS s) fSITE_STS_STATE
def Hub.setSt (h : Hub) (s st : Nat) : Hub := h.setF (rSITE_STS s) fSITE_STS_STATE st

/-- A fault of a site that names a slice, or none; AUX is the engine (R387). -/
def Hub.siteFault (h : Hub) (s kind cls : Nat) (sl : Option Nat) (e : Nat) : Hub := h.faultS uSITE s kind cls sl e

/-- A removed site engine that waits to be released (R105). -/
def rkENGINE : Nat := 2

/-- The slice that holds an engine, or that a commit has taken it from and that waits for its release. -/
def Hub.engineSlice (h : Hub) (s e : Nat) : Option Nat :=
  (h.engineOwner s e).or ((h.releasing.find? (fun r => decide (r.kind = rkENGINE) && decide (r.num = s * 64 + e))).map (·.slice))

/-- The opcodes of R364. -/
def siteOps : List Nat := [0x01, 0x02, 0x03, 0x04, 0x08, 0x09, 0x0A, 0x11, 0x12, 0x13, 0x18, 0x19, 0x1A, 0x1C, 0x1D, 0x1E, 0x1F]

/-! ## Packets received (R366) -/

/-- A packet whose check value fails: counted, with SITE_CHK, the append channel's counts, and a NAK. -/
def Hub.siteChkFail (h : Hub) (s seq : Nat) : Hub :=
  let h1 := (h.count (rSITE_ERR s) fSITE_ERR_CHKFAIL 1).siteFault s kSITE_CHK clsCorrected none 0
  let h2 := match h.appendOf 1 s with
    | none => h1
    | some k => (h1.count (rCKC_APPk k) fCKC_APPk_FAIL 1).setF (rCKC_APPk k) fCKC_APPk_LAST_SEQ seq
  h2.sendSiteCredit s (h.site s).rxSeq true

/-- The check value of a received packet passes (R333, R437). -/
def Hub.siteChkOk (h : Hub) (s : Nat) (p : Packet) : Bool := decide (bits p.w3.toNat 63 32 = h.siteChk s p)

/-- A numbered packet received: taken once and in order (R366). -/
def Hub.siteRecv (h : Hub) (s : Nat) (p : Packet) (f : Hub → Hub) : Hub :=
  if !h.siteChkOk s p then h.siteChkFail s (pktSeq p)
  else
    let k := h.site s
    if pktSeq p = k.rxSeq then f (h.setSite s { k with rxSeq := (k.rxSeq + 1) % 4096 })
    else if (k.rxSeq + 4096 - pktSeq p) % 4096 < 2048 then h
    else h.sendSiteCredit s k.rxSeq true

/-- A packet of one of a row's opcodes, on a site that is up. -/
def Hub.sitePkt (h : Hub) (s : Nat) (p : Packet) (ok : Bool) (f : Hub → Hub) : Hub :=
  if decide (h.stState s = 3) && !h.halted && ok then h.siteRecv s p f else h

/-! ## Engine requests (R367, R368) -/

/-- Requests of an engine outstanding at the hub (SITE_ENGe.OUT). -/
def Hub.engineOut (h : Hub) (s e : Nat) : Nat :=
  (h.reqs.filter (fun r => match r.2.src with
    | .site a b _ => decide (a = s) && decide (b = e) && (match r.2.pair with | some j => decide (r.1 < j) | none => true)
    | _ => false)).length

/-- An engine is open: advertised, held by an active slice, and not closed (R368, R370). -/
def Hub.engineOpen (h : Hub) (s e : Nat) : Bool :=
  match h.engineOwner s e with
  | none => false
  | some sl =>
    decide (e < h.fld (rSITE_STS s) fSITE_STS_ENGINES) && h.active sl && !(h.site s).closedEng.contains e && !(h.site s).dead.contains e

/-- Check 2 of R368 on a request of opcode `op`. -/
def requestOk (op : Nat) (p : Packet) : Bool :=
  let f := pktOf p
  let even (n : Nat) : Bool := decide (n = 2) || decide (n = 4) || decide (n = 6) || decide (n = 8)
  decide (f.op = op) && decide (bits p.w0.toNat 31 29 = 0) && decide (bits p.w0.toNat 63 52 = 0) && decide (f.ctxid = 0) &&
  decide (bits p.w2.toNat 63 27 = 0) && decide (bits p.w3.toNat 31 12 = 0) &&
  (match op with
   | 1 => even f.len && decide (p.data.length = 32 * f.len) && decide (f.addr % 64 = 0)
   | 2 => even f.len && p.data.isEmpty && decide (f.addr % 64 = 0)
   | 3 => decide (f.len = 1) && decide (p.data.length = 32) && decide (f.addr % 8 = 0) && decide (f.aop ≤ 9) && allZero (p.data.drop 16)
   | _ => decide (f.len = 0) && p.data.isEmpty)

/-- The access an engine's request makes. -/
def requestKind (op : Nat) (p : Packet) : ReqKind :=
  match op with
  | 1 => .write
  | 2 => .read
  | _ => .atomic (pktOf p).aop (wordAt p.data) (wordAt (p.data.drop 8))

/-- A request of an engine entered, as one request for each aligned 256-byte run it touches (R281), and looked up in the HTU. A counted
write is one bundle where it goes to another hub, its second part the last frame; two parts in different pages, which may go to
different hubs, are a bundle each (R344, DESIGN CHOICE, log entry 144). -/
def Hub.enterEngine (h : Hub) (s sl op : Nat) (p : Packet) : Hub :=
  let f := pktOf p
  let n := if op = 3 then 8 else 32 * f.len
  let m := min n (256 - f.addr % 256)
  let part (o n : Nat) : Req :=
    { src := .site s f.engine f.tag, slice := sl, ctx := f.ctx, cls := 2, kind := requestKind op p, va := f.addr + o, len := n,
      data := if op = 1 then sub p.data o n else [], gen := h.gen (ctxid sl f.ctx), since := h.now,
      acnum := if f.ac && decide (op = 1) then some f.acnum else none, btotal := n, last := true }
  let whole := decide (f.addr / GRAN = (f.addr + m) / GRAN)
  if m = n then let (i, h1) := h.newReq (part 0 n); h1.htu i
  else
    let (i, h1) := h.newReq { part 0 m with btotal := if whole then n else m, last := !whole }
    let (j, h2) := h1.newReq { part m (n - m) with pair := some i, btotal := if whole then n else n - m }
    ((h2.updReq i (fun q => { q with pair := some j })).htu i).htu j

/-- An engine's request taken through the checks of R367 and R368; NOTIFY raises its vector and is done. -/
def Hub.engineReq (h : Hub) (s op : Nat) (p : Packet) : Hub :=
  let f := pktOf p
  let e := f.engine
  let answer (st : Nat) (h : Hub) : Hub :=
    h.sendSite s (mkPacket { op := if op = 4 then 8 else op + 7, engine := e, tag := f.tag, status := st } [])
  let wrong (kind cls sl : Nat) : Hub :=
    h.fault { source := srcOf uSITE s, kind := kind, cls := cls, slice := some sl, ctx := some f.ctx, aux := e }
  match h.engineOwner s e with
  | none => answer 4 h
  | some sl =>
    if !h.engineOpen s e then answer 4 h
    else if 16 ≤ h.engineOut s e then answer 4 (wrong kSITE_CREDIT clsCorrected sl)
    else if !requestOk op p then answer 1 (wrong kSITE_PROTO clsContained sl)
    else if !h.ctxOn sl f.ctx then
      answer 1 (h.fault { source := srcOf uHTU 0, kind := kCTX_OFF, cls := clsCorrected, slice := some sl, ctx := some f.ctx })
    else if op = 4 then answer 0 (h.raiseVf sl f.vec)
    else h.enterEngine s sl op p

/-- A request packet: of the row's own opcode, or of a reserved one, which any row of an engine's request may be given. -/
def engineRow (op : Nat) (p : Packet) : Bool := decide ((pktOf p).op = op) || !siteOps.contains (pktOf p).op

/-- SITE_WRITE (R364, R368). -/
def execSiteWrite (st : SiteId) (p : Packet) (s : State) : Res :=
  onHub s (fun h => h.sitePkt st p (engineRow 1 p) (fun h => h.engineReq st 1 p))

/-- SITE_READ (R364, R368). -/
def execSiteRead (st : SiteId) (p : Packet) (s : State) : Res :=
  onHub s (fun h => h.sitePkt st p (engineRow 2 p) (fun h => h.engineReq st 2 p))

/-- SITE_ATOMIC (R235, R364, R368). -/
def execSiteAtomic (st : SiteId) (p : Packet) (s : State) : Res :=
  onHub s (fun h => h.sitePkt st p (engineRow 3 p) (fun h => h.engineReq st 3 p))

/-- NOTIFY (R364). -/
def execNotify (st : SiteId) (p : Packet) (s : State) : Res :=
  onHub s (fun h => h.sitePkt st p (engineRow 4 p) (fun h => h.engineReq st 4 p))

/-! ## Key deliveries (R461) -/

/-- A slice's operation has its turn: every earlier slice's is a delivery already on the wire (R463). -/
def Hub.keyTurn (h : Hub) (sl : Nat) : Bool :=
  (h.keyOrder.takeWhile (fun x => x != sl)).all (fun x => h.sites.any (fun st => st.2.wins.any (fun w => decide (w.2.key = some x))))

/-- The key of a slice's DELIVER sent in its turn where the site has a window credit left and it has not been sent yet. -/
def Hub.sendKey (h : Hub) (sl : Nat) : Hub :=
  match mapGet h.keyJobs sl with
  | none => h
  | some j =>
    let m := getFld j.ctl fKEY_CTL_SLOT
    match mapGet h.keySlots m with
    | none => h
    | some x =>
      let k := h.site x.site
      let e := getFld j.ctl fKEY_CTL_ENGINE
      if j.op ≠ 3 ∨ h.keyTurn sl = false ∨ k.wins.any (fun w => decide (w.2.key = some sl)) = true ∨ k.wcred ≤ k.wins.length then h
      else
        (h.setSite x.site { k with nextTag := (k.nextTag + 1) % 65536,
                                   wins := mapPut k.wins k.nextTag { req := none, engine := e, since := h.now, key := some sl } }).sendSite
          x.site (mkPacket { op := 0x11, engine := e, tag := k.nextTag, len := 2, addr := h.fld (rKEY_ARG sl) fKEY_ARG_OFFSET * 64,
                             ctxid := ctxid sl (getFld j.ctl fKEY_CTL_CTX) } (x.key.take x.len ++ zeros (64 - x.len)))

/-- Every delivery that waits for a window credit tries again, and every request that does. -/
def Hub.pumpSite (h : Hub) : Hub := (h.keyOrder.foldl (fun h sl => h.sendKey sl) h).pump

/-- A delivery's write is done: the slot is zeroed where it is ONCE. -/
def Hub.keyDelivered (h : Hub) (sl : Nat) : Hub :=
  match mapGet h.keyJobs sl with
  | none => h
  | some j =>
    let m := getFld j.ctl fKEY_CTL_SLOT
    let h1 : Hub := match mapGet h.keySlots m with
      | some x => if x.once then { h with keySlots := mapDel h.keySlots m } else h
      | none => h
    h1.keyOpDone sl 0

/-! ## Window responses (R361, R370) -/

/-- A window request fails as R370 gives: a cell's with its kind, an item's with ACCESS or MEMORY, a host function's with
Completer Abort. -/
def Hub.winFail (h : Hub) (s : Nat) (w : WinReq) (kind status : Nat) : Hub :=
  match w.key, w.req.bind (fun i => (h.req i).map (fun q => (i, q))) with
  | some sl, _ => h.keyOpDone sl 5
  | none, none => h
  | none, some (i, q) =>
    let st := match q.src with
      | .host _ => fsREMOTE
      | .item _ _ => if status = fsMEMORY then fsMEMORY else fsACCESS
      | _ => status
    (h.failReq i st kind uSITE s).settleSrc q.src

/-- The failure and the kind for a chiplet's STATUS; one without a kind of its own is ACCESS (DESIGN CHOICE, log entry 35). -/
def chipletFailure : Nat → Nat × Nat
  | 2 => (fsMEMORY, kMEM_UE)
  | 3 => (fsXLATE, kXLATE)
  | _ => (fsACCESS, kACCESS)

/-- The opcode and data of a response match the request it answers. -/
def winFits (q : Req) (p : Packet) : Bool :=
  let f := pktOf p
  match q.kind with
  | .write => decide (f.op = 0x18)
  | .read => decide (f.op = 0x19) && (decide (f.status ≠ 0) || decide (p.data.length = q.len))
  | .atomic .. => decide (f.op = 0x1A) && (decide (f.status ≠ 0) || decide (p.data.length = 32))

/-- A window response taken; one whose TAG names no request waiting for it is discarded. -/
def Hub.windowRsp (h : Hub) (s : Nat) (p : Packet) : Hub :=
  let f := pktOf p
  match mapGet (h.site s).wins f.tag with
  | none => h
  | some w =>
    let fits := match w.key, w.req.bind h.req with
      | some _, _ => decide (f.op = 0x18)
      | none, some q => winFits q p
      | none, none => true
    if !fits then h
    else
      let h1 := h.updSite s (fun k => { k with wins := mapDel k.wins f.tag })
      let h2 := if f.status ≠ 0 then
          let x := chipletFailure f.status
          h1.winFail s w x.2 x.1
        else match w.key, w.req.bind (fun i => (h1.req i).map (fun q => (i, q))) with
          | some sl, _ => h1.keyDelivered sl
          | none, none => h1
          | none, some (i, q) =>
            let d := match q.kind with
              | .read => p.data
              | .write => q.data
              | .atomic .. => p.data.take 8
            ((h1.setReq i { q with data := d }).doneReq i).settleSrc q.src
      h2.pumpSite

/-- WWRITE_ACK (R362, R364, R461). -/
def execWwriteAck (st : SiteId) (p : Packet) (s : State) : Res :=
  onHub s (fun h => h.sitePkt st p (decide ((pktOf p).op = 0x18)) (fun h => h.windowRsp st p))

/-- WREAD_RSP (R364). -/
def execWreadRsp (st : SiteId) (p : Packet) (s : State) : Res :=
  onHub s (fun h => h.sitePkt st p (decide ((pktOf p).op = 0x19)) (fun h => h.windowRsp st p))

/-- WATOMIC_RSP (R364). -/
def execWatomicRsp (st : SiteId) (p : Packet) (s : State) : Res :=
  onHub s (fun h => h.sitePkt st p (decide ((pktOf p).op = 0x1A)) (fun h => h.windowRsp st p))

/-- RESP_TO in ps, 0 selecting 10 ms. -/
def Hub.siteRespTo (h : Hub) : Nat := let n := h.fld rSITE_CFG fSITE_CFG_RESP_TO; (if n = 0 then 100 else n) * 100 * psUs

/-- No answer within RESP_TO (R370). -/
def Hub.windowTimeout (h : Hub) (s tag : Nat) : Hub :=
  match mapGet (h.site s).wins tag with
  | none => h
  | some w =>
    if w.since + h.siteRespTo ≤ h.now then
      (((h.updSite s (fun k => { k with wins := mapDel k.wins tag })).count (rSITE_ERR s) fSITE_ERR_TIMEOUTS 1).winFail s w kSITE_TO
        fsTIMEOUT).pumpSite
    else h

/-- SITE_WINDOW_TIMEOUT (R362, R370). -/
def execSiteWindowTimeout (st : SiteId) (tag : QueueId) (s : State) : Res := onHub s (fun h => h.windowTimeout st tag)

/-! ## Closing engines (R370) -/

/-- The quiesce of an engine is over: it is closed, and opens again where its slice has meanwhile come to hold it open. -/
def Hub.quiesced (h : Hub) (s e : Nat) : Hub :=
  let h1 := (h.updSite s (fun k => { k with closing := mapDel k.closing e })).engState s e 0
  match h1.engineOwner s e with
  | none => h1
  | some sl => if (decide (h1.stateOf sl = 1) || decide (h1.stateOf sl = 2)) && !h1.faultComing sl then h1.openEngine s e else h1

/-- SITE_QUIESCE_DONE (R370). -/
def execSiteQuiesceDone (st : SiteId) (p : Packet) (s : State) : Res :=
  onHub s (fun h => h.sitePkt st p (decide ((pktOf p).op = 0x1D)) (fun h =>
    if (mapGet (h.site st).closing (pktOf p).engine).isSome then h.quiesced st (pktOf p).engine else h))

/-- No QUIESCE_DONE within 100 microseconds: SITE_QTO, and the engine's packets are answered STOPPED until it opens. -/
def Hub.siteQuiesceTimeout (h : Hub) (s e : Nat) : Hub :=
  match mapGet (h.site s).closing e with
  | none => h
  | some t =>
    if h.now < t + 100 * psUs then h
    else
      let h1 := (h.updSite s (fun k => { k with closing := mapDel k.closing e, dead := k.dead ++ [e] })).engState s e 0
      match h.engineSlice s e with
      | none => h1
      | some sl => h1.siteFault s kSITE_QTO clsContained (some sl) e

/-- SITE_QUIESCE_TIMEOUT (R370). -/
def execSiteQuiesceTimeout (st : SiteId) (e : RegionId) (s : State) : Res := onHub s (fun h => h.siteQuiesceTimeout st e)

/-! ## Acknowledgement and replay (R366) -/

/-- Packets that wait for room in the replay buffer leave while there is room. -/
def Hub.flushSite : Nat → Hub → Nat → Hub
  | 0, h, _ => h
  | n + 1, h, s =>
    let k := h.site s
    match k.txq with
    | [] => h
    | p :: ps =>
      if k.replay.length < 256 ∧ h.stState s = 3 then
        Hub.flushSite n (((h.setSite s { k with txq := [] }).sendSite s p).updSite s (fun k => { k with txq := ps })) s
      else h

/-- The packets of the replay buffer sent again from a sequence number on. -/
def Hub.resendSite (h : Hub) (s seq : Nat) : Hub :=
  let from_ := (h.site s).replay.dropWhile (fun e => decide (e.1 ≠ seq))
  from_.foldl (fun h e => h.emit (.sitePacket s (h.stampPacket s e.1 e.2))) h

/-- A CREDIT packet: the packets up to ACK_SEQ leave the replay buffer; a NAK has its packet and those after it sent again. -/
def Hub.takeSiteCredit (h : Hub) (s : Nat) (p : Packet) : Hub :=
  let a := bits p.w1.toNat 11 0
  if bit p.w1.toNat 12 then
    if (h.site s).replay.any (fun e => e.1 == a) then (h.count (rSITE_ERR s) fSITE_ERR_RESENDS 1).resendSite s a else h
  else
    let h1 := h.updSite s (fun k => { k with replay := k.replay.filter (fun e => decide (2048 ≤ (a + 4096 - e.1) % 4096)) })
    Hub.flushSite 256 h1 s

/-- SITE_CREDIT_PACKET (R366): it carries no sequence number of its own (DEDUCED, log entry 20). -/
def execSiteCreditPacket (st : SiteId) (p : Packet) (s : State) : Res :=
  onHub s (fun h =>
    if decide ((pktOf p).op = 0x1E) && decide (h.stState st = 3) && !h.halted then
      if h.siteChkOk st p then h.takeSiteCredit st p else h.siteChkFail st (pktSeq p)
    else h)

/-- SITE_CREDIT_TIMER: a CREDIT at least every 200 ns (R366). -/
def execSiteCreditTimer (st : SiteId) (s : State) : Res :=
  onHub s (fun h =>
    if decide (h.stState st = 3) && !h.halted then h.sendSiteCredit st (((h.site st).rxSeq + 4095) % 4096) false else h)

/-! ## Bring-up and loss (R365, R371) -/

/-- The deliveries to a site that have not been sent: each ends with ERR 5, as one on the wire does. -/
def Hub.failKeys (h : Hub) (s : Nat) : Hub :=
  (h.keyJobs.filter (fun e => decide (e.2.op = 3) && (match mapGet h.keySlots (getFld e.2.ctl fKEY_CTL_SLOT) with
    | some x => decide (x.site = s)
    | none => false))).foldl (fun h e => h.keyOpDone e.1 5) h

/-- The window requests of a site that wait for a credit fail with those it has been sent. -/
def Hub.failWaiting (h : Hub) (s : Nat) : Hub :=
  (h.reqs.filter (fun r => decide (r.2.stage = .waiting) && decide (r.2.pa / 2 ^ 42 = h.hubNum) &&
    decide (SITE_BASE + s * 2 ^ 36 ≤ r.2.pa % 2 ^ 42) && decide (r.2.pa % 2 ^ 42 < SITE_BASE + (s + 1) * 2 ^ 36))).foldl
    (fun h r => h.winFail s { req := some r.1, engine := 0, since := h.now } kSITE_DOWN fsACCESS) h

/-- A site goes DOWN: every outstanding request fails, sent or not, its engines close, and SITE_DOWN names each slice that holds one. -/
def Hub.downSite (h : Hub) (s : Nat) : Hub :=
  let h1 := h.setSt s stDOWN
  let wins := (h1.site s).wins
  let h2 := wins.foldl (fun h w => (h.updSite s (fun k => { k with wins := mapDel k.wins w.1 })).winFail s w.2 kSITE_DOWN fsACCESS) h1
  let h2 := (h2.failWaiting s).failKeys s
  let mine := h2.reqs.filterMap (fun r => match r.2.src with | .site a _ _ => if a = s then some r.1 else none | _ => none)
  let h3 := mine.foldl (fun h i => h.dropReq i) h2
  let held := (List.range 64).filter (fun e => (h3.engineOwner s e).isSome)
  let h4 := (h3.setSite s { closedEng := held }).sweepBundles
  let h5 := (List.range 64).foldl (fun h e => h.engState s e 0) h4
  let ss := h5.forme.slices.filter (fun x => decide (x.2.siteEng.getD s 0 ≠ 0))
  ss.foldl (fun h x => h.siteFault s kSITE_DOWN clsContained (some x.1) 0) h5

/-- HELLO taken: the advertisement is kept, and the site is up; on a site that retrains, what is unacknowledged is sent again
(DEDUCED, log entry 36). -/
def Hub.takeHello (h : Hub) (s : Nat) (p : Packet) : Hub :=
  let w := p.w1.toNat
  let fresh := decide (h.stState s = 2)
  if fresh && decide ((h.site s).enabledAt + 10 * psMs < h.now) then h.downSite s
  else
    let h1 := ((((h.setF (rSITE_STS s) fSITE_STS_ENGINES (min (bits w 6 0) 64)).setF (rSITE_STS s) fSITE_STS_VENDOR (bits w 22 7)).setF
      (rSITE_STS s) fSITE_STS_DEVICE (bits w 38 23)).setF (rSITE_STS s) fSITE_STS_REV (bits w 46 39)).setSt s stUP
    let h2 := h1.updSite s (fun k => { k with wcred := bits w 62 47 })
    let h3 := if fresh then
        ((List.range 64).filter (fun e => (h2.engineOwner s e).isSome)).foldl (fun h e =>
          if (h.site s).closedEng.contains e then
            match h.engineOwner s e with
            | some sl => if decide (h.stateOf sl = 1) || decide (h.stateOf sl = 2) then h.openEngine s e else h
            | none => h
          else h.engState s e 1) h2
      else match (h2.site s).replay with
        | [] => h2
        | e :: _ => h2.resendSite s e.1
    (Hub.flushSite 256 h3 s).pumpSite

/-- HELLO (R365, R371). -/
def execHello (st : SiteId) (p : Packet) (s : State) : Res :=
  onHub s (fun h =>
    if decide ((pktOf p).op = 0x1F) && (decide (h.stState st = 2) || decide (h.stState st = 4)) && !h.halted then
      h.siteRecv st p (fun h => h.takeHello st p)
    else h)

/-- A retraining of a site begins: the replay buffers and every queued packet stay. -/
def Hub.retrainSite (h : Hub) (s : Nat) : Hub := if h.stState s = 3 then h.setSt s stRETRAINING else h

/-- SITE_CTL written: EN trains a present site or, cleared, disables it; DOWN; RETRAIN. -/
def Hub.writeSiteCtl (h : Hub) (o : Origin) (s : Nat) (v : Word) : Hub :=
  h.mgrWrite o (fun h =>
    let h1 := h.regOk.writeRW (rSITE_CTL s) [fSITE_CTL_EN] [] v
    let en := vFlag v fSITE_CTL_EN
    let st := h.stState s
    let live := decide (2 ≤ st) && decide (st ≤ 4)
    if st = 0 then h1
    else
      let h2 := if (vFlag v fSITE_CTL_DOWN || !en) && live then h1.downSite s else h1
      if !en then h2.setSt s stDISABLED
      else if st = 1 then (h2.updSite s (fun k => { k with enabledAt := h.now })).setSt s stTRAINING
      else if vFlag v fSITE_CTL_RETRAIN then h2.retrainSite s else h2)

/-- SITE_ENABLE (R371). -/
def execSiteEnable (o : Origin) (st : SiteId) (s : State) : Res :=
  onReg o s (fun h => h.writeSiteCtl o st (setFld (h.reg (rSITE_CTL st)) fSITE_CTL_EN 1))

/-- SITE_RETRAIN (R371). -/
def execSiteRetrain (o : Origin) (st : SiteId) (s : State) : Res :=
  onReg o s (fun h => h.writeSiteCtl o st (setFld (h.reg (rSITE_CTL st)) fSITE_CTL_RETRAIN 1))

/-- SITE_DOWN (R371). -/
def execSiteDown (o : Origin) (st : SiteId) (s : State) : Res :=
  onReg o s (fun h => h.writeSiteCtl o st (setFld (h.reg (rSITE_CTL st)) fSITE_CTL_DOWN 1))

end Sys2Proof.Machine
end

