-- ==== Sys2Proof/Machine/Contexts.lean ====
section
/-! DEFINITION. Context resets (R59, R424). -/
namespace Sys2Proof.Machine

/-- The k-th submitted descriptor of a queue, as far as the ring reads now, is one of a context, or may be one. -/
def Hub.mayBeCtx (h : Hub) (q c k : Nat) : Bool :=
  match (h.setF (rFAB_Q_PTR q) fFAB_Q_PTR_HEAD (h.fld (rFAB_Q_PTR q) fFAB_Q_PTR_HEAD + k)).fetchDesc q .clean with
  | (.data d, _) => decide (dCtx d = c)
  | (.blocked, _) => true
  | _ => false

/-- Every submitted descriptor of a context ends SQUASHED: a queue is taken as far as its last one (DEDUCED, log entry 39). A queue whose
every submitted descriptor an event has ended already stays as it is. -/
def Hub.takeOfCtx (h : Hub) (q c : Nat) : Hub :=
  let m := (List.range (h.submitted q)).foldl (fun m k => if h.mayBeCtx q c k then k + 1 else m) 0
  let x := h.qrt q
  if 0 < x.cut.2 ∧ x.cutCtx.isEmpty = true then h
  else h.takeFirst q stSQUASHED (max m x.cut.2) (if 0 < x.cut.2 then x.cutCtx ++ [c] else [c])

/-- A submitted descriptor of a context that its reset ends is still to be taken. -/
def Hub.ctxCutLeft (h : Hub) (s c : Nat) : Bool :=
  ((h.slD s).queueIds).any (fun q => decide (0 < (h.qrt q).cut.2) && ((h.qrt q).cutCtx.isEmpty || (h.qrt q).cutCtx.contains c))

/-- The requests of a context's cells and site engines. -/
def Hub.ctxReqs (h : Hub) (s c : Nat) : List Nat :=
  h.reqs.filterMap (fun e =>
    if decide (e.2.slice = s) && decide (e.2.ctx = c) && !e.2.mgmt &&
      (match e.2.src with | .cell .. => true | .site .. => true | _ => false) then some e.1 else none)

/-- A request that a context reset takes from its cell or engine, which stops with CTX_RESET. -/
def Hub.loseReq (h : Hub) (i : Nat) : Hub :=
  match h.req i with
  | none => h
  | some q =>
    let h1 := (h.leaveQueue i q).failReq i fsSTOPPED kCTX_RESET uHUB 0
    match q.src with
    | .site s e _ => h1.closeEngine s e
    | _ => h1

/-- The work of a context reset: the tag rises; descriptors end SQUASHED; fault entries are answered FAIL; cells and site
engines lose their requests. -/
def Hub.resetContext (h : Hub) (s c : Nat) : Hub :=
  let h1 := (h.bumpGen (ctxid s c)).mirrorTick s
  let h2 := ((h1.slD s).queueIds).foldl (fun h q => h.takeOfCtx q c) h1
  let h3 := h2.endQueued (fun t => decide (t.slice = some s) && decide (t.ctx = c)) stSQUASHED
  let run := h3.itemsWhere (fun t => decide (t.slice = some s) && decide (t.ctx = c) && t.isMover && t.started)
  let h4 := run.foldl (fun h i => h.updItem i (fun t => { t with squash := some (t.squash.getD stSQUASHED) })) h3
  let h5 := h4.failAllFaults s (some c)
  (h5.ctxReqs s c).foldl (fun h i => h.loseReq i) h5

/-- A context that a commit removes: its reset is over before step 8 ends, its running mover items ended with it (R59). -/
def Hub.endContext (h : Hub) (s c : Nat) : Hub :=
  let h1 := h.resetContext s c
  (h1.itemsWhere (fun t => decide (t.slice = some s) && decide (t.ctx = c) && t.isMover && t.started)).foldl
    (fun h i => h.failItem i stSQUASHED) h1

/-- SLM_CTX_RESET written. -/
def Hub.writeCtxReset (h : Hub) (o : Origin) (s : Nat) (v : Word) : Hub :=
  h.mgrWrite o (fun h =>
    let r := rSLM_CTX_RESET s
    let c := vFld v fSLM_CTX_RESET_CTX
    if !vFlag v fSLM_CTX_RESET_GO then h.regOk.writeRW r [] [fSLM_CTX_RESET_DONE] v
    else if !h.active s || h.flag r fSLM_CTX_RESET_BUSY || !h.ctxOn s c then h.regErr
    else
      let h1 := ((h.regOk.writeRW r [] [fSLM_CTX_RESET_DONE] v).setF r fSLM_CTX_RESET_BUSY 1).updRt s (fun x => { x with ctxReset := some c })
      h1.resetContext s c)

/-- CONTEXT_RESET (R424). -/
def execContextReset (o : Origin) (sl : SliceId) (v : Word) (s : State) : Res :=
  onReg o s (fun h => h.writeCtxReset o sl (setFld v fSLM_CTX_RESET_GO 1))

/-- CONTEXT_RESET_DONE (R424): the context's submitted descriptors and its running mover items have ended. -/
def execContextResetDone (sl : SliceId) (s : State) : Res :=
  onHub s (fun h =>
    match (h.rt sl).ctxReset with
    | none => h
    | some c =>
      let left := h.items.any (fun e => decide (e.2.slice = some sl.val) && decide (e.2.ctx = c) && e.2.isMover && e.2.started &&
        decide (e.2.gen ≠ h.gen (ctxid sl c)))
      if left || h.ctxCutLeft sl c then h
      else ((h.updRt sl (fun x => { x with ctxReset := none })).setF (rSLM_CTX_RESET sl) fSLM_CTX_RESET_BUSY 0).setF (rSLM_CTX_RESET sl)
        fSLM_CTX_RESET_DONE 1)

end Sys2Proof.Machine
end

