-- ==== Sys2Proof/Machine/Fuses.lean ====
section
/-! DEFINITION. The fuses as the hub reads them (R439 to R443), the random source (R454, R455), the root and the blob keys (R456,
R457), and the views of LCS_STATE. -/
namespace Sys2Proof.Machine

/-! ## State rows (R439 to R441, R449) -/

def codeCLOSED : BitVec 32 := 0x9c6e3a5b
def codeOPEN : BitVec 32 := 0x63b1c5a4

/-- The code of row i when fully programmed: CLOSED for even i, OPEN for odd i (R440). -/
def rowCode (i : Nat) : BitVec 32 := if i % 2 = 0 then codeCLOSED else codeOPEN

/-- What a copy of a row, or the row, decodes as (R440). -/
inductive RowIs where
  | blank | valid | broken
  deriving DecidableEq, Repr

def copyIs (i : Nat) (c : BitVec 32) : RowIs := if c = 0 then .blank else if c = rowCode i then .valid else .broken

/-- Row i of the fuses. -/
def Fuses.row (f : Fuses) (i : Nat) : FuseRow := f.rows.toList.getD i {}

/-- The outcome that at least two copies share; broken where all three differ (R440). -/
def rowIs (i : Nat) (r : FuseRow) : RowIs :=
  let a := copyIs i (r.copies.toList.getD 0 0)
  let b := copyIs i (r.copies.toList.getD 1 0)
  let c := copyIs i (r.copies.toList.getD 2 0)
  if a = b ∨ a = c then a else if b = c then b else .broken

/-- Majority of the three copies of a progress mark (R449). -/
def mark3 (b : BitVec 3) : Bool := (b[0] && b[1]) || (b[0] && b[2]) || (b[1] && b[2])

/-- INTENT set and WRITTEN clear (R449). -/
def FuseRow.pending (r : FuseRow) : Bool := mark3 r.intent && !mark3 r.written

/-- The pending row, if any. -/
def Fuses.pendingRow (f : Fuses) : Option Nat := (List.range 8).find? (fun i => (f.row i).pending)

/-- The states of LCS_STATE.STATE. -/
def lcOPEN : Nat := 0
def lcCLOSED : Nat := 1
def lcINVALID : Nat := 2

/-- The highest row that is not blank. -/
def Fuses.highest (f : Fuses) : Option Nat := (List.range 8).reverse.find? (fun i => decide (rowIs i (f.row i) ≠ .blank))

/-- The lifecycle state and the epoch (R441, R449); INVALID has no epoch that the spec states. -/
def Fuses.decoded (f : Fuses) : Nat × Nat :=
  if f.pendingRow.isSome then (lcINVALID, Config.invalidEpoch % 9)
  else match f.highest with
    | none => (lcOPEN, 0)
    | some i =>
      if (List.range (i + 1)).all (fun j => decide (rowIs j (f.row j) = .valid)) then (if i % 2 = 0 then lcCLOSED else lcOPEN, i + 1)
      else (lcINVALID, Config.invalidEpoch % 9)

/-! ## Values of 384 bits (R443) -/

/-- Bitwise majority of three copies. -/
def majority {w : Nat} (v : Vector (BitVec w) 3) : BitVec w :=
  let a := v.toList.getD 0 0
  let b := v.toList.getD 1 0
  let c := v.toList.getD 2 0
  (a &&& b) ||| (a &&& c) ||| (b &&& c)

/-- An attestation bank as read. -/
def Fuses.bank (f : Fuses) (b : Nat) : BitVec 384 := majority (f.banks.toList.getD b (Vector.replicate 3 0))

/-- LCS_STATE.BANKS of a bank: 0 blank, 1 programmed, 2 erased. -/
def bankCode (v : BitVec 384) : Nat := if v = 0 then 0 else if v = BitVec.allOnes 384 then 2 else 1

/-- The forme key hash of a lifecycle state (R442). -/
def Fuses.hashFor (f : Fuses) (st : Nat) : BitVec 384 := majority (if st = lcOPEN then f.hashOpen else f.hashClosed)

/-- The 48 bytes of a fused value, byte n in bits [8n + 7:8n] (LCS_PROG_DATAn). -/
def fuseBytes (v : BitVec 384) : List Byte := toLE 48 v.toNat

/-- A key hash matches a fused hash; a hash that is all zero matches none (R443). -/
def hashMatches (fused : BitVec 384) (digest : List Byte) : Bool := decide (fused ≠ 0) && decide (fuseBytes fused = digest)

/-! ## LCS_STATE -/

/-- The state and epoch decoded at the last start. -/
def Hub.lcState (h : Hub) : Nat := h.fld rLCS_STATE fLCS_STATE_STATE
def Hub.epoch (h : Hub) : Nat := h.fld rLCS_STATE fLCS_STATE_EPOCH

/-- DBG: the debug instructions act (R452). -/
def Hub.debugOn (h : Hub) : Bool := decide (h.lcState = lcOPEN) && !h.flag rLCS_DBG fLCS_DBG_LOCK

/-- LCS_STATE as it reads: STATE, EPOCH and RESUMED of the last start, the rest as the fuses are. -/
def Hub.lcsView (h : Hub) (f : Fuses) : Word :=
  let v := setFld (h.reg rLCS_STATE) fLCS_STATE_DBG (b2n h.debugOn)
  let b := ((List.range 4).map (fun i => bankCode (f.bank i) * 4 ^ i)).sum
  setFld (setFld (setFld v fLCS_STATE_BANKS b) fLCS_STATE_HASH_OPEN (b2n (decide (majority f.hashOpen ≠ 0)))) fLCS_STATE_HASH_CLOSED
    (b2n (decide (majority f.hashClosed ≠ 0)))

/-- HUB_ID as bytes. -/
def hubIdBytes : List Byte := toLE 16 Config.hubId.toNat

/-! ## The random source (R454, R455) -/

/-- 64 bytes drawn from the random source. -/
def Hub.draw (h : Hub) : List Byte × Hub :=
  (toLE 64 (Config.random h.draws).toNat, { h with draws := h.draws + 1, generated := h.generated + 1 })

/-- A fresh nonce in LCS_NONCE0-3; none where the source has failed (R447, R455). -/
def Hub.drawNonce (h : Hub) : Hub :=
  if h.rngBad then h
  else
    let (d, h1) := h.draw
    (List.range 4).foldl (fun h n => h.setReg (rLCS_NONCEn n) (BitVec.ofNat 64 (leAt d (8 * n) 8))) h1

/-- RNG_HEALTH_FAIL: the failure is counted; the third in a row stops every draw (R455). -/
def Hub.rngFail (h : Hub) : Hub :=
  let h1 := { h with rngFails := h.rngFails + 1 }.count rKEY_RNG_STS fKEY_RNG_STS_FAILS 1
  if 3 ≤ h1.rngFails then { h1 with rngBad := true }.setF rKEY_RNG_STS fKEY_RNG_STS_FAIL 1 else h1

/-- RNG_HEALTH_FAIL (R455). -/
def execRngHealthFail (s : State) : Res := onHub s (fun h => h.rngFail)

/-- DRBG_RESEED (R454): 2^20 generate requests have passed. A reseed takes new entropy, so the failures in a row end (DEDUCED, log
entry 40). -/
def execDrbgReseed (s : State) : Res :=
  onHub s (fun h => if decide (2 ^ 20 ≤ h.generated) && !h.rngBad then { h with generated := 0, rngFails := 0 } else h)

/-! ## Root and derived keys (R456, R457) -/

/-- The root of the current state and epoch; none in INVALID. -/
def Hub.root (h : Hub) : Option (List Byte) :=
  let st := h.lcState
  if st = lcOPEN ∨ st = lcCLOSED then
    some (hmac384 (fuseBytes Config.deviceSecret) (ascii "CR9-ROOT" ++ toLE 4 (if st = lcOPEN then codeOPEN else codeCLOSED).toNat ++ toLE 1 h.epoch))
  else none

/-- The KDF in counter mode: the first n bytes. -/
def kdf (root label context : List Byte) (n : Nat) : List Byte :=
  (((List.range ((n + 47) / 48)).map (fun i => hmac384 root (toBE 4 (i + 1) ++ label ++ [0] ++ context ++ toBE 4 (8 * n)))).flatten).take n

/-- The blob key of a slice; none in INVALID. -/
def Hub.blobKey (h : Hub) (s : Nat) : Option (List Byte) :=
  h.root.map (fun r => kdf r (ascii "CR9-BLOB") (hubIdBytes ++ toLE 2 s) 32)

end Sys2Proof.Machine
end

