-- ==== Sys2Proof/Machine/Keys.lean ====
section
/-! DEFINITION. The KEY block (R456 to R467): KEY_CTL and its four operations, key blobs, KEYLOAD, and the attestation report. -/
namespace Sys2Proof.Machine

/-! ## Slots -/

/-- A slot zeroed (R462). -/
def Hub.zeroSlot (h : Hub) (m : Nat) : Hub := { h with keySlots := mapDel h.keySlots m }

/-- The first KEY_DATA registers as bytes. -/
def Hub.keyData (h : Hub) (s n : Nat) : List Byte := (List.range n).flatMap (fun i => toLE 8 (h.reg (rKEY_DATAn s i)).toNat)

/-- Bytes put into a run of registers, eight at a time. -/
def Hub.putRegs (h : Hub) (reg : Nat → Nat) (b : List Byte) : Hub :=
  (List.range (b.length / 8)).foldl (fun h n => h.setReg (reg n) (BitVec.ofNat 64 (leAt b (8 * n) 8))) h

/-! ## Blobs (R458) -/

def keyLens : List Nat := [16, 32, 48, 64]

/-- ENG names an engine of a site, or any. -/
def engOk (e : Nat) : Bool := decide (e < 64) || decide (e = 255)

/-- Bytes 0x00 to 0x1F of a blob: what the tag covers beside the ciphertext. -/
def blobHead (len once site eng s epoch : Nat) (iv : List Byte) : List Byte :=
  toLE 4 0x424b574c ++ toLE 2 1 ++ toLE 1 len ++ toLE 1 once ++ toLE 1 site ++ toLE 1 eng ++ toLE 2 s ++ toLE 1 epoch ++ zeros 3 ++ iv ++ zeros 4

/-- The 128 bytes of a blob. -/
def sealBlob (key head iv pt : List Byte) : List Byte :=
  let (ct, tag) := gcmSeal key iv head pt
  head ++ ct ++ tag ++ zeros 16

/-- Condition 3 of R460: the fields and the reserved bytes. -/
def blobFieldsOk (b : List Byte) : Bool :=
  decide (leAt b 0 4 = 0x424b574c) && decide (leAt b 4 2 = 1) && keyLens.contains (leAt b 6 1) && decide (leAt b 7 1 < 2) &&
  decide (leAt b 8 1 < 8) && engOk (leAt b 9 1) && allZero (sub b 13 3) && allZero (sub b 0x1c 4) && allZero (sub b 0x70 16)

/-- The slot a blob fills: its key in the first KEY_LEN bytes. -/
def slotOf (b pt : List Byte) : KeySlot :=
  { key := pt, len := leAt b 6 1, site := leAt b 8 1, eng := leAt b 9 1, once := bit (leAt b 7 1) 0 }

/-! ## KEYLOAD (R460) -/

/-- A KEYLOAD ends with status KEY, and KEY_STS names the failure. -/
def Hub.loadErr (h : Hub) (i s err : Nat) (t : Item) : Hub :=
  let r := rKEY_STS s
  (((h.setF r fKEY_STS_LOAD_ERR err).setF r fKEY_STS_LOAD_QUEUE t.queue).setF r fKEY_STS_LOAD_SEQ t.seq).endItem i stKEY 0

/-- The conditions of R460 on a blob that has been read, in order; the slot's contents where all hold. -/
def Hub.openBlob (h : Hub) (s : Nat) (b : List Byte) : Except Nat KeySlot :=
  if !blobFieldsOk b then .error 3
  else if leAt b 10 2 ≠ s then .error 4
  else if leAt b 12 1 ≠ h.epoch then .error 5
  else match h.blobKey s with
    | none => .error 6
    | some k => match gcmOpen k (sub b 0x10 12) (b.take 32) (sub b 0x20 64) (sub b 0x60 16) with
      | none => .error 6
      | some pt => .ok (slotOf b pt)

/-- KEYLOAD as it runs: it waits for the slice's running KEY operation (R463), and a KEY block that a fatal fault has stopped fails its
blob read (R390). A read that fails is LOAD_ERR 2. -/
def Hub.runKeyload (h : Hub) (i line : Nat) (ecc : Ecc) (t : Item) : Hub :=
  match t.slice with
  | none => h
  | some s =>
    if (mapGet h.keyJobs s).isSome then h
    else if !(h.slD s).keys.contains (dSlot t.desc) then h.loadErr i s 1 t
    else if h.stoppedInst uKEY 0 then h.loadErr i s 2 t
    else match h.readVirt s t.ctx (atLine line ecc) (dSrc t.desc) 128 with
      | (.failed _, h1) => h1.loadErr i s 2 t
      | _ => h.readFor i t s (dSrc t.desc) 128 (atLine line ecc) (fun h1 b => match h1.openBlob s b with
        | .error e => h1.loadErr i s e t
        | .ok x => { h1 with keySlots := mapPut h1.keySlots (dSlot t.desc) x }.endItem i stDONE 0)

/-- KEYLOAD (R458, R460, R463). -/
def execKeyload (i : Nat) (e : LineEcc) (s : State) : Res :=
  onHub s (fun h => h.startItem i opKEYLOAD (fun t => h.runKeyload i e.line e.ecc t))

/-! ## KEY_CTL (R459, R461, R463, R467) -/

/-- Kelvy and the physical functions: the managers without the debug port (R467). -/
def Hub.pfOrKelvy (h : Hub) (o : Origin) : Bool := match o with
  | .tap => false
  | _ => h.isMgr o

/-- A KEY register that the slice's virtual function, the physical functions and Kelvy write (R467). -/
def Hub.keyWrite (h : Hub) (o : Origin) (s : Nat) (f : Hub → Hub) : Hub :=
  if h.pfOrKelvy o || decide (h.vfOf o = some s) then f h else h.turnedAway o

/-- The writers of the LCS registers: Kelvy and the physical functions, before STAGE 6 too (R467). -/
def Hub.lcsMay (h : Hub) (o : Origin) : Bool := match o with
  | .tap => false
  | _ => h.onBus o

def kyWRAP : Nat := 1
def kyZERO : Nat := 2
def kyDELIVER : Nat := 3
def kyATTEST : Nat := 4

def keyCtlFields : List Fld :=
  [fKEY_CTL_SLOT, fKEY_CTL_ENGINE, fKEY_CTL_CTX, fKEY_CTL_INCL_MIRROR, fKEY_CTL_KEY_LEN, fKEY_CTL_SITE, fKEY_CTL_ENG, fKEY_CTL_ONCE]

/-- The reason a delivery is refused, in order of the ERR codes (DEDUCED, log entry 41); none where it goes on. -/
def Hub.deliverErr (h : Hub) (s : Nat) (v : Word) : Option Nat :=
  let m := vFld v fKEY_CTL_SLOT
  let e := vFld v fKEY_CTL_ENGINE
  if !(h.slD s).keys.contains m then some 1
  else match mapGet h.keySlots m with
    | none => some 2
    | some x =>
      if decide (x.eng ≠ 255) && decide (x.eng ≠ e) then some 3
      else if decide (h.engineOwner x.site e ≠ some s) || !h.engineOpen x.site e then some 4
      else if !h.ctxOn s (vFld v fKEY_CTL_CTX) then some 8
      else none

/-- An operation of a slice taken: BUSY, in the order of its arrival. A delivery leaves as soon as its turn comes. -/
def Hub.takeKeyOp (h : Hub) (s : Nat) (v : Word) (mgmt : Bool) : Hub :=
  let j : KeyJob := { op := vFld v fKEY_CTL_OP, ctl := v, mgmt := mgmt }
  let h1 := { h with keyJobs := mapPut h.keyJobs s j, keyOrder := h.keyOrder ++ [s] }.setF (rKEY_STS s) fKEY_STS_BUSY 1
  if j.op = kyDELIVER then
    match h1.deliverErr s v with
    | some e => h1.keyOpDone s e
    | none => h1.sendKey s
  else h1

/-- KEY_CTL written; an OP while BUSY, a reserved OP, or one for a KEY block that has stopped (R390), gets an error response. -/
def Hub.writeKeyCtl (h : Hub) (o : Origin) (s : Nat) (v : Word) : Hub :=
  h.keyWrite o s (fun h =>
    let op := vFld v fKEY_CTL_OP
    if decide (4 < op) || (decide (op ≠ 0) && (h.flag (rKEY_STS s) fKEY_STS_BUSY || h.stoppedInst uKEY 0)) then h.regErr
    else
      let h1 := h.regOk.writeRW (rKEY_CTL s) keyCtlFields [] v
      if op = 0 then h1 else h1.takeKeyOp s v (h.isMgr o))

/-- WRAP (R459). -/
def execWrap (o : Origin) (sl : SliceId) (v : Word) (s : State) : Res := onReg o s (fun h => h.writeKeyCtl o sl (setFld v fKEY_CTL_OP kyWRAP))

/-- KEY_ZERO (R462). -/
def execKeyZero (o : Origin) (sl : SliceId) (v : Word) (s : State) : Res := onReg o s (fun h => h.writeKeyCtl o sl (setFld v fKEY_CTL_OP kyZERO))

/-- DELIVER (R461). -/
def execDeliver (o : Origin) (sl : SliceId) (v : Word) (s : State) : Res := onReg o s (fun h => h.writeKeyCtl o sl (setFld v fKEY_CTL_OP kyDELIVER))

/-- ATTEST (R466). -/
def execAttest (o : Origin) (sl : SliceId) (v : Word) (s : State) : Res := onReg o s (fun h => h.writeKeyCtl o sl (setFld v fKEY_CTL_OP kyATTEST))

/-! ## WRAP, ZERO and ATTEST as they end -/

/-- WRAP: bad arguments, a failed source (R455) or no root (R442) end it; else the blob stands in KEY_DATA0-15. -/
def Hub.wrapDone (h : Hub) (s : Nat) (v : Word) : Hub :=
  let len := vFld v fKEY_CTL_KEY_LEN
  let eng := vFld v fKEY_CTL_ENG
  if !keyLens.contains len || !engOk eng then h.keyOpDone s 8
  else if h.rngBad then h.keyOpDone s 6
  else match h.blobKey s with
    | none => h.keyOpDone s (1 + Config.noRootErr % 9)
    | some k =>
      let (d, h1) := h.draw
      let iv := d.take 12
      let head := blobHead len (vFld v fKEY_CTL_ONCE) (vFld v fKEY_CTL_SITE) eng s h.epoch iv
      let pt := (h.keyData s 8).take len ++ zeros (64 - len)
      ((h1.putRegs (rKEY_DATAn s) (sealBlob k head iv pt)).putRegs (rKEY_ATT_REPn s)
        ((List.range 272).map (Config.reportAfterWrap h1.draws))).keyOpDone s 0

/-- The grant part of a slice's mirror, 1,792 bytes (R66); zero for a FREE slice (R72). -/
def Hub.grantOf (h : Hub) (s : Nat) : List Byte := let g := (h.rt s).grant; g ++ zeros (0x700 - g.length)

/-- DIGEST of a mirror (R66). -/
def Hub.mirrorDigest (h : Hub) (s : Nat) : List Byte := sha384 (h.grantOf s)

/-- Bytes 0x00 to 0xDF of an attestation report (R464), taken in one step (R465). -/
def Hub.reportBody (h : Hub) (s : Nat) (mirror : Bool) : List Byte :=
  toLE 4 0x54535441 ++ toLE 2 1 ++ toLE 2 (b2n mirror) ++ toLE 2 (if mirror then s else 0xffff) ++ toLE 1 h.epoch ++ [0] ++
  toLE 4 codeCLOSED.toNat ++ hubIdBytes ++ (List.range 4).flatMap (fun n => toLE 8 (h.reg (rKEY_ATT_CHALn s n)).toNat) ++
  (List.range 6).flatMap (fun n => toLE 8 (h.reg (rKEY_MEASn n)).toNat) ++
  (List.range 6).flatMap (fun n => toLE 8 (h.reg (rSLM_FORME_DIGESTn n)).toNat) ++ toLE 8 (h.reg rSLM_LIVE_SEQ).toNat ++
  toLE 8 (if mirror then (h.rt s).grantSeq else 0) ++ (if mirror then h.mirrorDigest s else zeros 48)

/-- ATTEST: served in CLOSED alone, with its bank programmed (R466). A virtual function's report is always of its own slice. -/
def Hub.attestDone (h : Hub) (f : Fuses) (s : Nat) (v : Word) (mgmt : Bool) : Hub :=
  let bank := f.bank ((h.epoch - 1) / 2)
  if h.lcState ≠ lcCLOSED ∨ bankCode bank ≠ 1 then h.keyOpDone s 7
  else
    let b := h.reportBody s (vFlag v fKEY_CTL_INCL_MIRROR || !mgmt)
    (h.putRegs (rKEY_ATT_REPn s) (b ++ hmac384 (fuseBytes bank) b)).keyOpDone s 0

/-- KEY_OPERATION_DONE: a WRAP, ZERO or ATTEST whose turn it is ends; deliveries that waited for it leave. -/
def Hub.keyDone (h : Hub) (f : Fuses) (s : Nat) : Hub :=
  match mapGet h.keyJobs s with
  | none => h
  | some j =>
    if !h.keyTurn s || decide (j.op = kyDELIVER) || h.stoppedInst uKEY 0 then h
    else
      let m := vFld j.ctl fKEY_CTL_SLOT
      let h1 := if j.op = kyWRAP then h.wrapDone s j.ctl
        else if j.op = kyZERO then (if (h.slD s).keys.contains m then (h.zeroSlot m).keyOpDone s 0 else h.keyOpDone s 1)
        else h.attestDone f s j.ctl j.mgmt
      h1.pumpSite

/-- KEY_OPERATION_DONE (R459, R463, R466). -/
def execKeyOperationDone (sl : SliceId) (s : State) : Res := onHubF s (fun f h => h.keyDone f sl)

/-! ## Views (R458) -/

/-- KEY_SLOT_STSm as it reads. -/
def Hub.slotView (h : Hub) (m : Nat) : Word :=
  let v := match h.keyOwner m with
    | some s => setFld (setFld 0 fKEY_SLOT_STSm_SLICE s) fKEY_SLOT_STSm_OWNED 1
    | none => 0
  match mapGet h.keySlots m with
  | none => v
  | some x =>
    setFld (setFld (setFld (setFld (setFld v fKEY_SLOT_STSm_FULL 1) fKEY_SLOT_STSm_KEY_LEN x.len) fKEY_SLOT_STSm_SITE x.site)
      fKEY_SLOT_STSm_ENG x.eng) fKEY_SLOT_STSm_ONCE (b2n x.once)

/-- KEY_FULLw as it reads: the slots of 64w to 64w + 63 that the slice holds and that are full. -/
def Hub.fullView (h : Hub) (s w : Nat) : Word :=
  BitVec.ofNat 64 (maskOf ((List.range 64).filter (fun b => (h.slD s).keys.contains (64 * w + b) && (mapGet h.keySlots (64 * w + b)).isSome)))

/-- KEY_ARG, KEY_DATAn and KEY_ATT_CHALn written (R467). -/
def Hub.writeKeyArg (h : Hub) (o : Origin) (s : Nat) (v : Word) : Hub :=
  h.keyWrite o s (fun h => h.regOk.writeRW (rKEY_ARG s) [fKEY_ARG_OFFSET] [] v)

def Hub.writeKeyWord (h : Hub) (o : Origin) (s a : Nat) (v : Word) : Hub := h.keyWrite o s (fun h => h.regOk.setReg a v)

/-- KEY_STS written: DONE is W1C. R467 does not list it for a virtual function (DEDUCED, log entry 42). -/
def Hub.writeKeySts (h : Hub) (o : Origin) (s : Nat) (v : Word) : Hub :=
  if h.pfOrKelvy o then h.regOk.writeRW (rKEY_STS s) [] [fKEY_STS_DONE] v else h.turnedAway o

end Sys2Proof.Machine
end

