-- ==== Sys2Proof/Machine/Lifecycle.lean ====
section
/-! DEFINITION. The lifecycle (R439 to R453): fuse programming, the checks of a transition, the erase, and what a start resumes. -/
namespace Sys2Proof.Machine

/-! ## Fuse bits are only set (R439) -/

/-- A value programmed into one copy of three: bits rise, none falls. -/
def progCopy {w : Nat} (v : Vector (BitVec w) 3) (took : Nat → BitVec w) : Vector (BitVec w) 3 :=
  Vector.ofFn (fun i => v[i] ||| took i.val)

/-- A row of the fuses replaced. -/
def Fuses.setRow (f : Fuses) (r : Nat) (x : FuseRow) : Fuses := { f with rows := f.rows.setIfInBounds r x }

/-- INTENT of a row programmed in every copy (R449 step 3). -/
def Fuses.markIntent (f : Fuses) (r : Nat) : Fuses := f.setRow r { f.row r with intent := BitVec.allOnes 3 }

/-! ## LCS_PROG (R444) -/

/-- LCS_PROG written: by Kelvy alone; a GO while one runs gets an error response. -/
def Hub.writeLcsProg (h : Hub) (o : Origin) (v : Word) : Hub :=
  if o ≠ .kelvy then h.turnedAway o
  else
    let go := vFlag v fLCS_PROG_GO
    if go && h.progJob.isSome then h.regErr
    else
      let h1 := h.regOk.writeRW rLCS_PROG [fLCS_PROG_TARGET] [] v
      if go then { h1 with progJob := some (vFld v fLCS_PROG_TARGET) }.setF rLCS_PROG fLCS_PROG_BUSY 1 else h1

/-- FUSE_PROGRAM (R444). -/
def execFuseProgram (o : Origin) (v : Word) (s : State) : Res := onReg o s (fun h => h.writeLcsProg o (setFld v fLCS_PROG_GO 1))

/-- LCS_PROG_DATA0-5 as one value. -/
def Hub.progData (h : Hub) : BitVec 384 := BitVec.ofNat 384 (leNat ((List.range 6).flatMap (fun n => toLE 8 (h.reg (rLCS_PROG_DATAn n)).toNat)))

/-- A target of LCS_PROG as it reads, and the fuses with more of its bits set, copy by copy. -/
def Fuses.target (f : Fuses) (h : Hub) (t : Nat) : BitVec 384 :=
  if t = 0 then majority f.hashOpen else if t = 1 then majority f.hashClosed else f.bank (h.epoch / 2)

def Fuses.progTarget (f : Fuses) (h : Hub) (t : Nat) (took : Nat → BitVec 384) : Fuses :=
  if t = 0 then { f with hashOpen := progCopy f.hashOpen took }
  else if t = 1 then { f with hashClosed := progCopy f.hashClosed took }
  else
    let b := h.epoch / 2
    { f with banks := f.banks.setIfInBounds b (progCopy (f.banks.toList.getD b (Vector.replicate 3 0)) took) }

/-- The end of LCS_PROG: refused as its RESULT gives, or programmed and read back. What took where the read-back fails is free. -/
def progDone (f : Fuses) (h : Hub) (ok : Bool) : Fuses × Hub :=
  match h.progJob with
  | none => (f, h)
  | some t =>
    let v := h.progData
    let h1 := (List.range 6).foldl (fun h n => h.setReg (rLCS_PROG_DATAn n) 0) ({ h with progJob := none }.setF rLCS_PROG fLCS_PROG_BUSY 0)
    let res (n : Nat) : Hub := h1.setF rLCS_PROG fLCS_PROG_RESULT n
    if t = 3 then (f, res 4)
    else if h.lcState ≠ lcOPEN then (f, res 1)
    else if f.target h t ≠ 0 then (f, res 2)
    else if ok then (f.progTarget h t (fun _ => v), res 0)
    else (f.progTarget h t (fun i => v &&& Config.fuseTook (3 * h.now + i)), res 3)

/-- FUSE_PROGRAM_DONE (R444). -/
def execFuseProgramDone (readBackOk : Bool) (s : State) : Res := onChip s (fun f h => progDone f h readBackOk)

/-! ## LCS_REQ (R445 to R448) -/

/-- LCS_REQ written by Kelvy or a physical function: GO while BUSY gets an error response. -/
def Hub.writeLcsReq (h : Hub) (o : Origin) (v : Word) : Hub :=
  if !h.lcsMay o then h.turnedAway o
  else
    let go := vFlag v fLCS_REQ_GO
    if go && h.lcsJob.isSome then h.regErr
    else
      let h1 := h.regOk.writeRW rLCS_REQ [fLCS_REQ_TARGET, fLCS_REQ_PLAIN] [] v
      if go then { h1 with lcsJob := some v }.setF rLCS_REQ fLCS_REQ_BUSY 1 else h1

/-- LIFECYCLE_TRANSITION (R448, R451). -/
def execLifecycleTransition (o : Origin) (v : Word) (s : State) : Res := onReg o s (fun h => h.writeLcsReq o (setFld v fLCS_REQ_GO 1))

/-- The 192 bytes of a token. -/
def Hub.token (h : Hub) : List Byte := (List.range 24).flatMap (fun n => toLE 8 (h.reg (rLCS_TOKENn n)).toNat)

/-- The 64 bytes of the transition message (R446). -/
def Hub.transitionMsg (h : Hub) (target : Nat) : List Byte :=
  toLE 4 0x4b54434c ++ toLE 1 h.epoch ++ toLE 1 (h.epoch + 1) ++ zeros 2 ++ hubIdBytes ++
  (List.range 4).flatMap (fun n => toLE 8 (h.reg (rLCS_NONCEn n)).toNat) ++ toLE 4 (if target = 0 then codeOPEN else codeCLOSED).toNat ++ zeros 4

/-- The hub runs in manufacturing test mode (R39). -/
def Hub.testMode (h : Hub) : Bool := h.flag rTOP_STRAP fTOP_STRAP_TEST && !h.flag rTOP_STRAP fTOP_STRAP_TEST_IGNORED

/-- The authority of R445: a token on a normal or recovery boot; a plain write to CLOSED where LCX_EN was sampled 1 and no forme
is live, or in test mode. -/
def Hub.authority (h : Hub) (target : Nat) (plain : Bool) : Bool :=
  if plain then decide (target = lcCLOSED) &&
    ((h.flag rTOP_STRAP fTOP_STRAP_LCX_EN && decide (h.reg rSLM_LIVE_SEQ = 0)) || h.testMode)
  else !h.testMode

/-- The checks of R448 in order: the code of the first that fails. -/
def Hub.lcsRefused (h : Hub) (f : Fuses) (v : Word) (intentOk : Bool) : Option Nat :=
  let target := vFld v fLCS_REQ_TARGET
  let plain := vFlag v fLCS_REQ_PLAIN
  let t := h.token
  if h.lcState = lcINVALID then some 0x08
  else if target = h.lcState then some 0x02
  else if rowIs 7 (f.row 7) ≠ .blank then some 0x03
  else if !h.forme.slices.isEmpty then some 0x01
  else if !h.authority target plain then some 0x04
  else if decide (target = lcCLOSED) && (decide (majority f.hashClosed = 0) || decide (bankCode (f.bank (h.epoch / 2)) ≠ 1)) then some 0x05
  else if !plain && !hashMatches (f.hashFor h.lcState) (sha384 (t.take 96)) then some 0x06
  else if !plain && !ecdsaVerify (beNat (sub t 0 48)) (beNat (sub t 48 48)) (sha384 (h.transitionMsg target)) (beNat (sub t 96 48)) (beNat (sub t 144 48))
    then some 0x07
  else if !intentOk then some 0x09
  else if h.rngBad then some 0x0a
  else none

/-- What every GO leaves: a fresh nonce, the token zeroed (R447), BUSY down. -/
def Hub.lcsOver (h : Hub) (result : Nat) : Hub :=
  let h1 := (List.range 24).foldl (fun h n => h.setReg (rLCS_TOKENn n) 0) { h with lcsJob := none }
  ((h1.setF rLCS_REQ fLCS_REQ_BUSY 0).setF rLCS_REQ fLCS_REQ_RESULT result).drawNonce

/-! ## The erase and the resume (R450, R451) -/

/-- The erase of the volatile stores: key slots, KEY_DATA, Kelvy's SRAM, cell storage, the node cache. -/
def Hub.erase (h : Hub) : Hub :=
  { h with keySlots := [], klv := { h.klv with halfA := [], halfB := [], stagedMeas := [] },
           cells := [], nodeCache := [],
           regs := h.regs.filter (fun e => !(decide (rKEY_CTL 0 ≤ e.1) && decide (e.1 < rKEY_CTL 4096) &&
             decide (0x100 ≤ e.1 % 0x1000) && decide (e.1 % 0x1000 < 0x180))) }

/-- A copy that holds no bit outside its row's code. -/
def onlyCode (r : Nat) (c : BitVec 32) : Bool := decide (c &&& ~~~(rowCode r) = 0)

/-- The code programmed into the copies that can be completed: those that hold no other bit and take it. -/
def completeRow (r : Nat) (stuck : List Nat) (x : FuseRow) : FuseRow :=
  { x with erased := BitVec.allOnes 3,
           copies := Vector.ofFn (fun i => if onlyCode r x.copies[i] && !stuck.contains i.val then x.copies[i] ||| rowCode r else x.copies[i]) }

/-- Attestation bank (r - 1) / 2 programmed to ones on a transition to OPEN. -/
def Fuses.eraseBank (f : Fuses) (r : Nat) : Fuses :=
  if r % 2 = 1 then { f with banks := f.banks.setIfInBounds ((r - 1) / 2) (Vector.replicate 3 (BitVec.allOnes 384)) } else f

/-- A pending row resumed: the erase, ERASED, the code, and WRITTEN where the row then decodes valid. -/
def resumeRow (f : Fuses) (h : Hub) (stuck : List Nat) : Fuses × Hub :=
  match f.pendingRow with
  | none => (f, h.setF rLCS_STATE fLCS_STATE_RESUMED 0)
  | some r =>
    let f1 := f.eraseBank r
    let x := completeRow r stuck (f1.row r)
    if rowIs r x = .valid then (f1.setRow r { x with written := BitVec.allOnes 3 }, h.erase.setF rLCS_STATE fLCS_STATE_RESUMED 1)
    else (f1.setRow r x, h.erase.setF rLCS_STATE fLCS_STATE_RESUMED 0)

/-- Step 2 of a start: a pending row resumed, the state decoded (R441, R451). -/
def decodeState (f : Fuses) (h : Hub) (stuck : List Nat) : Fuses × Hub :=
  let (f1, h1) := resumeRow f h stuck
  (f1, (h1.setF rLCS_STATE fLCS_STATE_STATE f1.decoded.1).setF rLCS_STATE fLCS_STATE_EPOCH f1.decoded.2)

/-! ## LCS_DBG (R452) -/

/-- LCS_DBG written: LOCK is set by a 1. -/
def Hub.writeLcsDbg (h : Hub) (o : Origin) (v : Word) : Hub :=
  if !h.lcsMay o then h.turnedAway o
  else if vFlag v fLCS_DBG_LOCK then h.regOk.setF rLCS_DBG fLCS_DBG_LOCK 1 else h.regOk

/-- DEBUG_LOCK (R452). -/
def execDebugLock (o : Origin) (s : State) : Res := onReg o s (fun h => h.writeLcsDbg o (setFld 0 fLCS_DBG_LOCK 1))

/-- LCS_TOKENn and LCS_PROG_DATAn written (R467). -/
def Hub.writeLcsWord (h : Hub) (o : Origin) (a : Nat) (v : Word) : Hub := if h.lcsMay o then h.regOk.setReg a v else h.turnedAway o

end Sys2Proof.Machine
end

