-- ==== Sys2Proof/Machine/Forme.lean ====
section
/-! DEFINITION. A forme image as the hub takes it in: header, records and signature block, and the checks of steps 2 to 4 of a
commit (R79 to R96, R100). -/
namespace Sys2Proof.Machine

/-! ## Refusals (R99, R100) -/

/-- Whose record a refusal names. -/
inductive Named where
  | nobody
  | hubwide
  | slice (s : Nat)
  deriving DecidableEq, Repr

/-- A refusal of an image: code, ORDINAL of the record (none: 0xFFFFFFFF), whose record, and the number it names. -/
structure Refused where
  code : Nat
  record : Option Nat := none
  who : Named := .nobody
  aux : Option Nat := none
  deriving DecidableEq, Repr

/-- What a check of an image answers. -/
abbrev Chk (α : Type) := Except Refused α

/-- A check that passes where its condition holds. -/
def need (c : Bool) (r : Refused) : Chk Unit := if c then .ok () else .error r

/-! ## Images -/

/-- A record: its ORDINAL, TYPE, COUNT, SLICE and body. -/
structure ImgRec where
  ord : Nat
  typ : Nat
  count : Nat
  slice : Nat
  body : List Byte
  deriving DecidableEq, Repr

/-- A record's refusal with a code. -/
def ImgRec.refuse (r : ImgRec) (code : Nat) (aux : Option Nat := none) : Refused :=
  { code := code, record := some r.ord, who := if r.typ < 0x10 then .hubwide else .slice r.slice, aux := aux }

/-- An image that has passed steps 2 to 4, and its digest (R96). -/
structure Img where
  seq : Nat
  base : Nat
  isPartial : Bool
  device : List Byte
  recs : List ImgRec
  len : Nat
  digest : List Byte
  deriving DecidableEq, Repr

/-- A reader of an image: the bytes from an offset on, none where a read of the image fails (R97). -/
abbrev Reader := Nat → Nat → Option (List Byte)

/-- A read of the image, or the refusal with code 0x02. -/
def Reader.get (rd : Reader) (off n : Nat) (record : Option Nat) : Chk (List Byte) :=
  match rd off n with
  | some l => .ok l
  | none => .error { code := 0x02, record := record }

/-! ## Records (R82 to R84) -/

/-- The body of a record type: whether it is a list of entries, and the size of the body or of one entry. -/
def recBody : Nat → Option (Bool × Nat)
  | 0x01 => some (false, 16)
  | 0x02 => some (false, 112)
  | 0x03 => some (false, 32)
  | 0x04 => some (false, 16)
  | 0x05 => some (true, 4)
  | 0x06 => some (true, 4)
  | 0x07 => some (true, 4)
  | 0x10 => some (false, 32)
  | 0x11 => some (false, 32)
  | 0x12 => some (true, 24)
  | 0x13 => some (true, 4)
  | 0x14 => some (false, 64)
  | 0x15 => some (true, 8)
  | 0x16 => some (true, 4)
  | 0x17 => some (false, 64)
  | 0x18 => some (false, 32)
  | 0x19 => some (false, 64)
  | 0x1A => some (true, 4)
  | 0x1F => some (false, 0)
  | _ => none

/-- The bytes of a record's body. -/
def bodyLen (typ count : Nat) : Nat := match recBody typ with
  | some (true, n) => count * n
  | some (false, n) => n
  | none => 0

/-- LENGTH and COUNT obey R82. -/
def lengthOk (typ count len : Nat) : Bool :=
  decide (len % 8 = 0) && decide (24 ≤ len) &&
  (match recBody typ with
   | none => true
   | some (l, _) => (l || decide (count = 0)) && decide (len = alignUp (20 + bodyLen typ count) 8))

/-- What R83 has seen so far: the last hub-wide type, and the slice and the last type of the current group. -/
structure OrderSt where
  hubTyp : Nat := 0
  group : Option (Nat × Nat) := none
  deriving DecidableEq, Repr

/-- The order of one record after those before it; an unlisted type is left to the check that refuses it as reserved. The spec names no
code for a hub-wide record whose SLICE is not 0xFFFF, nor for a per-slice record whose SLICE is above 4,095: both break the order here,
code 0x06 (DESIGN CHOICE, log entry 148). -/
def OrderSt.next (o : OrderSt) (r : ImgRec) (ordinal : Nat) : Option OrderSt :=
  if ordinal ≠ r.ord then none
  else if (recBody r.typ).isNone then some o
  else if r.typ < 0x10 then
    if o.group.isSome ∨ r.slice ≠ 0xFFFF ∨ r.typ < o.hubTyp then none else some { o with hubTyp := r.typ }
  else if 4096 ≤ r.slice then none
  else
    let head := r.typ = 0x10 ∨ r.typ = 0x1F
    match o.group with
    | none => if head then some { o with group := some (r.slice, r.typ) } else none
    | some (s, t) =>
      if r.slice < s then none
      else if s < r.slice then (if head then some { o with group := some (r.slice, r.typ) } else none)
      else if r.typ ≤ t ∨ r.typ = 0x1F then none else some { o with group := some (s, r.typ) }

/-- The entries of a list record. -/
def ImgRec.entries (r : ImgRec) : List (List Byte) :=
  match recBody r.typ with
  | some (true, n) => (List.range r.count).map (fun i => sub r.body (n * i) n)
  | _ => []

/-- Bytes of a body all zero. -/
def zeroAt (b : List Byte) (i n : Nat) : Bool := allZero (sub b i n)

/-- The reserved fields and encodings of a record's body (R86, R90, R91, R385). -/
def ImgRec.bodyClean (r : ImgRec) : Bool :=
  let b := r.body
  let es (p : Nat → Bool) : Bool := r.entries.all (fun e => p (leNat e))
  match r.typ with
  | 0x01 => decide (leAt b 0 2 < 512) && zeroAt b 3 1 && zeroAt b 8 8
  | 0x02 => decide (leAt b 1 1 < 3) && zeroAt b 2 6
  | 0x03 => zeroAt b 1 7 && zeroAt b 0x1a 6
  | 0x04 => zeroAt b 0xa 6
  | 0x05 => es (fun n => decide (n < 2 ^ 14))
  | 0x06 => es (fun n => decide (n < 2 ^ 21) && decide (n % 65536 / 1024 ≤ 0x11))
  | 0x07 => es (fun n => decide (n < 2 ^ 11))
  | 0x10 => decide (leAt b 1 1 < 2) && zeroAt b 7 1 && zeroAt b 0xb 1 && zeroAt b 0x14 4
  | 0x11 => decide (leNat b < 2 ^ 208)
  | 0x12 => r.entries.all (fun e => zeroAt e 2 6)
  | 0x13 => es (fun n => decide (n < 2 ^ 16))
  | 0x15 => es (fun n => decide (n < 2 ^ 48) && decide (bits n 41 40 = 0))
  | 0x17 => (List.range 4).all (fun m => zeroAt b (16 * m + 6) 10)
  | 0x18 => decide (leNat b < 2 ^ 224)
  | 0x1A => es (fun n => decide (n < 2 ^ 21))
  | _ => true

/-- Step 3 for one record: LENGTH and COUNT, the CRC, the order, the reserved fields, in this order (R100). -/
def takeRec (rd : Reader) (o : OrderSt) (ord off sig : Nat) : Chk (OrderSt × ImgRec × Nat) := do
  need (decide (off + 24 ≤ sig)) { code := 0x01, record := some ord }
  let hd ← rd.get off 16 (some ord)
  let typ := leAt hd 0 2
  let count := leAt hd 2 2
  let len := leAt hd 4 4
  let r0 : ImgRec := { ord := ord, typ := typ, count := count, slice := leAt hd 8 2, body := [] }
  need (lengthOk typ count len && decide (off + len ≤ sig)) (r0.refuse 0x01)
  let b ← rd.get off len (some ord)
  let r : ImgRec := { r0 with body := sub b 16 (bodyLen typ count) }
  need (decide (leAt b (len - 4) 4 = crc32c (b.take (len - 4)))) (r.refuse 0x05)
  match o.next r (leAt hd 0xc 4) with
  | none => .error (r.refuse 0x06)
  | some o1 =>
    need ((recBody typ).isSome && zeroAt b 0xa 2 && zeroAt b (16 + bodyLen typ count) (len - 20 - bodyLen typ count) && r.bodyClean)
      (r.refuse 0x07)
    .ok (o1, r, off + len)

/-- Every record of an image, up to the signature block or to the first that is faulty. -/
def takeRecs (rd : Reader) (sig : Nat) : Nat → OrderSt → Nat → Nat → Chk (List ImgRec × Nat)
  | 0, _, _, off => .ok ([], off)
  | k + 1, o, ord, off =>
    if sig ≤ off then .ok ([], off)
    else do
      let (o1, r, off1) ← takeRec rd o ord off sig
      let (rs, e) ← takeRecs rd sig k o1 (ord + 1) off1
      .ok (r :: rs, e)

/-- The records of a type. -/
def Img.ofType (i : Img) (t : Nat) : List ImgRec := i.recs.filter (fun r => r.typ == t)

/-- The slices an image names in a SLICE record, and those it removes. -/
def Img.named (i : Img) : List Nat := (i.ofType 0x10).map (·.slice)
def Img.removes (i : Img) : List Nat := (i.ofType 0x1F).map (·.slice)

/-- The record of a type of a slice. -/
def Img.sliceRec (i : Img) (s t : Nat) : Option ImgRec := i.recs.find? (fun r => decide (r.slice = s) && decide (r.typ = t))

/-- The checks after the last record: the Whole image column of R84, and what R84 requires beside a SLICE record. -/
def wholeOk (isPartial : Bool) (rs : List ImgRec) : Chk Unit := do
  let n (t : Nat) : Nat := (rs.filter (fun r => r.typ == t)).length
  need (isPartial || (decide (n 1 = 1) && decide (n 5 ≤ 1) && decide (n 6 ≤ 1) && decide (n 7 ≤ 1) && decide (n 0x1F = 0))) { code := 0x06 }
  need (rs.all (fun r => decide (r.typ ≠ 0x10) ||
    (rs.any (fun x => decide (x.slice = r.slice) && decide (x.typ = 0x15)) && rs.any (fun x => decide (x.slice = r.slice) && decide (x.typ = 0x17)))))
    { code := 0x06 }
  need (rs.all (fun r => decide (r.typ ≠ 0x1F) || rs.all (fun x => decide (x.slice ≠ r.slice) || decide (x.ord = r.ord)))) { code := 0x06 }

/-! ## Steps 2 to 4 -/

/-- Steps 2 to 4 of a commit: `hash` is the fused forme key hash for the current lifecycle state (R95). An IMAGE_LEN below 320 leaves no
room for header and signature block, and step 2 of the spec has no check of its own for it: it is refused with code 0x01 after the header's
reserved fields and before SIG_MAGIC (DESIGN CHOICE, log entry 149). -/
def takeImage (rd : Reader) (hash : BitVec 384) : Chk Img := do
  let h ← rd.get 0 64 none
  let len := leAt h 0x18 4
  need (decide (leAt h 0 4 = 0x4D524F46) && decide (leAt h 4 2 = 1) && decide (len ≤ 2097152) && decide (len % 8 = 0)) { code := 0x01 }
  need (decide (leAt h 6 2 = 0x0302)) { code := 0x03 }
  need (decide (leAt h 0x3c 4 = crc32c (h.take 0x3c))) { code := 0x04 }
  need (decide (leAt h 0x20 1 < 2) && zeroAt h 0x21 7 && zeroAt h 0x38 4) { code := 0x07 }
  need (decide (320 ≤ len)) { code := 0x01 }
  let sig := len - 256
  let b ← rd.get sig 256 none
  need (decide (leAt b 0 4 = 0x47495346)) { code := 0x01 }
  need (decide (leAt b 0xfc 4 = crc32c (b.take 0xfc))) { code := 0x04 }
  let isPartial := decide (leAt h 0x20 1 = 1)
  let (rs, e) ← takeRecs rd sig 87382 {} 0 64
  need (decide (e = sig) && decide (leAt h 0x1c 4 = rs.length)) { code := 0x01 }
  wholeOk isPartial rs
  let signed ← rd.get 0 sig none
  need (decide (leAt b 4 2 = 1) && zeroAt b 6 2 && zeroAt b 0xc8 52) { code := 0x07 }
  need (hashMatches hash (sha384 (sub b 8 96))) { code := 0x08 }
  let digest := sha384 signed
  need (ecdsaVerify (beNat (sub b 8 48)) (beNat (sub b 0x38 48)) digest (beNat (sub b 0x68 48)) (beNat (sub b 0x98 48))) { code := 0x09 }
  .ok { seq := leAt h 8 8, base := leAt h 0x10 8, isPartial := isPartial, device := sub h 0x28 16, recs := rs, len := len, digest := digest }

/-! ## What the records say (R86, R90, R91) -/

/-- A list in ascending order of a key. -/
def insertBy {α : Type} (key : α → Nat) (x : α) : List α → List α
  | [] => [x]
  | y :: l => if key x ≤ key y then x :: y :: l else y :: insertBy key x l

def sortBy {α : Type} (key : α → Nat) (l : List α) : List α := l.foldr (insertBy key) []

def ImgRec.igroup (r : ImgRec) : IGroup :=
  { igrp := leAt r.body 0 1, stride := leAt r.body 1 1, first := leAt r.body 8 4, count := leAt r.body 0xc 4,
    chans := setBits (leAt r.body 0x10 96) 768 }

def ImgRec.sealedRec (r : ImgRec) : SealedRec :=
  let b := r.body
  { region := leAt b 0 1, first := leAt b 8 4, count := leAt b 0xc 4, metaFirst := leAt b 0x10 4, metaCount := leAt b 0x14 4,
    sweepH := let n := leAt b 0x18 2; if n = 0 then 24 else n }

def ImgRec.sched (r : ImgRec) : Sched :=
  { group := leAt r.body 0 2, hops := leAt r.body 2 1, beatLink := leAt r.body 3 1, sheetNs := leAt r.body 4 4, hubs := leAt r.body 8 2 }

/-- The ROUTE entries (hub, link), the FAULT_REACT entries (source, reaction) and the APPEND entries (channel, kind, number). -/
def ImgRec.pairs (r : ImgRec) : List (Nat × Nat) := r.entries.map (fun e =>
  if r.typ = 5 then (bits (leNat e) 8 0, bits (leNat e) 13 9) else (bits (leNat e) 15 0, bits (leNat e) 20 16))

def ImgRec.appends (r : ImgRec) : List (Nat × Nat × Nat) := r.entries.map (fun e => (bits (leNat e) 4 0, bits (leNat e) 5 5, bits (leNat e) 10 6))

/-- The SLICE record's fields. `strap` is CR7_STRAP (R41). -/
def ImgRec.base (r : ImgRec) (strap : Bool) : SliceRec :=
  let b := r.body
  let f := leAt b 0 1
  { cr7 := decide (f = 1) || (decide (f = 2) && strap), modeNamed := f, exactReq := bit (leAt b 1 1) 0, ctxEn := leAt b 2 2,
    group := leAt b 4 2, vfPort := leAt b 6 1, vfIndex := leAt b 8 2, moverGuar := leAt b 0xa 1, moverWeight := leAt b 0xc 2,
    walkerWeight := leAt b 0xe 2, msixGuar := leAt b 0x10 2, msixWeight := leAt b 0x12 2, holdBase := leAt b 0x18 8 }

/-- One of the other records of a slice added to what it holds. -/
def SliceRec.add (x : SliceRec) (r : ImgRec) : SliceRec :=
  let es := r.entries
  match r.typ with
  | 0x11 => { x with arrays := setBits (leNat r.body) 208 }
  | 0x12 => { x with parts := sortBy (·.1) (es.map (fun e => (leAt e 0 2, leAt e 8 16))) }
  | 0x13 => { x with fuse := sortBy (·.first) (es.map (fun e =>
      { first := bits (leNat e) 7 0, rows := bits (leNat e) 11 8 + 1, cols := bits (leNat e) 15 12 + 1 })) }
  | 0x14 => { x with siteEng := (List.range 8).map (fun s => leAt r.body (8 * s) 8) }
  | 0x15 => { x with ranges := sortBy (·.first) (es.map (fun e =>
      { first := bits (leNat e) 19 0, count := bits (leNat e) 39 20, igrp := bits (leNat e) 47 42 })) }
  | 0x16 => { x with queues := sortBy (·.1) (es.map (fun e => (bits (leNat e) 15 0, bits (leNat e) 31 16 + 1))) }
  | 0x17 => { x with meters := (List.range 4).map (fun m => { guar := leAt r.body (16 * m) 4, weight := leAt r.body (16 * m + 4) 2 }) }
  | 0x18 => { x with check := setBits (leNat r.body) 224 }
  | 0x19 => { x with keys := setBits (leNat r.body) 512 }
  | 0x1A => { x with links := sortBy (·.1) (es.map (fun e => (bits (leNat e) 8 0, bits (leNat e) 20 9))) }
  | _ => x

/-- The slices an image gives with SLICE records, ascending (R83). -/
def Img.slices (i : Img) (strap : Bool) : SMap SliceRec :=
  (i.ofType 0x10).map (fun r => (r.slice, (i.recs.filter (fun x => decide (x.slice = r.slice) && decide (0x10 < x.typ))).foldl
    (fun s x => s.add x) (r.base strap)))

/-- A value of a route or reaction table set for each entry. -/
def putAll (m : SMap Nat) (es : List (Nat × Nat)) : SMap Nat := es.foldl (fun m e => mapPut m e.1 e.2) m

/-- The forme an image gives over the live one: outright for a whole image, by the Partial image column of R84 else. The records
of a slice that is removed stay until it reaches FREE (R491). -/
def Img.forme (i : Img) (live : Forme) (strap : Bool) : Forme :=
  let old : Forme := if i.isPartial then live else {}
  let hub := (i.ofType 1).head?
  let igs := (i.ofType 2).map ImgRec.igroup
  let srs := (i.ofType 3).map ImgRec.sealedRec
  let scs := (i.ofType 4).map ImgRec.sched
  { hubNum := match hub with | some r => some (leAt r.body 0 2) | none => old.hubNum
    ceilPct := match hub with | some r => (let n := leAt r.body 2 1; if n = 0 then 85 else n) | none => old.ceilPct
    quietMs := match hub with | some r => (let n := leAt r.body 4 4; if n = 0 then 100 else n) | none => old.quietMs
    igroups := sortBy (·.igrp) (igs ++ old.igroups)
    sealedRegs := sortBy (·.region) (srs ++ old.sealedRegs)
    scheds := sortBy (·.group) (scs ++ old.scheds.filter (fun r => !(scs.any (fun x => x.group == r.group))))
    routes := putAll old.routes ((i.ofType 5).flatMap ImgRec.pairs)
    reacts := putAll old.reacts ((i.ofType 6).flatMap ImgRec.pairs)
    appends := if i.isPartial then old.appends else (i.ofType 7).flatMap ImgRec.appends
    slices := (i.slices strap).foldl (fun m e => mapPut m e.1 e.2) old.slices }

end Sys2Proof.Machine
end

