-- ==== Sys2Proof/Machine/Admit.lean ====
section
/-! DEFINITION. The admission of a forme (R42 to R46, R57, R58, R86, R105 to R113): codes 0x0A to 0x1C in ascending order, each
with every record that fails it. -/
namespace Sys2Proof.Machine

/-! ## Who fails -/

/-- The record of a type of a slice, or its SLICE record, as the one that fails. -/
def Img.blame (i : Img) (s t code : Nat) (aux : Option Nat := none) : Refused :=
  match (i.sliceRec s t).or (i.sliceRec s 0x10) with
  | some r => r.refuse code aux
  | none => { code := code, aux := aux }

/-- The lowest ORDINAL among the failures of one code, or one that no record shows (R100). -/
def lowestRefusal (l : List Refused) : Option Refused :=
  (sortBy (fun r => r.record.getD (2 ^ 32)) l).head?

/-- A failure where the condition holds. -/
def whenBad (c : Bool) (r : Refused) : List Refused := if c then [r] else []

/-- Ranges of two numbers each, first and count, that overlap. -/
def overlap (a n b m : Nat) : Bool := decide (a < b + m) && decide (b < a + n)

/-- The pairs of a list: each item with those before it. -/
def withEarlier {α : Type} (l : List α) : List (α × List α) := (List.range l.length).filterMap (fun k => (l[k]?).map (fun x => (x, l.take k)))

/-- An item that an earlier one equals by a key. -/
def repeats (l : List Nat) : Bool := !(decide l.Nodup)

/-- A slice that waits in DRAINING or SCRUB. -/
def Hub.leaving (h : Hub) (s : Nat) : Bool := decide (h.stateOf s = 4) || decide (h.stateOf s = 5)

/-! ## 0x0A to 0x0C -/

def admitSeq (h : Hub) (i : Img) : List Refused :=
  let live := (h.reg rSLM_LIVE_SEQ).toNat
  whenBad (decide (i.seq ≤ live) || decide (i.base ≠ (if i.isPartial then live else 0))) { code := 0x0A }

def admitDevice (i : Img) : List Refused := whenBad (!allZero i.device && decide (i.device ≠ hubIdBytes)) { code := 0x0B }

/-- SCOPE: the states a whole image needs, and the Partial image column of R84. A SCHED record that restates a group as it stands is
neither a new group nor a new SHEET_NS; it passes, whatever the states of the group's slices, and one that changes HOPS, BEAT_LINK or HUBS of
a group that has not ended is refused (DESIGN CHOICE, log entry 150). -/
def admitScope (h : Hub) (i : Img) : List Refused :=
  if !i.isPartial then whenBad (h.forme.slices.any (fun e => decide (h.stateOf e.1 ≠ 0))) { code := 0x0C }
  else
    let f := h.forme
    i.recs.flatMap (fun r => match r.typ with
      | 0x01 => [r.refuse 0x0C]
      | 0x07 => [r.refuse 0x0C]
      | 0x02 =>
        let g := r.igroup
        whenBad (f.igroups.any (fun x => x.igrp == g.igrp) || g.chans.any (fun c => (h.igOfChan c).isSome)) (r.refuse 0x0C (some g.igrp))
      | 0x03 =>
        let g := r.sealedRec
        whenBad (f.sealedRegs.any (fun x => x.region == g.region) ||
          f.slices.any (fun e => e.2.ranges.any (fun x => overlap x.first x.count g.first g.count))) (r.refuse 0x0C (some g.region))
      | 0x04 =>
        let g := r.sched
        whenBad (match h.sched g.group with
          | none => false
          | some o => (decide (o.hops ≠ g.hops) || decide (o.beatLink ≠ g.beatLink) || decide (o.hubs ≠ g.hubs)) &&
              decide (h.fld (rQL_GRP_STS g.group) fQL_GRP_STS_STATE ≠ 5)) (r.refuse 0x0C (some g.group))
      | 0x1F => whenBad (decide (h.stateOf r.slice = 0)) (r.refuse 0x0C)
      | _ => [])

/-! ## 0x10 and 0x11 -/

/-- A channel that a record may not name: its stack is absent, or it is retired (R30, R301). -/
def Hub.chanGone (h : Hub) (c : Nat) : Bool := decide (h.chState c = chABSENT) || decide (h.chState c = chRETIRED)

def Hub.linkAbsent (h : Hub) (l : Nat) : Bool := decide (h.fld (rQL_LINK_STS l) fQL_LINK_STS_STATE = 0)
def Hub.siteAbsent (h : Hub) (s : Nat) : Bool := decide (h.fld (rSITE_STS s) fSITE_STS_STATE = 0)
def Hub.arrRetired (h : Hub) (a : Nat) : Bool := decide (h.fld (rARR_STAT a) fARR_STAT_MODE = 3)

/-- The channels on which a group of records puts a range of granules (R277). -/
def rangeChans (gs : List IGroup) (r : GRange) : List Nat :=
  match gs.find? (fun g => decide (g.first ≤ r.first) && decide (r.first < g.first + g.count)) with
  | none => []
  | some g => if g.stride < 2 then g.chans
    else ((List.range (min r.count g.chans.length)).map (fun k => g.chans.getD ((r.first - g.first + k) % max 1 g.chans.length) 0)).eraseDups

/-- The first channel behind a range of granules that a record may not name (R30); outside every interleave group a granule lies on the
channel of the default map (R276). A range that runs past the granules there are is left to code 0x11. -/
def Hub.rangeGone (h : Hub) (gs : List IGroup) (r : GRange) : Option Nat :=
  if 589824 < r.first + r.count then none
  else
    let cs := rangeChans gs r
    (if cs.isEmpty then (List.range ((r.first + r.count + 767) / 768 - r.first / 768)).map (r.first / 768 + ·) else cs).find? h.chanGone

def admitAbsent (h : Hub) (i : Img) (nf : Forme) : List Refused :=
  (i.ofType 2).flatMap (fun r => match r.igroup.chans.find? h.chanGone with
    | some c => [r.refuse 0x10 (some c)]
    | none => []) ++
  (i.ofType 3).flatMap (fun r =>
    let g := r.sealedRec
    match (h.rangeGone nf.igroups { first := g.first, count := g.count, igrp := 0 }).or
        (h.rangeGone nf.igroups { first := g.metaFirst, count := g.metaCount, igrp := 0 }) with
    | some c => [r.refuse 0x10 (some c)]
    | none => []) ++
  (i.ofType 7).flatMap (fun r => match r.appends.find? (fun e =>
      if e.2.1 = 0 then decide (e.2.2 < 24) && h.linkAbsent e.2.2 else decide (e.2.2 < 8) && h.siteAbsent e.2.2) with
    | some e => [r.refuse 0x10 (some e.2.2)]
    | none => []) ++
  i.named.flatMap (fun s =>
    let x := mapGetD nf.slices s {}
    let bad (t : Nat) (l : List Nat) : List Refused := match l.find? h.arrRetired with
      | some a => [i.blame s t 0x10 (some a)]
      | none => []
    bad 0x11 x.arrays ++ bad 0x12 (x.parts.map (·.1)) ++ bad 0x13 (x.fuse.flatMap FuseGrp.arrays) ++
    (match (List.range 8).find? (fun k => decide (x.siteEng.getD k 0 ≠ 0) && h.siteAbsent k) with
      | some k => [i.blame s 0x14 0x10 (some k)]
      | none => []) ++
    (match x.ranges.findSome? (h.rangeGone nf.igroups) with
      | some c => [i.blame s 0x15 0x10 (some c)]
      | none => []) ++
    whenBad (decide (x.vfPort < 2) && decide (x.vfIndex < 2048) && !h.presented x.vfPort x.vfIndex) (i.blame s 0x10 0x10))

/-- The instances of a unit (R384). -/
def unitInsts : List Nat := [1, 208, 208, 1, 1, 24, 64, 24, 24, 1024, 8, 4, 256, 1, 1, 1, 1, 1]

def limitRec (r : ImgRec) : List Refused :=
  match r.typ with
  | 0x01 =>
    let c := leAt r.body 2 1
    let q := leAt r.body 4 4
    whenBad (!(decide (c = 0) || (decide (50 ≤ c) && decide (c ≤ 95))) || decide (10000 < q)) (r.refuse 0x11)
  | 0x02 =>
    let g := r.igroup
    whenBad (decide (64 ≤ g.igrp) || decide (589824 < g.first + g.count)) (r.refuse 0x11 (some g.igrp))
  | 0x03 =>
    let g := r.sealedRec
    whenBad (decide (64 ≤ g.region) || decide (g.count = 0) || decide (65536 < g.count) || decide (589824 < g.first + g.count) ||
      decide (589824 < g.metaFirst + g.metaCount) || (decide (720 < g.sweepH) && decide (g.sweepH ≠ 0xFFFF))) (r.refuse 0x11 (some g.region))
  | 0x04 =>
    let g := r.sched
    whenBad (decide (1024 ≤ g.group) || decide (15 < g.hops) || (decide (23 < g.beatLink) && decide (g.beatLink ≠ 0xFF)) ||
      decide (g.sheetNs < 1000) || decide (256000 < g.sheetNs) || decide (g.hubs = 0) || decide (512 < g.hubs)) (r.refuse 0x11 (some g.group))
  | 0x05 => match r.pairs.find? (fun e => decide (23 < e.2)) with
    | some e => [r.refuse 0x11 (some e.1)]
    | none => []
  | 0x06 => match r.pairs.find? (fun e => decide (e.1 % 1024 ≠ 1023) && decide (unitInsts.getD (e.1 / 1024) 0 ≤ e.1 % 1024)) with
    | some _ => [r.refuse 0x11]
    | none => []
  | 0x07 => match r.appends.find? (fun e => decide ((if e.2.1 = 0 then 23 else 7) < e.2.2)) with
    | some e => [r.refuse 0x11 (some e.2.2)]
    | none => []
  | _ => []

/-- The host link that presents a slice's virtual function. -/
def Hub.recLink (h : Hub) (x : SliceRec) : Nat := h.vfLink x.vfPort x.vfIndex

def admitLimit (h : Hub) (i : Img) (nf : Forme) : List Refused :=
  let movers := (nf.slices.map (fun e => e.2.moverGuar)).sum
  let msix (k : Nat) : Nat := (nf.slices.map (fun e => if h.recLink e.2 = k then e.2.msixGuar else 0)).sum
  i.recs.flatMap limitRec ++
  i.named.flatMap (fun s =>
    let x := mapGetD nf.slices s {}
    whenBad (decide (2 < x.modeNamed) || decide (x.ctxEn = 0) || decide (1023 < x.group) || decide (1 < x.vfPort) || decide (2047 < x.vfIndex) ||
      decide (128 < x.moverGuar) || (decide (128 < movers) && decide (x.moverGuar ≠ 0)) ||
      (decide (x.msixGuar ≠ 0) && decide (4096 < msix (h.recLink x)))) (i.blame s 0x10 0x11) ++
    whenBad (decide (32 < x.parts.length) || x.parts.any (fun p => decide (208 ≤ p.1))) (i.blame s 0x12 0x11) ++
    whenBad (decide (8 < x.fuse.length)) (i.blame s 0x13 0x11) ++
    whenBad (x.ranges.isEmpty || decide (64 < x.ranges.length) || x.ranges.any (fun g => decide (g.count = 0) || decide (589824 < g.first + g.count)))
      (i.blame s 0x15 0x11) ++
    whenBad (decide (8 < x.queues.length) || x.queues.any (fun q => decide (65536 < q.1 + q.2))) (i.blame s 0x16 0x11) ++
    whenBad (decide (511 < x.links.length)) (i.blame s 0x1A 0x11))

/-! ## Holdings compared (R43, R57, R106) -/

/-- The cells of an array that a slice's records name, as a mask. -/
def SliceRec.mask (x : SliceRec) (a : Nat) : Nat :=
  if x.arrays.contains a then 2 ^ 128 - 1 else (x.parts.filter (fun p => p.1 == a)).foldl (fun m p => m ||| p.2) 0

/-- What two slices both hold: the type of the record of the first that names it, and its number where it has one. -/
def SliceRec.shared (x y : SliceRec) : List (Nat × Option Nat) :=
  (x.arrays.filter (fun a => decide (y.mask a ≠ 0))).map (fun a => (0x11, some a)) ++
  (x.parts.filter (fun p => decide (p.2 &&& y.mask p.1 ≠ 0))).map (fun p => (0x12, some p.1)) ++
  ((List.range 8).filter (fun k => decide ((x.siteEng.getD k 0) &&& (y.siteEng.getD k 0) ≠ 0))).map (fun k => (0x14, some k)) ++
  (if x.ranges.any (fun a => y.ranges.any (fun b => overlap a.first a.count b.first b.count)) then [(0x15, none)] else []) ++
  (if x.queues.any (fun a => y.queues.any (fun b => overlap a.1 a.2 b.1 b.2)) then [(0x16, none)] else []) ++
  ((x.check.filter (fun n => y.check.contains n)).map (fun n => (0x18, some n))) ++
  (if x.keys.any (fun m => y.keys.contains m) then [(0x19, none)] else []) ++
  (if x.vfPort = y.vfPort ∧ x.vfIndex = y.vfIndex then [(0x10, none)] else [])

/-- What the records of one slice name twice. -/
def SliceRec.twice (x : SliceRec) : List (Nat × Option Nat) :=
  ((withEarlier x.parts).filter (fun p => x.arrays.contains p.1.1 || p.2.any (fun q => q.1 == p.1.1))).map (fun p => (0x12, some p.1.1)) ++
  (if (withEarlier x.ranges).any (fun p => p.2.any (fun b => overlap p.1.first p.1.count b.first b.count)) then [(0x15, none)] else []) ++
  (if (withEarlier x.queues).any (fun p => p.2.any (fun b => overlap p.1.1 p.1.2 b.1 b.2)) then [(0x16, none)] else []) ++
  ((withEarlier x.links).filter (fun p => p.2.any (fun q => q.1 == p.1.1))).map (fun p => (0x1A, some p.1.1))

def SliceRec.chans (x : SliceRec) (gs : List IGroup) : List Nat := (x.ranges.flatMap (rangeChans gs)).eraseDups

/-- A slice's class under a forme (R46): hard where it holds whole arrays alone, on channels that no other slice uses. -/
def Forme.exclOf (f : Forme) (s : Nat) : List Nat :=
  let mine := (mapGetD f.slices s {}).chans f.igroups
  mine.filter (fun c => f.slices.all (fun e => decide (e.1 = s) || !(e.2.chans f.igroups).contains c))

def Forme.hard (f : Forme) (s : Nat) : Bool :=
  let x := mapGetD f.slices s {}
  x.parts.isEmpty && (x.chans f.igroups).all (fun c => (f.exclOf s).contains c)

/-- Records of one kind that carry one number: each after the first. -/
def sameNumber (rs : List ImgRec) (key : ImgRec → Nat) : List Refused :=
  ((withEarlier rs).filter (fun p => p.2.any (fun q => key q == key p.1))).map (fun p => p.1.refuse 0x12 (some (key p.1)))

/-- DOUBLE: of two records that name one resource, the later one fails (DEDUCED, log entry 43). What a slice in DRAINING or SCRUB still
holds is code 0x13's (R57); that it is hard keeps other slices off its channels as long as it holds them (R46). -/
def admitDouble (h : Hub) (i : Img) (nf : Forme) : List Refused :=
  sameNumber (i.ofType 2) (fun r => r.igroup.igrp) ++ sameNumber (i.ofType 3) (fun r => r.sealedRec.region) ++
  sameNumber (i.ofType 4) (fun r => r.sched.group) ++
  (i.ofType 5 ++ i.ofType 6).flatMap (fun r => whenBad (repeats (r.pairs.map (·.1))) (r.refuse 0x12)) ++
  (i.ofType 7).flatMap (fun r => whenBad (repeats (r.appends.map (·.1)) || repeats (r.appends.map (fun e => e.2.1 * 64 + e.2.2))) (r.refuse 0x12)) ++
  (let others := nf.slices.filter (fun e => !i.named.contains e.1 && !h.leaving e.1)
   (withEarlier i.named).flatMap (fun p =>
     let s := p.1
     let x := mapGetD nf.slices s {}
     let before := others.map (·.2) ++ p.2.map (fun t => mapGetD nf.slices t {})
     (x.twice ++ before.flatMap (fun y => x.shared y)).map (fun e => i.blame s e.1 0x12 e.2) ++
     whenBad (i.isPartial && nf.slices.any (fun e =>
         !i.named.contains e.1 && !i.removes.contains e.1 && h.flag (rSLM_SLICE_STATE e.1) fSLM_SLICE_STATE_HARD &&
         (e.2.chans nf.igroups).any (fun c => (x.chans nf.igroups).contains c))) (i.blame s 0x15 0x12)))

/-! ## 0x13 and 0x14, checked again at step 6 -/

/-- The kinds of a removed resource that waits for its in-flight items (R105). -/
def rkCELL : Nat := 0
def rkGRAN : Nat := 1
def rkQUEUE : Nat := 3
def rkCHECK : Nat := 4
def rkKEY : Nat := 5
def rkLINK : Nat := 6

/-- A slice's record set assigns a resource that is still releasing: the type of the record that names it. A LINK entry is a resource of
the slice that lists it. -/
def SliceRec.namesReleasing (x : SliceRec) (s : Nat) (r : Releasing) : Option Nat :=
  let k := r.kind
  let n := r.num
  if k = rkCELL then (if (x.mask (n / 128)).testBit (n % 128) then some (if x.arrays.contains (n / 128) then 0x11 else 0x12) else none)
  else if k = rkGRAN then (if x.holdsGranule n then some 0x15 else none)
  else if k = rkENGINE then (if (x.siteEng.getD (n / 64) 0).testBit (n % 64) then some 0x14 else none)
  else if k = rkQUEUE then (if x.queueIds.contains n then some 0x16 else none)
  else if k = rkCHECK then (if x.check.contains n then some 0x18 else none)
  else if k = rkKEY then (if x.keys.contains n then some 0x19 else none)
  else if r.slice = s ∧ x.links.any (fun l => l.1 == n) then some 0x1A
  else none

def admitBusy (h : Hub) (i : Img) (nf : Forme) : List Refused :=
  (i.named.filter h.leaving).map (fun s => i.blame s 0x10 0x13) ++
  (i.removes.filter h.leaving).map (fun s => i.blame s 0x1F 0x13) ++
  i.named.flatMap (fun s =>
    let x := mapGetD nf.slices s {}
    let gone := h.forme.slices.filter (fun e => h.leaving e.1 && decide (e.1 ≠ s))
    (gone.flatMap (fun e => x.shared e.2)).map (fun e => i.blame s e.1 0x13 e.2) ++
    h.releasing.filterMap (fun r => (x.namesReleasing s r).map (fun t => i.blame s t 0x13)))

/-- Ranges in ascending order with those that touch joined. -/
def joinRanges : List (Nat × Nat) → List (Nat × Nat)
  | [] => []
  | r :: l => match joinRanges l with
    | [] => [r]
    | q :: m => if r.1 + r.2 = q.1 then (r.1, r.2 + q.2) :: m else r :: q :: m

/-- The fields of R58 whose change needs the slice FREE or HELD are the same. -/
def SliceRec.sameShape (x y : SliceRec) : Bool :=
  decide (x.arrays = y.arrays) && decide (x.parts = y.parts) && decide (x.fuse = y.fuse) &&
  (List.range 8).all (fun k => decide (x.siteEng.getD k 0 = y.siteEng.getD k 0)) &&
  decide (joinRanges (x.ranges.map (fun g => (g.first, g.count))) = joinRanges (y.ranges.map (fun g => (g.first, g.count)))) &&
  decide (x.ctxEn = y.ctxEn) && decide (x.group = y.group) && decide (x.cr7 = y.cr7) && decide (x.exactReq = y.exactReq) &&
  decide (x.holdBase = y.holdBase) && decide (x.vfPort = y.vfPort) && decide (x.vfIndex = y.vfIndex)

def admitState (h : Hub) (i : Img) (nf : Forme) : List Refused :=
  i.named.flatMap (fun s => match h.sl s with
    | none => []
    | some old => whenBad (!old.sameShape (mapGetD nf.slices s {}) && decide (h.stateOf s ≠ 0) && decide (h.stateOf s ≠ 2)) (i.blame s 0x10 0x14)) ++
  (i.ofType 4).flatMap (fun r =>
    let g := r.sched
    match h.sched g.group with
    | none => []
    | some old => whenBad (decide (old.sheetNs ≠ g.sheetNs) && decide (h.fld (rQL_GRP_STS g.group) fQL_GRP_STS_STATE ≠ 5) &&
        (h.groupSlices g.group).any (fun s => decide (h.stateOf s = 1) || decide (h.stateOf s = 3))) (r.refuse 0x14 (some g.group)))

/-! ## 0x15 to 0x18 -/

def admitHold (i : Img) (nf : Forme) : List Refused :=
  i.named.flatMap (fun s =>
    let x := mapGetD nf.slices s {}
    let n := x.cells.length
    whenBad (decide (n ≠ 0) && (decide (x.holdBase % 1024 ≠ 0) ||
      !((List.range ((x.holdBase + 1024 * n - 1) / GRAN + 1 - x.holdBase / GRAN)).all (fun k => x.holdsGranule (x.holdBase / GRAN + k)))))
      (i.blame s 0x10 0x15))

/-- A FUSE entry obeys R110, but for the condition that no array belongs to two groups. -/
def FuseGrp.ok (g : FuseGrp) (x : SliceRec) : Bool :=
  decide (g.first / 16 + g.rows ≤ 13) && decide (g.first % 16 + g.cols ≤ 16) && decide (2 ≤ g.rows * g.cols) && g.arrays.all x.arrays.contains

def admitFuse (i : Img) (nf : Forme) : List Refused :=
  i.named.flatMap (fun s =>
    let x := mapGetD nf.slices s {}
    match (withEarlier x.fuse).find? (fun p => !p.1.ok x || p.2.any (fun q => q.arrays.any p.1.arrays.contains)) with
    | some p => [i.blame s 0x13 0x16 (some p.1.first)]
    | none => [])

def admitIgrp (i : Img) (nf : Forme) : List Refused :=
  (withEarlier (i.ofType 2)).flatMap (fun p =>
    let g := p.1.igroup
    let others := (nf.igroups.filter (fun x => !((i.ofType 2).any (fun r => decide (r.igroup.igrp = x.igrp))))) ++ p.2.map ImgRec.igroup
    whenBad (decide (g.count ≠ 768 * g.chans.length) ||
      others.any (fun x => overlap g.first g.count x.first x.count || x.chans.any g.chans.contains)) (p.1.refuse 0x17 (some g.igrp))) ++
  i.named.flatMap (fun s =>
    match (mapGetD nf.slices s {}).ranges.find? (fun r => !(nf.igroups.any (fun g =>
        decide (g.igrp = r.igrp) && decide (g.first ≤ r.first) && decide (r.first + r.count ≤ g.first + g.count)))) with
    | some r => [i.blame s 0x15 0x17 (some r.igrp)]
    | none => [])

/-- The interleave group that a region's data granules lie wholly in. -/
def SealedRec.group (r : SealedRec) (gs : List IGroup) : Option IGroup :=
  gs.find? (fun g => decide (g.first ≤ r.first) && decide (r.first + r.count ≤ g.first + g.count))

/-- The sweep headroom of R108: 64 GB/s between the ceiling and the deliverable bandwidth. -/
def headroomOk (h : Hub) (ceilPct : Nat) (g : IGroup) : Bool := decide (64000 * 256 * 100 ≤ h.delivNum g * (100 - ceilPct))

def admitSealed (h : Hub) (i : Img) (nf : Forme) : List Refused :=
  (withEarlier (i.ofType 3)).flatMap (fun p =>
    let r := p.1.sealedRec
    let others := (nf.sealedRegs.filter (fun x => !((i.ofType 3).any (fun q => decide (q.sealedRec.region = x.region))))) ++ p.2.map ImgRec.sealedRec
    whenBad (decide (r.metaCount < ceilDiv (27 * r.count) 64 + 2) || overlap r.first r.count r.metaFirst r.metaCount ||
      others.any (fun x => overlap r.first r.count x.first x.count || overlap r.metaFirst r.metaCount x.first x.count ||
        overlap r.first r.count x.metaFirst x.metaCount || overlap r.metaFirst r.metaCount x.metaFirst x.metaCount) ||
      (match r.group nf.igroups with
       | none => true
       | some g => !headroomOk h nf.ceilPct g) ||
      nf.slices.any (fun e => !i.named.contains e.1 && e.2.ranges.any (fun a => overlap a.first a.count r.metaFirst r.metaCount)))
      (p.1.refuse 0x18 (some r.region))) ++
  i.named.flatMap (fun s =>
    match nf.sealedRegs.find? (fun r => (mapGetD nf.slices s {}).ranges.any (fun a =>
        (overlap a.first a.count r.first r.count && !(decide (r.first ≤ a.first) && decide (a.first + a.count ≤ r.first + r.count))) ||
        overlap a.first a.count r.metaFirst r.metaCount)) with
    | some r => [i.blame s 0x15 0x18 (some r.region)]
    | none => [])

/-! ## 0x19 to 0x1C -/

/-- The guarantees charged to a group do not exceed CEIL_PCT of its deliverable bandwidth, both as exact fractions (R107). -/
def ceilingOk (h : Hub) (nf : Forme) (g : IGroup) : Bool :=
  let c := chargedFrac nf g.igrp
  decide (c.1 * 25600 ≤ nf.ceilPct * h.delivNum g * c.2)

/-- A commit changes what a slice is charged to a group (R107). -/
def chargeMoves (f nf : Forme) (g s : Nat) : Bool :=
  let old := ((mapGet f.slices s).map (fun x => x.chargedTo g)).getD (0, 1)
  let new := (mapGetD nf.slices s {}).chargedTo g
  decide (old.1 * new.2 ≠ new.1 * old.2)

/-- CEILING: checked on each group in which the image changes something, a slice's charge or the group's own record; a commit that changes
nothing there is admitted (R291). The METERS record of each named slice whose charge changes fails, or the INTERLEAVE record (DEDUCED, log
entry 151). -/
def admitCeiling (h : Hub) (i : Img) (nf : Forme) : List Refused :=
  nf.igroups.flatMap (fun g =>
    let charged := i.named.filter (chargeMoves h.forme nf g.igrp)
    let own := (i.ofType 2).filter (fun r => r.igroup.igrp == g.igrp)
    if (charged.isEmpty && own.isEmpty) || ceilingOk h nf g then []
    else charged.map (fun s => i.blame s 0x17 0x19 (some g.igrp)) ++ own.map (fun r => r.refuse 0x19 (some g.igrp)))

def admitSheet (h : Hub) (i : Img) (nf : Forme) : List Refused :=
  (i.ofType 4).flatMap (fun r =>
    let g := r.sched
    whenBad (decide (g.sheetNs < max 1000 (800 * g.hops + 200)) || (decide (g.beatLink ≠ 0xFF) && h.linkAbsent g.beatLink)) (r.refuse 0x1A (some g.group))) ++
  i.named.flatMap (fun s =>
    let g := (mapGetD nf.slices s {}).group
    whenBad (!nf.scheds.any (fun r => r.group == g)) (i.blame s 0x10 0x1A (some g)))

def admitRoute (h : Hub) (i : Img) (nf : Forme) : List Refused :=
  (i.ofType 5).flatMap (fun r => match r.pairs.find? (fun e => decide (nf.hubNum = some e.1) || h.linkAbsent e.2) with
    | some e => [r.refuse 0x1B (some e.1)]
    | none => []) ++
  i.named.flatMap (fun s => match (mapGetD nf.slices s {}).links.find? (fun e => (mapGet nf.routes e.1).isNone) with
    | some e => [i.blame s 0x1A 0x1B (some e.1)]
    | none => [])

def admitMode (i : Img) (nf : Forme) : List Refused :=
  i.named.flatMap (fun s =>
    let x := mapGetD nf.slices s {}
    whenBad (nf.slices.any (fun e => decide (e.2.group = x.group) && decide (e.2.cr7 ≠ x.cr7))) (i.blame s 0x10 0x1C (some x.group)))

/-! ## The whole admission -/

/-- The re-check of step 6 (R100, R103). -/
def recheck (h : Hub) (i : Img) (nf : Forme) : Option Refused :=
  (lowestRefusal (admitBusy h i nf)).or (lowestRefusal (admitState h i nf))

/-- Step 5: the first code, in ascending order, that some record fails. -/
def admitImage (h : Hub) (i : Img) (nf : Forme) : Option Refused :=
  [fun _ => admitSeq h i, fun _ => admitDevice i, fun _ => admitScope h i, fun _ => admitAbsent h i nf, fun _ => admitLimit h i nf,
   fun _ => admitDouble h i nf, fun _ => admitBusy h i nf, fun _ => admitState h i nf, fun _ => admitHold i nf, fun _ => admitFuse i nf,
   fun _ => admitIgrp i nf, fun _ => admitSealed h i nf, fun _ => admitCeiling h i nf, fun _ => admitSheet h i nf,
   fun _ => admitRoute h i nf, fun _ => admitMode i nf].findSome? (fun (c : Unit → List Refused) => lowestRefusal (c ()))

end Sys2Proof.Machine
end

