-- ==== Sys2Proof/Machine/Commit.lean ====
section
/-! DEFINITION. The commit engine (R97 to R105): its registers, the table switch of step 8, what becomes of removed resources. -/
namespace Sys2Proof.Machine

/-! ## The grant part of a mirror (R66 to R68, R92) -/

/-- A list of bytes filled with zeros to a length. -/
def padTo (n : Nat) (l : List Byte) : List Byte := l ++ zeros (n - l.length)

/-- A granule range lies in a sealed region of a forme. -/
def Forme.sealedRange (f : Forme) (r : GRange) : Bool :=
  f.sealedRegs.any (fun x => decide (x.first ≤ r.first) && decide (r.first + r.count ≤ x.first + x.count))

/-- A RANGE entry of the mirror, SEALED and EXCL computed by the hub (R92). -/
def Forme.rangeEntry (f : Forme) (s : Nat) (r : GRange) : Nat :=
  r.first + r.count * 2 ^ 20 + b2n (f.sealedRange r) * 2 ^ 40 + b2n ((rangeChans f.igroups r).all (f.exclOf s).contains) * 2 ^ 41 + r.igrp * 2 ^ 42

/-- Bytes 0x000 to 0x6FF of the mirror of a slice (R66). A PART record that names all 128 cells of an array stays a PART entry: it is not
shown in ARRAYS, and the slice does not count as holding the array whole (DESIGN CHOICE, log entry 152). -/
def Forme.grantBytes (f : Forme) (s seq : Nat) : List Byte :=
  let x := mapGetD f.slices s {}
  let sheet := match f.scheds.find? (fun r => r.group == x.group) with
    | some r => r.sheetNs
    | none => 0
  toLE 4 0x524d4c53 ++ toLE 2 1 ++ toLE 2 s ++ toLE 2 (f.hubNum.getD 0) ++ toLE 1 (b2n (f.hard s)) ++ toLE 1 (b2n x.cr7) ++ toLE 2 x.ctxEn ++
  toLE 1 x.parts.length ++ toLE 1 x.ranges.length ++ toLE 8 seq ++ toLE 4 x.cells.length ++ toLE 1 x.fuse.length ++ toLE 1 x.queues.length ++ zeros 34 ++
  toLE 32 (maskOf x.arrays) ++
  padTo 32 (x.fuse.flatMap (fun g => toLE 4 (g.first + (g.rows - 1) * 2 ^ 8 + (g.cols - 1) * 2 ^ 12))) ++
  (List.range 8).flatMap (fun k => toLE 8 (x.siteEng.getD k 0)) ++
  (List.range 4).flatMap (fun m => let y := x.meters.getD m {}; toLE 4 y.guar ++ toLE 2 y.weight ++ zeros 10) ++
  padTo 32 (x.queues.flatMap (fun q => toLE 4 (q.1 + (q.2 - 1) * 2 ^ 16))) ++
  toLE 1 x.moverGuar ++ zeros 1 ++ toLE 2 x.moverWeight ++ toLE 2 x.walkerWeight ++ toLE 2 x.msixGuar ++ toLE 2 x.msixWeight ++ zeros 22 ++
  toLE 32 (maskOf x.check) ++ toLE 64 (maskOf x.keys) ++ toLE 64 (maskOf (x.links.map (·.1))) ++
  toLE 2 x.group ++ zeros 2 ++ toLE 4 sheet ++ toLE 1 x.vfPort ++ zeros 1 ++ toLE 2 x.vfIndex ++ zeros 4 ++ toLE 8 x.holdBase ++ zeros 8 ++
  padTo 768 (x.parts.flatMap (fun p => toLE 2 p.1 ++ zeros 6 ++ toLE 16 p.2)) ++
  padTo 512 (x.ranges.flatMap (fun r => toLE 8 (f.rangeEntry s r)))

/-! ## Resources that a commit removes (R105) -/

/-- What a slice's old records name and its new ones do not, as (kind, number). -/
def SliceRec.removed (old new : SliceRec) : List (Nat × Nat) :=
  ((old.cells.filter (fun c => !new.holdsCell c)).map (fun c => (rkCELL, c))) ++
  (((rangeGranules old.ranges).filter (fun g => !new.holdsGranule g)).map (fun g => (rkGRAN, g))) ++
  ((old.engines.filter (fun e => !new.engines.contains e)).map (fun e => (rkENGINE, e.1 * 64 + e.2))) ++
  ((old.queueIds.filter (fun q => !new.queueIds.contains q)).map (fun q => (rkQUEUE, q))) ++
  ((old.check.filter (fun n => !new.check.contains n)).map (fun n => (rkCHECK, n))) ++
  ((old.keys.filter (fun m => !new.keys.contains m)).map (fun m => (rkKEY, m))) ++
  (((old.links.filter (fun l => !new.links.contains l))).map (fun l => (rkLINK, l.1)))

/-- An in-flight item still uses a removed resource. -/
def Hub.inUse (h : Hub) (r : Releasing) : Bool :=
  let n := r.num
  let onWay (q : Req) : Bool := match q.stage with
    | .flight => true
    | .queued => true
    | .sealedGo => true
    | .window => true
    | _ => false
  if r.kind = rkCELL then
    h.reqs.any (fun e => onWay e.2 && decide ((windowOf (e.2.pa % 2 ^ 42)).map (·.1) = some n)) ||
    (h.flag (rSLM_MOVE r.slice) fSLM_MOVE_BUSY &&
      (decide ((h.rt r.slice).moving.1 = n / 128) || decide ((h.rt r.slice).moving.2 = n / 128)))
  else if r.kind = rkGRAN then h.reqs.any (fun e => onWay e.2 && decide (e.2.pa % 2 ^ 42 / GRAN = n))
  else if r.kind = rkENGINE then (mapGet (h.site (n / 64)).closing (n % 64)).isSome
  else if r.kind = rkQUEUE then h.items.any (fun e => decide (e.2.queue = n))
  else if r.kind = rkCHECK then h.items.any (fun e => decide (e.2.slice = some r.slice) && dCheck e.2.desc && decide (dCkch e.2.desc = n))
  else if r.kind = rkKEY then false
  else h.tags.any (fun t => decide (t.2.slice = r.slice) && decide (t.2.hub = n) && t.2.freeAt.isNone) ||
    h.quiesces.any (fun q => decide (q.2.slice = r.slice) && decide (q.2.hub = n))

/-- A removed resource is assignable again: cells and granules have been scrubbed, a queue's state is gone. -/
def Hub.released (h : Hub) (r : Releasing) : Hub :=
  let h1 : Hub := { h with releasing := h.releasing.erase r }
  let h2 := if r.kind = rkCELL then h1.zeroCells [r.num]
    else if r.kind = rkGRAN then h1.zeroGranule r.num
    else if r.kind = rkQUEUE then h1.setQrt r.num {}
    else h1
  h2.setF rSLM_COMMIT_STS fSLM_COMMIT_STS_RELEASING (b2n (!h2.releasing.isEmpty))

/-- RESOURCE_RELEASE (R105): the last in-flight item that uses a removed resource has ended. -/
def execResourceRelease (i : Nat) (s : State) : Res :=
  onHub s (fun h => match h.releasing[i]? with
    | none => h
    | some r => if h.inUse r then h else h.released r)

/-- An item that a commit ends with a status: at its current chunk where a mover runs it. -/
def Hub.endForCommit (h : Hub) (i status : Nat) : Hub :=
  match h.item i with
  | none => h
  | some t => if t.isMover && t.started && decide (t.st = .running) then h.setItem i { t with squash := some status } else h.failItem i status

/-- A DELIVER or ZERO of a slot that a commit removes is reported failed; the answer to a key that has left is no one's any more (R105). -/
def Hub.failKeyOp (h : Hub) (s n : Nat) : Hub :=
  match mapGet h.keyJobs s with
  | none => h
  | some j =>
    if (j.op = kyDELIVER ∨ j.op = kyZERO) ∧ getFld j.ctl fKEY_CTL_SLOT = n then
      let loose (w : Nat × WinReq) : Nat × WinReq := if w.2.key = some s then (w.1, { w.2 with key := none }) else w
      let h1 : Hub := { h with sites := h.sites.map (fun st => (st.1, { st.2 with wins := st.2.wins.map loose })) }
      h1.keyOpDone s 1
    else h

/-- What the removal of one resource does to the work that uses it, under the old tables (R59, R105, R370, R434, R460, R462). -/
def Hub.dropResource (h : Hub) (s : Nat) (r : Nat × Nat) : Hub :=
  let n := r.2
  if r.1 = rkENGINE then h.closeEngine (n / 64) (n % 64)
  else if r.1 = rkQUEUE then
    (h.cutQueue n).setF (rFAB_Q_RING n) fFAB_Q_RING_EN 0
  else if r.1 = rkCHECK then
    (h.itemsWhere (fun t => decide (t.slice = some s) && dCheck t.desc && decide (dCkch t.desc = n))).foldl (fun h i => h.endForCommit i stCHECK) h
  else if r.1 = rkKEY then
    let is := h.itemsWhere (fun t => decide (t.slice = some s) && decide (dOpcode t.desc = 7) && decide (dSlot t.desc = n))
    ((is.foldl (fun h i => match h.item i with
      | some t => h.loadErr i s 7 t
      | none => h) h).failKeyOp s n).zeroSlot n
  else if r.1 = rkLINK then
    (match ((h.slD s).links.find? (fun l => l.1 == n)) with
     | some l => h.sendQuiesce s n l.2 1
     | none => h)
  else h

/-! ## Step 8 (R101) -/

/-- A sealed region starts afresh: new keys, a zero root, no loss, its next sweep counted from now (R314). -/
def Hub.freshRegion (h : Hub) (r : Nat) : Hub :=
  let (side, h0) := h.newSide
  let h1 := h0.setSeal r { cur := side, base := h.now }
  ((h1.setReg (rUMB_REG_STS r) 0).setF (rUMB_REG_STS r) fUMB_REG_STS_STATE 1).setReg (rUMB_REG_SWEEP r) 0

/-- A region's registers and keys gone with its record. -/
def Hub.dropRegion (h : Hub) (r : Nat) : Hub :=
  ({ h with seals := mapDel h.seals r }.setReg (rUMB_REG_STS r) 0).setReg (rUMB_REG_SWEEP r) 0

/-- The unverifiable-line list emptied. -/
def Hub.clearLost (h : Hub) : Hub :=
  ((List.range 64).foldl (fun h k => h.setReg (rUMB_LOSTi k) 0) h).setF rUMB_STS fUMB_STS_LOST_N 0

/-- The bytes of HBM that stand where a new forme keeps their line and their encryption; the others have not been written
under it. -/
def Hub.keepHbm (h : Hub) (nf : Forme) (fresh : List Nat) : Hub :=
  let ig (f : Forme) (g : Nat) : Option IGroup := f.igroups.find? (fun r => decide (r.first ≤ g) && decide (g < r.first + r.count))
  let sr (f : Forme) (g : Nat) : Option Nat := (f.sealedRegs.find? (fun r => decide (r.first ≤ g) && decide (g < r.first + r.count))).map (·.region)
  let same (g : Nat) : Bool := decide (ig h.forme g = ig nf g) && decide (sr h.forme g = sr nf g) &&
    (match sr nf g with | some r => !fresh.contains r | none => true) &&
    ((ig nf g).isSome || decide (nf.igroups.any (fun r => r.chans.contains (g / 768)) = h.forme.igroups.any (fun r => r.chans.contains (g / 768))))
  { h with hbm := h.hbm.filter (fun e => same (e.1 / GRAN)), zeroed := h.zeroed.filter same }

/-- A schedule group forms (R157): from boundary 0 and sheet 0, its children not yet known. -/
def Hub.formGroup (h : Hub) (r : Sched) (fresh : Bool) : Hub :=
  let g := r.group
  let h1 := h.setGrp g { commitAt := h.now }
  let h2 := if fresh then (((h1.setReg (rQL_GRP_SLIP g) 0).setReg (rQL_GRP_TIME g) 0).setReg (rQL_GRP_SLACK g) (regReset (rQL_GRP_SLACK g)))
    else (h1.setF (rQL_GRP_SLIP g) fQL_GRP_SLIP_CONSEC 0).setF (rQL_GRP_TIME g) fQL_GRP_TIME_ELAPSED 0
  let h3 := (((h2.setReg (rQL_GRP_SHEET g) 0).setReg (rQL_GRP_BND g) 0).setReg (rQL_GRP_STS g) 0).setGState g 1
  (h3.setF (rQL_GRP_STS g) fQL_GRP_STS_ORIGIN (b2n r.origin)).setF (rQL_GRP_STS g) fQL_GRP_STS_PARENT (if r.origin then 31 else r.beatLink)

/-- A schedule group gone with its record. -/
def Hub.dropGroup (h : Hub) (g : Nat) : Hub :=
  [rQL_GRP_STS g, rQL_GRP_SHEET g, rQL_GRP_BND g, rQL_GRP_SLIP g, rQL_GRP_TIME g, rQL_GRP_SLACK g].foldl (fun h a => h.setReg a (regReset a))
    (h.setGrp g {})

/-- The registers that report the hub-wide records (TOP_HUB_ID, MEM_CH_STS, FCOL_CTL, QL_ROUTEh, CKC_APPk, UMB_STS). -/
def Hub.reportHub (h : Hub) : Hub :=
  let f := h.forme
  let h1 := match f.hubNum with
    | some n => (h.setF rTOP_HUB_ID fTOP_HUB_ID_HUB_NUM n).setF rTOP_HUB_ID fTOP_HUB_ID_VALID 1
    | none => h.setReg rTOP_HUB_ID 0
  let h2 := (List.range 768).foldl (fun h c =>
    let g := h.igOfChan c
    (h.setF (rMEM_CH_STS c) fMEM_CH_STS_IGRP (match g with | some r => r.igrp | none => 0)).setF (rMEM_CH_STS c) fMEM_CH_STS_IN_GRP (b2n g.isSome)) h1
  let h3 := (List.range 512).foldl (fun h n => match mapGet f.routes n with
    | some l => (h.setF (rQL_ROUTEh n) fQL_ROUTEh_LINK l).setF (rQL_ROUTEh n) fQL_ROUTEh_VALID 1
    | none => h.setReg (rQL_ROUTEh n) 0) h2
  let h4 := (List.range 32).foldl (fun h k => match f.appends.find? (fun e => e.1 == k) with
    | some e => ((h.setF (rCKC_APPk k) fCKC_APPk_VALID 1).setF (rCKC_APPk k) fCKC_APPk_KIND e.2.1).setF (rCKC_APPk k) fCKC_APPk_NUM e.2.2
    | none => h.setReg (rCKC_APPk k) 0) h3
  (h4.setF rFCOL_CTL fFCOL_CTL_QUIET_MS f.quietMs).setF rUMB_STS fUMB_STS_REGIONS f.sealedRegs.length

/-- A dark array that a commit assigns is lit: its cells blank, its self-test running (R474). -/
def Hub.lightArray (h : Hub) (a : Nat) : Hub :=
  if h.arrMode a = 4 then (h.wipeCells (fun c => decide (c / 128 = a))).setArrMode a 1 else h

/-- An engine that a commit assigns opens (R370). -/
def Hub.grantEngine (h : Hub) (st e : Nat) : Hub :=
  let k := h.site st
  if (mapGet k.closing e).isSome then h
  else (h.setSite st { k with closedEng := k.closedEng.erase e, dead := k.dead.erase e }).engState st e
    (b2n (decide (h.stState st = 3) && decide (e < h.fld (rSITE_STS st) fSITE_STS_ENGINES)))

/-- The traffic generators on channels of which a commit assigns a granule stop where they are (R302, R303). -/
def Hub.stopGenerators (h : Hub) (rs : List GRange) : Hub :=
  (List.range 768).foldl (fun h ch =>
    if h.flag (rMEM_TG_CTL ch) fMEM_TG_CTL_BUSY && (rangeGranules rs).any (fun g => h.granOnChan ch g) then
      (h.tgCut ch).setF (rMEM_TG_CTL ch) fMEM_TG_CTL_ABORTED 1
    else h) h

/-- The grant of a slice written: its class, mode and mirror (R46, R65, R92). -/
def Hub.grantSlice (h : Hub) (s seq : Nat) : Hub :=
  let f := h.forme
  let x := h.slD s
  ((h.setF (rSLM_SLICE_STATE s) fSLM_SLICE_STATE_HARD (b2n (f.hard s))).setF (rSLM_SLICE_STATE s) fSLM_SLICE_STATE_CR7 (b2n x.cr7)).updRt s
    (fun r => { r with grantSeq := seq, grant := f.grantBytes s seq, exclChans := f.exclOf s }) |>.mirrorTick s

/-- A new slice: LIVE, its counters and channels zero, its engines open. -/
def Hub.createSlice (h : Hub) (s seq : Nat) : Hub :=
  let x := h.slD s
  let h1 := ((h.updRt s (fun r => { mirrorSeq := r.mirrorSeq })).grantSlice s seq).zeroAcs s
  let h2 := ((h1.clearCheck s x.check).setReg (rSLM_FAULT s) 0).setReg (rSLM_FAULT_ADDR s) 0
  let h3 := x.engines.foldl (fun h e => h.grantEngine e.1 e.2) h2
  (x.arraysTouched.foldl (fun h a => h.lightArray a) h3).toState s slLIVE

/-- What a restated slice's old tables still have to do before they are switched (R59, R105). -/
def Hub.leaveOld (h : Hub) (s : Nat) (old new : SliceRec) : Hub :=
  let h1 := (old.removed new).foldl (fun h r => h.dropResource s r) h
  let h2 := (setBits (old.ctxEn &&& (0xFFFF ^^^ new.ctxEn)) 16).foldl (fun h c =>
    (h.endContext s c).setF (rHTU_CTX_CFGn s c) fHTU_CTX_CFGn_VALID 0) h1
  if new.cr7 && !old.cr7 then h2.failAllFaults s none else h2

/-- A slice that a commit restates: its number, its records before and after. -/
abbrev Restated := Nat × SliceRec × SliceRec

/-- The hold entries of the HELD slices whose hold area moves, by slice; none where one cannot be read yet (R59). -/
def Hub.movedEntries (h : Hub) (cs : List Restated) : Option (SMap (List (Except Nat (List Byte)))) × Hub :=
  cs.foldl (fun r c => match r.1, (h.rt c.1).saved with
    | some m, some l =>
      if c.2.1.holdBase = c.2.2.holdBase then r
      else (match r.2.readEntries c.1 l.length with
        | (some es, h1) => (some (mapPut m c.1 es), h1)
        | (none, h1) => (none, h1))
    | _, _ => r) (some [], h)

/-- One entry written to a slice's new hold area for the cell that reloads it, and one that did not read kept as such. -/
def Hub.putEntry (h : Hub) (s i : Nat) (e : Except Nat (List Byte)) : Hub :=
  match e with
  | .ok b => h.writeEntry s i (((((h.slD s).cells)[i]?).map ReqSrc.hold).getD .management) b
  | .error st => h.updRt s (fun r => { r with badEntries := mapPut r.badEntries i st })

/-- A restated slice under the new tables (R59, R105). -/
def Hub.enterNew (h : Hub) (s seq : Nat) (old new : SliceRec) (entries : List (Except Nat (List Byte))) : Hub :=
  let h1 := (h.grantSlice s seq).clearCheck s (new.check.filter (fun n => !old.check.contains n))
  let h2 := (new.engines.filter (fun e => !old.engines.contains e)).foldl (fun h e => h.grantEngine e.1 e.2) h1
  let h3 := (new.arraysTouched.filter (fun a => !old.arraysTouched.contains a)).foldl (fun h a => h.lightArray a) h2
  let h4 := entries.zipIdx.foldl (fun h e => h.putEntry s e.2 e.1) h3
  let h5 := if old.vfPort ≠ new.vfPort ∨ old.vfIndex ≠ new.vfIndex then h4.emptyMailbox s else h4
  let h6 := if old.group ≠ new.group ∧ h5.stateOf s = 2 then h5.updRt s (fun r => { r with holdWritten := true }) else h5
  { h6 with closedPairs := h6.closedPairs.filter (fun p => !(decide (p.1 = s) && new.links.any (fun l => decide (l.1 = p.2.1) && decide (l.2 = p.2.2)))) }

/-- The digest chain of R96. -/
def Hub.chainDigest (h : Hub) (i : Img) : Hub :=
  let prev := if i.isPartial then (List.range 6).flatMap (fun n => toLE 8 (h.reg (rSLM_FORME_DIGESTn n)).toNat) else zeros 48
  (h.putRegs rSLM_FORME_DIGESTn (sha384 (prev ++ i.digest))).setReg rSLM_LIVE_SEQ (BitVec.ofNat 64 i.seq)

/-- The slices that an image restates. -/
def Hub.restated (h : Hub) (i : Img) (nf : Forme) : List Restated :=
  i.named.filterMap (fun s => (h.sl s).map (fun o => (s, o, mapGetD nf.slices s {})))

/-- Step 8: every changed table is switched; new slices are LIVE, removed ones DRAINING (R85, R101, R103 to R105). -/
def Hub.switchTables (h : Hub) (i : Img) (nf : Forme) (entries : SMap (List (Except Nat (List Byte)))) : Hub :=
  let whole := !i.isPartial
  let named := i.named
  let changed := h.restated i nf
  let gone := changed.flatMap (fun c => (c.2.1.removed c.2.2).map (fun r => ({ slice := c.1, kind := r.1, num := r.2 } : Releasing)))
  let regions := (i.ofType 3).map (fun r => r.sealedRec.region)
  let oldGroups := h.forme.scheds.map (·.group)
  let ended := oldGroups.filter (fun g => decide (h.fld (rQL_GRP_STS g) fQL_GRP_STS_STATE = 5))
  let oldIgs := h.forme.igroups.map (·.igrp)
  let oldRegs := h.forme.sealedRegs.map (·.region)
  let assigned := (i.ofType 3).map (fun r => (({ first := r.sealedRec.first, count := r.sealedRec.count, igrp := 0 } : GRange))) ++
    (i.ofType 3).map (fun r => (({ first := r.sealedRec.metaFirst, count := r.sealedRec.metaCount, igrp := 0 } : GRange))) ++
    named.flatMap (fun s => (mapGetD nf.slices s {}).ranges)
  let h1 := changed.foldl (fun h c => h.leaveOld c.1 c.2.1 c.2.2) h
  let h2 := h1.keepHbm nf regions
  let h3 : Hub := { h2 with forme := nf, releasing := h2.releasing ++ gone }
  let h4 := if whole then (oldRegs.foldl (fun (h : Hub) r => h.dropRegion r) { h3 with nodeCache := [] }).clearLost else h3
  let h5 := regions.foldl (fun h r => h.freshRegion r) h4
  let h6 := (nf.igroups.filter (fun g => whole || !oldIgs.contains g.igrp)).foldl (fun h g =>
    ({ h with groupMeters := mapDel h.groupMeters g.igrp }.setReg (rMTR_GRP_STS g.igrp) (regReset (rMTR_GRP_STS g.igrp))).setReg (rMTR_GRP_BW g.igrp) 0) h5
  let h7 := if whole then (oldGroups.filter (fun g => !(nf.scheds.any (fun r => r.group == g)))).foldl (fun h g => h.dropGroup g) h6 else h6
  let h8 := ((i.ofType 4).map ImgRec.sched).foldl (fun h r =>
    if whole || !oldGroups.contains r.group then h.formGroup r true else if ended.contains r.group then h.formGroup r false else h) h7
  let h9 := (h8.chainDigest i).reportHub.stopGenerators assigned
  let h10 := changed.foldl (fun h c => h.enterNew c.1 i.seq c.2.1 c.2.2 (mapGetD entries c.1 [])) h9
  let h11 := (named.filter (fun s => (h.sl s).isNone)).foldl (fun h s => h.createSlice s i.seq) h10
  let h12 := i.removes.foldl (fun h s => h.startDrain s) h11.updateScales
  let h13 := gone.foldl (fun h r => if h.inUse r then h else h.released r) h12
  (h13.setF rSLM_COMMIT_STS fSLM_COMMIT_STS_RELEASING (b2n (!h13.releasing.isEmpty))).pump

/-! ## The commit as a whole (R99, R100) -/

/-- Steps 2 to 6 of an image that a reader gives: refused, or the image and the forme it makes. -/
def Hub.checkImage (h : Hub) (f : Fuses) (rd : Reader) : Chk (Img × Forme) :=
  match takeImage rd (f.hashFor h.lcState) with
  | .error e => .error e
  | .ok i =>
    let nf := i.forme h.forme (h.flag rTOP_STRAP fTOP_STRAP_CR7)
    match (admitImage h i nf).or (recheck h i nf) with
    | some e => .error e
    | none => .ok (i, nf)

/-- A refusal as SLM_COMMIT_STS and SLM_COMMIT_DETAIL show it. -/
def Hub.refuseCommit (h : Hub) (e : Refused) : Hub :=
  let rec_ := e.record.getD 0xFFFFFFFF
  let (sl, hw) := match e.who with
    | .nobody => (Config.detailOpen 0 e.code rec_, 0)
    | .hubwide => (0xFFF, 1)
    | .slice s => (s, 0)
  let h1 := ((h.setF rSLM_COMMIT_STS fSLM_COMMIT_STS_CODE e.code).setF rSLM_COMMIT_STS fSLM_COMMIT_STS_RECORD rec_).setF rSLM_COMMIT_STS
    fSLM_COMMIT_STS_REFUSED 1
  ((h1.setF rSLM_COMMIT_DETAIL fSLM_COMMIT_DETAIL_SLICE sl).setF rSLM_COMMIT_DETAIL fSLM_COMMIT_DETAIL_HUBWIDE hw).setF rSLM_COMMIT_DETAIL
    fSLM_COMMIT_DETAIL_AUX (e.aux.getD (Config.detailOpen 1 e.code rec_))

/-- A commit or check that passed: CODE, RECORD and every field of DETAIL are 0 (R99). -/
def Hub.passCommit (h : Hub) : Hub :=
  (((h.setF rSLM_COMMIT_STS fSLM_COMMIT_STS_CODE 0).setF rSLM_COMMIT_STS fSLM_COMMIT_STS_RECORD 0).setF rSLM_COMMIT_STS fSLM_COMMIT_STS_DONE 1).setReg
    rSLM_COMMIT_DETAIL 0

/-- The request by which the hub reads an image in HBM: no slice's, and of traffic class 15. -/
def imageReq : Req := { src := .own (some 15), mgmt := true }

/-- A read of an image in HBM granules that no slice holds: what it answers, and the hub after it (R97). `ec` gives what is found by line of
the image. -/
def Hub.readImage (h : Hub) (base : Nat) (ec : Nat → Ecc) (off n : Nat) : OwnSays × Hub :=
  let a := base + off
  if HBM_END < a + n then (.failed fsACCESS, h)
  else h.ownRead imageReq (h.hubNum * 2 ^ 42 + a) n (fun k => ec (k + (a / 64 - base / 64)))

/-- The image as the commit engine reads it. Such a read makes no violation entry and no fault record, and a commit that is refused changes
nothing by it (R97, R99). -/
def Hub.hbmReader (h : Hub) (base : Nat) (ec : Nat → Ecc) : Reader := fun off n =>
  match (h.readImage base ec off n).1 with
  | .data b => some b
  | _ => none

/-- A part of an image cannot be read yet: what reads it goes on later (log entry 137). Its length stands in the header at `len`, and is at
most `most`. -/
def Hub.imageWaits (h : Hub) (base : Nat) (ec : Nat → Ecc) (len most : Nat) : Bool :=
  match (h.readImage base ec 0 64).1 with
  | .blocked => true
  | .failed _ => false
  | .data hd => decide ((h.readImage base ec 0 (min (leAt hd len 4) most)).1 = .blocked)

/-- A commit ends: PHASE 0, and vector 3 on the physical functions of both ports. -/
def Hub.commitOver (h : Hub) : Hub :=
  (({ h with commitJob := none }.setF rSLM_COMMIT_STS fSLM_COMMIT_STS_PHASE 0).raisePort 0 3).raisePort 1 3

/-- The running commit reaches its end: refused, passed, or applied. -/
def Hub.commitDone (h : Hub) (f : Fuses) (ec : Nat → Ecc) : Hub :=
  match h.commitJob with
  | none => h
  | some checkOnly =>
    let base := h.fld rSLM_IMG_BASE fSLM_IMG_BASE_ADDR
    if h.halted || h.imageWaits base ec 0x18 2097152 then h
    else
      match h.checkImage f (h.hbmReader base ec) with
      | .error e => (h.refuseCommit e).commitOver
      | .ok (i, nf) =>
        if checkOnly then h.passCommit.commitOver
        else match (h.readImage base ec 0 i.len).2.movedEntries (h.restated i nf) with
          | (none, h1) => h.orHalted h1
          | (some es, h1) => (h1.switchTables i nf es).passCommit.commitOver

/-- COMMIT_DONE (R99 to R105): steps 2 to 9 as one step. The command says what the stack and Umbra report of one line of the image. -/
def execCommitDone (e : LineEcc) (s : State) : Res := onHubF s (fun f h => h.commitDone f (atLine e.line e.ecc))

/-! ## The commit registers (R97, R98, R451, R473) -/

/-- SLM_IMG_BASE written: an address that is not 4 KiB aligned gets an error response. -/
def Hub.writeImgBase (h : Hub) (o : Origin) (v : Word) : Hub :=
  h.mgrWrite o (fun h => if v.toNat % 4096 ≠ 0 then h.regErr else h.regOk.writeRW rSLM_IMG_BASE [fSLM_IMG_BASE_ADDR] [] v)

/-- The fault source HUB has been stopped by a fatal fault (R390). -/
def Hub.hubUnitStopped (h : Hub) : Bool := h.stoppedInst uHUB 0

/-- SLM_COMMIT_CTL written. GO gets an error response while a commit runs, with CHECK_ONLY beside it, while LCS_REQ is BUSY, in dark
and shade, and where the commit unit has been stopped. -/
def Hub.writeCommitCtl (h : Hub) (o : Origin) (v : Word) : Hub :=
  h.mgrWrite o (fun h =>
    let go := vFlag v fSLM_COMMIT_CTL_GO
    let chk := vFlag v fSLM_COMMIT_CTL_CHECK_ONLY
    if !go && !chk then h.regOk
    else if h.commitJob.isSome || (go && chk) || h.hubUnitStopped then h.regErr
    else if go && (h.lcsJob.isSome || decide (2 ≤ h.pwrState)) then h.regErr
    else { h.regOk with commitJob := some chk }.setF rSLM_COMMIT_STS fSLM_COMMIT_STS_PHASE 1)

/-- COMMIT_GO (R98, R100). -/
def execCommitGo (o : Origin) (s : State) : Res := onReg o s (fun h => h.writeCommitCtl o (setFld 0 fSLM_COMMIT_CTL_GO 1))

/-- COMMIT_CHECK_ONLY (R98, R99). -/
def execCommitCheckOnly (o : Origin) (s : State) : Res := onReg o s (fun h => h.writeCommitCtl o (setFld 0 fSLM_COMMIT_CTL_CHECK_ONLY 1))

/-- SLM_COMMIT_STS written: DONE and REFUSED are cleared by a 1. -/
def Hub.writeCommitSts (h : Hub) (o : Origin) (v : Word) : Hub :=
  h.mgrWrite o (fun h => h.regOk.writeRW rSLM_COMMIT_STS [] [fSLM_COMMIT_STS_DONE, fSLM_COMMIT_STS_REFUSED] v)

end Sys2Proof.Machine
end

