-- ==== Sys2Proof/Machine/Boot.lean ====
section
/-! DEFINITION. Start-up (the step table, R36 to R40, R475 to R479), the resets and what survives them (R480, R481), Kelvy's
restart (R482), and the loss of power. -/
namespace Sys2Proof.Machine

/-! ## Firmware images (R476) -/

/-- A firmware image that has passed its checks. -/
structure FwImg where
  body : List Byte
  entry : Nat
  meas : List Byte
  unbound : Bool
  deriving DecidableEq, Repr

/-- The checks of R476, answering as KLV_IMG_CTL.RESULT codes: 3 a read failed, 1 header or CRC wrong, 2 signature refused. In
OPEN with a blank FORME_HASH_OPEN an image verifies under its own key. -/
def checkFirmware (f : Fuses) (st : Nat) (rd : Reader) : Except Nat FwImg :=
  match rd 0 64 with
  | none => .error 3
  | some h =>
    let len := leAt h 0x10 4
    let entry := leAt h 0x14 4
    if !(decide (leAt h 0 4 = 0x57464C4B) && decide (leAt h 4 2 = 1) && decide (leAt h 6 2 = 0x0302) && decide (len % 8 = 0) &&
        decide (len ≤ 1048576) && decide (320 ≤ len) && decide (entry % 4 = 0) && decide (64 ≤ entry) && decide (entry < len - 256) &&
        allZero (sub h 0x18 36) && decide (leAt h 0x3c 4 = crc32c (h.take 0x3c))) then .error 1
    else match rd 0 len with
      | none => .error 3
      | some b =>
        let signed := b.take (len - 256)
        let g := b.drop (len - 256)
        if !(decide (leAt g 0 4 = 0x47495346) && decide (leAt g 4 2 = 1) && zeroAt g 6 2 && zeroAt g 0xc8 52 &&
            decide (leAt g 0xfc 4 = crc32c (g.take 0xfc))) then .error 1
        else
          let hash := f.hashFor st
          let unbound := decide (st = lcOPEN) && decide (hash = 0)
          let digest := sha384 signed
          if (unbound || hashMatches hash (sha384 (sub g 8 96))) &&
              ecdsaVerify (beNat (sub g 8 48)) (beNat (sub g 0x38 48)) digest (beNat (sub g 0x68 48)) (beNat (sub g 0x98 48)) then
            .ok { body := b, entry := entry, meas := digest, unbound := unbound }
          else .error 2

/-- A slot of the flash as a reader gives it. -/
def Hub.flashReader (h : Hub) (slot : Nat × Nat) (ok : Bool) : Reader := fun off n =>
  if ok && decide (off + n ≤ slot.2) then some (h.flashGet (slot.1 + off) n) else none

/-! ## KLV_BOOT -/

def Hub.bootStage (h : Hub) : Nat := h.fld rKLV_BOOT fKLV_BOOT_STAGE
def Hub.setStage (h : Hub) (n : Nat) : Hub := h.setF rKLV_BOOT fKLV_BOOT_STAGE n

/-- Steps 6 and 7 with an image that passed: measured, in a half of Kelvy's SRAM, running (R476, R479). -/
def Hub.runFirmware (h : Hub) (w : FwImg) : Hub :=
  let h1 := (h.putRegs rKEY_MEASn w.meas).setF rKLV_BOOT fKLV_BOOT_UNBOUND (b2n w.unbound)
  { (h1.setF rKLV_BOOT fKLV_BOOT_HALF 0).setStage 6 with
    klv := { h.klv with halfA := w.body, halfB := [], entry := w.entry, halted := false, kickedAt := h.now, stagedMeas := [] } }.syncService

/-- Step 6 and what follows: the recovery path waits at STAGE 7; else the image in flash runs, or FW_ERR and the recovery path
(R40, R478, R479). -/
def Hub.startFirmware (h : Hub) (f : Fuses) (flashOk : Bool) : Hub :=
  let src := h.fld rTOP_STRAP fTOP_STRAP_BOOT_SRC
  if h.flag rTOP_STRAP fTOP_STRAP_RECOV then (h.setF rKLV_BOOT fKLV_BOOT_SOURCE 3).setStage 7
  else if src = 2 then (h.setF rKLV_BOOT fKLV_BOOT_SOURCE 2).setStage 7
  else match checkFirmware f h.lcState (h.flashReader slotFW flashOk) with
    | .ok w => (h.setF rKLV_BOOT fKLV_BOOT_SOURCE src).runFirmware w
    | .error _ => ((h.setF rKLV_BOOT fKLV_BOOT_FW_ERR 1).setF rKLV_BOOT fKLV_BOOT_SOURCE 3).setStage 7

/-! ## Start-up steps -/

/-- Step 1: the straps as sampled; BOOT_SRC 11 marks BAD_STRAP (R36 to R38). -/
def Hub.sampleStraps (h : Hub) (e : BootEnv) : Hub :=
  ((((((h.setF rTOP_STRAP fTOP_STRAP_BOOT_SRC e.bootSrc).setF rTOP_STRAP fTOP_STRAP_HOST_CFG e.hostCfg).setF rTOP_STRAP fTOP_STRAP_CR7 (b2n e.cr7)).setF
    rTOP_STRAP fTOP_STRAP_TEST (b2n e.test)).setF rTOP_STRAP fTOP_STRAP_RECOV (b2n (!e.recovN))).setF rTOP_STRAP fTOP_STRAP_LCX_EN (b2n e.lcxEn)).setF
    rTOP_STRAP fTOP_STRAP_BAD_STRAP (b2n (decide (e.bootSrc % 4 = 3)))

/-- Step 2: a pending row resumed, the state decoded; TEST_STRAP is ignored outside OPEN (R39, R441, R451). -/
def startState (f : Fuses) (h : Hub) (e : BootEnv) : Fuses × Hub :=
  let (f1, h1) := decodeState f h e.stuckCopies
  (f1, h1.setF rTOP_STRAP fTOP_STRAP_TEST_IGNORED (b2n (h1.flag rTOP_STRAP fTOP_STRAP_TEST && decide (h1.lcState ≠ lcOPEN))))

/-- Step 3: the random source seeds the DRBG and a nonce is drawn; a failed source stops the boot (R447, R454, R455). -/
def Hub.startRandom (h : Hub) (e : BootEnv) : Hub :=
  if e.rngOk then ({ h with generated := 0, rngFails := 0, rngBad := false }.drawNonce).setStage 2
  else (({ h with rngFails := 3, rngBad := true }.setF rKEY_RNG_STS fKEY_RNG_STS_FAIL 1).setF rKEY_RNG_STS fKEY_RNG_STS_FAILS 3).setStage 8

/-- Step 4: the host ports train in the HOST_CFG arrangement (R372). -/
def Hub.startHost (h : Hub) (e : BootEnv) : Hub :=
  ((List.range 4).foldl (fun h k =>
    let r := rHOST_LINK_STS k
    let t := e.hostTrain.getD k (0, 0)
    if !h.linkUsed k then h
    else if decide (1 ≤ t.1) && decide (t.1 ≤ 16) && decide (1 ≤ t.2) && decide (t.2 ≤ 6) then
      ((h.setF r fHOST_LINK_STS_STATE 2).setF r fHOST_LINK_STS_WIDTH t.1).setF r fHOST_LINK_STS_SPEED t.2
    else h.setF r fHOST_LINK_STS_STATE 1) h).setStage 3

/-- NumVFs and VF Enable as the host writes them on each link that has trained, before the boot's commit (R372). -/
def Hub.hostConfig (h : Hub) (e : BootEnv) : Hub :=
  (List.range 4).foldl (fun h k =>
    let n := e.vfs.getD k 0
    if decide (n ≠ 0) && decide (h.fld (rHOST_LINK_STS k) fHOST_LINK_STS_STATE = 2) then h.setVfs k n true else h) h

/-- The service record read and applied: remap entries, retired channels and retired arrays (R477, R478). -/
def Hub.applyService (h : Hub) (e : BootEnv) : Hub :=
  match (if e.flashOk then h.svcBest else none) with
  | none => h.setF rKLV_BOOT fKLV_BOOT_SVC_ERR 1
  | some (_, _, es) =>
    let rows := (es.filter (fun x => decide (x.typ = 1) && (decide (x.state = 1) || decide (x.state = 2)))).take 8192
    let h1 := rows.zipIdx.foldl (fun h x => (h.setF (rMEM_REMAPi x.2) fMEM_REMAPi_ROWADDR x.1.num).setF (rMEM_REMAPi x.2) fMEM_REMAPi_STATE x.1.state) h
    es.foldl (fun h x =>
      if decide (x.typ = 2) && decide (x.num < 768) then h.setF (rMEM_CH_STS x.num) fMEM_CH_STS_STATE chRETIRED
      else if decide (x.typ = 3) && decide (x.num < 208) then h.setArrMode x.num 3 else h) h1

/-- The stacks that are present, with their channels trained; a retired channel stays retired (R30, R301). -/
def Hub.startStacks (h : Hub) (e : BootEnv) : Hub :=
  (List.range 24).foldl (fun h n =>
    if e.stackMask[n]? = some true then
      (List.range 32).foldl (fun h i =>
        let r := rMEM_CH_STS (32 * n + i)
        if h.chState (32 * n + i) = chRETIRED then h else (h.setF r fMEM_CH_STS_STATE chACTIVE).setF r fMEM_CH_STS_AVAIL 256)
        (h.setF (rMEM_STKn n) fMEM_STKn_PRESENT 1)
    else (List.range 32).foldl (fun h i => h.setReg (rMEM_CH_STS (32 * n + i)) 0) h) h

/-- Hard repair of every entry with STATE 1: freed where it succeeds, STATE 2 where it fails (R299). -/
def Hub.hardRepair (h : Hub) (e : BootEnv) : Hub :=
  (List.range 8192).foldl (fun h i =>
    if h.fld (rMEM_REMAPi i) fMEM_REMAPi_STATE ≠ 1 then h
    else if e.repairFail.contains i then h.setF (rMEM_REMAPi i) fMEM_REMAPi_STATE 2 else h.setReg (rMEM_REMAPi i) 0) h

/-- Every array that is not retired self-tested: in service on a pass, ARRAY_TEST and MODE 1 on a failure (R153, R486). -/
def Hub.testArrays (h : Hub) (fails : List Nat) : Hub :=
  (List.range 208).foldl (fun (h : Hub) a =>
    if h.arrMode a = 3 then h
    else
      let ok := !fails.contains a
      let h1 := ({ h with tests := mapPut h.tests a (h.now, false) }.setF (rARR_TEST a) fARR_TEST_PASS (b2n ok)).setF (rARR_TEST a) fARR_TEST_DUE 0
      if ok then h1.setArrMode a 0 else (h1.setArrMode a 1).failTest a) h

/-- Umbra draws its keys: HBM outside sealed regions reads as noise, every region as zero (R305, R307, R314). -/
def Hub.drawKeys (h : Hub) : Hub :=
  let h1 : Hub := { h with keyDraw := h.draws + 1, draws := h.draws + 1, generated := h.generated + 1, hbm := [], zeroed := [], nodeCache := [] }
  let h2 := (h1.forme.sealedRegs.foldl (fun h r => h.freshRegion r.region) h1).clearLost
  h2.setF rUMB_STS fUMB_STS_READY 1

/-- Steps 2 to 5 but for what only a power-on does; none where the random source stops the boot. -/
def Hub.startMemory (h : Hub) (e : BootEnv) : Hub := (((h.hardRepair e).testArrays e.testFail).drawKeys).setStage 4

/-- The live forme gone: what the hub shows with no forme live (R478). -/
def Hub.noForme (h : Hub) : Hub :=
  let gs := h.forme.scheds.map (·.group)
  let rs := h.forme.sealedRegs.map (·.region)
  let h1 := rs.foldl (fun h r => h.dropRegion r) (gs.foldl (fun h g => h.dropGroup g) h)
  (({ h1 with forme := {} }.putRegs rSLM_FORME_DIGESTn (zeros 48)).setReg rSLM_LIVE_SEQ 0).reportHub

/-- Step 8: the forme in flash committed as a whole image; on a refusal no forme is live, and the trap (R104, R478). -/
def Hub.bootCommit (h : Hub) (f : Fuses) (flashOk : Bool) : Hub :=
  match h.checkImage f (h.flashReader slotFORME flashOk) with
  | .ok (i, nf) => ((h.switchTables i nf []).passCommit).commitOver
  | .error e =>
    (((((h.refuseCommit e).commitOver).noForme).setF rKLV_BOOT fKLV_BOOT_FORME_ERR 1).setF rKLV_BOOT fKLV_BOOT_FORME_CODE e.code).trap

/-- Step 9: firmware enables the links and the sites that are present. -/
def Hub.enablePresent (h : Hub) : Hub :=
  let h1 := (List.range 24).foldl (fun h l => if h.lkState l = lkDISABLED then (h.setF (rQL_LINK_CTL l) fQL_LINK_CTL_EN 1).startBringup l else h) h
  (List.range 8).foldl (fun h s => if h.stState s = stDISABLED then
      ((h.setF (rSITE_CTL s) fSITE_CTL_EN 1).updSite s (fun k => { k with enabledAt := h.now })).setSt s stTRAINING else h) h1

/-! ## What power or a reset cuts short (R444, R485) -/

/-- A flash write cut short: how much of the new contents the slot holds is free (R485). -/
def Hub.cutFlash (h : Hub) : Hub :=
  let part (slot : Nat × Nat) (b : List Byte) : Hub := h.flashPut slot.1 slot.2 (b.take (Config.choice h.now % (b.length + 1)))
  if h.klv.op = some 4 then part slotFW (if h.flag rKLV_BOOT fKLV_BOOT_HALF then h.klv.halfB else h.klv.halfA)
  else if h.klv.op = some 5 then
    part slotFORME (h.hbmGet h.klv.imgAddr (min 2097152 (leAt (h.hbmGet h.klv.imgAddr 64) 0x18 4)))
  else h

/-- What a run of LCS_PROG that power cuts short leaves in its target: free, and within the data (R444). -/
def cutProg (f : Fuses) (h : Hub) : Fuses :=
  match h.progJob with
  | none => f
  | some t =>
    if decide (t = 3) || decide (h.lcState ≠ lcOPEN) || decide (f.target h t ≠ 0) then f
    else f.progTarget h t (fun i => h.progData &&& Config.fuseTook (3 * h.now + i))

/-! ## Power-on -/

/-- What outlives a loss of power: the flash, and how far the random source and the keys have been drawn. -/
def Hub.cold (h : Hub) : Hub := { flash := h.flash, draws := h.draws, keyDraw := h.keyDraw, out := h.out }

/-- The start-up sequence from step 1. -/
def powerOn (f : Fuses) (h : Hub) (e : BootEnv) : Fuses × Hub :=
  let h1 := ({ h.cold with env := e }.sampleStraps e).setStage 1
  if decide (e.bootSrc % 4 = 3) && e.recovN then (f, h1.setStage 8)
  else
    let (f1, h2) := startState f h1 e
    let h3 := h2.startRandom e
    if h3.bootStage = 8 then (f1, h3)
    else
      let h4 := ((h3.startHost e).hostConfig e).applyService e
      let h5 := (h4.startStacks e).startMemory e
      let h6 := (List.range 24).foldl (fun h l => if e.linkMask[l]? = some true then h.setLk l lkDISABLED else h) h5
      let h7 := (List.range 8).foldl (fun h s => if e.siteMask[s]? = some true then h.setSt s stDISABLED else h) h6
      let h8 := h7.startFirmware f1 e.flashOk
      (f1, if h8.bootStage = 6 then (h8.bootCommit f1 e.flashOk).enablePresent else h8)

/-- POWER_ON_RESET (R36, R480): steps 1 to 9 as one step, on a hub that PORST_N has stopped where it stood (R23). -/
def execPowerOnReset (e : BootEnv) (s : State) : Res := onChip s (fun f h => powerOn (cutProg f h) h.cutFlash.failFifos e)

/-! ## Warm reset (R480, R481) -/

/-- Registers that a warm reset leaves as they are (R480; DEDUCED for those the table does not name, log entry 46). -/
def warmKept : RegName → Bool
  | .HUB_ARCH_VER => true
  | .TOP_HUB_ID => true
  | .TOP_STRAP => true
  | .SLM_SLICE_STATE => true
  | .SLM_SLICE_EVT => true
  | .SLM_LIVE_SEQ => true
  | .SLM_FORME_DIGESTn => true
  | .CELL_ECC => true
  | .ARR_STAT => true
  | .ARR_TEST => true
  | .MEM_VIOL_ADDRn => true
  | .MEM_VIOL_INFOn => true
  | .MEM_STKn => true
  | .MEM_CH_STS => true
  | .MEM_CH_ECC => true
  | .MEM_REMAPi => true
  | .MEM_CLSn_c => true
  | .MTR_STSm => true
  | .MTR_GBYTESm => true
  | .MTR_SBYTESm => true
  | .UMB_HALT_ADDR => true
  | .UMB_NC_STS => true
  | .QL_LINK_STS => true
  | .QL_LINK_CTL => true
  | .QL_LINK_DLY => true
  | .QL_LINK_FEC => true
  | .QL_LINK_ERR => true
  | .QL_ROUTEh => true
  | .SITE_STS => true
  | .SITE_CTL => true
  | .SITE_ERR => true
  | .FCOL_STS => true
  | .FCOL_OVF => true
  | .FCOL_Q_PTR => true
  | .FCOL_RST => true
  | .FCOL_ECL => true
  | .FCOL_FATAL_STS => true
  | .FCOL_FATALn_k => true
  | .FCOL_Qi_k => true
  | .WDG_STS => true
  | .CKC_APPk => true
  | .PWR_TEMP => true
  | _ => false

/-- The register at an address survives a warm reset. -/
def keptReg (a : Nat) : Bool := match regFind a with
  | some (r, _) => warmKept r.name
  | none => false

/-- The control words and beat messages that wait on a link's VC 2 sent, before the reset stops the link (R419). -/
def Hub.drainVc2 (h : Hub) : Hub :=
  (List.range 24).foldl (fun h l => (List.range 8).foldl (fun h _ => if (h.link l).vc2.isEmpty then h else h.blockTx l) h) h

/-- A slice after a warm reset (R54, R481). -/
def Hub.warmSlice (h : Hub) (s : Nat) : Hub :=
  let st := h.stateOf s
  let h1 := (h.setF (rSLM_SLICE_STATE s) fSLM_SLICE_STATE_REMOTE_WAIT 0).updRt s (fun r =>
    { recoveries := r.recoveries, mirrorSeq := r.mirrorSeq, grantSeq := r.grantSeq, grant := r.grant, exclChans := r.exclChans })
  if st = 0 then h else if st = 4 ∨ st = 5 then h1.toState s slSCRUB else h1.toState s slLIVE

/-- A quire link after a warm reset: an UP link starts again from steps 5 and 6 of its training, with its delay (R481). -/
def Hub.warmLink (h : Hub) (l : Nat) : Hub :=
  let st := h.lkState l
  let h1 := h.setLink l {}
  if st = lkUP ∨ st = lkUPNONUM then (h1.setLk l lkUPNONUM).sendCredit l
  else if st = lkRETRAINING ∨ st = lkTRAINING then h1.startBringup l else h1

/-- A site after a warm reset: one that was enabled trains again. -/
def Hub.warmSite (h : Hub) (s : Nat) : Hub :=
  let st := h.stState s
  let h1 := h.setSite s {}
  if st = stTRAINING ∨ st = stUP ∨ st = stRETRAINING then (h1.updSite s (fun k => { k with enabledAt := h.now })).setSt s stTRAINING else h1

/-- The fields that the reset changes in registers it keeps (R402, R480). -/
def Hub.warmFields (h : Hub) : Hub :=
  let v := h.fld rFCOL_FATAL_STS fFCOL_FATAL_STS_VALID
  let p := h.fld rFCOL_FATAL_STS fFCOL_FATAL_STS_PRE_RESET
  let h1 := (h.setF rFCOL_FATAL_STS fFCOL_FATAL_STS_VALID 0).setF rFCOL_FATAL_STS fFCOL_FATAL_STS_PRE_RESET (v ||| p)
  let h2 := (h1.setF rFCOL_STS fFCOL_STS_TRAP 0).setF rFCOL_STS fFCOL_STS_HUB_FAULT (h1.fld rFCOL_STS fFCOL_STS_OVF_CONTAINED)
  let h4 := (List.range 768).foldl (fun h c =>
    let h1 := h.setF (rMEM_CH_ECC c) fMEM_CH_ECC_LOST 0
    if h.chState c = chRETRAINING ∨ h.chState c = 5 then h1.setF (rMEM_CH_STS c) fMEM_CH_STS_STATE chACTIVE else h1) h2
  h4.forme.slices.foldl (fun h e => (List.range 4).foldl (fun h m => h.setF (rMTR_STSm e.1 m) fMTR_STSm_SCALE 0x8000) h) h4

/-- What is left of the hub when a warm reset begins. -/
def Hub.warmCore (h : Hub) (e : BootEnv) : Hub :=
  { now := h.now, regs := h.regs.filter (fun r => keptReg r.1), flash := h.flash, forme := h.forme, slices := h.slices, gens := h.gens,
    tests := h.tests, restAt := h.restAt, stackSteps := h.stackSteps, nextId := h.nextId, keyDraw := h.keyDraw, closedPairs := h.closedPairs, env := e, out := h.out, draws := h.draws,
    chans := h.chans.map (fun c => (c.1, ({ rows := c.2.rows, ceAt := c.2.ceAt } : ChanRt))),
    fcol := { seq := h.fcol.seq, ovfKeys := h.fcol.ovfKeys, eclSeq := h.fcol.eclSeq, quietFrom := h.now }, sensors := h.sensors }

/-- The requests of host functions that a reset finds unanswered go back with an error response before it is complete (R23). What cells,
items, links and sites have sent falls with them: they are reset with the hub (R210, R480). -/
def Hub.failHost (h : Hub) : Hub :=
  (h.reqs.filterMap (fun e => match e.2.src with
    | .host _ => some e.1
    | _ => none)).foldl (fun h i => h.failReq i fsACCESS kACCESS uHUB 0) h

/-- Every message still on its way to the collector is stored before the reset (R389). -/
def Hub.storeAll (h : Hub) : Hub :=
  let h1 := h.fcol.msgs.foldl (fun h m => (h.storeFault m).2.2) h
  { h1 with fcol := { h1.fcol with msgs := [] } }

/-- FCOL_RST at a warm reset: cause, count, and the fault that caused it. -/
def Hub.noteReset (h : Hub) (cause source kind : Nat) : Hub :=
  (((h.setF rFCOL_RST fFCOL_RST_CAUSE cause).count rFCOL_RST fFCOL_RST_WARM_COUNT 1).setF rFCOL_RST fFCOL_RST_SOURCE source).setF rFCOL_RST
    fFCOL_RST_KIND kind

/-- A warm reset: what R480 keeps stays, and start-up steps 2 to 7 run again. A boot that has stopped leaves that state by a
power-on reset alone (R38, R455). A start that resumes a lifecycle row goes on to commit the forme in flash (R449). -/
def warmReset (f : Fuses) (h : Hub) (cause source kind : Nat) (e : BootEnv) : Fuses × Hub :=
  if h.bootStage = 0 ∨ h.bootStage = 8 then (f, h)
  else
    let h1 := ((((h.cutFlash.failFifos.failHost).wipeCells (fun _ => true)).storeAll).warmCore e).warmFields.noteReset cause source kind
    let (f1, h2) := startState f (h1.setStage 1) e
    let h3 := h2.startRandom e
    if h3.bootStage = 8 then (f1, h3)
    else
      let h4 := (h3.startHost e).startMemory e
      let h5 := h4.forme.scheds.foldl (fun h r => h.formGroup r true) h4
      let h6 := h5.reportHub
      let h7 := (h6.forme.slices.map (·.1)).foldl (fun h s => h.warmSlice s) h6
      let h8 := (List.range 24).foldl (fun h l => h.warmLink l) h7
      let h9 := (List.range 8).foldl (fun h s => h.warmSite s) h8
      let h10 := h9.startFirmware f1 e.flashOk
      (f1, if decide (h10.bootStage = 6) && h10.flag rLCS_STATE fLCS_STATE_RESUMED then h10.bootCommit f1 e.flashOk else h10)

/-- The hub starts a reset of its own: the eclipses of reason 0x03 leave first (R419). -/
def hubReset (f : Fuses) (h : Hub) (cause source kind : Nat) (e : BootEnv) : Fuses × Hub :=
  let gs := (h.forme.scheds.map (·.group)).filter h.groupStarted
  warmReset f (gs.foldl (fun h g => h.raiseEclipse g 3) h).drainVc2 cause source kind e

/-- WARM_RESET (R481): WRST_N, cause 1. -/
def execWarmReset (e : BootEnv) (s : State) : Res := onChip s (fun f h => warmReset f h 1 0 0 e)

/-! ## Kelvy's restart (R482) -/

/-- Both cores reset, what stands in the control island's crossing FIFOs fails (R23), both halves zero, a staged image lost; the firmware of the boot source is reloaded, checked and measured. -/
def Hub.kelvyRestart (h : Hub) (f : Fuses) (e : BootEnv) : Hub :=
  let h1 := ((h.cutFlash.failEndpoint .control 0).setReg rKLV_IMG_CTL 0).setF rKLV_BOOT fKLV_BOOT_FW_ERR 0
  { h1 with klv := { kickedAt := h.now, debugSteps := h.klv.debugSteps } }.startFirmware f e.flashOk

/-! ## Loss of power (R444, R451, R485) -/

/-- POWER_LOSS: fuse programming and flash writes are abandoned where they stand, and everything volatile is gone. -/
def execPowerLoss (s : State) : Res := onChip s (fun f h => (cutProg f h, h.cutFlash.cold))

end Sys2Proof.Machine
end

