-- ==== Sys2Proof/Machine/Tensor.lean ====
section
/-! DEFINITION. What the tensor unit does (R125 to R137): operand ranges, the beat sum, the three kinds of accumulation,
drain, and exact partials. -/
namespace Sys2Proof.Machine

/-! ## Shape of a TMMA -/

/-- K elements of a lane in one MAC beat. -/
def tmK (fmt sparse : Nat) : Nat :=
  (match fmt with | 0 | 5 => 16 | 7 | 8 => 2 | _ => 8) * (if sparse = 1 then 2 else 1)

/-- MAC beats of a block of 32 elements. -/
def tmBeats (fmt sparse : Nat) : Nat := 32 / tmK fmt sparse

/-- Bytes of A in a beat. -/
def tmABytes (fmt sparse : Nat) : Nat := match fmt with | 7 | 8 => 4 | _ => if sparse = 1 then 16 else 8

/-- Bytes of the dense part of a lane's column in a tile, and of its metadata (R125, R126). -/
def tmLane (fmt : Nat) : Nat := match fmt with | 7 | 8 => 4 | _ => 8
def tmMeta (fmt : Nat) : Nat := match fmt with | 0 | 5 => 4 | _ => 2

/-- Bytes of B in a beat. -/
def tmBBytes (fmt sparse : Nat) : Nat := 16 * tmLane fmt + (if sparse = 1 then 16 * tmMeta fmt else 0)

/-- The scratch operands of a TMMA as (address, bytes, alignment). -/
def tmmaOperands (fmt sparse ra rb rc rd nblk : Nat) : List (Nat × Nat × Nat) :=
  let n := nblk * tmBeats fmt sparse
  [(ra, n * tmABytes fmt sparse, 8), (rb, n * tmBBytes fmt sparse, 64)] ++
  (if isMX fmt then [(rc, nblk, 1), (rd, 16 * nblk, 1)] else [])

/-! ## Beat sums (R127, R128) -/

/-- An element's exact value: two's complement for INT4 and INT8. -/
def tmElem (fmt n : Nat) : FVal :=
  if isInt fmt then (let i := signed n (elemBits fmt); .fin (decide (i < 0)) i.natAbs 0) else decodeF (fmtOf fmt) n

/-- The A elements that a lane's stored values of B meet in a beat: in order, or where the metadata puts them (R126). -/
def tmPick (fmt sparse : Nat) (a : List Byte) (dat : List Byte) : List Nat :=
  let k := tmK fmt sparse
  if sparse = 1 then
    let m := leNat dat
    (List.range (k / 2)).map (fun v => elemAt fmt a (4 * (v / 2) + m / 4 ^ v % 4))
  else (List.range k).map (elemAt fmt a)

/-- The beat sum of lane `n` from a beat's bytes of A and tile of B, with the scales of its block. -/
def beatSum (fmt sparse : Nat) (a tile : List Byte) (n sa sb : Nat) : BSum :=
  let bl := sub tile (tmLane fmt * n) (tmLane fmt)
  let md := sub tile (16 * tmLane fmt + tmMeta fmt * n) (tmMeta fmt)
  let nb := if sparse = 1 then tmK fmt sparse / 2 else tmK fmt sparse
  let xs := (tmPick fmt sparse a md).map (tmElem fmt)
  let ys := (List.range nb).map (fun j => tmElem fmt (elemAt fmt bl j))
  let d := dotVals xs ys
  if isMX fmt then
    match e8m0 sa, e8m0 sb with
    | some p, some q => bsumOf (fScale d (p + q))
    | _, _ => .nan
  else bsumOf d

/-! ## Accumulation -/

/-- The mode a TMMA works in (R136). -/
def tmMode (fmt exact : Nat) : AccMode := if exact = 1 then .exact else if isInt fmt then .int32 else .fp32

def zeroLanes : Vector (BitVec 96) 16 := Vector.replicate 16 0

/-- A set made ready for a TMMA (R136, R137). -/
def AccSet.prepare (a : AccSet) (m : AccMode) (zr : Bool) : AccSet :=
  if zr then { a with mode := m, lanes := zeroLanes, flags := 0 }
  else if a.mode = .noMode then { a with mode := m }
  else if a.mode = m then a
  else { a with mode := m, lanes := zeroLanes, flags := flMIX }

/-- A beat sum added to a lane: the lane, and the flag bits it raises (R129, R130, R131). -/
def accLane (m : AccMode) (w : Int) (x : BitVec 96) (b : BSum) : BitVec 96 × Nat :=
  match m with
  | .exact => let (y, f) := exactAdd x w b; (y, f.bits)
  | .int32 =>
    let t : Int := match b with
      | .fin t e => t * 2 ^ e.toNat
      | _ => 0
    let y := x + BitVec.ofInt 96 t
    (y, if decide (-(2 ^ 31) ≤ y.toInt) && decide (y.toInt < 2 ^ 31) then 0 else flOVF)
  | _ => (BitVec.ofNat 96 (r32 (fAdd (f32 (x.toNat % 2 ^ 32)) (bsumVal b))), 0)

/-- Beat sums, one per lane, added to a set. -/
def AccSet.addBeat (a : AccSet) (bs : List BSum) : AccSet :=
  (List.range 16).foldl (fun a n =>
    let (y, f) := accLane a.mode a.w (a.lanes.toList.getD n 0) (bs.getD n (.fin 0 0))
    { a with lanes := a.lanes.setIfInBounds n y, flags := a.flags ||| f }) a

/-- A TMMA on a set, with its operands in a cell's scratch. -/
def tmmaRun (x : Cell) (fmt exact sparse ra rb rc rd nblk : Nat) (zr : Bool) (a : AccSet) : AccSet :=
  let per := tmBeats fmt sparse
  (List.range (nblk * per)).foldl (fun a j =>
    let ab := x.get (ra + j * tmABytes fmt sparse) (tmABytes fmt sparse)
    let tile := x.get (rb + j * tmBBytes fmt sparse) (tmBBytes fmt sparse)
    let blk := j / per
    let sa := ((x.get (rc + blk) 1).getD 0 0).toNat
    let sb (n : Nat) : Nat := ((x.get (rd + 16 * blk + n) 1).getD 0 0).toNat
    a.addBeat ((List.range 16).map (fun n => beatSum fmt sparse ab tile n sa (sb n)))) (a.prepare (tmMode fmt exact) zr)

/-! ## TCFG, TADDX, TDRAIN (R135 to R137) -/

/-- TCFG: mode EXACT, the window set, lanes and flags zero. -/
def AccSet.config (a : AccSet) (w : Int) : AccSet := { a with mode := .exact, w := w, lanes := zeroLanes, flags := 0 }

/-- A set made ready for a TADDX (R135). -/
def AccSet.prepareAddx (a : AccSet) : AccSet :=
  match a.mode with
  | .exact => a
  | .noMode => { a with mode := .exact }
  | _ => { a with mode := .exact, lanes := zeroLanes, flags := flMIX }

/-- 16 exact partials added to a set, with their flags. -/
def taddxRun (bytes : List Byte) (a : AccSet) : AccSet :=
  (List.range 16).foldl (fun a n =>
    let p := sub bytes (16 * n) 16
    let (t, f) := exactTerm (signed (leAt p 0 12) 96) (signed (leAt p 12 2) 16) a.w
    { a with lanes := a.lanes.setIfInBounds n (a.lanes.toList.getD n 0 + BitVec.ofInt 96 t),
             flags := a.flags ||| f.bits ||| (leAt p 14 1 % 8) }) a.prepareAddx

/-- A lane's value as an exact number, an infinity or a NaN (R137). -/
def AccSet.laneVal (a : AccSet) (n : Nat) : FVal :=
  let x := a.lanes.toList.getD n 0
  match a.mode with
  | .fp32 => f32 (x.toNat % 2 ^ 32)
  | .int32 => let i := signed x.toNat 32; .fin (decide (i < 0)) i.natAbs 0
  | .exact => .fin (decide (x.toInt < 0)) x.toInt.natAbs a.w
  | .noMode => .fin false 0 0

/-- An exact value as an INT32, to nearest with ties to even, saturated (R137). -/
def toInt32 (v : FVal) : Nat :=
  let clamp (i : Int) : Nat := wrap (max (-(2 ^ 31)) (min (2 ^ 31 - 1) i)) 32
  match v with
  | .nan => 0
  | .inf neg => clamp (if neg then -(2 ^ 31) else 2 ^ 31 - 1)
  | .fin neg m e => let r : Int := roundTo m e 0; clamp (if neg then -r else r)

/-- A lane's value on the window of a set, with the flags that raises: bits lost, out of 96 bits, or no number (R137). -/
def toExact (v : FVal) (w : Int) : BitVec 96 × XFlags :=
  match v with
  | .fin neg m e =>
    let t : Int := if neg then -(m : Int) else m
    let (x, f) := exactTerm t e w
    (BitVec.ofInt 96 x, ⟨false, !(decide (-(2 ^ 95) ≤ x) && decide (x < 2 ^ 95)), f.loss⟩)
  | _ => (0, ⟨true, false, false⟩)

/-- The bytes of an output element of TDRAIN. -/
def drainBytes (ofmt : Nat) : Nat := match ofmt with | 7 | 8 => 2 | 9 | 10 => 4 | _ => 16

/-- TDRAIN: the bytes written, and the set afterwards. -/
def drainRun (ofmt : Nat) (sat zr : Bool) (a : AccSet) : List Byte × AccSet :=
  let vals := (List.range 16).map a.laneVal
  let fin (a : AccSet) : AccSet := if zr then { a with lanes := zeroLanes } else a
  match ofmt with
  | 11 =>
    let xs := vals.map (fun v => toExact v a.w)
    let a1 := a.raise (xs.foldl (fun n x => n ||| x.2.bits) 0)
    (xs.flatMap (fun x => partialBytes x.1 a.w a1.xflags), fin a1)
  | 10 => (vals.flatMap (fun v => toLE 4 (toInt32 v)), fin a)
  | _ => (vals.flatMap (fun v => toLE (drainBytes ofmt) (encodeF (fmtOf ofmt) sat v)), fin a)

end Sys2Proof.Machine
end

