-- ==== Sys2Proof/Machine/Vector.lean ====
section
/-! DEFINITION. What the FP32 vector unit (R138 to R140) and the gather-reduce engine (R141 to R144) do to a cell's scratch. -/
namespace Sys2Proof.Machine

/-! ## The FP32 vector unit -/

/-- The item sizes of an operation: destination, then the sources it uses, with the scale byte of VQNT last (R138). -/
def vecItems (op : VecOp) (fmt : Nat) : Nat × Nat × Nat × Nat :=
  match op with
  | .vfma => (64, 64, 64, 64)
  | .vadd | .vmul | .vmax | .vmin => (64, 64, 64, 0)
  | .vpack => (32, 64, 0, 0)
  | .vunpk => (64, 32, 0, 0)
  | .vqnt => (blockBytes fmt, 128, 0, 1)
  | .vdq => (128, blockBytes fmt, 1, 0)
  | .vred => (4, 64, 0, 0)

/-- The scratch operands of a vector operation: address, bytes, alignment to the smaller of item size and 16 (R138). -/
def vecOperands (op : VecOp) (fmt count d a b c : Nat) : List (Nat × Nat × Nat) :=
  let (sd, sa, sb, sc) := vecItems op fmt
  let f (adr sz : Nat) : List (Nat × Nat × Nat) := if sz = 0 then [] else [(adr, sz * count, min sz 16)]
  f d sd ++ f a sa ++ f b sb ++ f c sc

/-- The FP32 elements of a list of bytes. -/
def f32s (l : List Byte) : List FVal := (List.range (l.length / 4)).map (fun i => f32 (leAt l (4 * i) 4))

def put32 (l : List Nat) : List Byte := l.flatMap (toLE 4)

/-- One item of a vector operation: its destination bytes, and the scale byte VQNT writes. -/
def vecItem (op : VecOp) (fmt : Nat) (sat : Bool) (a b c : List Byte) : List Byte × List Byte :=
  match op with
  | .vfma => (put32 (List.zipWith (fun p z => r32 (fAdd p z)) (List.zipWith fMul (f32s a) (f32s b)) (f32s c)), [])
  | .vadd => (put32 (List.zipWith (fun x y => r32 (fAdd x y)) (f32s a) (f32s b)), [])
  | .vmul => (put32 (List.zipWith (fun x y => r32 (fMul x y)) (f32s a) (f32s b)), [])
  | .vmax => (put32 (List.zipWith (fun x y => r32 (fMax x y)) (f32s a) (f32s b)), [])
  | .vmin => (put32 (List.zipWith (fun x y => r32 (fMin x y)) (f32s a) (f32s b)), [])
  | .vpack => ((f32s a).flatMap (fun v => toLE 2 (encodeF (fmtOf fmt) sat v)), [])
  | .vunpk => (put32 ((List.range 16).map (fun i => r32 (decodeF (fmtOf fmt) (leAt a (2 * i) 2)))), [])
  | .vqnt => let (x, es) := quantize fmt sat (f32s a); (packElems fmt es, [BitVec.ofNat 8 x])
  | .vdq => (put32 (dequantize fmt ((b.getD 0 0).toNat) a), [])
  | .vred => (put32 [vredTree ((List.range 16).map (fun i => leAt a (4 * i) 4))], [])

/-- COUNT items in order, every address advancing by its item size. -/
def vecRun (op : VecOp) (fmt : Nat) (sat : Bool) (count d a b c : Nat) (x : Cell) : Cell :=
  let (sd, sa, sb, sc) := vecItems op fmt
  (List.range count).foldl (fun x j =>
    let (o, k) := vecItem op fmt sat (x.get (a + j * sa) sa) (x.get (b + j * sb) sb) (x.get (c + j * sc) sc)
    let x1 := x.put (d + j * sd) o
    if k = [] then x1 else x1.put (c + j * sc) k) x

/-! ## The gather-reduce engine -/

/-- A gather descriptor (R141). -/
structure GDesc where
  rowptr : Nat
  idx : Nat
  wgt : Nat
  table : Nat
  out : Nat
  nrows : Nat
  trows : Nat
  elems : Nat
  efmt : Nat
  w : Int
  deriving DecidableEq, Repr

def gdescOf (l : List Byte) : GDesc :=
  { rowptr := leAt l 0 2, idx := leAt l 2 2, wgt := leAt l 4 2, table := leAt l 6 2, out := leAt l 8 2, nrows := leAt l 10 2,
    trows := leAt l 12 2, elems := leAt l 14 1, efmt := leAt l 15 1, w := signed (leAt l 16 2) 16 }

def idxSize (ifmt : Nat) : Nat := if ifmt = 0 then 2 else 4
def wgtSize (wfmt : Nat) : Nat := if wfmt = 1 then 4 else 2
def tabSize (g : GDesc) : Nat := if g.efmt = 0 then 4 else 2
def outSize (red : Nat) : Nat := if red = 3 then 16 else 4

/-- The row pointers of a descriptor. -/
def gptrs (x : Cell) (g : GDesc) : List Nat := (List.range (g.nrows + 1)).map (fun r => leNat (x.get (g.rowptr + 4 * r) 4))

/-- The checks of R144: fields, reserved bytes, row pointers that do not fall, and every list aligned and inside scratch. -/
def gatherOk (x : Cell) (ifmt red wfmt : Nat) (l : List Byte) : Bool :=
  let g := gdescOf l
  let ps := gptrs x g
  let top := ps.getLastD 0
  allZero (sub l 18 14) && decide (1 ≤ g.nrows) && decide (g.nrows ≤ 4096) && [1, 2, 4, 8, 16].contains g.elems &&
  decide (g.efmt ≤ 1) && (decide (red ≠ 3) || (decide (-512 ≤ g.w) && decide (g.w ≤ 511))) &&
  scratchOk g.rowptr (4 * (g.nrows + 1)) 4 && (List.zipWith (fun a b => decide (a ≤ b)) ps ps.tail).all id &&
  scratchOk g.idx (idxSize ifmt * top) (idxSize ifmt) && (decide (wfmt = 0) || scratchOk g.wgt (wgtSize wfmt * top) (wgtSize wfmt)) &&
  scratchOk g.table (g.trows * g.elems * tabSize g) (tabSize g) &&
  scratchOk g.out (g.nrows * g.elems * outSize red) (if red = 3 then 16 else 4)

/-- A weight's exact value; none for w = 1. -/
def gWeight (x : Cell) (wfmt : Nat) (g : GDesc) (p : Nat) : Option FVal :=
  match wfmt with
  | 0 => none
  | 1 => some (f32 (leNat (x.get (g.wgt + 4 * p) 4)))
  | _ => some (decodeF fmtBF16 (leNat (x.get (g.wgt + 2 * p) 2)))

/-- An element of a table row. -/
def gElem (x : Cell) (g : GDesc) (row e : Nat) : FVal :=
  let n := leNat (x.get (g.table + (row * g.elems + e) * tabSize g) (tabSize g))
  if g.efmt = 0 then f32 n else decodeF fmtBF16 n

/-- The products of one output element, in list order, its skipped indices left out; and whether one was skipped (R143, R144). -/
def gTerms (x : Cell) (ifmt wfmt : Nat) (g : GDesc) (lo hi e : Nat) : List FVal × Bool :=
  (List.range (hi - lo)).foldl (fun (acc : List FVal × Bool) j =>
    let i := leNat (x.get (g.idx + idxSize ifmt * (lo + j)) (idxSize ifmt))
    if g.trows ≤ i then (acc.1, true)
    else
      let h := gElem x g i e
      (acc.1 ++ [match gWeight x wfmt g (lo + j) with
        | none => h
        | some w => fMul w h], acc.2)) ([], false)

/-- One output element: its bytes and the GSTAT flags it raises (R142, R143). -/
def gReduce (red : Nat) (w : Int) (ts : List FVal) : List Byte × XFlags :=
  match red with
  | 3 =>
    let (n, f) := ts.foldl (fun (a : BitVec 96 × XFlags) t =>
      let (y, k) := exactAdd a.1 w (bsumOf t); (y, a.2.or k)) (0, ⟨false, false, false⟩)
    (partialBytes n w f, f)
  | 0 =>
    let v := ts.foldl (fun a t => r32 (fAdd (f32 a) t)) 0
    (toLE 4 v, ⟨decide (f32 v = .nan), false, false⟩)
  | k =>
    let v := match ts.map r32 with
      | [] => 0
      | t :: l => l.foldl (fun a y => r32 (if k = 1 then fMax (f32 a) (f32 y) else fMin (f32 a) (f32 y))) t
    (toLE 4 v, ⟨decide (f32 v = .nan), false, false⟩)

/-- The rows of a descriptor reduced and written, in order, and GSTAT raised. -/
def gatherRun (ifmt red wfmt : Nat) (l : List Byte) (x : Cell) : Cell :=
  let g := gdescOf l
  let ps := gptrs x g
  (List.range g.nrows).foldl (fun x r =>
    let els := (List.range g.elems).map (fun e =>
      let (ts, oob) := gTerms x ifmt wfmt g (ps.getD r 0) (ps.getD (r + 1) 0) e
      let (b, f) := gReduce red g.w ts
      (b, gstatBits oob f))
    let x1 := x.put (g.out + r * g.elems * outSize red) (els.flatMap (·.1))
    { x1 with gstat := x1.gstat ||| els.foldl (fun n p => n ||| p.2) 0 }) x

end Sys2Proof.Machine
end

