-- ==== Sys2Proof/Machine/Cells.lean ====
section
/-! DEFINITION. The galley instructions (R116 to R151) and the events of cells: unit operations, channel words, answers of
the fabric, and CELL_ECC. An instruction's command acts where the cell can issue and its program counter is at that
instruction; else the state stays (log entry 5). -/
namespace Sys2Proof.Machine

/-! ## Issue -/

/-- A cell can issue an instruction. -/
def Hub.canIssue (h : Hub) (c : Nat) : Bool :=
  decide ((h.cell c).run = .running) && decide ((h.cell c).wait = .none) && decide (h.arrMode (c / 128) = 0) && !h.cellsStand

/-- The instruction a cell's program counter is at (R119). -/
def Cell.fetched (x : Cell) : Option GInstr := ginstrOf (leNat (x.get (0x10000 + 8 * x.pc) 8))

/-- CELL_ECC counts. -/
def Hub.eccCount (h : Hub) (c : Nat) (f : Fld) : Hub := h.count (rCELL_ECC (c / 128) (c % 128)) f 1

/-- What a check of the cell finds (R150, R151): a corrected error is counted; an uncorrectable one stops the cell with
CELL_SRAM, a failed residue of a unit with DATAPATH. -/
def Hub.hazard (h : Hub) (c : Nat) (z : Hazard) (unitOp : Bool) (f : Hub → Hub) : Hub :=
  match z with
  | .clean => f h
  | .corrected => f (h.eccCount c fCELL_ECC_CORR)
  | .uncorrectable => (h.eccCount c fCELL_ECC_UNCORR).stopCellS c kCELL_SRAM
  | .residue => if unitOp then (h.eccCount c fCELL_ECC_CHECK).stopCellS c kDATAPATH else f h

/-- The instruction at a cell's program counter issued, where it is one that `pick` takes. -/
def Hub.issue (h : Hub) (c : Nat) (z : Hazard) (unitOp : Bool) (pick : GInstr → Option (Hub → Hub)) : Hub :=
  let g := h.settle c
  if !g.canIssue c then h
  else match (g.cell c).fetched.bind pick with
    | none => h
    | some f => g.hazard c z unitOp f

/-- The value of a register of a cell, as a number. -/
def Hub.rv (h : Hub) (c i : Nat) : Nat := ((h.cell c).r i).toNat

/-! ## CTRL (R119, R120, R147) -/

/-- NOP: nothing. -/
def execNop (c : CellId) (z : Hazard) (s : State) : Res :=
  onHub s (fun h => h.issue c z false (fun i => match i with
    | .nop => some (fun h => h.goOn c id)
    | _ => none))

/-- LOOP: a level opens over the next BODY instructions; zero runs skip the body; a count of 2^32 or more stops the cell (R489). -/
def Hub.loopAt (h : Hub) (c lvl creg body count : Nat) : Hub :=
  let n := if creg = 0 then count else h.rv c creg
  if 2 ^ 32 ≤ n then h.stopCellS c kADDR
  else if n = 0 then (h.updCell c (fun x => x.past (x.pc + body))).fetchCheck c
  else
    let l (x : Cell) : LoopLvl := { rem := n, start := x.pc + 1, last := x.pc + body }
    (h.updCell c (fun x => { x with pc := x.pc + 1, loops := x.loops.setIfInBounds lvl (l x) })).fetchCheck c

/-- LOOP (R120). -/
def execLoop (c : CellId) (z : Hazard) (s : State) : Res :=
  onHub s (fun h => h.issue c z false (fun i => match i with
    | .loop lvl creg body count => some (fun h => h.loopAt c lvl creg body count)
    | _ => none))

/-- The conditions of BR: always, zero, not zero, negative, not negative. -/
def brTaken (cond : Nat) (v : Word) : Bool :=
  match cond with
  | 0 => true
  | 1 => decide (v = 0)
  | 2 => decide (v ≠ 0)
  | 3 => decide (v.toInt < 0)
  | _ => decide (0 ≤ v.toInt)

/-- BR (R119). A taken branch into or out of a loop body leaves the active loop levels as they are (R120 says nothing of it; DESIGN CHOICE, log
entry 154). -/
def execBr (c : CellId) (z : Hazard) (s : State) : Res :=
  onHub s (fun h => h.issue c z false (fun i => match i with
    | .br cond ra target => some (fun h =>
        if brTaken cond ((h.cell c).r ra) then (h.updCell c (fun x => { x with pc := target })).fetchCheck c else h.goOn c id)
    | _ => none))

/-- SHEET (R147, R168). -/
def execSheet (c : CellId) (z : Hazard) (s : State) : Res :=
  onHub s (fun h => h.issue c z false (fun i => match i with
    | .sheet => some (fun h => (h.updCell c (fun x => { x with wait := .sheet })).settle c)
    | _ => none))

/-- END (R147, R204). -/
def execEnd (c : CellId) (z : Hazard) (s : State) : Res :=
  onHub s (fun h => h.issue c z false (fun i => match i with
    | .end_ => some (fun h => (h.updCell c (fun x => { x with wait := .finish })).settle c)
    | _ => none))

/-- WAITU (R116, R219). -/
def execWaitu (c : CellId) (z : Hazard) (s : State) : Res :=
  onHub s (fun h => h.issue c z false (fun i => match i with
    | .waitu m => some (fun h => (h.updCell c (fun x => { x with wait := .units m })).settle c)
    | _ => none))

/-- A cell waits on an arrival counter of its slice, or goes on where it has reached the count; a number of 64 or above
stops the cell (R227, R229). -/
def Hub.waitacAt (h : Hub) (c ra rb : Nat) : Hub :=
  let n := h.rv c ra
  let t := (h.cell c).r rb
  if 64 ≤ n then h.stopCellS c kADDR
  else if h.acReached ((h.cellOwner c).getD 0) n t then h.goOn c id
  else h.updCell c (fun x => { x with wait := .counter n t })

/-- WAITAC (R228, R229). -/
def execWaitac (c : CellId) (z : Hazard) (s : State) : Res :=
  onHub s (fun h => h.issue c z false (fun i => match i with
    | .waitac ra rb => some (fun h => h.waitacAt c ra rb)
    | _ => none))

/-- WAITAC_RESUME (R228): the counter has reached the count, and the sequencer resumes. -/
def execWaitacResume (c : CellId) (s : State) : Res :=
  onHub s (fun h =>
    match (h.cell c).wait with
    | .counter n t =>
      if decide ((h.cell c).run = .running) && h.acReached ((h.cellOwner c).getD 0) n t && !h.cellsStand then h.goOn c id else h
    | _ => h)

/-! ## SCALAR (R119): B = RB + IMM, arithmetic modulo 2^64 -/

/-- IMM, sign-extended from 32 bits. -/
def sextImm (imm : Nat) : Word := (BitVec.ofNat 32 imm).signExtend 64

/-- The result of a scalar operation on RA and B. -/
def aluVal (op : AluOp) (a b : Word) : Word :=
  match op with
  | .add => a + b
  | .sub => a - b
  | .and => a &&& b
  | .or => a ||| b
  | .xor => a ^^^ b
  | .shl => a <<< (b.toNat % 64)
  | .shr => a >>> (b.toNat % 64)
  | .sra => a.sshiftRight (b.toNat % 64)
  | .mul => a * b
  | .slt => if a.toInt < b.toInt then 1 else 0

/-- A scalar instruction of one operation. -/
def Hub.alu (h : Hub) (op : AluOp) (c : Nat) (z : Hazard) : Hub :=
  h.issue c z false (fun i => match i with
    | .alu o rd ra rb imm =>
      if o = op then some (fun h => h.goOn c (fun x => x.setR rd (aluVal op (x.r ra) (x.r rb + sextImm imm)))) else none
    | _ => none)

/-- ADD (R119). -/
def execAdd (c : CellId) (z : Hazard) (s : State) : Res := onHub s (fun h => h.alu .add c z)

/-- SUB (R119). -/
def execSub (c : CellId) (z : Hazard) (s : State) : Res := onHub s (fun h => h.alu .sub c z)

/-- AND (R119). -/
def execAnd (c : CellId) (z : Hazard) (s : State) : Res := onHub s (fun h => h.alu .and c z)

/-- OR (R119). -/
def execOr (c : CellId) (z : Hazard) (s : State) : Res := onHub s (fun h => h.alu .or c z)

/-- XOR (R119). -/
def execXor (c : CellId) (z : Hazard) (s : State) : Res := onHub s (fun h => h.alu .xor c z)

/-- SHL (R119). -/
def execShl (c : CellId) (z : Hazard) (s : State) : Res := onHub s (fun h => h.alu .shl c z)

/-- SHR (R119). -/
def execShr (c : CellId) (z : Hazard) (s : State) : Res := onHub s (fun h => h.alu .shr c z)

/-- SRA (R119). -/
def execSra (c : CellId) (z : Hazard) (s : State) : Res := onHub s (fun h => h.alu .sra c z)

/-- MUL (R119). -/
def execMul (c : CellId) (z : Hazard) (s : State) : Res := onHub s (fun h => h.alu .mul c z)

/-- SLT (R119). -/
def execSlt (c : CellId) (z : Hazard) (s : State) : Res := onHub s (fun h => h.alu .slt c z)

/-- LIH (R119): the upper half of RD becomes IMM. -/
def execLih (c : CellId) (z : Hazard) (s : State) : Res :=
  onHub s (fun h => h.issue c z false (fun i => match i with
    | .lih rd imm => some (fun h => h.goOn c (fun x => x.setR rd (BitVec.ofNat 64 ((x.r rd).toNat % 2 ^ 32 + imm * 2 ^ 32))))
    | _ => none))

/-! ## LOCAL (R119, R121) -/

/-- A scratch access of the sequencer: the bytes and alignment of each operation. -/
def localBytes : LocalOp → Nat
  | .ld8 | .st8 => 8
  | .ld4 | .st4 => 4

/-- A scratch load or store at RA + OFF; outside scratch or unaligned, the cell stops with ADDR. -/
def Hub.localAt (h : Hub) (op : LocalOp) (c rd ra off : Nat) : Hub :=
  let a := ((h.cell c).r ra + BitVec.ofNat 64 off).toNat
  let n := localBytes op
  if !scratchOk a n n then h.stopCellS c kADDR
  else h.goOn c (fun x => match op with
    | .ld8 | .ld4 => x.setR rd (BitVec.ofNat 64 (leNat (x.get a n)))
    | .st8 | .st4 => x.put a (toLE n (x.r rd).toNat))

/-- A LOCAL instruction of one operation. -/
def Hub.localOp (h : Hub) (op : LocalOp) (c : Nat) (z : Hazard) : Hub :=
  h.issue c z false (fun i => match i with
    | .loc o rd ra off => if o = op then some (fun h => h.localAt op c rd ra off) else none
    | _ => none)

/-- LD8 (R121). -/
def execLd8 (c : CellId) (z : Hazard) (s : State) : Res := onHub s (fun h => h.localOp .ld8 c z)

/-- ST8 (R121). -/
def execSt8 (c : CellId) (z : Hazard) (s : State) : Res := onHub s (fun h => h.localOp .st8 c z)

/-- LD4 (R121). -/
def execLd4 (c : CellId) (z : Hazard) (s : State) : Res := onHub s (fun h => h.localOp .ld4 c z)

/-- ST4 (R121). -/
def execSt4 (c : CellId) (z : Hazard) (s : State) : Res := onHub s (fun h => h.localOp .st4 c z)

/-! ## Long operations (R116): one running, one queued per unit -/

def Cell.unit (x : Cell) (u : CellUnit) : List UOp :=
  match u with
  | .tensor => x.tensor
  | .vector => x.vector
  | .gather => x.gather
  | .chan => x.chan

def Cell.setUnit (x : Cell) (u : CellUnit) (l : List UOp) : Cell :=
  match u with
  | .tensor => { x with tensor := l }
  | .vector => { x with vector := l }
  | .gather => { x with gather := l }
  | .chan => { x with chan := l }

/-- An accumulator set changed. -/
def Cell.updAcc (x : Cell) (set : Nat) (f : AccSet → AccSet) : Cell :=
  { x with accs := x.accs.setIfInBounds set (f (x.accs.toList.getD set {})) }

def Cell.acc (x : Cell) (set : Nat) : AccSet := x.accs.toList.getD set {}

/-- A unit begins an operation: its effect on the cell (R125 to R144). A tensor, vector or gather operation reads and writes as it begins, all at
once: of the outcomes that R117 allows a race between two units of a cell, this is the one taken (DESIGN CHOICE, log entry 155). CHAN operations run word by word. -/
def Hub.beginOp (h : Hub) (c : Nat) (o : UOp) : Hub :=
  let v (k : Nat) : Nat := o.vals.getD k 0
  match o.instr with
  | .tcfg set w => h.updCell c (fun x => x.updAcc set (fun a => a.config (signed w 16)))
  | .tmma fmt exact sparse set zr _ _ _ _ nblk =>
    h.updCell c (fun x => x.updAcc set (tmmaRun x fmt exact sparse (v 0) (v 1) (v 2) (v 3) nblk (decide (zr = 1))))
  | .tdrain ofmt sat set zr _ =>
    h.updCell c (fun x =>
      let (b, a) := drainRun ofmt (decide (sat = 1)) (decide (zr = 1)) (x.acc set)
      (x.put (v 0) b).updAcc set (fun _ => a))
  | .taddx set _ => h.updCell c (fun x => x.updAcc set (taddxRun (x.get (v 0) 256)))
  | .tstat rd =>
    h.updCell c (fun x =>
      let y := x.setR rd (BitVec.ofNat 64 (tstatValue (x.acc 0).flags (x.acc 1).flags x.gstat))
      { (y.updAcc 0 (fun a => { a with flags := 0 })).updAcc 1 (fun a => { a with flags := 0 }) with gstat := 0 })
  | .vec op _ _ _ _ count fmt sat => h.updCell c (vecRun op fmt (decide (sat = 1)) count (v 0) (v 1) (v 2) (v 3))
  | .gr ifmt red wfmt _ =>
    let x := h.cell c
    let l := x.get (v 0) 32
    if gatherOk x ifmt red wfmt l then h.setCell c (gatherRun ifmt red wfmt l x) else h.stopCellS c kADDR
  | _ => h

/-- The sequencer goes on past an instruction whose own effect may have stopped the cell. -/
def Hub.goOnLive (h : Hub) (c : Nat) : Hub := if (h.cell c).run = .inReset then h else h.goOn c id

/-- A long operation handed to its unit. With an operation queued already the sequencer waits, and nothing happens yet. -/
def Hub.toUnit (h : Hub) (c : Nat) (u : CellUnit) (o : UOp) : Hub :=
  match (h.cell c).unit u with
  | [] => ((h.updCell c (fun x => x.setUnit u [o])).beginOp c o).goOnLive c
  | [p] => (h.updCell c (fun x => x.setUnit u [p, o])).goOn c id
  | _ => h

/-- A long operation whose scratch operands are checked as it is issued (R121). -/
def Hub.checked (h : Hub) (c : Nat) (u : CellUnit) (i : GInstr) (regs : List Nat) (ops : List Nat → List (Nat × Nat × Nat)) : Hub :=
  let vs := regs.map (h.rv c)
  if (ops vs).all (fun p => scratchOk p.1 p.2.1 p.2.2) then h.toUnit c u { instr := i, vals := vs } else h.stopCellS c kADDR

/-- TCFG (R136). -/
def execTcfg (c : CellId) (z : Hazard) (s : State) : Res :=
  onHub s (fun h => h.issue c z true (fun i => match i with
    | .tcfg .. => some (fun h => h.checked c .tensor i [] (fun _ => []))
    | _ => none))

/-- TMMA (R125 to R136). -/
def execTmma (c : CellId) (z : Hazard) (s : State) : Res :=
  onHub s (fun h => h.issue c z true (fun i => match i with
    | .tmma fmt _ sparse _ _ ra rb rc rd nblk => some (fun h => h.checked c .tensor i [ra, rb, rc, rd]
        (fun v => tmmaOperands fmt sparse (v.getD 0 0) (v.getD 1 0) (v.getD 2 0) (v.getD 3 0) nblk))
    | _ => none))

/-- TDRAIN (R137). -/
def execTdrain (c : CellId) (z : Hazard) (s : State) : Res :=
  onHub s (fun h => h.issue c z true (fun i => match i with
    | .tdrain ofmt _ _ _ ra => some (fun h => h.checked c .tensor i [ra]
        (fun v => [(v.getD 0 0, 16 * drainBytes ofmt, drainBytes ofmt)]))
    | _ => none))

/-- TADDX (R135). -/
def execTaddx (c : CellId) (z : Hazard) (s : State) : Res :=
  onHub s (fun h => h.issue c z true (fun i => match i with
    | .taddx _ ra => some (fun h => h.checked c .tensor i [ra] (fun v => [(v.getD 0 0, 256, 16)]))
    | _ => none))

/-- TSTAT (R137). -/
def execTstat (c : CellId) (z : Hazard) (s : State) : Res :=
  onHub s (fun h => h.issue c z true (fun i => match i with
    | .tstat .. => some (fun h => h.checked c .tensor i [] (fun _ => []))
    | _ => none))

/-- A vector instruction of one operation (R138). -/
def Hub.vecOp (h : Hub) (op : VecOp) (c : Nat) (z : Hazard) : Hub :=
  h.issue c z true (fun i => match i with
    | .vec o rd ra rb rc count fmt _ =>
      if o = op then some (fun h => h.checked c .vector i [rd, ra, rb, rc]
        (fun v => vecOperands op fmt count (v.getD 0 0) (v.getD 1 0) (v.getD 2 0) (v.getD 3 0))) else none
    | _ => none)

/-- VFMA (R138). -/
def execVfma (c : CellId) (z : Hazard) (s : State) : Res := onHub s (fun h => h.vecOp .vfma c z)

/-- VADD (R138). -/
def execVadd (c : CellId) (z : Hazard) (s : State) : Res := onHub s (fun h => h.vecOp .vadd c z)

/-- VMUL (R138). -/
def execVmul (c : CellId) (z : Hazard) (s : State) : Res := onHub s (fun h => h.vecOp .vmul c z)

/-- VMAX (R138). -/
def execVmax (c : CellId) (z : Hazard) (s : State) : Res := onHub s (fun h => h.vecOp .vmax c z)

/-- VMIN (R138). -/
def execVmin (c : CellId) (z : Hazard) (s : State) : Res := onHub s (fun h => h.vecOp .vmin c z)

/-- VPACK (R138). -/
def execVpack (c : CellId) (z : Hazard) (s : State) : Res := onHub s (fun h => h.vecOp .vpack c z)

/-- VUNPK (R138). -/
def execVunpk (c : CellId) (z : Hazard) (s : State) : Res := onHub s (fun h => h.vecOp .vunpk c z)

/-- VQNT (R140). -/
def execVqnt (c : CellId) (z : Hazard) (s : State) : Res := onHub s (fun h => h.vecOp .vqnt c z)

/-- VDQ (R140). -/
def execVdq (c : CellId) (z : Hazard) (s : State) : Res := onHub s (fun h => h.vecOp .vdq c z)

/-- VRED (R139). -/
def execVred (c : CellId) (z : Hazard) (s : State) : Res := onHub s (fun h => h.vecOp .vred c z)

/-- GR (R141 to R144). -/
def execGr (c : CellId) (z : Hazard) (s : State) : Res :=
  onHub s (fun h => h.issue c z false (fun i => match i with
    | .gr _ _ _ ra => some (fun h => h.checked c .gather i [ra] (fun v => [(v.getD 0 0, 32, 8)]))
    | _ => none))

/-! ## The completion log (R407, R408) -/

/-- The log entry of the next logged operation: in a replay the entry it is matched against, else a new one, up to 256. -/
def Cell.logNext (x : Cell) (fabric : Bool) : Option LogEnt × Option Nat × Cell :=
  match x.replay.bind (fun k => (x.log[k]?).map (fun e => (k, e))) with
  | some (k, e) => (some e, some k, { x with replay := if k + 1 < x.log.length then some (k + 1) else none })
  | none =>
    if 256 ≤ x.log.length then (none, none, { x with logOvf := true, replay := none })
    else (none, some x.log.length, { x with log := x.log ++ [{ fabric := fabric }], replay := none })

/-! ## CHAN (R146) -/

/-- The words of an operation still to receive and to deliver. -/
def chanDone (op : ChanOp) (count recvd sent : Nat) : Bool :=
  match op with
  | .send => decide (count ≤ sent)
  | .recv => decide (count ≤ recvd)
  | _ => decide (count ≤ sent)

/-- A channel operation issued: its scratch operand checked, matched against the log, and skipped where it is all done. PASS writes no
scratch, and RA is not checked for it (R121 does not say; DESIGN CHOICE, log entry 156). -/
def Hub.chanIssue (h : Hub) (c : Nat) (op : ChanOp) (i : GInstr) (ra count : Nat) : Hub :=
  let a := h.rv c ra
  if !scratchOk a (16 * count) 16 && decide (op ≠ .pass) then h.stopCellS c kADDR
  else if decide (2 ≤ (h.cell c).chan.length) then h
  else
    let (e, k, x) := (h.cell c).logNext false
    let (rc, st) := match e with
      | some e => (e.recvd, e.sent)
      | none => (0, 0)
    let h1 := h.setCell c x
    if chanDone op count rc st then h1.goOn c id
    else h1.toUnit c .chan { instr := i, vals := [a], log := k, recvd := rc, sent := st }

def Hub.chanOp (h : Hub) (op : ChanOp) (c : Nat) (z : Hazard) : Hub :=
  h.issue c z false (fun i => match i with
    | .chan o _ _ ra count => if o = op then some (fun h => h.chanIssue c op i ra count) else none
    | _ => none)

/-- SEND (R146). -/
def execSend (c : CellId) (z : Hazard) (s : State) : Res := onHub s (fun h => h.chanOp .send c z)

/-- RECV (R146). -/
def execRecv (c : CellId) (z : Hazard) (s : State) : Res := onHub s (fun h => h.chanOp .recv c z)

/-- FWD (R146). -/
def execFwd (c : CellId) (z : Hazard) (s : State) : Res := onHub s (fun h => h.chanOp .fwd c z)

/-- PASS (R146). -/
def execPass (c : CellId) (z : Hazard) (s : State) : Res := onHub s (fun h => h.chanOp .pass c z)

/-- A word of a buffer, and bytes as a word. -/
def wordOf (l : List Byte) : BitVec 128 := BitVec.ofNat 128 (leNat l)

/-- A neighbour can take a word in its buffer for a direction (R146). -/
def Hub.accepts (h : Hub) (n dir : Nat) : Bool :=
  let x := h.cell n
  !x.closed && decide (x.run ≠ .inReset) && decide (x.inbuf.toList.getD dir none = none)

/-- A word put in the buffer of a cell; with a parity failure the cell stops instead (R151). -/
def Hub.deliverWord (h : Hub) (n dir : Nat) (w : BitVec 128) (ok : Bool) : Hub :=
  if ok then h.updCell n (fun x => { x with inbuf := x.inbuf.setIfInBounds dir (some w) })
  else (h.eccCount n fCELL_ECC_CHECK).stopCellS n kDATAPATH

/-- The running channel operation of a cell with more words received and delivered, its log entry with it. -/
def Cell.chanStep (x : Cell) (o : UOp) (rc st : Nat) : Cell :=
  let x1 := { x with chan := { o with recvd := o.recvd + rc, sent := o.sent + st } :: x.chan.tail }
  match o.log with
  | some k => { x1 with log := x1.log.modify k (fun e => { e with recvd := e.recvd + rc, sent := e.sent + st }) }
  | none => x1

/-- CHANNEL_WORD_PASS (R146): the cell's running operation moves one word: from its buffer into scratch, from scratch to
the neighbour, or from its buffer on to the neighbour. -/
def Hub.wordPass (h : Hub) (c dir : Nat) (ok : Bool) : Hub :=
  let x := h.cell c
  if !(decide (x.run = .running) || decide (x.run = .stalled)) || h.cellsStand then h
  else match x.chan with
    | [] => h
    | o :: _ =>
      let a := o.vals.getD 0 0
      let buf (d : Nat) : Option (BitVec 128) := x.inbuf.toList.getD d none
      match o.instr with
      | .chan .recv d _ _ count =>
        match buf d with
        | some w =>
          if d ≠ dir ∨ count ≤ o.recvd then h
          else if !ok then (h.eccCount c fCELL_ECC_CHECK).stopCellS c kDATAPATH
          else h.setCell c (({ x with inbuf := x.inbuf.setIfInBounds d none }.put (a + 16 * o.recvd) (toLE 16 w.toNat)).chanStep o 1 0)
        | none => h
      | .chan .send d _ _ count =>
        match h.neighbour c d with
        | some n =>
          if d ≠ dir ∨ count ≤ o.sent ∨ h.accepts n (opposite d) = false then h
          else (h.setCell c (x.chanStep o 0 1)).deliverWord n (opposite d) (wordOf (x.get (a + 16 * o.sent) 16)) ok
        | none => h
      | .chan op d d2 _ count =>
        match buf d, h.neighbour c d2 with
        | some w, some n =>
          if d2 ≠ dir ∨ count ≤ o.sent ∨ h.accepts n (opposite d2) = false then h
          else
            let y := { x with inbuf := x.inbuf.setIfInBounds d none }
            let y := if op = .fwd then y.put (a + 16 * o.recvd) (toLE 16 w.toNat) else y
            (h.setCell c (y.chanStep o 1 1)).deliverWord n (opposite d2) w ok
        | _, _ => h
      | _ => h

/-- CHANNEL_WORD_PASS (R146). -/
def execChannelWordPass (c : CellId) (dir : Fin 4) (parityOk : Bool) (s : State) : Res :=
  onHub s (fun h => h.wordPass c dir parityOk)

/-! ## Units finish (R116, R117) -/

/-- A unit's running operation has ended. -/
def UOp.complete (o : UOp) : Bool :=
  match o.instr with
  | .chan op _ _ _ count => chanDone op count o.recvd o.sent
  | _ => true

/-- UNIT_OPERATION_DONE: the running operation leaves the unit, the queued one begins, and a waiting sequencer goes on. -/
def Hub.unitDone (h : Hub) (c : Nat) (u : CellUnit) (z : Hazard) : Hub :=
  match (h.cell c).unit u with
  | [] => h
  | o :: rest =>
    if !o.complete || h.cellsStand then h
    else h.hazard c z (decide (u = .tensor) || decide (u = .vector)) (fun h =>
      let h1 := h.updCell c (fun x => x.setUnit u rest)
      match rest with
      | p :: _ => (h1.beginOp c p).settle c
      | [] => h1.settle c)

/-- UNIT_OPERATION_DONE (R116, R117). -/
def execUnitOperationDone (c : CellId) (u : CellUnit) (z : Hazard) (s : State) : Res := onHub s (fun h => h.unitDone c u z)

/-! ## FABRIC (R119, R239, R489) -/

/-- The operands of a FABRIC operation are good (R121, R229, R236, R489). -/
def fabOperandsOk (op : FabOp) (ra rb rc rd : Nat) : Bool :=
  match op with
  | .fatom => decide (rb % 8 = 0) && scratchOk ra 64 64
  | _ =>
    decide (rc % 64 = 0) && decide (64 ≤ rc) && decide (rc ≤ 65536) && decide (rb % 64 = 0) && scratchOk ra rc 64 &&
    (decide (op ≠ .fsta) || decide (rd < 64))

/-- The port takes up to 16 loads and 16 stores; FATOM is one of each (R237). -/
def Hub.portRoom (h : Hub) (c : Nat) (op : FabOp) : Bool :=
  match op with
  | .fld => decide (h.loadsOut c < 16)
  | .fatom => decide (h.loadsOut c < 16) && decide (h.storesOut c < 16)
  | _ => decide (h.storesOut c < 16)

/-- The aligned 256-byte runs of a range: offset and length (R278). -/
def fabRuns : Nat → Nat → Nat → List (Nat × Nat)
  | 0, _, _ => []
  | k + 1, a, n =>
    if n = 0 then []
    else
      let m := min n (256 - a % 256)
      (0, m) :: (fabRuns k (a + m) (n - m)).map (fun p => (p.1 + m, p.2))

/-- The requests of a FABRIC operation enter the HTU. -/
def Hub.sendOp (h : Hub) (c s ctx aop : Nat) (op : FabOp) (ra rb rc rd : Nat) (log : Option Nat) : Hub :=
  let x := h.cell c
  let len := if op = .fatom then 8 else rc
  let rs := fabRuns (len / 256 + 2) rb len
  let g := h.gen (ctxid s ctx)
  let id := h.nextId
  let ac := if op = .fsta then some rd else none
  let o : FabricOp := { cell := c, op := op, ra := ra, len := len, left := rs.length, log := log, acnum := ac, gen := g, slice := s }
  let h1 : Hub := { h with nextId := id + 1, fabricOps := mapPut h.fabricOps id o }
  rs.foldl (fun h p =>
    let k : ReqKind := match op with
      | .fld => .read
      | .fatom => .atomic aop (BitVec.ofNat 64 (leNat (x.get ra 8))) (BitVec.ofNat 64 (leNat (x.get (ra + 8) 8)))
      | _ => .write
    let dat := match op with
      | .fst | .fsta => x.get (ra + p.1) p.2
      | _ => []
    let q : Req :=
      { src := .cell c id p.1, slice := s, ctx := ctx, cls := 0, kind := k, va := rb + p.1, len := p.2, data := dat,
        gen := g, acnum := ac, btotal := len, last := decide (p.1 + p.2 = len) }
    let (r, h2) := h.newReq q
    h2.htu r) h1

/-- A FABRIC operation issued. A context that the slice does not enable gets an error response and a corrected CTX_OFF
(R51, log entry 6); an operation that its replay finds completed sends nothing (R408). -/
def Hub.fabIssue (h : Hub) (c : Nat) (op : FabOp) (ra rb rc ctx aop rd : Nat) : Hub :=
  let (a, b, l, d) := (h.rv c ra, h.rv c rb, h.rv c rc, h.rv c rd)
  if !fabOperandsOk op a b l d then h.stopCellS c kADDR
  else match h.cellOwner c with
    | none => h
    | some s =>
      if !h.portRoom c op then h
      else
        let (e, k, x) := (h.cell c).logNext true
        let h1 := h.setCell c x
        if (match e with | some e => e.done | none => false) then h1.goOn c id
        else if !h.ctxOn s ctx then
          (h1.fault { source := srcOf uHTU 0, kind := kCTX_OFF, cls := clsCorrected, slice := some s, ctx := some ctx }).goOn c id
        else (h1.sendOp c s ctx aop op a b l d k).goOnLive c

def Hub.fabOp (h : Hub) (op : FabOp) (c : Nat) (z : Hazard) : Hub :=
  h.issue c z false (fun i => match i with
    | .fab o ra rb rc ctx aop rd => if o = op then some (fun h => h.fabIssue c op ra rb rc ctx aop rd) else none
    | _ => none)

/-- FLD (R213, R489). -/
def execFld (c : CellId) (z : Hazard) (s : State) : Res := onHub s (fun h => h.fabOp .fld c z)

/-- FST (R213, R489). -/
def execFst (c : CellId) (z : Hazard) (s : State) : Res := onHub s (fun h => h.fabOp .fst c z)

/-- FSTA (R226, R229). -/
def execFsta (c : CellId) (z : Hazard) (s : State) : Res := onHub s (fun h => h.fabOp .fsta c z)

/-- FATOM (R234 to R237). -/
def execFatom (c : CellId) (z : Hazard) (s : State) : Res := onHub s (fun h => h.fabOp .fatom c z)

/-- An answered request of a FABRIC operation taken by its cell: data or OLD goes into scratch, and with the last one the
operation completes, its log entry is done and a local arrival counter rises (R226, R237, R407). A cell that a reset has
stopped takes no data (R412). -/
def Hub.response (h : Hub) (r : Nat) : Hub :=
  match h.req r with
  | none => h
  | some q =>
    match q.src, q.stage with
    | .cell c op off, .done =>
      match mapGet h.fabricOps op with
      | none => h.dropReq r
      | some o =>
        let h1 := h.dropReq r
        let live := decide ((h.cell c).run ≠ .inReset) && decide ((h.cell c).run ≠ .faulted)
        let h2 := if !live then h1 else match q.kind with
          | .read => h1.cellPut c (o.ra + off) q.data
          | .atomic .. => h1.cellPut c (o.ra + 16) q.data
          | .write => h1
        if 1 < o.left then { h2 with fabricOps := mapPut h2.fabricOps op { o with left := o.left - 1 } }
        else
          let h3 : Hub := { h2 with fabricOps := mapDel h2.fabricOps op }
          let h4 := match o.remote, o.bundle with
            | true, some b => { h3 with bundlesOut := h3.bundlesOut.erase ((q.pa / 2 ^ 42), b) }
            | _, _ => h3
          if o.failed.isSome then h4.settle c
          else
            let h5 := match o.acnum, o.remote with
              | some n, false => h4.addAc o.slice n o.len
              | _, _ => h4
            (h5.logDone c o.log).settle c
    | _, _ => h

/-- FABRIC_RESPONSE (R237, R415, R425). -/
def execFabricResponse (r : FabMsg) (s : State) : Res :=
  onHub s (fun h => if r.parityOk || !(h.req r.req).any (fun q => q.stage == .done) then h.response r.req else h.parityFail r.req)

/-- CELL_ECC written: CLR zeroes the three counts. -/
def Hub.writeCellEcc (h : Hub) (o : Origin) (a c : Nat) (v : Word) : Hub :=
  h.mgrWrite o (fun h => if vFlag v fCELL_ECC_CLR then h.regOk.setReg (rCELL_ECC a c) 0 else h.regOk)

/-- CELL_ECC_CLR (R150). -/
def execCellEccClr (o : Origin) (c : CellId) (s : State) : Res :=
  onReg o s (fun h => h.writeCellEcc o (c / 128) (c % 128) (setFld 0 fCELL_ECC_CLR 1))

end Sys2Proof.Machine
end

