-- ==== Sys2Proof/Machine/Power.lean ====
section
/-! DEFINITION. The power states and their transitions (R468 to R473), the arrays' own power and retirement (R474, R486), the warm
reset that Kelvy asks for, and the junction sensors (R35). -/
namespace Sys2Proof.Machine

/-! ## PWR_CTL (R469, R471) -/

/-- The condition of R469 that a request does not meet, in the order of its table (DEDUCED, log entry 47); none where it is taken. -/
def Hub.pwrRefused (h : Hub) (target : Nat) : Option Nat :=
  if h.commitJob.isSome || h.lcsJob.isSome || h.progJob.isSome || (h.klv.op.isSome && decide (h.klv.op ≠ some 3)) then some 4
  else if decide (target = 1) && h.forme.slices.any (fun e => !e.2.cells.isEmpty && decide (h.stateOf e.1 ≠ 2) && decide (h.stateOf e.1 ≠ 0)) then some 1
  else if decide (target = 2) && h.forme.slices.any (fun e => !e.2.cells.isEmpty) then some 2
  else if decide (target = 3) && !h.forme.slices.isEmpty then some 3
  else if decide (target = 3) && h.forme.scheds.any (fun r => decide (1 ≤ h.gState r.group) && decide (h.gState r.group ≤ 4)) then some 5
  else none

/-- PWR_CTL written but for WARM: GO requests TARGET. In shade a physical function alone is heard (R471). -/
def Hub.writePwrCtl (h : Hub) (o : Origin) (v : Word) : Hub :=
  h.mgrWrite o (fun h =>
    let t := vFld v fPWR_CTL_TARGET
    let fromPf := match o with | .pf _ => true | _ => false
    if vFlag v fPWR_CTL_GO && (h.pwrJob.isSome || (decide (h.pwrState = 3) && !fromPf)) then h.regErr
    else
      let h1 := h.regOk.writeRW rPWR_CTL [fPWR_CTL_TARGET] [] v
      if !vFlag v fPWR_CTL_GO || decide (t = h.pwrState) then h1
      else match h.pwrRefused t with
        | some c => h1.setF rPWR_STS fPWR_STS_REFUSED c
        | none => { h1 with pwrJob := some t }.setF rPWR_STS fPWR_STS_BUSY 1)

def pwrGo (t : Nat) : Word := setFld (setFld 0 fPWR_CTL_TARGET t) fPWR_CTL_GO 1

/-- POWER_TO_LIT (R469). -/
def execPowerToLit (o : Origin) (s : State) : Res := onReg o s (fun h => h.writePwrCtl o (pwrGo 0))

/-- POWER_TO_DIM (R469). -/
def execPowerToDim (o : Origin) (s : State) : Res := onReg o s (fun h => h.writePwrCtl o (pwrGo 1))

/-- POWER_TO_DARK (R469). -/
def execPowerToDark (o : Origin) (s : State) : Res := onReg o s (fun h => h.writePwrCtl o (pwrGo 2))

/-- POWER_TO_SHADE (R469). -/
def execPowerToShade (o : Origin) (s : State) : Res := onReg o s (fun h => h.writePwrCtl o (pwrGo 3))

/-- PWR_CTL written, WARM with it: by Kelvy alone, a warm reset of cause 4. -/
def pwrCtl (f : Fuses) (h : Hub) (o : Origin) (v : Word) (e : BootEnv) : Fuses × Hub :=
  if !vFlag v fPWR_CTL_WARM then (f, h.writePwrCtl o v)
  else if o ≠ .kelvy then (f, h.turnedAway o)
  else warmReset f h.regOk 4 0 0 e

/-- KELVY_WARM_RESET_REQUEST (R481). -/
def execKelvyWarmResetRequest (o : Origin) (e : BootEnv) (s : State) : Res :=
  onRegChip o s (fun f h => pwrCtl f h o (setFld 0 fPWR_CTL_WARM 1) e)

/-! ## Transitions (R470) -/

/-- Every array that is not retired is gated, and what its cells held is lost. -/
def Hub.gateArrays (h : Hub) : Hub :=
  (List.range 208).foldl (fun (h : Hub) a => if h.arrMode a = 3 then h else h.setArrMode a 4) { h.wipeCells (fun _ => true) with badArrays := [] }

/-- The Umbra keys discarded, and with them what lay under them, the node cache, the unverifiable list and every sweep (R326, R480). -/
def Hub.dropKeys (h : Hub) : Hub :=
  (h.forme.sealedRegs.foldl (fun (h : Hub) r =>
    (((h.updSeal r.region (fun k => { base := k.base })).setReg (rUMB_REG_STS r.region) 0).setF (rUMB_REG_STS r.region) fUMB_REG_STS_STATE 1).setReg
      (rUMB_REG_SWEEP r.region) 0) { h with hbm := [], zeroed := [], nodeCache := [] }).clearLost

/-- Shade entered: the Umbra keys, the node cache and the key slots are gone, HBM in self-refresh, the links in low-power idle. -/
def Hub.enterShade (h : Hub) : Hub :=
  let h1 : Hub := { h.dropKeys with keySlots := [] }
  let h2 := (List.range 768).foldl (fun h c => if h.chState c = chACTIVE ∨ h.chState c = chRETRAINING then h.setF (rMEM_CH_STS c) fMEM_CH_STS_STATE 5 else h) h1
  let h3 := (List.range 24).foldl (fun h l => if 2 ≤ h.lkState l then h.updLink l (fun k => { k with low := true }) else h) h2
  h3.setF rUMB_STS fUMB_STS_READY 0

/-- Shade left: fresh keys, HBM out of self-refresh, the links resumed. -/
def Hub.leaveShade (h : Hub) : Hub :=
  let h1 := (List.range 768).foldl (fun h c => if h.chState c = 5 then h.setF (rMEM_CH_STS c) fMEM_CH_STS_STATE chACTIVE else h) h.drawKeys
  (List.range 24).foldl (fun h l => h.updLink l (fun k => { k with low := false })) h1

/-- The hub as lit, from any state: each step of R470 on the way. -/
def Hub.toLit (h : Hub) (fails : List Nat) : Hub :=
  let h1 := if h.pwrState = 3 then h.leaveShade else h
  if 2 ≤ h.pwrState then (h1.wipeCells (fun _ => true)).testArrays fails else h1

/-- The running transition ends; what its target does not list directly passes through lit. A draw of keys waits for a failed
random source (R455). -/
def Hub.pwrDone (h : Hub) (fails : List Nat) : Hub :=
  match h.pwrJob with
  | none => h
  | some t =>
    let cur := h.pwrState
    if cur = 3 ∧ h.rngBad = true then h
    else
      let h1 := if t = 0 ∨ t = 1 then h.toLit fails
        else if t = 2 then (if cur = 3 then (h.toLit fails).gateArrays else h.gateArrays)
        else (if cur = 2 then h else h.gateArrays).enterShade
      ({ h1 with pwrJob := none }.setF rPWR_STS fPWR_STS_STATE t).setF rPWR_STS fPWR_STS_BUSY 0

/-- POWER_TRANSITION_DONE (R470). -/
def execPowerTransitionDone (testFail : List Nat) (s : State) : Res := onHub s (fun h => h.pwrDone testFail)

/-! ## ARR_CTL (R474, R486) -/

/-- A cell of the array is held by a slice or awaits its scrub. -/
def Hub.arrHeld (h : Hub) (a : Nat) : Bool :=
  !(h.arraySlices a).isEmpty || h.releasing.any (fun r => decide (r.kind = rkCELL) && decide (r.num / 128 = a))

/-- ARR_CTL written: RETIRE runs the self-test first; DARK gates the array; LIGHT lights a dark one. -/
def Hub.writeArrCtl (h : Hub) (o : Origin) (a : Nat) (v : Word) : Hub :=
  h.mgrWrite o (fun h =>
    let m := h.arrMode a
    if vFlag v fARR_CTL_RETIRE then
      if h.arrHeld a then h.regErr
      else if m = 3 then h.regOk
      else
        let h1 := h.regOk.setF (rARR_CTL a) fARR_CTL_RETIRE 1
        if m = 2 then h1 else h1.setArrMode a 1
    else if vFlag v fARR_CTL_DARK then
      if h.arrHeld a || decide (m = 3) then h.regErr
      else { h.regOk.wipeCells (fun c => decide (c / 128 = a)) with badArrays := h.badArrays.erase a }.setArrMode a 4
    else if vFlag v fARR_CTL_LIGHT then (if 2 ≤ h.pwrState then h.regErr else h.regOk.lightArray a)
    else h.regOk)

/-- ARRAY_RETIRE (R486). -/
def execArrayRetire (o : Origin) (a : ArrayId) (s : State) : Res := onReg o s (fun h => h.writeArrCtl o a (setFld 0 fARR_CTL_RETIRE 1))

/-- ARRAY_DARK (R474). -/
def execArrayDark (o : Origin) (a : ArrayId) (s : State) : Res := onReg o s (fun h => h.writeArrCtl o a (setFld 0 fARR_CTL_DARK 1))

/-- ARRAY_LIGHT (R474). -/
def execArrayLight (o : Origin) (a : ArrayId) (s : State) : Res := onReg o s (fun h => h.writeArrCtl o a (setFld 0 fARR_CTL_LIGHT 1))

/-! ## Junction sensors (R35, R292) -/

/-- The highest junction reading. -/
def Hub.tjMax (h : Hub) : Nat := (h.sensors.filter (fun e => decide (e.1 < hotKey))).foldl (fun m e => max m e.2) 0

/-- A sensor has passed from `old` to `new` over a threshold. -/
def rises (old new limit : Nat) : Bool := decide (old < limit) && decide (limit ≤ new)

/-- A reading: THERM_WARN as a sensor passes above 100 degrees, THERM_HIGH and throttled HBM above 105, THERM_TRIP at 115, which
stops every cell where it stands. The throttling ends once every sensor reads below 102 (R292; DEDUCED, log entry 48). -/
def Hub.junction (h : Hub) (n deg : Nat) : Hub :=
  let old := mapGetD h.sensors n 0
  let h1 : Hub := { h with sensors := mapPutD 0 h.sensors n deg }
  let h2 := h1.setF rPWR_TEMP fPWR_TEMP_TJ_MAX (min 255 h1.tjMax)
  let h3 := if rises old deg 101 then h2.faultS uPWR 0 kTHERM_WARN clsCorrected none 0 else h2
  let h4 := if rises old deg 106 then h3.faultS uPWR 0 kTHERM_HIGH clsCorrected none 0 else h3
  let h5 : Hub := { h4 with sensors := mapPutD 0 h4.sensors hotKey (b2n (decide (105 < h4.tjMax) || (h4.junctionHot && decide (102 ≤ h4.tjMax)))) }
  let h6 := (List.range 24).foldl (fun h k => if h.flag (rMEM_STKn k) fMEM_STKn_PRESENT then h.throttleStack k else h) h5
  if rises old deg 115 then
    { h6 with cells := h6.cells.map (fun (c : Nat × Cell) => (c.1, c.2.stopHere)) }.faultS uPWR 0 kTHERM_TRIP clsFatal none 0
  else h6

/-- JUNCTION_SENSOR_READING (R35). -/
def execJunctionSensorReading (sensor deg : Nat) (s : State) : Res :=
  onHub s (fun h => if sensor < hotKey then h.junction sensor deg else h)

end Sys2Proof.Machine
end

