-- ==== Sys2Proof/Machine/Kelvy.lean ====
section
/-! DEFINITION. Kelvy's image operations (R483 to R485): PUSH, STAGE, SWITCH, FLASH and FORME_FLASH; the watchdog and lockstep of its
cores (R417, R425). -/
namespace Sys2Proof.Machine

def klPUSH : Nat := 1
def klSTAGE : Nat := 2
def klSWITCH : Nat := 3
def klFLASH : Nat := 4
def klFORME_FLASH : Nat := 5

/-! ## KLV_IMG_CTL and KLV_IMG_ADDR -/

/-- An operation ends with DONE and a RESULT. -/
def Hub.imgOver (h : Hub) (result : Nat) : Hub :=
  (({ h with klv := { h.klv with op := none, switchAt := none } }.setF rKLV_IMG_CTL fKLV_IMG_CTL_BUSY 0).setF rKLV_IMG_CTL fKLV_IMG_CTL_RESULT
    result).setF rKLV_IMG_CTL fKLV_IMG_CTL_DONE 1

/-- The RESULT that ends an OP before it starts: a reserved OP, an OP not valid at this STAGE, nothing staged. -/
def Hub.imgRefused (h : Hub) (op : Nat) : Option Nat :=
  if 5 < op then some 8
  else if h.bootStage ≠ (if op = klPUSH then 7 else 6) then some 7
  else if decide (op = klSWITCH) && !h.flag rKLV_IMG_CTL fKLV_IMG_CTL_STAGED then some 5
  else none

/-- KLV_IMG_CTL written: an OP while BUSY gets an error response. -/
def Hub.writeImgCtl (h : Hub) (o : Origin) (v : Word) : Hub :=
  h.bootWrite o (fun h =>
    let op := vFld v fKLV_IMG_CTL_OP
    if op ≠ 0 ∧ h.klv.op.isSome then h.regErr
    else
      let h1 := h.regOk.writeRW rKLV_IMG_CTL [] [fKLV_IMG_CTL_DONE] v
      if op = 0 then h1
      else match h1.imgRefused op with
        | some r => h1.imgOver r
        | none => { h1 with klv := { h1.klv with op := some op, switchAt := if op = klSWITCH then some h1.now else none,
                                                 imgAddr := h1.fld rKLV_IMG_ADDR fKLV_IMG_ADDR_ADDR * 4096 } }.setF rKLV_IMG_CTL fKLV_IMG_CTL_BUSY 1)

/-- KLV_IMG_ADDR written. -/
def Hub.writeImgAddr (h : Hub) (o : Origin) (v : Word) : Hub :=
  h.bootWrite o (fun h => h.regOk.writeRW rKLV_IMG_ADDR [fKLV_IMG_ADDR_ADDR] [] v)

def imgOp (op : Nat) : Word := setFld 0 fKLV_IMG_CTL_OP op

/-- PUSH (R479, R483). -/
def execPush (o : Origin) (s : State) : Res := onReg o s (fun h => h.writeImgCtl o (imgOp klPUSH))

/-- STAGE (R483). -/
def execStage (o : Origin) (s : State) : Res := onReg o s (fun h => h.writeImgCtl o (imgOp klSTAGE))

/-- SWITCH (R483, R484). -/
def execSwitch (o : Origin) (s : State) : Res := onReg o s (fun h => h.writeImgCtl o (imgOp klSWITCH))

/-- FLASH (R483, R485). -/
def execFlash (o : Origin) (s : State) : Res := onReg o s (fun h => h.writeImgCtl o (imgOp klFLASH))

/-- FORME_FLASH (R483). -/
def execFormeFlash (o : Origin) (s : State) : Res := onReg o s (fun h => h.writeImgCtl o (imgOp klFORME_FLASH))

/-! ## The operations as they end -/

/-- The running half, and the other. -/
def Hub.running (h : Hub) : List Byte := if h.flag rKLV_BOOT fKLV_BOOT_HALF then h.klv.halfB else h.klv.halfA
def Hub.setOther (h : Hub) (b : List Byte) : Hub :=
  if h.flag rKLV_BOOT fKLV_BOOT_HALF then { h with klv := { h.klv with halfA := b } } else { h with klv := { h.klv with halfB := b } }

/-- The image at KLV_IMG_ADDR as it reads, and the hub once it has been read (R483). -/
def Hub.imgReader (h : Hub) (ec : Nat → Ecc) : Reader := h.hbmReader h.klv.imgAddr ec
def Hub.imgRead (h : Hub) (ec : Nat → Ecc) (n : Nat) : Hub := (h.readImage h.klv.imgAddr ec 0 n).2

/-- PUSH: the image runs from half A (R479). -/
def Hub.pushDone (h : Hub) (f : Fuses) (ec : Nat → Ecc) : Hub :=
  match checkFirmware f h.lcState (h.imgReader ec) with
  | .error r => h.imgOver r
  | .ok w => ((h.imgRead ec w.body.length).runFirmware w).imgOver 0

/-- STAGE: the image stands in the half that does not run. A failed one leaves nothing staged (DEDUCED, log entry 49). -/
def Hub.stageDone (h : Hub) (f : Fuses) (ec : Nat → Ecc) : Hub :=
  match checkFirmware f h.lcState (h.imgReader ec) with
  | .error r => ((h.setOther []).setF rKLV_IMG_CTL fKLV_IMG_CTL_STAGED 0).imgOver r
  | .ok w =>
    let h1 := (h.imgRead ec w.body.length).setOther w.body
    ({ h1 with klv := { h1.klv with stagedMeas := w.meas, stagedUnbound := w.unbound } }.setF rKLV_IMG_CTL fKLV_IMG_CTL_STAGED 1).imgOver 0

/-- FLASH: the running image in the firmware slot, read back. -/
def Hub.flashDone (h : Hub) (ok : Bool) : Hub :=
  if ok then (h.flashPut slotFW.1 slotFW.2 h.running).imgOver 0 else h.cutFlash.imgOver 6

/-- The RESULT that a refusal of steps 2 to 4 of a commit makes of FORME_FLASH: a failed read, a refused signature, or anything else
of the image (DEDUCED, log entry 49). -/
def formeResult (code : Nat) : Nat := if code = 0x02 then 3 else if code = 0x08 ∨ code = 0x09 then 2 else 1

/-- FORME_FLASH: a whole image that passes steps 2 to 4, in the forme slot. -/
def Hub.formeFlashDone (h : Hub) (f : Fuses) (ok : Bool) (ec : Nat → Ecc) : Hub :=
  match takeImage (h.imgReader ec) (f.hashFor h.lcState) with
  | .error e => h.imgOver (formeResult e.code)
  | .ok i =>
    if i.isPartial then h.imgOver 1
    else if !ok then h.cutFlash.imgOver 6
    else ((h.imgRead ec i.len).flashPut slotFORME.1 slotFORME.2 (((h.imgReader ec) 0 i.len).getD [])).imgOver 0

/-- The image at KLV_IMG_ADDR cannot be read yet: a hub halt (R318), or requests before its own. -/
def Hub.imgWaits (h : Hub) (ec : Nat → Ecc) (len most : Nat) : Bool := h.halted || h.imageWaits h.klv.imgAddr ec len most

/-- IMAGE_OPERATION_DONE (R483). The command says what the stack and Umbra report of one line of the image, where one is read. -/
def execImageOperationDone (x : ImageSays) (s : State) : Res :=
  onHubF s (fun f h =>
    let ec := atLine x.sees.line x.sees.ecc
    if h.klv.op = some klFLASH then h.flashDone x.flashOk
    else if h.klv.op = some klFORME_FLASH then (if h.imgWaits ec 0x18 2097152 then h else h.formeFlashDone f x.flashOk ec)
    else if h.klv.op = some klPUSH then (if h.imgWaits ec 0x10 1048576 then h else h.pushDone f ec)
    else if h.klv.op = some klSTAGE then (if h.imgWaits ec 0x10 1048576 then h else h.stageDone f ec)
    else h)

/-! ## SWITCH (R484) -/

/-- No commit runs, and LCS_REQ, MEM_REMAP_CMD and PWR_STS are not BUSY. -/
def Hub.quiescent (h : Hub) : Bool := h.commitJob.isNone && h.lcsJob.isNone && h.remapJob.isNone && h.pwrJob.isNone

/-- The staged image runs: its half is the running one, the other is zero, its measurement stands, the watchdog starts afresh. -/
def Hub.switchNow (h : Hub) : Hub :=
  let toB := !h.flag rKLV_BOOT fKLV_BOOT_HALF
  let img := if toB then h.klv.halfB else h.klv.halfA
  let h1 := (((h.putRegs rKEY_MEASn h.klv.stagedMeas).setF rKLV_BOOT fKLV_BOOT_HALF (b2n toB)).setF rKLV_BOOT fKLV_BOOT_UNBOUND
    (b2n h.klv.stagedUnbound)).setF rKLV_IMG_CTL fKLV_IMG_CTL_STAGED 0
  { h1 with klv := { halfA := if toB then [] else img, halfB := if toB then img else [], entry := leAt img 0x14 4, kickedAt := h.now,
                     debugSteps := h.klv.debugSteps } }.imgOver 0

/-- SWITCH_QUIESCENT: the switch, or RESULT 4 once 100 ms have passed. -/
def execSwitchQuiescent (s : State) : Res :=
  onHub s (fun h => match h.klv.op, h.klv.switchAt with
    | some 3, some t => if h.quiescent then h.switchNow else if t + 100 * psMs ≤ h.now then h.imgOver 4 else h
    | _, _ => h)

/-! ## Watchdog and lockstep (R417, R425) -/

/-- The period of WDG_KLV in ps: 0 selects 1,000 ms. -/
def Hub.wdgPeriod (h : Hub) : Nat := let n := h.fld rWDG_KLV fWDG_KLV_PERIOD_MS; (if n = 0 then 1000 else n) * psMs

/-- WDG_KLV written: by Kelvy alone; a period outside its range gets an error response (R417, R487). -/
def Hub.writeWdgKlv (h : Hub) (o : Origin) (v : Word) : Hub :=
  if o ≠ .kelvy then h.turnedAway o
  else if 60000 < vFld v fWDG_KLV_PERIOD_MS then h.regErr
  else
    let h1 := h.regOk.writeRW rWDG_KLV [fWDG_KLV_PERIOD_MS, fWDG_KLV_EN] [] v
    if vFlag v fWDG_KLV_KICK || (vFlag v fWDG_KLV_EN && !h.flag rWDG_KLV fWDG_KLV_EN) then { h1 with klv := { h1.klv with kickedAt := h.now } } else h1

/-- KLV_WATCHDOG_KICK (R417). -/
def execKlvWatchdogKick (o : Origin) (v : Word) (s : State) : Res := onReg o s (fun h => h.writeWdgKlv o (setFld v fWDG_KLV_KICK 1))

/-- KLV_WATCHDOG_EXPIRY: a period has passed without a kick while firmware runs (R417); the next one is counted from now. -/
def execKlvWatchdogExpiry (s : State) : Res :=
  onHub s (fun h =>
    if h.flag rWDG_KLV fWDG_KLV_EN && decide (h.bootStage = 6) && decide (h.klv.kickedAt + h.wdgPeriod < h.now) then
      ({ h with klv := { h.klv with kickedAt := h.now } }.count rWDG_STS fWDG_STS_KLV_EXPIRED 1).faultS uWDG 0 kKLV_WDG clsFatal none 0
    else h)

/-- LOCKSTEP_MISMATCH (R425). -/
def execLockstepMismatch (s : State) : Res :=
  onHub s (fun h => if h.bootStage = 0 then h else h.faultS uKLV 0 kKLV_LOCKSTEP clsFatal none 0)

/-- CONFIG_PARITY_SCRUB: a bad entry raises the fatal CFG_PARITY (R386, R425). A corrected error of Kelvy's own memory, which the spec names
but for the kind KLV_ECC nowhere, is reported with the scrub (DESIGN CHOICE, log entry 147). -/
def execConfigParityScrub (x : ScrubSays) (s : State) : Res :=
  onHub s (fun h =>
    let h1 := if x.klvEcc && decide (h.bootStage ≠ 0) then h.faultS uKLV 0 kKLV_ECC clsCorrected none 0 else h
    if x.bad && decide (h.bootStage ≠ 0) then h1.faultS uHUB 0 kCFG_PARITY clsFatal none 0 else h1)

end Sys2Proof.Machine
end

