-- ==== Sys2Proof/Machine/Faults.lean ====
section
/-! DEFINITION. The fault collector at work (R384 to R405, R490, R492): what a fault does to slices, groups and the hub, the reactions
of its source, and the collector's registers. -/
namespace Sys2Proof.Machine

/-! ## Reactions (R384, R385, R391) -/

def reIRQ : Nat := 1
def reNMI : Nat := 2
def reBLOCK : Nat := 4
def reHUB : Nat := 8
def rePIN : Nat := 16

/-- The reactions by default of a unit's contained faults. -/
def defaultReact (unit : Nat) : Nat :=
  if unit = uARR ∨ unit = uQL then reIRQ + reBLOCK
  else if unit = uLCS ∨ unit = uPWR then reNMI
  else if unit = uKLV ∨ unit = uWDG then reNMI + reBLOCK
  else if unit < 18 then reIRQ else 0

/-- The FAULT_REACT entry that applies to a source: its own, else the one of every instance of its unit. -/
def Hub.reactEntry (h : Hub) (src : Nat) : Option Nat :=
  (mapGet h.forme.reacts src).or (mapGet h.forme.reacts (src / 1024 * 1024 + 0x3FF))

/-- The reactions in force for a source. -/
def Hub.reactions (h : Hub) (src : Nat) : Nat := (h.reactEntry src).getD (defaultReact (src / 1024))

/-- A fault of the HTU or of an owner check for a slice's own request carries neither another slice nor the hub (R267): of its
source's reactions the interrupt and the pin remain (DEDUCED, log entry 50). -/
def confined (m : FaultMsg) : Bool := m.slice.isSome && (decide (m.kind = kACCESS) || decide (m.kind = kXLATE))

/-- FCOL_REACT_Q as it reads. -/
def Hub.reactView (h : Hub) : Word :=
  let src := h.fld rFCOL_REACT_Q fFCOL_REACT_Q_SOURCE
  setFld (setFld (h.reg rFCOL_REACT_Q) fFCOL_REACT_Q_REACT (h.reactions src)) fFCOL_REACT_Q_OVERRIDE (b2n (h.reactEntry src).isSome)

/-- FCOL_REACT_Q written. -/
def Hub.writeReactQ (h : Hub) (o : Origin) (v : Word) : Hub :=
  h.mgrWrite o (fun h => h.regOk.writeRW rFCOL_REACT_Q [fFCOL_REACT_Q_SOURCE] [] v)

/-- REACTION_QUERY (R385): the source is set, and the register answers. -/
def execReactionQuery (o : Origin) (v : Word) (s : State) : Res :=
  onReg o s (fun h => let h1 := h.writeReactQ o v; if h.isMgr o then h1.emit (.regData h1.reactView) else h1)

/-! ## Slices (R54, R390, R490) -/

/-- A slice that is LIVE or HELD enters FAULT; a running move copy stops with ERR (R56). In FAULT every further kind counts for
AUTO. -/
def Hub.enterFault (h : Hub) (s : Nat) (auto : Bool) : Hub :=
  let st := h.stateOf s
  let note (h : Hub) : Hub := h.updRt s (fun r => { r with faultAt := h.now, votedFault := true })
  if st = 1 ∨ st = 2 then
    let h1 := if h.flag (rSLM_MOVE s) fSLM_MOVE_BUSY then h.moveDone s false else h
    note (((h1.toState s slFAULT).setF (rSLM_FAULT s) fSLM_FAULT_AUTO (b2n auto)).setF (rSLM_FAULT s) fSLM_FAULT_LOCK 0)
  else if st = 3 then
    note (h.setF (rSLM_FAULT s) fSLM_FAULT_AUTO (b2n (auto && h.flag (rSLM_FAULT s) fSLM_FAULT_AUTO)))
  else h

/-- SLM_FAULT and SLM_FAULT_ADDR as a contained fault named to the slice leaves them. -/
def Hub.noteFault (h : Hub) (s : Nat) (r : FaultRec) : Hub :=
  let a := rSLM_FAULT s
  let h1 := ((((h.setF a fSLM_FAULT_KIND r.msg.kind).setF a fSLM_FAULT_CTX (r.msg.ctx.getD 0)).setF a fSLM_FAULT_CTX_V (b2n r.msg.ctx.isSome)).setF a
    fSLM_FAULT_SEQ r.seq)
  let h2 := (h1.setF (rSLM_FAULT_ADDR s) fSLM_FAULT_ADDR_ADDR (r.msg.addr.getD 0)).setF (rSLM_FAULT_ADDR s) fSLM_FAULT_ADDR_VALID (b2n r.msg.addr.isSome)
  if r.lock then h2.setF a fSLM_FAULT_LOCK 1 else h2

/-- A contained fault of a site that names its slice closes the engine it names (R370). -/
def Hub.siteCloses (h : Hub) (s : Nat) (m : FaultMsg) : Hub :=
  let st := m.source % 1024
  if decide (m.source / 1024 = uSITE) && decide (m.kind ≠ kACCESS) && decide (h.engineOwner st m.aux = some s) && h.engineOpen st m.aux then
    h.closeEngine st m.aux
  else h

/-- A contained fault named to a slice; in DRAINING and SCRUB it is recorded alone (R56). -/
def Hub.containedNamed (h : Hub) (s : Nat) (r : FaultRec) : Hub :=
  if h.stateOf s = 0 then h else ((h.enterFault s (autoExit r.msg.kind)).noteFault s r).siteCloses s r.msg

/-! ## Fatal faults (R390, R492) -/

/-- The slices with resources behind a source instance. -/
def Hub.slicesBehind (h : Hub) (unit inst : Nat) : List Nat :=
  let is (p : Nat → SliceRec → Bool) : List Nat := (h.forme.slices.filter (fun e => decide (h.stateOf e.1 ≠ 0) && p e.1 e.2)).map (·.1)
  if unit = uHUB ∨ unit = uFAB ∨ unit = uHTU ∨ unit = uUMB then is (fun _ _ => true)
  else if unit = uCELL ∨ unit = uARR then is (fun _ r => (h.fusedWith inst).any r.arraysTouched.contains)
  else if unit = uMEM then is (fun _ r => (List.range 32).any (fun i => h.sliceOnChan (32 * inst + i) r))
  else if unit = uMTR then is (fun _ r => decide ((r.chargedTo inst).1 ≠ 0))
  else if unit = uQL then is (fun s _ => (h.linkSlices inst).contains s)
  else if unit = uBEAT then is (fun _ r => decide (r.group = inst))
  else if unit = uSITE then is (fun _ r => decide (r.siteEng.getD inst 0 ≠ 0))
  else if unit = uHOST then is (fun _ r => decide (h.vfLink r.vfPort r.vfIndex = inst))
  else if unit = uCKC then is (fun _ r => r.check.contains inst)
  else if unit = uPWR then is (fun _ r => !r.cells.isEmpty)
  else []

/-- The requests queued on the channels of a stopped controller fail. -/
def Hub.failStack (h : Hub) (n : Nat) : Hub :=
  (List.range 32).foldl (fun h i =>
    let ch := 32 * n + i
    let ids := (h.chan ch).queues.flatMap (·.2)
    ids.foldl (fun h r => match h.req r with
      | some q => h.failAtMem r q fsMEMORY kMEM_CHANNEL
      | none => h) (h.updChan ch (fun x => { x with queues := [] }))) h

/-- The source instance stops, and its requests get error responses. -/
def Hub.stopInst (h : Hub) (unit inst : Nat) : Hub :=
  let code := srcOf unit inst
  let h1 : Hub := { h with fcol := { h.fcol with stopped := code :: h.fcol.stopped.erase code } }
  let stopCells (p : Nat → Bool) : Hub := { h1 with cells := h1.cells.map (fun (c : Nat × Cell) => if p c.1 then (c.1, c.2.stopHere) else c) }
  if unit = uQL then (if 2 ≤ h1.lkState inst ∧ h1.lkState inst ≤ 5 then h1.downLink inst else h1)
  else if unit = uSITE then (if 2 ≤ h1.stState inst ∧ h1.stState inst ≤ 4 then h1.downSite inst else h1)
  else if unit = uMEM then h1.failStack inst
  else if unit = uARR ∨ unit = uCELL then stopCells (fun c => decide (c / 128 = inst))
  else if unit = uPWR then stopCells (fun _ => true)
  else if unit = uKLV then { h1 with klv := { h1.klv with halted := true } }
  else h1

/-- The eclipses of reason 0x02: for every started group with a slice behind the instance, sent before a link stops (R418, R419). -/
def Hub.fatalEclipses (h : Hub) (ss : List Nat) : Hub :=
  let gs := ((ss.map (fun s => (h.slD s).group)).eraseDups).filter h.groupStarted
  let halt := h.fld rUMB_STS fUMB_STS_HALT
  if gs.isEmpty then h
  else ((gs.foldl (fun h g => h.raiseEclipse g 2) (h.setF rUMB_STS fUMB_STS_HALT 0)).drainVc2).setF rUMB_STS fUMB_STS_HALT halt

/-- A fatal fault in latch entry n: the slices behind the instance enter FAULT, and the entry blocks their exit; a running commit
ends with nothing applied (R103); the hub enters the fault state. -/
def Hub.fatalEffects (h : Hub) (n : Nat) (r : FaultRec) : Hub :=
  let unit := r.msg.source / 1024
  let inst := r.msg.source % 1024
  let ss := h.slicesBehind unit inst
  let h1 := h.fatalEclipses ss
  let h2 := ss.foldl (fun h s => h.enterFault s true) h1
  let h3 : Hub := { h2 with fcol := { h2.fcol with blocked := h2.fcol.blocked.set n ss } }
  let h4 := if h3.commitJob.isSome then { h3 with commitJob := none }.setF rSLM_COMMIT_STS fSLM_COMMIT_STS_PHASE 0 else h3
  (h4.stopInst unit inst).hubFault

/-! ## Block resets -/

/-- The array reset that a fault of unit ARR other than ARRAY_TEST brings; ARRAY_TEST's own reset has begun (R384, R48). -/
def Hub.blockArray (h : Hub) (a kind : Nat) : Hub :=
  if kind = kARRAY_TEST ∨ h.arrMode a = 3 ∨ h.arrMode a = 4 then h
  else (h.arraySlices a).foldl (fun h s => h.enterFault s (autoExit kind)) (h.startArrayReset a)

/-- The block reset of a unit (R384). What a reset block's crossing FIFOs hold fails before the reset is complete (R23). -/
def Hub.blockReset (h : Hub) (f : Fuses) (unit inst kind : Nat) (e : BootEnv) : Hub :=
  if unit = uARR then h.blockArray inst kind
  else if unit = uMEM then (List.range 32).foldl (fun h i => h.retrainChan (32 * inst + i)) (h.failEndpoint .memory inst)
  else if unit = uQL then (h.failEndpoint .link inst).retrainLink inst
  else if unit = uSITE then (h.failEndpoint .site inst).retrainSite inst
  else if unit = uKLV ∨ unit = uWDG then (if h.bootStage = 0 ∨ h.bootStage = 8 then h else h.kelvyRestart f e)
  else h

/-- The reactions of a fault, the hub reset last (R391). -/
def react (f : Fuses) (h : Hub) (m : FaultMsg) (bits_ : Nat) (e : BootEnv) : Fuses × Hub :=
  let on (b : Nat) : Bool := decide (bits_ / b % 2 = 1)
  let h1 := if on reIRQ then h.irq else h
  let h2 := if on reNMI then h1.trap else h1
  let h3 := if on rePIN then h2.errOut else h2
  let h4 := if on reBLOCK then h3.blockReset f (m.source / 1024) (m.source % 1024) m.kind e else h3
  if on reHUB then hubReset f h4 2 m.source m.kind e else (f, h4)

/-! ## FAULT_MESSAGE -/

/-- The effects of a record by its class. -/
def applyFault (f : Fuses) (h : Hub) (r : FaultRec) (st : Stored) (e : BootEnv) : Fuses × Hub :=
  let re := h.reactions r.msg.source
  if r.cls = clsCorrected then (f, if h.flag rFCOL_CTL fFCOL_CTL_CORR_IRQ then h.irq else h)
  else if r.cls = clsContained then
    let h1 := if st = .uncounted then h.trap else h
    let h2 := match r.msg.slice with
      | some s => h1.containedNamed s r
      | none => h1.hubFault
    react f h2 r.msg (if confined r.msg then re % 2 + re / rePIN % 2 * rePIN else re) e
  else match st with
    | .latched n => react f (h.fatalEffects n r) r.msg ((re ||| reNMI) ||| rePIN) e
    | _ => hubReset f h 3 r.msg.source r.msg.kind e

/-- A message of those on their way to the collector is taken: numbered, classed, stored, and acted on. -/
def faultMessage (f : Fuses) (h : Hub) (i : Nat) (e : BootEnv) : Fuses × Hub :=
  match h.fcol.msgs[i]? with
  | none => (f, h)
  | some m =>
    let h1 : Hub := { h with fcol := { h.fcol with msgs := h.fcol.msgs.eraseIdx i } }
    let (r, st, h2) := h1.storeFault m
    applyFault f h2 r st e

/-- FAULT_MESSAGE (R389, R390). -/
def execFaultMessage (i : Nat) (e : BootEnv) (s : State) : Res := onChip s (fun f h => faultMessage f h i e)

/-! ## The collector's registers -/

/-- The quiet period starts again. -/
def Hub.quietAgain (h : Hub) : Hub := { h with fcol := { h.fcol with quietFrom := h.now } }

/-- FCOL_Q_PTR written: CONS advances, no further than PROD (R398). -/
def Hub.writeQPtr (h : Hub) (o : Origin) (v : Word) : Hub :=
  h.mgrWrite o (fun h =>
    let c := h.fld rFCOL_Q_PTR fFCOL_Q_PTR_CONS
    let d (x : Nat) : Nat := (x + 2 ^ 32 - c) % 2 ^ 32
    if d (h.fld rFCOL_Q_PTR fFCOL_Q_PTR_PROD) < d (vFld v fFCOL_Q_PTR_CONS) then h.regErr
    else h.regOk.writeRW rFCOL_Q_PTR [fFCOL_Q_PTR_CONS] [] v)

/-- FAULT_QUEUE_CONSUME (R398). -/
def execFaultQueueConsume (o : Origin) (v : Word) (s : State) : Res := onReg o s (fun h => h.writeQPtr o v)

/-- FCOL_CTL written; OVF_CLR zeroes FCOL_OVF. -/
def Hub.writeFcolCtl (h : Hub) (o : Origin) (v : Word) : Hub :=
  h.mgrWrite o (fun h =>
    let h1 := h.regOk.writeRW rFCOL_CTL [fFCOL_CTL_CORR_IRQ, fFCOL_CTL_PF0_IRQ, fFCOL_CTL_PF1_IRQ, fFCOL_CTL_ECL_ON_HANG] [] v
    if vFlag v fFCOL_CTL_OVF_CLR then h1.setReg rFCOL_OVF 0 else h1)

/-- FAULT_QUEUE_OVF_CLR (R399). -/
def execFaultQueueOvfClr (o : Origin) (s : State) : Res :=
  onReg o s (fun h => h.writeFcolCtl o (setFld (h.reg rFCOL_CTL) fFCOL_CTL_OVF_CLR 1))

/-- FCOL_STS written: TRAP and OVF_CONTAINED are cleared by a 1; the keys counted while it was set go with it (R395). -/
def Hub.writeFcolSts (h : Hub) (o : Origin) (v : Word) : Hub :=
  h.mgrWrite o (fun h =>
    let w := h.regOk.writeRW rFCOL_STS [] [fFCOL_STS_TRAP, fFCOL_STS_OVF_CONTAINED] v
    let h1 := if w.reg rFCOL_STS = h.reg rFCOL_STS then w else w.quietAgain
    if vFlag v fFCOL_STS_OVF_CONTAINED then { h1 with fcol := { h1.fcol with ovfKeys := [] } } else h1)

/-- FCOL_FATAL_ACK written: each entry named is free, and blocks no slice any longer (R400, R404). -/
def Hub.writeFatalAck (h : Hub) (o : Origin) (v : Word) : Hub :=
  h.mgrWrite o (fun h =>
    let ns := setBits (vFld v fFCOL_FATAL_ACK_ACK) 4
    ns.foldl (fun h n =>
      { ((h.setF rFCOL_FATAL_STS fFCOL_FATAL_STS_VALID (setBit4 (h.fld rFCOL_FATAL_STS fFCOL_FATAL_STS_VALID) n false)).setF rFCOL_FATAL_STS
          fFCOL_FATAL_STS_PRE_RESET (setBit4 (h.fld rFCOL_FATAL_STS fFCOL_FATAL_STS_PRE_RESET) n false)) with
        fcol := { h.fcol with blocked := h.fcol.blocked.set n [], quietFrom := if h.latchValid n then h.now else h.fcol.quietFrom } }) h.regOk)

/-- FATAL_ACK (R400). -/
def execFatalAck (o : Origin) (v : Word) (s : State) : Res := onReg o s (fun h => h.writeFatalAck o v)

/-- HOLD cleared; while the pulse runs, as it ends (R393). -/
def Hub.clearHold (h : Hub) : Hub :=
  if h.flag rFCOL_PIN fFCOL_PIN_PULSE then { h with fcol := { h.fcol with clrPending := true } } else h.setF rFCOL_PIN fFCOL_PIN_HOLD 0

/-- HOLD set by software. -/
def Hub.setHold (h : Hub) : Hub := { h.setF rFCOL_PIN fFCOL_PIN_HOLD 1 with fcol := { h.fcol with clrPending := false } }

/-- FCOL_PIN written: CLR, then SET. -/
def Hub.writePin (h : Hub) (o : Origin) (v : Word) : Hub :=
  h.mgrWrite o (fun h =>
    let h1 := if vFlag v fFCOL_PIN_CLR then h.regOk.clearHold else h.regOk
    if vFlag v fFCOL_PIN_SET then h1.setHold else h1)

/-- ERR_PIN_SET (R393). -/
def execErrPinSet (o : Origin) (s : State) : Res := onReg o s (fun h => h.writePin o (setFld 0 fFCOL_PIN_SET 1))

/-- ERR_PIN_CLR (R393). -/
def execErrPinClr (o : Origin) (s : State) : Res := onReg o s (fun h => h.writePin o (setFld 0 fFCOL_PIN_CLR 1))

/-- ERR_PIN_PULSE_END: the 2 microseconds have passed; a CLR written meanwhile takes effect (R392, R393). -/
def execErrPinPulseEnd (s : State) : Res :=
  onHub s (fun h => match h.fcol.pulseEnd with
    | none => h
    | some t =>
      if h.now < t then h
      else
        let h1 := { h with fcol := { h.fcol with pulseEnd := none, clrPending := false } }.setF rFCOL_PIN fFCOL_PIN_PULSE 0
        if h.fcol.clrPending then h1.setF rFCOL_PIN fFCOL_PIN_HOLD 0 else h1)

/-- The conditions under which the hub leaves its fault state; not while Umbra has halted it (R318, R403). -/
def Hub.mayLeaveFault (h : Hub) : Bool :=
  h.flag rFCOL_STS fFCOL_STS_HUB_FAULT && !(List.range 4).any h.latchValid && !h.flag rFCOL_STS fFCOL_STS_TRAP &&
    !h.flag rFCOL_STS fFCOL_STS_OVF_CONTAINED && decide (h.fcol.quietFrom + h.quietPs ≤ h.now) && !h.halted

/-- HUB_FAULT_EXIT (R403). -/
def execHubFaultExit (s : State) : Res :=
  onHub s (fun h =>
    if h.mayLeaveFault then ((h.setF rFCOL_STS fFCOL_STS_HUB_FAULT 0).count rFCOL_STS fFCOL_STS_RECOVERIES 1).clearHold else h)

/-- WDG_FAB written; a limit outside its range gets an error response (R416, R487). -/
def Hub.writeWdgFab (h : Hub) (o : Origin) (v : Word) : Hub :=
  h.mgrWrite o (fun h =>
    let n := vFld v fWDG_FAB_TIMEOUT_US
    if n ≠ 0 ∧ (n < 10 ∨ 10000 < n) then h.regErr else h.regOk.writeRW rWDG_FAB [fWDG_FAB_TIMEOUT_US] [] v)

end Sys2Proof.Machine
end

