-- ==== Sys2Proof/Machine/Views.lean ====
section
/-! DEFINITION. What a register reads as (the access types of "Registers and access types"): the value stored, with the fields that
the hub derives from the rest of its state laid over it, and zero in every WO field. -/
namespace Sys2Proof.Machine

/-- CELL_STAT.RUN (R166). -/
def runCode : CellRun → Nat
  | .idle => 0
  | .running => 1
  | .atSheet => 2
  | .stalled => 3
  | .held => 4
  | .faulted => 5
  | .inReset => 6

/-- Several fields set in a value, in order. -/
def setFlds (v : Word) (l : List (Fld × Nat)) : Word := l.foldl (fun v e => setFld v e.1 e.2) v

/-- Who holds a thing: the slice's number, and 1 where one does. -/
def ownerFlds (fs fo : Fld) (o : Option Nat) : List (Fld × Nat) := [(fs, o.getD 0), (fo, b2n o.isSome)]

/-- CELL_STAT as it reads. -/
def Hub.cellStatView (h : Hub) (a c : Nat) : Word :=
  let x := h.cell (a * 128 + c)
  setFlds 0 ([(fCELL_STAT_RUN, runCode x.run), (fCELL_STAT_PC, x.pc)] ++
    ownerFlds fCELL_STAT_SLICE fCELL_STAT_OWNED (h.cellOwner (a * 128 + c)))

/-- ARR_STAT as it reads. -/
def Hub.arrStatView (h : Hub) (a : Nat) : Word :=
  let g := h.fuseOf a
  let idle := (List.range 128).all (fun c => let r := (h.cell (a * 128 + c)).run; decide (r = .idle) || decide (r = .held))
  setFlds (h.reg (rARR_STAT a)) (ownerFlds fARR_STAT_SLICE fARR_STAT_WHOLE (h.arrayOwner a) ++
    [(fARR_STAT_FUSED, b2n g.isSome), (fARR_STAT_FUSE_FIRST, (g.map (·.first)).getD 0), (fARR_STAT_IDLE, b2n idle)])

/-- FAB_Q_STS as it reads. -/
def Hub.qStsView (h : Hub) (q : Nat) : Word :=
  let busy := h.items.any (fun e => decide (e.2.queue = q) && decide (e.2.st ≠ .ended))
  setFlds (h.reg (rFAB_Q_STS q)) ((fFAB_Q_STS_DRAINED, b2n (!busy)) :: ownerFlds fFAB_Q_STS_SLICE fFAB_Q_STS_OWNED (h.queueOwner q))

/-- FAB_SLICE_Q as it reads. -/
def Hub.sliceQView (h : Hub) (s : Nat) : Word :=
  setFlds 0 [(fFAB_SLICE_Q_STORED, h.stored (some s)), (fFAB_SLICE_Q_MOVERS, h.moversOf (some s)),
    (fFAB_SLICE_Q_BACKLOG, min 0xffff ((h.slD s).queueIds.map h.submitted).sum), (fFAB_SLICE_Q_READY, min 0xffff (h.moverReady s))]

/-- The walks that wait for a walker, and those on one, for which `p` holds. -/
def Hub.walksWhere (h : Hub) (p : Walk → Bool) : Nat := (h.walks.filter (fun e => p e.2)).length

/-- HTU_SLICE_STAT as it reads. -/
def Hub.htuSliceView (h : Hub) (s : Nat) : Word :=
  setFlds 0 [(fHTU_SLICE_STAT_ENTRIES, (h.cache.filter (fun l => l.ctxid / 16 == s)).length),
    (fHTU_SLICE_STAT_BACKLOG, min 0xffff (h.walksWhere (fun w => decide (w.slice = s) && !w.started))),
    (fHTU_SLICE_STAT_WALKERS, h.walksWhere (fun w => decide (w.slice = s) && w.started)),
    (fHTU_SLICE_STAT_FAULTS, (h.xfaults.filter (fun x => decide (x.slice = s) && x.fid.isSome)).length)]

/-- HTU_WALK_STS as it reads. -/
def Hub.walkStsView (h : Hub) : Word :=
  setFlds 0 [(fHTU_WALK_STS_BUSY, h.walksWhere (·.started)),
    (fHTU_WALK_STS_PENDING, (((h.walks.filter (fun e => !e.2.started)).map (fun e => e.2.slice)).eraseDups).length),
    (fHTU_WALK_STS_BACKLOG, min 0xffffff (h.walksWhere (fun w => !w.started)))]

/-- UMB_REG_CFG and UMB_REG_META as they read. -/
def Hub.regCfgView (h : Hub) (r : Nat) : Word :=
  match h.sealedRec r with
  | none => 0
  | some x => setFlds 0 [(fUMB_REG_CFG_FIRST_GRAN, x.first), (fUMB_REG_CFG_GRAN_COUNT, x.count), (fUMB_REG_CFG_VALID, 1)]

def Hub.regMetaView (h : Hub) (r : Nat) : Word :=
  match h.sealedRec r with
  | none => 0
  | some x => setFlds 0 [(fUMB_REG_META_META_FIRST, x.metaFirst), (fUMB_REG_META_META_COUNT, x.metaCount),
      (fUMB_REG_META_SWEEP_H, if x.sweepH = 0 then 24 else x.sweepH)]

/-- UMB_REG_STS as it reads: AGE_H counts from the last start or completed sweep. -/
def Hub.regStsView (h : Hub) (r : Nat) : Word :=
  setFld (h.reg (rUMB_REG_STS r)) fUMB_REG_STS_AGE_H
    (if (h.sealedRec r).isSome then min 0xffff ((h.now - (h.seal r).base) / psHour) else 0)

/-- The append-and-strip channel of a link (kind 0) or site (kind 1), in the fields of its status register. -/
def Hub.appendView (h : Hub) (v : Word) (kind num : Nat) (fa fc : Fld) : Word :=
  let k := h.appendOf kind num
  setFlds v [(fa, b2n k.isSome), (fc, k.getD 0)]

/-- SITE_ENGe as it reads: 0 closed, 1 open, 2 stalled on translation, 3 quiescing. -/
def Hub.engView (h : Hub) (s e : Nat) : Word :=
  let st := if (mapGet (h.site s).closing e).isSome then 3
    else if h.fld (rSITE_ENGe s e) fSITE_ENGe_STATE = 2 then 2
    else b2n (h.engineOpen s e)
  setFlds 0 (ownerFlds fSITE_ENGe_SLICE fSITE_ENGe_OWNED (h.engineOwner s e) ++ [(fSITE_ENGe_STATE, st), (fSITE_ENGe_OUT, h.engineOut s e)])

/-- MBX_T_STS and MBX_M_STS as they read. -/
def Hub.mbxTView (h : Hub) (s : Nat) : Word :=
  setFlds (h.reg (rMBX_T_STS s)) [(fMBX_T_STS_TX_FREE, 4 - (h.mbx s).toMgr.length), (fMBX_T_STS_RX_COUNT, (h.mbx s).toTen.length)]
def Hub.mbxMView (h : Hub) (s : Nat) : Word :=
  setFlds (h.reg (rMBX_M_STS s)) [(fMBX_M_STS_TX_FREE, 4 - (h.mbx s).toTen.length), (fMBX_M_STS_RX_COUNT, (h.mbx s).toMgr.length)]

/-- An RXD register: bytes 8n to 8n + 7 of the message at the head, zero where none waits. -/
def rxdView (q : List (List Byte)) (n : Nat) : Word := BitVec.ofNat 64 (leAt (q.headD []) (8 * n) 8)

/-- MBX_PENDw as it reads. -/
def Hub.pendView (h : Hub) (w : Nat) : Word :=
  BitVec.ofNat 64 (maskOf ((List.range 64).filter (fun b => !(h.mbx (64 * w + b)).toMgr.isEmpty)))

/-- SLM_SHEET and SLM_SHEET_SLIP as they read: the registers of the slice's group. -/
def Hub.sheetView (h : Hub) (s : Nat) : Word :=
  match h.sl s with
  | none => 0
  | some r => setFlds 0 [(fSLM_SHEET_SHEET, h.fld (rQL_GRP_SHEET r.group) fQL_GRP_SHEET_SHEET),
      (fSLM_SHEET_GSTATE, h.fld (rQL_GRP_STS r.group) fQL_GRP_STS_STATE)]

def Hub.sheetSlipView (h : Hub) (s : Nat) : Word :=
  match h.sl s with
  | none => 0
  | some r => setFlds 0 [(fSLM_SHEET_SLIP_SLIPS, h.fld (rQL_GRP_SLIP r.group) fQL_GRP_SLIP_SLIPS),
      (fSLM_SHEET_SLIP_CONSEC, h.fld (rQL_GRP_SLIP r.group) fQL_GRP_SLIP_CONSEC)]

/-- The live part of a mirror, bytes 0x700 to 0xFCF (R66, R71, R72). -/
def Hub.mirrorLive (h : Hub) (s : Nat) : List Byte :=
  let r := h.rt s
  let free := decide (h.stateOf s = 0)
  toLE 8 r.mirrorSeq ++ toLE 1 (h.stateOf s) ++
    (if free then zeros 23
     else toLE 1 r.shortfall ++ toLE 2 r.recoveries ++ zeros 4 ++
       (List.range 4).flatMap (fun m => toLE 2 (h.fld (rMTR_STSm s m) fMTR_STSm_SCALE)) ++ zeros 8) ++
    (List.range 16).flatMap (fun c => toLE 1 (h.gen (ctxid s c))) ++ zeros 2208

/-- A slice's mirror, 4,096 bytes (R66). -/
def Hub.mirrorPage (h : Hub) (s : Nat) : List Byte := h.grantOf s ++ h.mirrorLive s ++ h.mirrorDigest s

/-- A format slot's register as it reads: slots 0 and 1 are presets (R246). -/
def Hub.fmtView (h : Hub) (f reg : Nat) : Word :=
  let x := h.fmt f
  match reg with
  | 0 => x.ctl
  | 1 => x.pos
  | 2 => x.leaf
  | 3 => x.must0
  | _ => x.must1

/-- The value of a register of the map, by its row and indices; none where the register answers no such access. -/
def regView (f : Fuses) (h : Hub) (n : RegName) (ix : List Nat) (a : Nat) : Option Word :=
  match n, ix with
  | .CELL_STAT, [x, c] => some (h.cellStatView x c)
  | .ARR_STAT, [x] => some (h.arrStatView x)
  | .ARR_TEST, [x] => some (setFld (h.reg a) fARR_TEST_AGE_S (h.testAge x))
  | .SLM_SHEET, [s] => some (h.sheetView s)
  | .SLM_SHEET_SLIP, [s] => some (h.sheetSlipView s)
  | .SLM_FAULT, [s] => some (setFld (h.reg a) fSLM_FAULT_REPLAY (b2n (decide (h.stateOf s = 3) && h.mayRestart s)))
  | .SLM_MIRROR, [s, n] => some (BitVec.ofNat 64 (leAt (h.mirrorPage s) (8 * n) 8))
  | .FAB_Q_STS, [q] => some (h.qStsView q)
  | .FAB_SLICE_Q, [s] => some (h.sliceQView s)
  | .HTU_FMT_CTL, [i] => some (h.fmtView i 0)
  | .HTU_FMT_POS, [i] => some (h.fmtView i 1)
  | .HTU_FMT_LEAF, [i] => some (h.fmtView i 2)
  | .HTU_FMT_MUST0, [i] => some (h.fmtView i 3)
  | .HTU_FMT_MUST1, [i] => some (h.fmtView i 4)
  | .HTU_SLICE_STAT, [s] => some (h.htuSliceView s)
  | .HTU_WALK_STS, _ => some h.walkStsView
  | .MEM_OWNER, [g] => some (setFlds 0 (ownerFlds fMEM_OWNER_SLICE fMEM_OWNER_OWNED (h.owner g)))
  | .MTR_CFGm, [s, m] =>
    let x := (h.slD s).meters.getD m {}
    some (setFlds 0 [(fMTR_CFGm_GUAR_BYTES, x.guar), (fMTR_CFGm_WEIGHT, x.weight)])
  | .UMB_REG_CFG, [r] => some (h.regCfgView r)
  | .UMB_REG_META, [r] => some (h.regMetaView r)
  | .UMB_REG_STS, [r] => some (h.regStsView r)
  | .QL_LINK_STS, [l] => some (h.appendView (h.reg a) 0 l fQL_LINK_STS_APPEND fQL_LINK_STS_ACH)
  | .SITE_STS, [s] => some (h.appendView (h.reg a) 1 s fSITE_STS_APPEND fSITE_STS_ACH)
  | .SITE_ENGe, [s, e] => some (h.engView s e)
  | .MBX_T_STS, [s] => some (h.mbxTView s)
  | .MBX_M_STS, [s] => some (h.mbxMView s)
  | .MBX_T_RXDn, [s, n] => some (rxdView (h.mbx s).toTen n)
  | .MBX_M_RXDn, [s, n] => some (rxdView (h.mbx s).toMgr n)
  | .MBX_PENDw, [w] => some (h.pendView w)
  | .FCOL_STS, _ => some h.fcolStsView
  | .FCOL_PIN, _ => some h.pinView
  | .FCOL_REACT_Q, _ => some h.reactView
  | .CKC_EXPn, [s, n] => if h.ckcHeld s n then some (h.reg a) else none
  | .CKC_RESn, [s, n] => if h.ckcHeld s n then some (h.reg a) else none
  | .LCS_STATE, _ => some (h.lcsView f)
  | .KEY_IDn, [n] => some (BitVec.ofNat 64 (Config.hubId.toNat / 2 ^ (64 * n)))
  | .KEY_SLOT_STSm, [m] => some (h.slotView m)
  | .KEY_FULLw, [s, w] => some (h.fullView s w)
  | _, _ => some (h.reg a)

/-! ## Who reaches which register (R20, R374, and the start-up sequence) -/

/-- The hub-local address of a VF BAR0 offset for the function of slice s (R374). -/
def vfPage (s off : Nat) : Option Nat :=
  let base : Option Nat := match off / 0x1000 with
    | 0 => some (rSLM_SLICE_STATE s)
    | 1 => some (rSLM_MIRROR s)
    | 2 => some (rFAB_DOORBELL s)
    | 3 => some (rHTU_CTX_ROOTn s 0)
    | 4 => some (rMTR_CFGm s 0)
    | 5 => some (rCKC_EXPn s 0)
    | 6 => some (rKEY_CTL s)
    | 7 => some (rMBX_T_TXDn s 0)
    | 8 => some (rHOST_APn s 0)
    | _ => none
  base.map (fun b => b + off % 0x1000)

/-- An address lies in one of the pages of a slice. -/
def inPages (s a : Nat) : Bool := (List.range 9).any (fun p => vfPage s (0x1000 * p) == some (a / 0x1000 * 0x1000))

/-- The block of a register address: TOP, LCS and KLV are the blocks a physical function reaches before STAGE 6. -/
def bootBlock (a : Nat) : Bool := [0, 17, 19].contains ((a - REG_BASE) / 0x4000000)

/-- A sender reaches a register. -/
def Hub.reaches (h : Hub) (o : Origin) (a : Nat) : Bool :=
  match o with
  | .pf _ => h.onBus o && (bootBlock a || h.isMgr o)
  | .vf .. => (h.vfOf o).elim false (fun s => inPages s a)
  | o => h.onBus o

/-- A 64-bit read: none is an error response. WDG_KLV answers Kelvy alone (R417). -/
def readReg (f : Fuses) (h : Hub) (o : Origin) (a : Nat) : Option Word :=
  if a % 8 ≠ 0 ∨ !h.reaches o a then none
  else match regFind a with
    | none => none
    | some (r, ix) =>
      if r.name = .WDG_KLV ∧ o ≠ .kelvy then none
      else (regView f h r.name ix a).map (fun v => v &&& ~~~(accMask r .wo))

/-- A read of 4 or 8 aligned bytes (R13, R14): the bytes, or none. -/
def readBytes (f : Fuses) (h : Hub) (o : Origin) (a n : Nat) : Option (List Byte) :=
  if n = 8 then (readReg f h o a).map (fun v => toLE 8 v.toNat)
  else if n = 4 ∧ a % 4 = 0 then (readReg f h o (a / 8 * 8)).map (fun v => sub (toLE 8 v.toNat) (a % 8) 4)
  else none

end Sys2Proof.Machine
end

