-- ==== Sys2Proof/Machine/RegWrite.lean ====
section
/-! DEFINITION. A write to the register range (R9 to R15, R20, R487), by register; the TAP (R452, R453); and the end of a lifecycle
transition's checks (R448 to R451). -/
namespace Sys2Proof.Machine

/-! ## Registers whose write only stores -/

/-- A register of the managers whose RW fields are stored and whose W1C fields clear. -/
def Hub.mgrStore (h : Hub) (o : Origin) (a : Nat) (rw w1c : List Fld) (v : Word) : Hub :=
  h.mgrWrite o (fun h => h.regOk.writeRW a rw w1c v)

/-- A per-slice register that the slice's virtual function stores to as well. -/
def Hub.sliceStore (h : Hub) (o : Origin) (s a : Nat) (rw w1c : List Fld) (v : Word) : Hub :=
  h.sliceWrite o s (fun h => h.regOk.writeRW a rw w1c v)

/-- A register of the tenant side of a mailbox (R378). -/
def Hub.tenantStore (h : Hub) (o : Origin) (s a : Nat) (rw w1c : List Fld) (v : Word) : Hub :=
  h.tenantWrite o s (fun h => h.regOk.writeRW a rw w1c v)

/-- QL_CFG written: RESP_TO at most 10,000 (R487). -/
def Hub.writeQlCfg (h : Hub) (o : Origin) (v : Word) : Hub :=
  h.mgrWrite o (fun h => if 10000 < vFld v fQL_CFG_RESP_TO then h.regErr
    else h.regOk.writeRW rQL_CFG [fQL_CFG_RESP_TO, fQL_CFG_REPLAY_MAX] [] v)

/-- SITE_CFG written: RESP_TO at most 10,000 (R487). -/
def Hub.writeSiteCfg (h : Hub) (o : Origin) (v : Word) : Hub :=
  h.mgrWrite o (fun h => if 10000 < vFld v fSITE_CFG_RESP_TO then h.regErr else h.regOk.writeRW rSITE_CFG [fSITE_CFG_RESP_TO] [] v)

/-- HTU_FQ_RESP written (R258, R261). -/
def Hub.writeFqResp (h : Hub) (o : Origin) (s : Nat) (v : Word) : Hub :=
  h.fqRespond o s (vFld v fHTU_FQ_RESP_FAULT_ID) (vFlag v fHTU_FQ_RESP_FAIL)

/-- A write to a register with RO and FC fields alone is ignored (R11); a virtual function's is refused by its page's rules (R374),
but for its mirror's, which is ignored (R64). -/
def Hub.writeRo (h : Hub) (o : Origin) (n : RegName) : Hub :=
  match o with
  | .vf .. => if n = .SLM_MIRROR then h.regOk else h.regErr
  | _ => h.regOk

/-! ## The write, by register -/

/-- The value a 64-bit write of `v` has on a register, by its row and indices. -/
def writeRow (f : Fuses) (h : Hub) (o : Origin) (n : RegName) (ix : List Nat) (a : Nat) (v : Word) : Fuses × Hub :=
  match n, ix with
  | .PWR_CTL, _ => pwrCtl f h o v h.env
  | .SLM_SLICE_CTL, [s] => (f, h.writeSliceCtl o s v)
  | .SLM_SLICE_EVT, [_] => (f, h.mgrStore o a [] [fSLM_SLICE_EVT_STATE_CHG, fSLM_SLICE_EVT_BAD_CMD, fSLM_SLICE_EVT_TEARDOWN_DONE,
      fSLM_SLICE_EVT_SCRUB_DONE, fSLM_SLICE_EVT_HOLD_DONE, fSLM_SLICE_EVT_SHORTFALL, fSLM_SLICE_EVT_MOVE_DONE] v)
  | .SLM_MOVE, [s] => (f, h.writeMove o s v)
  | .SLM_IMG_BASE, _ => (f, h.writeImgBase o v)
  | .SLM_COMMIT_CTL, _ => (f, h.writeCommitCtl o v)
  | .SLM_COMMIT_STS, _ => (f, h.writeCommitSts o v)
  | .SLM_CTX_RESET, [s] => (f, h.writeCtxReset o s v)
  | .CELL_ECC, [x, c] => (f, h.writeCellEcc o x c v)
  | .ARR_TEST, [x] => (f, h.writeArrTest o x v)
  | .ARR_CTL, [x] => (f, h.writeArrCtl o x v)
  | .QL_GRP_CTL, [g] => (f, h.writeGrpCtl o g v)
  | .FAB_Q_RING, [q] => (f, h.writeQRing o q v)
  | .FAB_Q_CMPL, [q] => (f, h.writeQCmpl o q v)
  | .FAB_Q_STS, [_] => (f, h.mgrStore o a [] [fFAB_Q_STS_ERR_DB] v)
  | .FAB_DOORBELL, [s] => (f, h.writeDoorbell o s v)
  | .FAB_MDOORBELL, _ => (f, h.writeMDoorbell o v)
  | .FAB_AC_n, [s, n] => (f, h.writeAc o s n v)
  | .FAB_AC_ADD, [s] => (f, h.writeAcAdd o s v)
  | .HTU_CTX_ROOTn, [s, n] => (f, h.writeCtxRoot o s n v)
  | .HTU_CTX_CFGn, [s, n] => (f, h.writeCtxCfg o s n v)
  | .HTU_FMT_CTL, [i] => (f, h.writeFmt o i 0 v)
  | .HTU_FMT_POS, [i] => (f, h.writeFmt o i 1 v)
  | .HTU_FMT_LEAF, [i] => (f, h.writeFmt o i 2 v)
  | .HTU_FMT_MUST0, [i] => (f, h.writeFmt o i 3 v)
  | .HTU_FMT_MUST1, [i] => (f, h.writeFmt o i 4 v)
  | .HTU_FQ_BASE, [s] => (f, h.writeFqBase o s v)
  | .HTU_FQ_PTR, [s] => (f, h.writeFqPtr o s v)
  | .HTU_FQ_CTL, [s] => (f, h.writeFqCtl o s v)
  | .HTU_FQ_RESP, [s] => (f, h.writeFqResp o s v)
  | .HTU_INV_VA, [s] => (f, h.sliceStore o s a [fHTU_INV_VA_VA] [] v)
  | .HTU_INV_CTL, [s] => (f, h.writeInvCtl o s v)
  | .HTU_INV_STS, [_] => (f, h.mgrStore o a [] [fHTU_INV_STS_DONE] v)
  | .MEM_VIOL_INFOn, [_] => (f, h.mgrStore o a [] [fMEM_VIOL_INFOn_VALID] v)
  | .MEM_ECC_CFG, _ => (f, h.mgrStore o a [fMEM_ECC_CFG_ROW_CE_THR, fMEM_ECC_CFG_AUTO_UE] [] v)
  | .MEM_REMAP_CMD, _ => (f, h.writeRemap o v)
  | .MEM_CH_CTL, [c] => (f, h.writeChCtl o c v)
  | .MEM_CH_ECC, [c] => (f, h.writeChEcc o c v)
  | .MEM_TG_CTL, [c] => (f, h.writeTgCtl o c v)
  | .MEM_TG_RANGE, [_] => (f, h.mgrStore o a [fMEM_TG_RANGE_FIRST, fMEM_TG_RANGE_LINES] [] v)
  | .MEM_TG_SEED, [_] => (f, h.mgrStore o a [fMEM_TG_SEED_SEED] [] v)
  | .UMB_REG_SWEEP, [r] => (f, h.writeSweep o r v)
  | .QL_CFG, _ => (f, h.writeQlCfg o v)
  | .QL_LINK_CTL, [l] => (f, h.writeLinkCtl o l v)
  | .QL_LINK_FEC, [l] => (f, h.writeLinkFec o l v)
  | .HOST_APn, [s, _] => (f, h.sliceStore o s a [fHOST_APn_EN, fHOST_APn_BASE] [] v)
  | .MBX_T_TXDn, [s, _] => (f, h.tenantStore o s a [fMBX_T_TXDn_DATA] [] v)
  | .MBX_T_CTL, [s] => (f, h.writeMbxT o s v)
  | .MBX_T_STS, [s] => (f, h.tenantStore o s a [] [fMBX_T_STS_TX_REFUSED, fMBX_T_STS_EMPTIED] v)
  | .MBX_T_RXDn, [s, _] => (f, h.tenantStore o s a [] [] v)
  | .MBX_M_TXDn, [_, _] => (f, h.mgrStore o a [fMBX_M_TXDn_DATA] [] v)
  | .MBX_M_CTL, [s] => (f, h.writeMbxM o s v)
  | .MBX_M_STS, [_] => (f, h.mgrStore o a [] [fMBX_M_STS_TX_REFUSED, fMBX_M_STS_EMPTIED] v)
  | .SITE_CFG, _ => (f, h.writeSiteCfg o v)
  | .SITE_CTL, [s] => (f, h.writeSiteCtl o s v)
  | .FCOL_CTL, _ => (f, h.writeFcolCtl o v)
  | .FCOL_STS, _ => (f, h.writeFcolSts o v)
  | .FCOL_Q_PTR, _ => (f, h.writeQPtr o v)
  | .FCOL_PIN, _ => (f, h.writePin o v)
  | .FCOL_ECL, _ => (f, h.writeEcl o v)
  | .FCOL_REACT_Q, _ => (f, h.writeReactQ o v)
  | .FCOL_FATAL_ACK, _ => (f, h.writeFatalAck o v)
  | .WDG_KLV, _ => (f, h.writeWdgKlv o v)
  | .WDG_FAB, _ => (f, h.writeWdgFab o v)
  | .CKC_EXPn, [s, n] => (f, h.writeCkcExp o s n v)
  | .CKC_RESn, [s, n] => (f, h.writeCkcRes o s n v)
  | .CKC_SLICE_CTL, [s] => (f, h.sliceStore o s a [fCKC_SLICE_CTL_IRQ_EN, fCKC_SLICE_CTL_VECTOR] [] v)
  | .CKC_APPk, [k] => (f, h.writeCkcApp o k v)
  | .LCS_REQ, _ => (f, h.writeLcsReq o v)
  | .LCS_DBG, _ => (f, h.writeLcsDbg o v)
  | .LCS_PROG, _ => (f, h.writeLcsProg o v)
  | .LCS_TOKENn, [_] => (f, h.writeLcsWord o a v)
  | .LCS_PROG_DATAn, [_] => (f, h.writeLcsWord o a v)
  | .KEY_CTL, [s] => (f, h.writeKeyCtl o s v)
  | .KEY_ARG, [s] => (f, h.writeKeyArg o s v)
  | .KEY_STS, [s] => (f, h.writeKeySts o s v)
  | .KEY_DATAn, [s, _] => (f, h.writeKeyWord o s a v)
  | .KEY_ATT_CHALn, [s, _] => (f, h.writeKeyWord o s a v)
  | .KLV_IMG_ADDR, _ => (f, h.writeImgAddr o v)
  | .KLV_IMG_CTL, _ => (f, h.writeImgCtl o v)
  | n, _ => (f, h.writeRo o n)

/-- The word that a 32-bit write of `v` to half `hi` of a register gives it: the other half keeps what it holds and performs no
action, so its WO, W1C and W1S fields are 0 (R14; DESIGN CHOICE, log entry 51). LCS_PROG_DATAn holds its other half. -/
def halfWord (r : RegRow) (old : Word) (hi : Bool) (v : Word) : Word :=
  let keep := if r.name = .LCS_PROG_DATAn then old else old &&& ~~~(accMask r .wo ||| accMask r .w1c ||| accMask r .w1s)
  let lo := BitVec.ofNat 64 (v.toNat % 2 ^ 32)
  if hi then (keep &&& 0xffffffff) ||| (lo <<< 32) else (keep &&& 0xffffffff00000000) ||| lo

/-- A write of 4 or 8 aligned bytes. -/
def writeReg (f : Fuses) (h : Hub) (o : Origin) (a : Nat) (w : RegWidth) (v : Word) : Fuses × Hub :=
  if decide (o = .tap) && !h.onBus o then (f, h)
  else
    let b := a / 8 * 8
    if a % (match w with | .w64 => 8 | .w32 => 4) ≠ 0 ∨ !h.reaches o b then (f, h.regErr)
    else match regFind b with
      | none => (f, h.regErr)
      | some (r, ix) =>
        writeRow f h o r.name ix b (match w with
          | .w64 => v
          | .w32 => halfWord r (h.reg b) (decide (a % 8 = 4)) v)

/-- REGISTER_WRITE (R9 to R15, R20, R487). -/
def execRegisterWrite (o : Origin) (a : Nat) (w : RegWidth) (v : Word) (s : State) : Res :=
  onRegChip o s (fun f h => writeReg f h o a w v)

/-! ## The TAP (R452, R453) -/

/-- A TAP instruction: boundary scan in every state, EXTEST and CLAMP in CLOSED or INVALID behind a warm reset of cause 1; the debug
instructions while LCS_STATE.DBG is 1, BYPASS otherwise. -/
def tapDo (f : Fuses) (h : Hub) (op : TapOp) (e : BootEnv) : Fuses × Hub :=
  match op with
  | .boundary drives => if drives && decide (h.lcState ≠ lcOPEN) then warmReset f h 1 0 0 e else (f, h)
  | .regRead a =>
    if !h.debugOn then (f, h)
    else (f, match readReg f h .tap a with
      | some v => h.emit (.regData v)
      | none => h.regErr)
  | .regWrite a v => writeReg f h .tap a .w64 v
  | .kelvyHalt => (f, if h.debugOn then { h with klv := { h.klv with halted := true } } else h)
  | .kelvyStep => (f, if h.debugOn && h.klv.halted then { h with klv := { h.klv with debugSteps := h.klv.debugSteps + 1 } } else h)
  | .scanDump =>
    (f, if h.debugOn then { h with draws := h.draws + 1 }.emit (.tapData (Config.scanBytes h.draws)) else h)

/-- TAP_INSTRUCTION (R452, R453). -/
def execTapInstruction (op : TapOp) (e : BootEnv) (s : State) : Res := onChip s (fun f h => tapDo f h op e)

/-! ## The end of a transition's checks (R448 to R451) -/

/-- Step 3 of the transition: INTENT is programmed and the hub resets, cause 4; the start resumes the row. A refusal leaves its code. -/
def transitionDone (f : Fuses) (h : Hub) (intentOk : Bool) (e : BootEnv) : Fuses × Hub :=
  match h.lcsJob with
  | none => (f, h)
  | some v =>
    match h.lcsRefused f v intentOk with
    | some c => (f, h.lcsOver c)
    | none => warmReset (f.markIntent h.epoch) { h with lcsJob := none } 4 0 0 e

/-- TRANSITION_CHECKS_DONE (R448, R449). -/
def execTransitionChecksDone (intentOk : Bool) (e : BootEnv) (s : State) : Res := onChip s (fun f h => transitionDone f h intentOk e)

end Sys2Proof.Machine
end

