-- ==== Sys2Proof/Machine/HostPort.lean ====
section
/-! DEFINITION. Requests of host functions through BAR0 and BAR2 (R25, R221, R222, R238, R239, R254, R256, R373 to R375), and what an
idle hub does as time passes. -/
namespace Sys2Proof.Machine

/-- The host link that carries a function. -/
def Hub.fnLink (h : Hub) : HostFn → Nat
  | .pf k => k.val
  | .vf p i => h.vfLink p.val i

/-- The function exists on its link, which is up. -/
def Hub.fnThere (h : Hub) (fn : HostFn) : Bool :=
  decide (h.fld (rHOST_LINK_STS (h.fnLink fn)) fHOST_LINK_STS_STATE = 2) && (match fn with
    | .pf k => h.linkUsed k.val
    | .vf p i => h.presented p.val i)

def fnOrigin : HostFn → Origin
  | .pf k => .pf k
  | .vf p i => .vf p i

/-- An error response on a host port (R373). -/
def Hub.hostErr (h : Hub) (fn : HostFn) (write : Bool) : Hub := h.emit (if write then .aer fn else .hostUR fn)

/-! ## Where an access leads -/

/-- A register; a place in the system physical address space, with the slice and context it is for; or an error response, with the
slice and context whose translation failed where it did. -/
inductive HostWhere where
  | register (a : Nat)
  | memory (pa slice ctx : Nat) (mgmt : Bool)
  | refused
  | xlate (slice ctx : Nat)
  /-- A page entry cannot be read yet (log entry 137). -/
  | blocked
  deriving DecidableEq, Repr

/-- A granule of HBM that the default map serves (R276). -/
def Hub.defaultMapped (h : Hub) (a : Nat) : Bool := decide (a < HBM_END) && (h.igOf (a / GRAN)).isNone

/-- A physical function's BAR2 access: hub-local, with the management flag. Before STAGE 6 the hub serves writes to default-mapped
granules from STAGE 4 on, and nothing else. -/
def Hub.pfBar2 (h : Hub) (off : Nat) (write : Bool) : HostWhere :=
  let st := h.bootStage
  if 2 ^ 42 ≤ off then .refused
  else if decide (REG_BASE ≤ off) && decide (off < REG_END) then .register off
  else if decide (st = 6) || (decide (4 ≤ st) && decide (st ≤ 7) && write && h.defaultMapped off) then
    .memory (h.hubNum * 2 ^ 42 + off) 0 0 true
  else .refused

/-- A virtual function's BAR2 access through an aperture (R375), translated at once, its table reads made and charged to master 3
(R239, R256, R280). -/
def Hub.vfBar2 (h : Hub) (s off : Nat) (k : ReqKind) (walk : List Word) (ecc : Ecc) : HostWhere × Hub :=
  let n := off / 2 ^ 32
  let r := rHOST_APn s n
  if decide (16 ≤ n) || !h.flag r fHOST_APn_EN || !h.ctxOn s n then (.refused, h)
  else
    let va := h.fld r fHOST_APn_BASE * 2 ^ 32 + off % 2 ^ 32
    match h.xlateNow (ctxid s n) va 3 k (hostList walk) ecc with
    | (.fault _ _ _, h1) => (.xlate s n, h1)
    | (.blocked, h1) => (.blocked, h.orHalted h1)
    | (.leaf l, h1) => (.memory (l.pa + (va - l.va)) s n false, h1.fillLeaf l)

/-- An access of a function through one of its BARs; a host unit that a fatal fault has stopped answers with an error (R390). -/
def Hub.hostWhere (h : Hub) (fn : HostFn) (bar off : Nat) (k : ReqKind) (walk : List Word) (ecc : Ecc) : HostWhere × Hub :=
  if h.stoppedInst uHOST (h.fnLink fn) then (.refused, h)
  else match fn, bar with
  | .pf _, 0 => (if off < 2 ^ 32 then .register (REG_BASE + off) else .refused, h)
  | .pf _, 2 => (h.pfBar2 off (isWrite k), h)
  | .vf p i, 0 => match h.vfSlice p.val i with
    | none => (.refused, h)
    | some s => (((vfPage s off).map .register).getD .refused, h)
  | .vf p i, 2 => match h.vfSlice p.val i with
    | none => (.refused, h)
    | some s => h.vfBar2 s off k walk ecc
  | _, _ => (.refused, h)

/-! ## Order among the requests of one function (R221, R222) -/

/-- A request of a function waits behind an earlier one: reads, atomics and register accesses behind every write, a write behind
every write without Relaxed Ordering unless it carries it itself, the parts of one read and register accesses among themselves. -/
def waitsBehind (q p : Req) : Bool :=
  (decide (p.kind = .write) && (decide (q.hostNo ≠ p.hostNo)) &&
    (decide (q.kind ≠ .write) || q.bar0 || (!q.relaxed && !p.relaxed))) ||
  (q.bar0 && p.bar0) || (decide (q.kind ≠ .write) && decide (q.hostNo = p.hostNo))

/-- A held request's turn has come. -/
def Hub.hostTurn (h : Hub) (i : Nat) (q : Req) : Bool :=
  h.reqs.all (fun e => decide (i ≤ e.1) || decide (e.2.src ≠ q.src) || !waitsBehind q e.2)

/-- A register access performed: a read completes with data or an error response, a refused write is reported. -/
def hostRegister (f : Fuses) (h : Hub) (fn : HostFn) (q : Req) : Fuses × Hub :=
  let o := fnOrigin fn
  match q.kind with
  | .write =>
    if q.len = 8 ∨ q.len = 4 then
      let r := writeReg f h o q.pa (if q.len = 8 then .w64 else .w32) (BitVec.ofNat 64 (leNat q.data))
      (r.1, if (r.2.out.take (r.2.out.length - h.out.length)).contains .regError then r.2.emit (.aer fn) else r.2)
    else (f, h.emit (.aer fn))
  | _ => match readBytes f h o q.pa q.len with
    | some d => (f, h.emit (.hostDone fn d))
    | none => (f, h.emit (.hostUR fn))

/-- Every held request of a host function whose turn has come goes on, in order. -/
def hostPump (f : Fuses) (h : Hub) : Fuses × Hub :=
  (h.reqs.map (·.1)).foldl (fun (r : Fuses × Hub) i =>
    match r.2.req i with
    | none => r
    | some q => match q.src with
      | .host fn =>
        if decide (q.stage = .held) && r.2.hostTurn i q then
          if q.bar0 then hostRegister r.1 (r.2.dropReq i) fn q else (r.1, r.2.routeReq i)
        else r
      | _ => r) (f, h)

/-! ## HOST_REQUEST and HOST_ATOMICOP -/

/-- The parts of a memory request entered, each at most one aligned 256-byte run. -/
def Hub.enterHost (h : Hub) (q : Req) : Hub :=
  let no := h.nextId + 1
  (runs (q.len / 256 + 2) q.pa q.len).foldl (fun h p =>
    (h.newReq { q with pa := q.pa + p.1, va := q.va + p.1, len := p.2, data := sub q.data p.1 p.2, stage := .held, hostNo := no }).2) h

/-- A place that takes whole 64-byte beats alone: a site window, or another hub. -/
def Hub.beatsOnly (h : Hub) (pa : Nat) : Bool :=
  decide (pa / 2 ^ 42 ≠ h.hubNum) || (decide (SITE_BASE ≤ pa % 2 ^ 42) && decide (pa % 2 ^ 42 < SITE_END))

/-- A read or write of a host function. A request that crosses a 4 KiB boundary is none that PCIe carries, and a part of a beat has
no frame or packet of its own: an error response for both (DESIGN CHOICE, log entry 52). -/
def hostIn (f : Fuses) (h : Hub) (fn : HostFn) (op : HostOp) (walk : List Word) (ecc : Ecc) : Fuses × Hub :=
  let (bar, off, len, data, relaxed, k) : Nat × Nat × Nat × List Byte × Bool × ReqKind := match op with
    | .read b o n => (b, o, n, [], false, .read)
    | .write b o d r => (b, o, d.length, d, r, .write)
  if !h.fnThere fn then (f, h)
  else if len = 0 ∨ 4096 < off % 4096 + len then (f, h.hostErr fn (isWrite k))
  else
    let q : Req := { src := .host fn, kind := k, len := len, data := data, relaxed := relaxed, cls := 3 }
    match h.hostWhere fn bar off k walk ecc with
    | (.blocked, h) => (f, h)
    | (.refused, h) => (f, h.hostErr fn (isWrite k))
    | (.xlate s c, h) => (f, (h.hostErr fn (isWrite k)).fault
        { source := srcOf uHTU 0, kind := kXLATE, cls := clsCorrected, slice := some s, ctx := some c })
    | (.register a, h) => hostPump f (h.newReq { q with pa := a, stage := .held, bar0 := true, hostNo := h.nextId + 1 }).2
    | (.memory pa s c m, h) =>
      if h.beatsOnly pa && (decide (len % 64 ≠ 0) || decide (pa % 64 ≠ 0)) then (f, h.hostErr fn (isWrite k))
      else
        hostPump f (h.enterHost { q with pa := pa, slice := s, ctx := c, mgmt := m, gen := if m then 0 else h.gen (ctxid s c) })

/-- HOST_REQUEST (R221, R222, R239, R254, R256, R373 to R375). -/
def execHostRequest (fn : HostFn) (op : HostOp) (walk : List Word) (ecc : Ecc) (s : State) : Res :=
  onChip s (fun f h => hostIn f h fn op walk ecc)

/-- AOP of a PCIe AtomicOp (R238). -/
def hostAop : HostAtomic → Nat
  | .fetchAdd => 2
  | .swap => 0
  | .cas => 1

/-- An AtomicOp of a host function: 64 bits, on HBM or a cell window; any other gets an Unsupported Request completion (R238). -/
def hostAtomic (f : Fuses) (h : Hub) (fn : HostFn) (k : HostAtomic) (bar off size : Nat) (opd cmp : Word) (walk : List Word) (ecc : Ecc) :
    Fuses × Hub :=
  if !h.fnThere fn then (f, h)
  else if size ≠ 8 ∨ off % 8 ≠ 0 then (f, h.hostErr fn false)
  else
    let rk : ReqKind := .atomic (hostAop k) opd cmp
    match h.hostWhere fn bar off rk walk ecc with
    | (.blocked, h) => (f, h)
    | (.refused, h) => (f, h.hostErr fn false)
    | (.register _, h) => (f, h.hostErr fn false)
    | (.xlate s c, h) => (f, (h.hostErr fn false).fault
        { source := srcOf uHTU 0, kind := kXLATE, cls := clsCorrected, slice := some s, ctx := some c })
    | (.memory pa s c m, h) =>
      if decide (SITE_BASE ≤ pa % 2 ^ 42) && decide (pa % 2 ^ 42 < SITE_END) then (f, h.hostErr fn false)
      else
        let q : Req := { src := .host fn, kind := rk, len := 8, cls := 3, pa := pa, slice := s, ctx := c, mgmt := m }
        hostPump f (h.newReq { q with stage := .held, gen := if m then 0 else h.gen (ctxid s c), hostNo := h.nextId + 1 }).2

/-- HOST_ATOMICOP (R235, R236, R238). -/
def execHostAtomicop (fn : HostFn) (k : HostAtomic) (bar off size : Nat) (operand compare : Word) (walk : List Word) (ecc : Ecc)
    (s : State) : Res :=
  onChip s (fun f h => hostAtomic f h fn k bar off size operand compare walk ecc)

/-! ## Time -/

/-- An idle hub: 1 ns passes, host requests whose turn has come go on, and so do hold entries that are still to be read (log entries 4,
137). -/
def idleTick (f : Fuses) (h : Hub) : Fuses × Hub := hostPump f ({ h with now := h.now + 1000 }.reloadAll)

end Sys2Proof.Machine
end

