-- ==== Sys2Proof/Machine/Dispatch.lean ====
section
/-! DEFINITION. Which meaning each command has: one arm per constructor of Instr. -/
namespace Sys2Proof.Machine

/-- A command's effect on everything but the queue. -/
def exec (i : Instr) (s : State) : Host.Outcome State Fault Refusal :=
  match i with
  | .powerOnReset e => Sys2Proof.Machine.execPowerOnReset e s
  | .warmReset e => Sys2Proof.Machine.execWarmReset e s
  | .registerWrite o a w v => Sys2Proof.Machine.execRegisterWrite o a w v s
  | .crossingFifoTransfer n act => Sys2Proof.Machine.execCrossingFifoTransfer n act s
  | .junctionSensorReading sensor deg => Sys2Proof.Machine.execJunctionSensorReading sensor deg s
  | .sliceTeardown o sl => Sys2Proof.Machine.execSliceTeardown o sl s
  | .sliceHold o sl => Sys2Proof.Machine.execSliceHold o sl s
  | .sliceRelease o sl => Sys2Proof.Machine.execSliceRelease o sl s
  | .sliceReset o sl => Sys2Proof.Machine.execSliceReset o sl s
  | .drainComplete sl => Sys2Proof.Machine.execDrainComplete sl s
  | .scrubComplete sl => Sys2Proof.Machine.execScrubComplete sl s
  | .sliceMoveGo o sl v => Sys2Proof.Machine.execSliceMoveGo o sl v s
  | .sliceMoveDone sl ok => Sys2Proof.Machine.execSliceMoveDone sl ok s
  | .commitGo o => Sys2Proof.Machine.execCommitGo o s
  | .commitCheckOnly o => Sys2Proof.Machine.execCommitCheckOnly o s
  | .resourceRelease n => Sys2Proof.Machine.execResourceRelease n s
  | .nop c h => Sys2Proof.Machine.execNop c h s
  | .loop c h => Sys2Proof.Machine.execLoop c h s
  | .br c h => Sys2Proof.Machine.execBr c h s
  | .sheet c h => Sys2Proof.Machine.execSheet c h s
  | .end_ c h => Sys2Proof.Machine.execEnd c h s
  | .waitu c h => Sys2Proof.Machine.execWaitu c h s
  | .waitac c h => Sys2Proof.Machine.execWaitac c h s
  | .waitacResume c => Sys2Proof.Machine.execWaitacResume c s
  | .add c h => Sys2Proof.Machine.execAdd c h s
  | .sub c h => Sys2Proof.Machine.execSub c h s
  | .and c h => Sys2Proof.Machine.execAnd c h s
  | .or c h => Sys2Proof.Machine.execOr c h s
  | .xor c h => Sys2Proof.Machine.execXor c h s
  | .shl c h => Sys2Proof.Machine.execShl c h s
  | .shr c h => Sys2Proof.Machine.execShr c h s
  | .sra c h => Sys2Proof.Machine.execSra c h s
  | .mul c h => Sys2Proof.Machine.execMul c h s
  | .slt c h => Sys2Proof.Machine.execSlt c h s
  | .lih c h => Sys2Proof.Machine.execLih c h s
  | .ld8 c h => Sys2Proof.Machine.execLd8 c h s
  | .st8 c h => Sys2Proof.Machine.execSt8 c h s
  | .ld4 c h => Sys2Proof.Machine.execLd4 c h s
  | .st4 c h => Sys2Proof.Machine.execSt4 c h s
  | .tcfg c h => Sys2Proof.Machine.execTcfg c h s
  | .tmma c h => Sys2Proof.Machine.execTmma c h s
  | .tdrain c h => Sys2Proof.Machine.execTdrain c h s
  | .taddx c h => Sys2Proof.Machine.execTaddx c h s
  | .tstat c h => Sys2Proof.Machine.execTstat c h s
  | .vfma c h => Sys2Proof.Machine.execVfma c h s
  | .vadd c h => Sys2Proof.Machine.execVadd c h s
  | .vmul c h => Sys2Proof.Machine.execVmul c h s
  | .vmax c h => Sys2Proof.Machine.execVmax c h s
  | .vmin c h => Sys2Proof.Machine.execVmin c h s
  | .vpack c h => Sys2Proof.Machine.execVpack c h s
  | .vunpk c h => Sys2Proof.Machine.execVunpk c h s
  | .vqnt c h => Sys2Proof.Machine.execVqnt c h s
  | .vdq c h => Sys2Proof.Machine.execVdq c h s
  | .vred c h => Sys2Proof.Machine.execVred c h s
  | .gr c h => Sys2Proof.Machine.execGr c h s
  | .send c h => Sys2Proof.Machine.execSend c h s
  | .recv c h => Sys2Proof.Machine.execRecv c h s
  | .fwd c h => Sys2Proof.Machine.execFwd c h s
  | .pass c h => Sys2Proof.Machine.execPass c h s
  | .fld c h => Sys2Proof.Machine.execFld c h s
  | .fst c h => Sys2Proof.Machine.execFst c h s
  | .fsta c h => Sys2Proof.Machine.execFsta c h s
  | .fatom c h => Sys2Proof.Machine.execFatom c h s
  | .unitOperationDone c u h => Sys2Proof.Machine.execUnitOperationDone c u h s
  | .channelWordPass c dir parityOk => Sys2Proof.Machine.execChannelWordPass c dir parityOk s
  | .fabricResponse r => Sys2Proof.Machine.execFabricResponse r s
  | .cellEccClr o c => Sys2Proof.Machine.execCellEccClr o c s
  | .selfTestStart a => Sys2Proof.Machine.execSelfTestStart a s
  | .selfTestRunNow o a => Sys2Proof.Machine.execSelfTestRunNow o a s
  | .selfTestDone a pass => Sys2Proof.Machine.execSelfTestDone a pass s
  | .testDue a => Sys2Proof.Machine.execTestDue a s
  | .formingVoteTimer g => Sys2Proof.Machine.execFormingVoteTimer g s
  | .groupFormTimeout g => Sys2Proof.Machine.execGroupFormTimeout g s
  | .beatSend g => Sys2Proof.Machine.execBeatSend g s
  | .beat l => Sys2Proof.Machine.execBeat l s
  | .boundaryAct g => Sys2Proof.Machine.execBoundaryAct g s
  | .sheetCheck g => Sys2Proof.Machine.execSheetCheck g s
  | .vote l => Sys2Proof.Machine.execVote l s
  | .voteDeadline g => Sys2Proof.Machine.execVoteDeadline g s
  | .verdictFix g => Sys2Proof.Machine.execVerdictFix g s
  | .beatLostTimeout g => Sys2Proof.Machine.execBeatLostTimeout g s
  | .groupTelemetryClr o g => Sys2Proof.Machine.execGroupTelemetryClr o g s
  | .doorbell o sl v => Sys2Proof.Machine.execDoorbell o sl v s
  | .managementDoorbell o v => Sys2Proof.Machine.execManagementDoorbell o v s
  | .queueRingWrite o q v => Sys2Proof.Machine.execQueueRingWrite o q v s
  | .descriptorTake q ecc => Sys2Proof.Machine.execDescriptorTake q ecc s
  | .copy n => Sys2Proof.Machine.execCopy n s
  | .fill n => Sys2Proof.Machine.execFill n s
  | .load n ecc => Sys2Proof.Machine.execLoad n ecc s
  | .launch n => Sys2Proof.Machine.execLaunch n s
  | .waitacDesc n => Sys2Proof.Machine.execWaitacDesc n s
  | .fence n => Sys2Proof.Machine.execFence n s
  | .keyload n ecc => Sys2Proof.Machine.execKeyload n ecc s
  | .moverChunkDone n => Sys2Proof.Machine.execMoverChunkDone n s
  | .moverItemDone n => Sys2Proof.Machine.execMoverItemDone n s
  | .waitacDescDone n => Sys2Proof.Machine.execWaitacDescDone n s
  | .fenceDone n => Sys2Proof.Machine.execFenceDone n s
  | .kernelEnd n => Sys2Proof.Machine.execKernelEnd n s
  | .arrivalCounterWrite o sl n v => Sys2Proof.Machine.execArrivalCounterWrite o sl n v s
  | .arrivalCounterAdd o sl v => Sys2Proof.Machine.execArrivalCounterAdd o sl v s
  | .hostRequest f op walk ecc => Sys2Proof.Machine.execHostRequest f op walk ecc s
  | .hostAtomicop f k bar off size operand compare walk ecc => Sys2Proof.Machine.execHostAtomicop f k bar off size operand compare walk ecc s
  | .cellWindowAccess r h => Sys2Proof.Machine.execCellWindowAccess r h s
  | .hbmRequestArrive r => Sys2Proof.Machine.execHbmRequestArrive r s
  | .channelCommandSlot ch granule ecc => Sys2Proof.Machine.execChannelCommandSlot ch granule ecc s
  | .meterEvaluation avail => Sys2Proof.Machine.execMeterEvaluation avail s
  | .translationWalk w => Sys2Proof.Machine.execTranslationWalk w s
  | .walkTableReadReturn w hostEntry ecc => Sys2Proof.Machine.execWalkTableReadReturn w hostEntry ecc s
  | .faultRetry o sl v => Sys2Proof.Machine.execFaultRetry o sl v s
  | .faultFail o sl v => Sys2Proof.Machine.execFaultFail o sl v s
  | .xlateTimeout sl fid => Sys2Proof.Machine.execXlateTimeout sl fid s
  | .faultRingConsume o sl v => Sys2Proof.Machine.execFaultRingConsume o sl v s
  | .faultRingBaseWrite o sl v => Sys2Proof.Machine.execFaultRingBaseWrite o sl v s
  | .faultRingCtlWrite o sl v => Sys2Proof.Machine.execFaultRingCtlWrite o sl v s
  | .contextCfgWrite o sl n v => Sys2Proof.Machine.execContextCfgWrite o sl n v s
  | .formatSlotWrite o f reg v => Sys2Proof.Machine.execFormatSlotWrite o f reg v s
  | .invalidate o sl v => Sys2Proof.Machine.execInvalidate o sl v s
  | .invalidationDone sl => Sys2Proof.Machine.execInvalidationDone sl s
  | .atsInvalidation f pasid => Sys2Proof.Machine.execAtsInvalidation f pasid s
  | .rowRemap o v => Sys2Proof.Machine.execRowRemap o v s
  | .repairCandidateRemap ch pc bank row => Sys2Proof.Machine.execRepairCandidateRemap ch pc bank row s
  | .stackTempRead n temp => Sys2Proof.Machine.execStackTempRead n temp s
  | .patrolRead ch line ecc => Sys2Proof.Machine.execPatrolRead ch line ecc s
  | .channelRetrain o ch => Sys2Proof.Machine.execChannelRetrain o ch s
  | .channelRetrainDone ch ok => Sys2Proof.Machine.execChannelRetrainDone ch ok s
  | .channelRetire o ch => Sys2Proof.Machine.execChannelRetire o ch s
  | .channelEccClr o ch => Sys2Proof.Machine.execChannelEccClr o ch s
  | .trafficGeneratorGo o ch v => Sys2Proof.Machine.execTrafficGeneratorGo o ch v s
  | .trafficGeneratorStop o ch => Sys2Proof.Machine.execTrafficGeneratorStop o ch s
  | .trafficGeneratorPassDone ch failLines firstFail lanes => Sys2Proof.Machine.execTrafficGeneratorPassDone ch failLines firstFail lanes s
  | .sealedRead r granule out ecc => Sys2Proof.Machine.execSealedRead r granule out ecc s
  | .sealedWrite r granule out ecc => Sys2Proof.Machine.execSealedWrite r granule out ecc s
  | .nodeWriteback r level node ok => Sys2Proof.Machine.execNodeWriteback r level node ok s
  | .sweepGo o r => Sys2Proof.Machine.execSweepGo o r s
  | .sweepDue r => Sys2Proof.Machine.execSweepDue r s
  | .sweepStart g => Sys2Proof.Machine.execSweepStart g s
  | .sweepStep r out => Sys2Proof.Machine.execSweepStep r out s
  | .sweepEnd r => Sys2Proof.Machine.execSweepEnd r s
  | .umbSweepLate r => Sys2Proof.Machine.execUmbSweepLate r s
  | .blockTx l => Sys2Proof.Machine.execBlockTx l s
  | .blockRx l cw => Sys2Proof.Machine.execBlockRx l cw s
  | .idleFrame l => Sys2Proof.Machine.execIdleFrame l s
  | .ack l => Sys2Proof.Machine.execAck l s
  | .nak l => Sys2Proof.Machine.execNak l s
  | .credit l => Sys2Proof.Machine.execCredit l s
  | .delay l => Sys2Proof.Machine.execDelay l s
  | .ackTimer l => Sys2Proof.Machine.execAckTimer l s
  | .creditTimer l => Sys2Proof.Machine.execCreditTimer l s
  | .delayMeasureTimer l => Sys2Proof.Machine.execDelayMeasureTimer l s
  | .write l steps ecc => Sys2Proof.Machine.execWrite l steps ecc s
  | .read l steps ecc => Sys2Proof.Machine.execRead l steps ecc s
  | .atomic l steps ecc => Sys2Proof.Machine.execAtomic l steps ecc s
  | .quiesce l => Sys2Proof.Machine.execQuiesce l s
  | .writeAck l => Sys2Proof.Machine.execWriteAck l s
  | .readRsp l => Sys2Proof.Machine.execReadRsp l s
  | .atomicRsp l => Sys2Proof.Machine.execAtomicRsp l s
  | .quiesceDone l => Sys2Proof.Machine.execQuiesceDone l s
  | .eclipse l => Sys2Proof.Machine.execEclipse l s
  | .transitFrame l vc => Sys2Proof.Machine.execTransitFrame l vc s
  | .responseTimeout tag => Sys2Proof.Machine.execResponseTimeout tag s
  | .tagQuarantineEnd tag => Sys2Proof.Machine.execTagQuarantineEnd tag s
  | .quiesceTimeout n => Sys2Proof.Machine.execQuiesceTimeout n s
  | .linkStall l vc => Sys2Proof.Machine.execLinkStall l vc s
  | .linkEnable o l => Sys2Proof.Machine.execLinkEnable o l s
  | .linkBringupDone l ok peerLink delayPs => Sys2Proof.Machine.execLinkBringupDone l ok peerLink delayPs s
  | .linkRetrain o l => Sys2Proof.Machine.execLinkRetrain o l s
  | .laneLockLoss l => Sys2Proof.Machine.execLaneLockLoss l s
  | .linkRetrainDone l ok delayPs => Sys2Proof.Machine.execLinkRetrainDone l ok delayPs s
  | .linkDown o l => Sys2Proof.Machine.execLinkDown o l s
  | .linkFecClr o l => Sys2Proof.Machine.execLinkFecClr o l s
  | .linkWake l => Sys2Proof.Machine.execLinkWake l s
  | .siteWrite sl p => Sys2Proof.Machine.execSiteWrite sl p s
  | .siteRead sl p => Sys2Proof.Machine.execSiteRead sl p s
  | .siteAtomic sl p => Sys2Proof.Machine.execSiteAtomic sl p s
  | .notify sl p => Sys2Proof.Machine.execNotify sl p s
  | .wwriteAck sl p => Sys2Proof.Machine.execWwriteAck sl p s
  | .wreadRsp sl p => Sys2Proof.Machine.execWreadRsp sl p s
  | .watomicRsp sl p => Sys2Proof.Machine.execWatomicRsp sl p s
  | .siteQuiesceDone sl p => Sys2Proof.Machine.execSiteQuiesceDone sl p s
  | .siteCreditPacket sl p => Sys2Proof.Machine.execSiteCreditPacket sl p s
  | .hello sl p => Sys2Proof.Machine.execHello sl p s
  | .siteCreditTimer sl => Sys2Proof.Machine.execSiteCreditTimer sl s
  | .siteWindowTimeout sl tag => Sys2Proof.Machine.execSiteWindowTimeout sl tag s
  | .siteQuiesceTimeout sl e => Sys2Proof.Machine.execSiteQuiesceTimeout sl e s
  | .siteEnable o sl => Sys2Proof.Machine.execSiteEnable o sl s
  | .siteRetrain o sl => Sys2Proof.Machine.execSiteRetrain o sl s
  | .siteDown o sl => Sys2Proof.Machine.execSiteDown o sl s
  | .vfFunctionLevelReset port index => Sys2Proof.Machine.execVfFunctionLevelReset port index s
  | .pfFunctionLevelReset k => Sys2Proof.Machine.execPfFunctionLevelReset k s
  | .sriovConfigWrite k numVfs vfEnable => Sys2Proof.Machine.execSriovConfigWrite k numVfs vfEnable s
  | .hostLinkDown k => Sys2Proof.Machine.execHostLinkDown k s
  | .msixSend k pick => Sys2Proof.Machine.execMsixSend k pick s
  | .mailboxTenantSend o sl => Sys2Proof.Machine.execMailboxTenantSend o sl s
  | .mailboxTenantPop o sl => Sys2Proof.Machine.execMailboxTenantPop o sl s
  | .mailboxManagerSend o sl => Sys2Proof.Machine.execMailboxManagerSend o sl s
  | .mailboxManagerPop o sl => Sys2Proof.Machine.execMailboxManagerPop o sl s
  | .faultMessage n e => Sys2Proof.Machine.execFaultMessage n e s
  | .faultQueueConsume o v => Sys2Proof.Machine.execFaultQueueConsume o v s
  | .faultQueueOvfClr o => Sys2Proof.Machine.execFaultQueueOvfClr o s
  | .fatalAck o v => Sys2Proof.Machine.execFatalAck o v s
  | .errPinSet o => Sys2Proof.Machine.execErrPinSet o s
  | .errPinClr o => Sys2Proof.Machine.execErrPinClr o s
  | .reactionQuery o v => Sys2Proof.Machine.execReactionQuery o v s
  | .managerEclipse o v => Sys2Proof.Machine.execManagerEclipse o v s
  | .automaticExit sl => Sys2Proof.Machine.execAutomaticExit sl s
  | .cellReset c => Sys2Proof.Machine.execCellReset c s
  | .arrayReset a => Sys2Proof.Machine.execArrayReset a s
  | .fabTimeout r => Sys2Proof.Machine.execFabTimeout r s
  | .klvWatchdogKick o v => Sys2Proof.Machine.execKlvWatchdogKick o v s
  | .configParityScrub found => Sys2Proof.Machine.execConfigParityScrub found s
  | .contextReset o sl v => Sys2Proof.Machine.execContextReset o sl v s
  | .contextResetDone sl => Sys2Proof.Machine.execContextResetDone sl s
  | .checkExpectWrite o sl n v => Sys2Proof.Machine.execCheckExpectWrite o sl n v s
  | .checkChannelTake n => Sys2Proof.Machine.execCheckChannelTake n s
  | .appendChannelClr o k => Sys2Proof.Machine.execAppendChannelClr o k s
  | .fuseProgram o v => Sys2Proof.Machine.execFuseProgram o v s
  | .lifecycleTransition o v => Sys2Proof.Machine.execLifecycleTransition o v s
  | .debugLock o => Sys2Proof.Machine.execDebugLock o s
  | .tapInstruction op e => Sys2Proof.Machine.execTapInstruction op e s
  | .wrap o sl v => Sys2Proof.Machine.execWrap o sl v s
  | .keyZero o sl v => Sys2Proof.Machine.execKeyZero o sl v s
  | .deliver o sl v => Sys2Proof.Machine.execDeliver o sl v s
  | .attest o sl v => Sys2Proof.Machine.execAttest o sl v s
  | .powerToLit o => Sys2Proof.Machine.execPowerToLit o s
  | .powerToDim o => Sys2Proof.Machine.execPowerToDim o s
  | .powerToDark o => Sys2Proof.Machine.execPowerToDark o s
  | .powerToShade o => Sys2Proof.Machine.execPowerToShade o s
  | .powerTransitionDone testFail => Sys2Proof.Machine.execPowerTransitionDone testFail s
  | .kelvyWarmResetRequest o e => Sys2Proof.Machine.execKelvyWarmResetRequest o e s
  | .arrayRetire o a => Sys2Proof.Machine.execArrayRetire o a s
  | .arrayDark o a => Sys2Proof.Machine.execArrayDark o a s
  | .arrayLight o a => Sys2Proof.Machine.execArrayLight o a s
  | .push o => Sys2Proof.Machine.execPush o s
  | .stage o => Sys2Proof.Machine.execStage o s
  | .switch o => Sys2Proof.Machine.execSwitch o s
  | .flash o => Sys2Proof.Machine.execFlash o s
  | .formeFlash o => Sys2Proof.Machine.execFormeFlash o s
  | .commitDone ecc => Sys2Proof.Machine.execCommitDone ecc s
  | .rowRemapDone result lost => Sys2Proof.Machine.execRowRemapDone result lost s
  | .imageOperationDone found => Sys2Proof.Machine.execImageOperationDone found s
  | .fuseProgramDone readBackOk => Sys2Proof.Machine.execFuseProgramDone readBackOk s
  | .transitionChecksDone intentOk e => Sys2Proof.Machine.execTransitionChecksDone intentOk e s
  | .keyOperationDone sl => Sys2Proof.Machine.execKeyOperationDone sl s
  | .hostLinkUp k width speed => Sys2Proof.Machine.execHostLinkUp k width speed s
  | .meterWindow => Sys2Proof.Machine.execMeterWindow s
  | .errPinPulseEnd => Sys2Proof.Machine.execErrPinPulseEnd s
  | .hubFaultExit => Sys2Proof.Machine.execHubFaultExit s
  | .klvWatchdogExpiry => Sys2Proof.Machine.execKlvWatchdogExpiry s
  | .lockstepMismatch => Sys2Proof.Machine.execLockstepMismatch s
  | .rngHealthFail => Sys2Proof.Machine.execRngHealthFail s
  | .drbgReseed => Sys2Proof.Machine.execDrbgReseed s
  | .switchQuiescent => Sys2Proof.Machine.execSwitchQuiescent s
  | .powerLoss => Sys2Proof.Machine.execPowerLoss s

end Sys2Proof.Machine
end

