-- ==== Sys2Proof/Safety.lean ====
section
/-! DEFINITION. What the claims are stated in: the canonical form of the hub's memory, fuse bits that stay set, and where a cell
stands in its galley. -/
namespace Sys2Proof.Machine

/-! ## Memory -/

/-- HBM in its one canonical form: addresses strictly rising, and no entry equal to what an unlisted address reads as. -/
def Memory.wf (h : Hub) : Bool := keysRise h.hbm && h.hbm.all (fun e => decide (h.hbmFill e.1 ≠ some e.2))

/-! ## Fuses: a bit once set never clears (R439) -/

/-- Every bit of `a` is set in `b`. -/
def bitsKept {w : Nat} (a b : BitVec w) : Prop := a &&& b = a

/-- Every bit of three copies is set in three others. -/
def copiesKept {w : Nat} (a b : Vector (BitVec w) 3) : Prop := ∀ i : Fin 3, bitsKept a[i] b[i]

/-- Every fuse bit set in one state row is set in the other: its copies and its progress marks. -/
def FuseRow.kept (a b : FuseRow) : Prop :=
  copiesKept a.copies b.copies ∧ bitsKept a.intent b.intent ∧ bitsKept a.erased b.erased ∧ bitsKept a.written b.written

/-- Every fuse bit set in `a` is set in `b`. -/
def Fuses.kept (a b : Fuses) : Prop :=
  (∀ i : Fin 8, (a.rows[i]).kept b.rows[i]) ∧ copiesKept a.hashOpen b.hashOpen ∧ copiesKept a.hashClosed b.hashClosed ∧
  ∀ i : Fin 4, copiesKept a.banks[i] b.banks[i]

/-! ## Where a cell stands -/

/-- The sequencer of a cell can issue, and its program counter is at the instruction: the cell runs and waits for nothing, its array
is in service, and no halt or power state stands the cells (R116, R119, R153, R318, R468). -/
def Hub.standsAt (h : Hub) (c : Nat) (i : GInstr) : Prop :=
  (h.cell c).run = .running ∧ (h.cell c).wait = .none ∧ h.arrMode (c / 128) = 0 ∧ h.cellsStand = false ∧ (h.cell c).fetched = some i

/-- The instruction after the one a cell stands at lies inside its galley (R489). -/
def Hub.goesOn (h : Hub) (c : Nat) : Prop :=
  (loopEnd (h.cell c).pc 4 (h.cell c).loops).1 < (h.cell c).count

/-- The state with another hub in it: the fuses and the queue of commands as they are. -/
def State.withHub (s : State) (h : Hub) : State := { s with hub := h }

/-- The state with one cell replaced. -/
def State.withCell (s : State) (c : Nat) (x : Cell) : State := s.withHub (s.hub.setCell c x)

/-- The state with one cell replaced and its sequencer past the instruction it stood at, waiting for nothing. -/
def State.cellPast (s : State) (c : Nat) (x : Cell) : State :=
  s.withCell c { x.past (s.hub.cell c).pc with wait := .none }

/-! ## Who may write a register now -/

/-- A manager none of whose posted writes is still on its way (R27, R222). -/
def Hub.mgrActs (h : Hub) (o : Origin) : Prop := h.isMgr o = true ∧ h.hostBusy o = false

/-- A manager, or the virtual function of a slice, none of whose posted writes is still on its way (R27, R222, R374). -/
def Hub.sliceActs (h : Hub) (o : Origin) (s : Nat) : Prop := (h.isMgr o = true ∨ h.vfOf o = some s) ∧ h.hostBusy o = false

/-! ## Where a descriptor stands -/

/-- Item `i` is `t` with opcode `op`, and nothing keeps it from starting: it may start (R196), its tag is current (R191), and its leaves
cover what it reads and writes (R192). -/
def Hub.startsNow (h : Hub) (i op : Nat) (t : Item) : Prop :=
  h.item i = some t ∧ dOpcode t.desc = op ∧ h.mayStart t = true ∧ h.stale t = false ∧
  (t.slice = none ∨ t.needs = none)

end Sys2Proof.Machine
end

