-- ==== Sys2Proof/Certificates/Slice0/Obligations.lean ====
section
/-! DEFINITION. The statements about the hub that the provers are given. Each docstring says what its statement claims; OBLIGATIONS.json names the rules. -/
open Sys2Proof Sys2Proof.Machine

/-! ## The block: its queue, its reset, its registers -/

/-- With a command at the front of the queue, a step is that command's meaning on the state with the queue's rest; with none, the hub
idles for 1 ns and the host requests whose turn has come go on (the model's choice, log entry 4). Every command answers a next state, and
leaves the queue of waiting commands as it finds it. -/
def Obligations.StepRunsTheFrontCommand : Prop :=
  (
    (∀ (c : Instr) (cs : List Instr) (s : State), s.pending = c :: cs → step s = exec c { s with pending := cs }) ∧
    (∀ s : State, s.pending = [] → step s = onChip s idleTick)) ∧
  (
    ∀ (c : Instr) (s : State), ∃ t, exec c s = .next t ∧ t.pending = s.pending)

/-- No step clears a fuse bit: every bit set in a state row, a progress mark, a forme key hash or an attestation bank stays set. -/
def Obligations.NoStepClearsAFuseBit : Prop :=
  ∀ (f : Fuses) (s t : State), f.kept s.fuses → step s = .next t → f.kept t.fuses

/-- Every well-formed galley instruction, with every operand at every value its encoding admits, is read back from its own word. -/
def Obligations.GalleyWordsReadBack : Prop :=
  ∀ i : GInstr, i.wf = true → ginstrOf i.code = some i

/-- A word is read as an instruction only if that instruction is well formed and is the one the word encodes, so a reserved class,
operation, field value or bit is refused. A few galley words, written out from the encoding tables, and the instructions they stand for. -/
def Obligations.GalleyWordsReadOnlyAsEncoded : Prop :=
  (
    ∀ (n : Nat) (i : GInstr), ginstrOf n = some i → i.wf = true ∧ i.code = n) ∧
  (
    ginstrOf 0x0000000000000000 = some .nop ∧ ginstrOf 0x0000000000000001 = none ∧
    ginstrOf 0x0146008000000009 = some (.loop 1 3 2 9) ∧ ginstrOf 0x0225000000000007 = some (.br 1 5 7) ∧
    ginstrOf 0x0400000000000000 = some .end_ ∧ ginstrOf 0x1008820000000064 = some (.alu .add 1 2 1 100) ∧
    ginstrOf 0x2008800000000010 = some (.loc .ld8 1 2 16) ∧ ginstrOf 0x300200000000FFFF = some (.tcfg 1 65535) ∧
    ginstrOf 0x3131214C70020000 = some (.tmma 3 0 0 0 1 4 5 6 7 1) ∧ ginstrOf 0x4108860008000000 = some (.vec .vadd 1 2 3 0 4 0 0) ∧
    ginstrOf 0x5060600000000000 = some (.gr 1 2 0 3) ∧ ginstrOf 0x6040080000000000 = some (.chan .send 1 0 0 128) ∧
    ginstrOf 0x6040000000000000 = none ∧ ginstrOf 0x7008420000000000 = some (.fab .fld 1 1 1 0 0 0) ∧
    ginstrOf 0x7008420200000000 = none ∧ ginstrOf 0xF000000000000000 = none)

/-- What power-on leaves: each of the 20 block revision registers reads 0x302 and HUB_ARCH_VER reads 0x0011_0302, no memory is listed, the
memory is in its canonical form, no forme is live, no command waits, and a table word puts none in front. -/
def Obligations.PowerOnLeaves : Prop :=
  (∀ a ∈ [0x3F000000000, 0x3F004000000, 0x3F008000000, 0x3F00C000000, 0x3F010000000, 0x3F014000000, 0x3F018000000, 0x3F01C000000,
      0x3F020000000, 0x3F024000000, 0x3F028000000, 0x3F02C000000, 0x3F030000000, 0x3F034000000, 0x3F038000000, 0x3F03C000000,
      0x3F040000000, 0x3F044000000, 0x3F048000000, 0x3F04C000000],
    readReg State.reset.fuses State.reset.hub .kelvy a = some 0x302) ∧
  readReg State.reset.fuses State.reset.hub .kelvy 0x3F000000008 = some 0x110302 ∧
  Memory.wf State.reset.hub = true ∧ State.reset.hub.hbm = [] ∧ State.reset.hub.forme.slices = [] ∧ State.reset.pending = [] ∧
  (∀ s ∈ [0, 1, 2, 4095], State.reset.hub.stateOf s = 0) ∧ ∀ n w : Nat, State.reset.withFetchWord n w = State.reset

/-- A register access that is neither an 8-byte aligned 64-bit one nor a 4-byte aligned 32-bit one gets an error response and changes
nothing; so does one to an unassigned offset, and one from an engine. A debug instruction that does not act changes nothing. While a
posted write of a host function is on its way, a register write of that function waits: it changes nothing yet. -/
def Obligations.BadRegisterAccessesChangeNothing : Prop :=
  (∀ (f : Fuses) (h : Hub) (o : Origin) (a n : Nat), ¬ ((n = 8 ∧ a % 8 = 0) ∨ (n = 4 ∧ a % 4 = 0)) → readBytes f h o a n = none) ∧
  (∀ (s : State) (o : Origin) (a : Nat) (w : RegWidth) (v : Word),
    (o = .tap → s.hub.onBus .tap = true) → s.hub.hostBusy o = false → a % (match w with | .w64 => 8 | .w32 => 4) ≠ 0 ∨ regFind (a / 8 * 8) = none ∨ o = .engine →
    exec (.registerWrite o a w v) s = .next { s with hub := s.hub.regErr }) ∧
  (∀ (s : State) (a : Nat) (w : RegWidth) (v : Word), s.hub.onBus .tap = false → exec (.registerWrite .tap a w v) s = .next s) ∧
  (∀ (f : Fuses) (h : Hub) (o : Origin) (a : Nat), regFind a = none ∨ o = .engine → readReg f h o a = none) ∧
  (∀ (s : State) (o : Origin) (a : Nat) (w : RegWidth) (v : Word), s.hub.hostBusy o = true → exec (.registerWrite o a w v) s = .next s)

/-- A manager's 64-bit write stores the RW fields of a register and leaves every other register: here MEM_ECC_CFG. Written to a register
of RO fields alone it is ignored: here TOP_STRAP. A 32-bit write changes only the addressed half of a register: here the two halves of
KLV_IMG_ADDR, whose field ADDR is [41:12]. -/
def Obligations.RegisterWritesStore : Prop :=
  (
    (∀ (s : State) (o : Origin) (v : Word), s.hub.mgrActs o →
      exec (.registerWrite o rMEM_ECC_CFG .w64 v) s =
        .next { s with hub := (s.hub.setReg rMEM_ECC_CFG (mixWrite (s.hub.reg rMEM_ECC_CFG) v [⟨0, 8⟩, ⟨8, 1⟩] [])).emit .regOk } ∧
      (s.hub.setReg rMEM_ECC_CFG (mixWrite (s.hub.reg rMEM_ECC_CFG) v [⟨0, 8⟩, ⟨8, 1⟩] [])).fld rMEM_ECC_CFG fMEM_ECC_CFG_ROW_CE_THR =
        v.toNat % 256) ∧
    (∀ (s : State) (o : Origin) (v : Word), s.hub.mgrActs o →
      exec (.registerWrite o rTOP_STRAP .w64 v) s = .next { s with hub := s.hub.emit .regOk })) ∧
  (
    ∀ (s : State) (o : Origin) (v : Word), s.hub.mgrActs o →
      (∃ t, exec (.registerWrite o rKLV_IMG_ADDR .w32 v) s = .next t ∧
        bits (t.hub.reg rKLV_IMG_ADDR).toNat 63 32 = bits (s.hub.reg rKLV_IMG_ADDR).toNat 63 32 ∧
        bits (t.hub.reg rKLV_IMG_ADDR).toNat 31 12 = bits v.toNat 31 12 ∧ ∀ a, a ≠ rKLV_IMG_ADDR → t.hub.reg a = s.hub.reg a) ∧
      (∃ t, exec (.registerWrite o (rKLV_IMG_ADDR + 4) .w32 v) s = .next t ∧
        bits (t.hub.reg rKLV_IMG_ADDR).toNat 31 0 = bits (s.hub.reg rKLV_IMG_ADDR).toNat 31 0 ∧
        bits (t.hub.reg rKLV_IMG_ADDR).toNat 41 32 = bits v.toNat 9 0 ∧ ∀ a, a ≠ rKLV_IMG_ADDR → t.hub.reg a = s.hub.reg a))

/-! ## Slices -/

/-- A TEARDOWN written by a manager to a LIVE, HELD or FAULT slice starts its drain; a HOLD to a LIVE one waits for the group's boundary;
a RELEASE written to a HELD one whose HOLD was written reloads its cells, as soon as every entry can be read, and written to one in FAULT
whose stopped cells can restart takes it out; a RESET takes it out of FAULT and cuts its work. -/
def Obligations.SliceCommandsDoWhatTheStateAllows : Prop :=
  ∀ (s : State) (o : Origin) (sl : SliceId), s.hub.mgrActs o →
    (s.hub.active sl = true → exec (.sliceTeardown o sl) s = .next (s.withHub (s.hub.regOk.startDrain sl))) ∧
    (s.hub.stateOf sl = slLIVE → exec (.sliceHold o sl) s =
      .next (s.withHub (s.hub.regOk.updRt sl (fun r => { r with holdWritten := true, relReady := false })))) ∧
    (s.hub.stateOf sl = slHELD → s.hub.pwrState ≠ 1 ∨ (s.hub.slD sl).cells = [] → (s.hub.rt sl).holdWritten = true →
      (s.hub.rt sl).relReady = false → (s.hub.rt sl).reloadWait = false →
      (∀ l, (s.hub.rt sl).saved = some l → l.length = (s.hub.slD sl).cells.length) → exec (.sliceRelease o sl) s =
      .next (s.withHub ((s.hub.regOk.reloadCells sl).2.updRt sl (fun r =>
        { r with relReady := (s.hub.regOk.reloadCells sl).1, reloadWait := !(s.hub.regOk.reloadCells sl).1 })))) ∧
    (s.hub.stateOf sl = slFAULT → s.hub.pwrState ≠ 1 ∨ (s.hub.slD sl).cells = [] → s.hub.mayRestart sl = true → s.hub.eclipsed sl = false →
      exec (.sliceRelease o sl) s = .next (s.withHub (s.hub.regOk.leaveFault sl))) ∧
    (s.hub.stateOf sl = slFAULT → exec (.sliceReset o sl) s = .next (s.withHub
      (((((s.hub.regOk.resetWork sl).toState sl slLIVE).recovered sl).setF (rSLM_FAULT sl) fSLM_FAULT_LOCK 0).openEngines sl)))

/-- A command that is not valid in the slice's current state does nothing and sets SLM_SLICE_EVT.BAD_CMD, which may raise the slice's
interrupt; nothing else changes. -/
def Obligations.CommandsInvalidInTheStateSetBadCmd : Prop :=
  ∀ (s : State) (o : Origin) (sl : SliceId) (c : Instr), s.hub.mgrActs o →
    (c = .sliceTeardown o sl ∧ s.hub.active sl = false) ∨ (c = .sliceHold o sl ∧ s.hub.stateOf sl ≠ slLIVE) ∨
    (c = .sliceRelease o sl ∧ s.hub.stateOf sl ≠ slHELD ∧ s.hub.stateOf sl ≠ slFAULT) ∨
    (c = .sliceReset o sl ∧ s.hub.stateOf sl ≠ slFAULT) →
    ∃ t, exec c s = .next t ∧ t = s.withHub { s.hub with regs := t.hub.regs, msix := t.hub.msix, out := .regOk :: s.hub.out } ∧
      t.hub.flag (rSLM_SLICE_EVT sl) fSLM_SLICE_EVT_BAD_CMD = true ∧
      t.hub.reg (rSLM_SLICE_EVT sl) = setFld (s.hub.reg (rSLM_SLICE_EVT sl)) fSLM_SLICE_EVT_BAD_CMD 1 ∧
      ∀ a, a ≠ rSLM_SLICE_EVT sl → t.hub.reg a = s.hub.reg a

/-- A write to SLM_SLICE_CTL with more than one of bits [3:0] set gets an error response and does nothing. -/
def Obligations.TwoSliceCommandsInOneWriteAreRefused : Prop :=
  ∀ (s : State) (o : Origin) (sl : SliceId) (w : RegWidth) (v : Word), (o = .tap → s.hub.onBus .tap = true) → 1 < (setBits v.toNat 4).length → s.hub.hostBusy o = false →
    exec (.registerWrite o (rSLM_SLICE_CTL sl) w v) s = .next (s.withHub s.hub.regErr)

/-- The start of a drain, first steps: from the moment TEARDOWN is taken the slice is DRAINING, its event register shows STATE_CHG, and
each of its context's generation tags is raised by 1, here for a slice that holds no engines, queues, cells or links. DRAIN_COMPLETE
completes where the slice is DRAINING and nothing of it is left: it enters SCRUB with TEARDOWN_DONE set and its counters zero.
SCRUB_COMPLETE completes where the slice is in SCRUB and the hub is not halted: it enters FREE, its record leaves the live forme, and its
cells are blank. In any other state the two events do nothing; records of a broken ring that translates again are written before the drain
is judged. AUTOMATIC_EXIT completes where every condition of the quiet period holds: the slice leaves FAULT for LIVE with LOCK clear and
its recovery counted, here shown for one without engines and queues. Before that it does nothing. -/
def Obligations.SlicesDrainScrubAndLeaveFault : Prop :=
  (
    ∀ (s : State) (o : Origin) (sl : SliceId), s.hub.mgrActs o → s.hub.active sl = true → s.hub.sl sl = some {} →
      s.hub.items = [] → s.hub.reqs = [] → mapGet s.hub.keyJobs sl.val = none →
      ∃ t, exec (.sliceTeardown o sl) s = .next t ∧ t.hub.stateOf sl = slDRAINING ∧
        t.hub.flag (rSLM_SLICE_EVT sl) fSLM_SLICE_EVT_STATE_CHG = true ∧
        (∀ c, c < 16 → t.hub.gen (ctxid sl c) = (s.hub.gen (ctxid sl c) + 1) % 256) ∧ t.hub.hbm = s.hub.hbm ∧ t.hub.forme = s.hub.forme) ∧
  (
    ∀ (s : State) (sl : SliceId),
      (s.hub.stateOf sl = slDRAINING → (s.hub.mendQueues sl).drained sl = true →
        ∃ t, exec (.drainComplete sl) s = .next t ∧ t = s.withHub ((s.hub.mendQueues sl).enterScrub sl) ∧ t.hub.stateOf sl = slSCRUB ∧
          t.hub.flag (rSLM_SLICE_EVT sl) fSLM_SLICE_EVT_TEARDOWN_DONE = true ∧ ∀ n, n < 64 → t.hub.reg (rFAB_AC_n sl n) = 0) ∧
      (s.hub.stateOf sl = slDRAINING → (s.hub.mendQueues sl).drained sl = false →
        exec (.drainComplete sl) s = .next (s.withHub (s.hub.mendQueues sl))) ∧
      (s.hub.stateOf sl ≠ slDRAINING → exec (.drainComplete sl) s = .next s) ∧
      (s.hub.stateOf sl = slSCRUB → s.hub.halted = false →
        ∃ t, exec (.scrubComplete sl) s = .next t ∧ t = s.withHub (s.hub.scrubDone sl) ∧ t.hub.stateOf sl = slFREE ∧ t.hub.sl sl = none ∧
          ∀ c, (s.hub.slD sl).cells.contains c = true → t.hub.cell c = {}) ∧
      (s.hub.stateOf sl ≠ slSCRUB ∨ s.hub.halted = true → exec (.scrubComplete sl) s = .next s)) ∧
  (
    ∀ (s : State) (sl : SliceId),
      (s.hub.exitReady sl = true → ∃ t, exec (.automaticExit sl) s = .next t ∧ t = s.withHub (s.hub.leaveFault sl) ∧
        ((s.hub.slD sl).engines = [] → (s.hub.slD sl).queueIds = [] →
          t.hub.stateOf sl = slLIVE ∧ t.hub.flag (rSLM_FAULT sl) fSLM_FAULT_LOCK = false ∧
          (t.hub.rt sl).recoveries = satAdd 16 (s.hub.rt sl).recoveries 1 ∧ t.hub.cells = s.hub.cells ∧ t.hub.hbm = s.hub.hbm)) ∧
      (s.hub.exitReady sl = false → exec (.automaticExit sl) s = .next s) ∧
      (s.hub.stateOf sl ≠ slFAULT ∨ s.hub.flag (rSLM_FAULT sl) fSLM_FAULT_AUTO = false ∨
        s.hub.flag (rSLM_FAULT sl) fSLM_FAULT_LOCK = true ∨ s.hub.now < (s.hub.rt sl).faultAt + s.hub.quietPs → s.hub.exitReady sl = false))

/-- SLM_MOVE with GO: a copy starts in a HELD slice between two arrays in which it holds the same cells, and not otherwise (BAD_CMD); one
that waits for a mover takes it once the slice may have one (log entry 141); its end copies scratch, program store and galley to the
matching cells, sets MOVE_DONE and clears BUSY, and one that stopped sets ERR. -/
def Obligations.MoveCopiesBetweenMatchingArrays : Prop :=
  (∀ (s : State) (o : Origin) (sl : SliceId) (v : Word), s.hub.mgrActs o →
    s.hub.stateOf sl = slHELD → s.hub.flag (rSLM_MOVE sl) fSLM_MOVE_BUSY = false →
    (s.hub.slD sl).pattern (vFld v fSLM_MOVE_SRC_ARRAY) ≠ [] →
    (s.hub.slD sl).pattern (vFld v fSLM_MOVE_SRC_ARRAY) = (s.hub.slD sl).pattern (vFld v fSLM_MOVE_DST_ARRAY) →
    ∃ t, exec (.sliceMoveGo o sl v) s = .next t ∧ t.hub.flag (rSLM_MOVE sl) fSLM_MOVE_BUSY = true ∧
      t.hub.fld (rSLM_MOVE sl) fSLM_MOVE_SRC_ARRAY = vFld v fSLM_MOVE_SRC_ARRAY ∧
      t.hub.fld (rSLM_MOVE sl) fSLM_MOVE_DST_ARRAY = vFld v fSLM_MOVE_DST_ARRAY ∧
      (t.hub.rt sl).moving = (vFld v fSLM_MOVE_SRC_ARRAY, vFld v fSLM_MOVE_DST_ARRAY) ∧ t.hub.cells = s.hub.cells ∧ t.hub.hbm = s.hub.hbm ∧
      ∀ a, a ≠ rSLM_MOVE sl → t.hub.reg a = s.hub.reg a) ∧
  (∀ (s : State) (o : Origin) (sl : SliceId) (v : Word), s.hub.mgrActs o → s.hub.stateOf sl ≠ slHELD →
    ∃ t, exec (.sliceMoveGo o sl v) s = .next t ∧ t.hub.flag (rSLM_SLICE_EVT sl) fSLM_SLICE_EVT_BAD_CMD = true ∧
      t.hub.flag (rSLM_MOVE sl) fSLM_MOVE_BUSY = s.hub.flag (rSLM_MOVE sl) fSLM_MOVE_BUSY ∧ t.hub.cells = s.hub.cells) ∧
  (∀ (s : State) (sl : SliceId), s.hub.flag (rSLM_MOVE sl) fSLM_MOVE_BUSY = true →
    ((s.hub.rt sl).moveWaits = false → ∃ t, exec (.sliceMoveDone sl true) s = .next t ∧ t.hub.flag (rSLM_MOVE sl) fSLM_MOVE_BUSY = false ∧
      t.hub.flag (rSLM_SLICE_EVT sl) fSLM_SLICE_EVT_MOVE_DONE = true ∧
      ((s.hub.rt sl).moving.1 ≠ (s.hub.rt sl).moving.2 → ∀ c ∈ (s.hub.slD sl).pattern (s.hub.rt sl).moving.1,
        (t.hub.cell ((s.hub.rt sl).moving.2 * 128 + c)).mem = (s.hub.cell ((s.hub.rt sl).moving.1 * 128 + c)).mem ∧
        (t.hub.cell ((s.hub.rt sl).moving.2 * 128 + c)).galley = (s.hub.cell ((s.hub.rt sl).moving.1 * 128 + c)).galley)) ∧
    ((s.hub.rt sl).moveWaits = true → s.hub.moverMay (some sl.val) = true → s.hub.halted = false →
      exec (.sliceMoveDone sl true) s = .next (s.withHub (s.hub.updRt sl (fun r => { r with moveWaits := false })))) ∧
    exec (.sliceMoveDone sl false) s = .next (s.withHub (((s.hub.setF (rSLM_MOVE sl) fSLM_MOVE_BUSY 0).updRt sl
      (fun r => { r with moveWaits := false })).setF (rSLM_MOVE sl) fSLM_MOVE_ERR 1)))

/-! ## The commit -/

/-- GO and CHECK_ONLY start a commit: PHASE reads 1 and nothing else changes. One written while PHASE is not 0, or a write with both bits
set, gets an error response and does not disturb the commit in progress. -/
def Obligations.CommitsStartOneAtATime : Prop :=
  (∀ (s : State) (o : Origin), s.hub.mgrActs o → s.hub.commitJob = none → s.hub.hubUnitStopped = false →
    (s.hub.lcsJob = none → s.hub.pwrState < 2 →
      ∃ t, exec (.commitGo o) s = .next t ∧ t.hub.commitJob = some false ∧ t.hub.fld rSLM_COMMIT_STS fSLM_COMMIT_STS_PHASE = 1 ∧
        t = s.withHub { s.hub with regs := t.hub.regs, commitJob := some false, out := .regOk :: s.hub.out } ∧
        ∀ a, a ≠ rSLM_COMMIT_STS → t.hub.reg a = s.hub.reg a) ∧
    ∃ t, exec (.commitCheckOnly o) s = .next t ∧ t.hub.commitJob = some true ∧ t.hub.fld rSLM_COMMIT_STS fSLM_COMMIT_STS_PHASE = 1 ∧
      t = s.withHub { s.hub with regs := t.hub.regs, commitJob := some true, out := .regOk :: s.hub.out } ∧
      ∀ a, a ≠ rSLM_COMMIT_STS → t.hub.reg a = s.hub.reg a) ∧
  (∀ (s : State) (o : Origin), s.hub.mgrActs o → s.hub.commitJob.isSome = true →
    exec (.commitGo o) s = .next (s.withHub s.hub.regErr) ∧ exec (.commitCheckOnly o) s = .next (s.withHub s.hub.regErr)) ∧
  (∀ (h : Hub) (o : Origin) (v : Word), h.isMgr o = true → vFlag v fSLM_COMMIT_CTL_GO = true →
    vFlag v fSLM_COMMIT_CTL_CHECK_ONLY = true → h.writeCommitCtl o v = h.regErr)

/-- A refused commit changes nothing in the hub except SLM_COMMIT_STS and SLM_COMMIT_DETAIL, and a check run with CHECK_ONLY likewise
changes nothing else; vector 3 tells the physical functions. A check that passes sets CODE and RECORD of SLM_COMMIT_STS, and every field
of SLM_COMMIT_DETAIL, to 0. The image can be read: no part of it waits (log entry 137). -/
def Obligations.CommitsThatAreRefusedChangeNothingElse : Prop :=
  ∀ (s : State) (line : Nat) (ecc : Ecc) (only : Bool), s.hub.commitJob = some only → s.hub.halted = false →
    s.hub.imageWaits (s.hub.fld rSLM_IMG_BASE fSLM_IMG_BASE_ADDR) (atLine line ecc) 0x18 2097152 = false →
    (∀ e, s.hub.checkImage s.fuses (s.hub.hbmReader (s.hub.fld rSLM_IMG_BASE fSLM_IMG_BASE_ADDR) (atLine line ecc)) = .error e →
      ∃ t, exec (.commitDone ⟨line, ecc⟩) s = .next t ∧
        t = s.withHub { s.hub with regs := t.hub.regs, msix := t.hub.msix, commitJob := none } ∧
        (∀ a, a ≠ rSLM_COMMIT_STS → a ≠ rSLM_COMMIT_DETAIL → t.hub.reg a = s.hub.reg a) ∧
        t.hub.fld rSLM_COMMIT_STS fSLM_COMMIT_STS_CODE = e.code % 256 ∧ t.hub.flag rSLM_COMMIT_STS fSLM_COMMIT_STS_REFUSED = true ∧
        t.hub.fld rSLM_COMMIT_STS fSLM_COMMIT_STS_RECORD = e.record.getD 0xFFFFFFFF % 2 ^ 32 ∧
        t.hub.fld rSLM_COMMIT_STS fSLM_COMMIT_STS_PHASE = 0) ∧
    (∀ p, s.hub.checkImage s.fuses (s.hub.hbmReader (s.hub.fld rSLM_IMG_BASE fSLM_IMG_BASE_ADDR) (atLine line ecc)) = .ok p → only = true →
      ∃ t, exec (.commitDone ⟨line, ecc⟩) s = .next t ∧
        t = s.withHub { s.hub with regs := t.hub.regs, msix := t.hub.msix, commitJob := none } ∧
        (∀ a, a ≠ rSLM_COMMIT_STS → a ≠ rSLM_COMMIT_DETAIL → t.hub.reg a = s.hub.reg a) ∧
        t.hub.fld rSLM_COMMIT_STS fSLM_COMMIT_STS_CODE = 0 ∧ t.hub.fld rSLM_COMMIT_STS fSLM_COMMIT_STS_RECORD = 0 ∧
        t.hub.flag rSLM_COMMIT_STS fSLM_COMMIT_STS_DONE = true ∧ t.hub.reg rSLM_COMMIT_DETAIL = 0 ∧
        t.hub.fld rSLM_COMMIT_STS fSLM_COMMIT_STS_PHASE = 0)

/-- Step 8 of a commit is one step: with an image that passes, the tables are switched, every field of SLM_COMMIT_DETAIL and CODE and
RECORD are 0, DONE is set, and the commit is over. While a part of the image or of a hold area that moves cannot be read, the commit waits
(the model's choice, log entry 137). A removed resource is given back once nothing in flight uses it, and not before; RELEASING stays 1
while one is left, a removed cell's storage is zero and a removed granule that is not sealed reads as zeros. -/
def Obligations.CommitsSwitchTablesAndGiveBack : Prop :=
  (
    ∀ (s : State) (line : Nat) (ecc : Ecc), s.hub.commitJob = some false → s.hub.halted = false →
      (s.hub.imageWaits (s.hub.fld rSLM_IMG_BASE fSLM_IMG_BASE_ADDR) (atLine line ecc) 0x18 2097152 = true →
        exec (.commitDone ⟨line, ecc⟩) s = .next s) ∧
      ∀ (i : Img) (nf : Forme) (es : SMap (List (Except Nat (List Byte)))) (h : Hub),
        s.hub.imageWaits (s.hub.fld rSLM_IMG_BASE fSLM_IMG_BASE_ADDR) (atLine line ecc) 0x18 2097152 = false →
        s.hub.checkImage s.fuses (s.hub.hbmReader (s.hub.fld rSLM_IMG_BASE fSLM_IMG_BASE_ADDR) (atLine line ecc)) = .ok (i, nf) →
        (s.hub.readImage (s.hub.fld rSLM_IMG_BASE fSLM_IMG_BASE_ADDR) (atLine line ecc) 0 i.len).2.movedEntries (s.hub.restated i nf) =
          (some es, h) →
        ∃ t, exec (.commitDone ⟨line, ecc⟩) s = .next t ∧ t = s.withHub (h.switchTables i nf es).passCommit.commitOver ∧
          t.hub.commitJob = none ∧ t.hub.fld rSLM_COMMIT_STS fSLM_COMMIT_STS_CODE = 0 ∧
          t.hub.fld rSLM_COMMIT_STS fSLM_COMMIT_STS_RECORD = 0 ∧ t.hub.flag rSLM_COMMIT_STS fSLM_COMMIT_STS_DONE = true ∧
          t.hub.reg rSLM_COMMIT_DETAIL = 0 ∧ t.hub.fld rSLM_COMMIT_STS fSLM_COMMIT_STS_PHASE = 0) ∧
  (
    ∀ (s : State) (i : Nat) (r : Releasing), s.hub.releasing[i]? = some r →
      (s.hub.inUse r = true → exec (.resourceRelease i) s = .next s) ∧
      (s.hub.inUse r = false → ∃ t, exec (.resourceRelease i) s = .next t ∧ t.hub.releasing = s.hub.releasing.erase r ∧
        t.hub.flag rSLM_COMMIT_STS fSLM_COMMIT_STS_RELEASING = !(s.hub.releasing.erase r).isEmpty ∧ t.hub.forme = s.hub.forme ∧
        (r.kind = rkCELL → t.hub.cell r.num = {} ∧ t.hub.hbm = s.hub.hbm) ∧
        (r.kind = rkGRAN → s.hub.regionOf (r.num * GRAN) = none → t.hub.zeroed.contains r.num = true ∧
          ∀ a, r.num * GRAN ≤ a → a < r.num * GRAN + GRAN → mapGet t.hub.hbm a = none)))

/-! ## Cells -/

/-- The instructions of class SCALAR, issued where a cell stands at them: RD becomes the result of the operation on RA and B = RB + IMM,
modulo 2^64, and the sequencer goes on; nothing else changes. A write to s0 is discarded and s0 reads as zero. -/
def Obligations.ScalarInstructionsWriteTheirResult : Prop :=
  (∀ (s : State) (c : CellId) (z : Hazard) (rd ra rb imm : Nat) (x : Cell) (a b : Word), z = .clean ∨ z = .residue → s.hub.goesOn c →
    x = s.hub.cell c → a = x.r ra → b = x.r rb + (BitVec.ofNat 32 imm).signExtend 64 →
    (s.hub.standsAt c (.alu .add rd ra rb imm) → exec (.add c z) s = .next (s.cellPast c (x.setR rd (a + b)))) ∧
    (s.hub.standsAt c (.alu .sub rd ra rb imm) → exec (.sub c z) s = .next (s.cellPast c (x.setR rd (a - b)))) ∧
    (s.hub.standsAt c (.alu .and rd ra rb imm) → exec (.and c z) s = .next (s.cellPast c (x.setR rd (a &&& b)))) ∧
    (s.hub.standsAt c (.alu .or rd ra rb imm) → exec (.or c z) s = .next (s.cellPast c (x.setR rd (a ||| b)))) ∧
    (s.hub.standsAt c (.alu .xor rd ra rb imm) → exec (.xor c z) s = .next (s.cellPast c (x.setR rd (a ^^^ b)))) ∧
    (s.hub.standsAt c (.alu .shl rd ra rb imm) → exec (.shl c z) s = .next (s.cellPast c (x.setR rd (a <<< (b.toNat % 64))))) ∧
    (s.hub.standsAt c (.alu .shr rd ra rb imm) → exec (.shr c z) s = .next (s.cellPast c (x.setR rd (a >>> (b.toNat % 64))))) ∧
    (s.hub.standsAt c (.alu .sra rd ra rb imm) → exec (.sra c z) s = .next (s.cellPast c (x.setR rd (a.sshiftRight (b.toNat % 64))))) ∧
    (s.hub.standsAt c (.alu .mul rd ra rb imm) → exec (.mul c z) s = .next (s.cellPast c (x.setR rd (a * b)))) ∧
    (s.hub.standsAt c (.alu .slt rd ra rb imm) →
      exec (.slt c z) s = .next (s.cellPast c (x.setR rd (if a.toInt < b.toInt then 1 else 0)))) ∧
    (s.hub.standsAt c (.lih rd imm) →
      exec (.lih c z) s = .next (s.cellPast c (x.setR rd (BitVec.ofNat 64 ((x.r rd).toNat % 2 ^ 32 + imm * 2 ^ 32)))))) ∧
  (∀ (x : Cell) (v : Word), x.setR 0 v = x ∧ x.r 0 = 0) ∧
  (∀ (x : Cell) (v : Word) (i j : Nat), i < 32 → i ≠ 0 → (x.setR i v).r i = v ∧ (j ≠ i → (x.setR i v).r j = x.r j))

/-- The instructions of class LOCAL: a load takes 8 or 4 little-endian bytes of scratch at RA + OFF into RD, zero-extended, a store writes
the low bytes of RD there; an operand outside scratch or unaligned stops the cell with ADDR. A write to a cell's scratch changes exactly
the bytes written: every address outside them reads as before, and each of them reads as the byte put there. -/
def Obligations.LocalInstructionsReachScratch : Prop :=
  (
    ∀ (s : State) (c : CellId) (z : Hazard) (rd ra off : Nat) (x : Cell) (a : Nat), z = .clean ∨ z = .residue → s.hub.goesOn c →
      x = s.hub.cell c → a = (x.r ra + BitVec.ofNat 64 off).toNat →
      (s.hub.standsAt c (.loc .ld8 rd ra off) → a + 8 ≤ 0x10000 → a % 8 = 0 →
        exec (.ld8 c z) s = .next (s.cellPast c (x.setR rd (BitVec.ofNat 64 (leNat (x.get a 8)))))) ∧
      (s.hub.standsAt c (.loc .ld4 rd ra off) → a + 4 ≤ 0x10000 → a % 4 = 0 →
        exec (.ld4 c z) s = .next (s.cellPast c (x.setR rd (BitVec.ofNat 64 (leNat (x.get a 4)))))) ∧
      (s.hub.standsAt c (.loc .st8 rd ra off) → a + 8 ≤ 0x10000 → a % 8 = 0 →
        exec (.st8 c z) s = .next (s.cellPast c (x.put a (toLE 8 (x.r rd).toNat)))) ∧
      (s.hub.standsAt c (.loc .st4 rd ra off) → a + 4 ≤ 0x10000 → a % 4 = 0 →
        exec (.st4 c z) s = .next (s.cellPast c (x.put a (toLE 4 (x.r rd).toNat)))) ∧
      (s.hub.standsAt c (.loc .ld8 rd ra off) → ¬ (a + 8 ≤ 0x10000 ∧ a % 8 = 0) →
        exec (.ld8 c z) s = .next (s.withHub (s.hub.stopCellS c kADDR))) ∧
      (s.hub.standsAt c (.loc .ld4 rd ra off) → ¬ (a + 4 ≤ 0x10000 ∧ a % 4 = 0) →
        exec (.ld4 c z) s = .next (s.withHub (s.hub.stopCellS c kADDR))) ∧
      (s.hub.standsAt c (.loc .st8 rd ra off) → ¬ (a + 8 ≤ 0x10000 ∧ a % 8 = 0) →
        exec (.st8 c z) s = .next (s.withHub (s.hub.stopCellS c kADDR))) ∧
      (s.hub.standsAt c (.loc .st4 rd ra off) → ¬ (a + 4 ≤ 0x10000 ∧ a % 4 = 0) →
        exec (.st4 c z) s = .next (s.withHub (s.hub.stopCellS c kADDR)))) ∧
  (
    ∀ (x : Cell) (off : Nat) (bs : List Byte) (a : Nat),
      (a < off ∨ off + bs.length ≤ a → mapGetD (x.put off bs).mem a 0 = mapGetD x.mem a 0) ∧
      (∀ k, (hk : k < bs.length) → mapGetD (x.put off bs).mem (off + k) 0 = bs[k]))

/-- NOP and BR: NOP goes on; a BR whose condition on RA holds goes to TARGET, and one whose condition does not goes on. LOOP: level LVL
opens with its count of runs over the next BODY instructions; a count of 0 skips the body; a count of 2^32 or more stops the cell with
ADDR. At the last instruction of a body with runs left, control goes back to its first. A loop level of which the last run ends closes,
and the level outside it that ends at the same instruction is looked at next. -/
def Obligations.BranchesAndLoopsGoWhereTheyShould : Prop :=
  (
    ∀ (s : State) (c : CellId) (z : Hazard) (x : Cell), z = .clean ∨ z = .residue → x = s.hub.cell c →
      (s.hub.standsAt c .nop → s.hub.goesOn c → exec (.nop c z) s = .next (s.cellPast c x)) ∧
      (∀ cond ra target, s.hub.standsAt c (.br cond ra target) → cond ≤ 4 →
        ((cond = 0 ∨ (cond = 1 ∧ x.r ra = 0) ∨ (cond = 2 ∧ x.r ra ≠ 0) ∨ (cond = 3 ∧ (x.r ra).toInt < 0) ∨ (cond = 4 ∧ 0 ≤ (x.r ra).toInt)) →
          target < x.count → exec (.br c z) s = .next (s.withCell c { x with pc := target })) ∧
        (¬ (cond = 0 ∨ (cond = 1 ∧ x.r ra = 0) ∨ (cond = 2 ∧ x.r ra ≠ 0) ∨ (cond = 3 ∧ (x.r ra).toInt < 0) ∨
            (cond = 4 ∧ 0 ≤ (x.r ra).toInt)) → s.hub.goesOn c → exec (.br c z) s = .next (s.cellPast c x)))) ∧
  (
    (∀ (s : State) (c : CellId) (z : Hazard) (lvl creg body count n : Nat) (x : Cell), z = .clean ∨ z = .residue → x = s.hub.cell c →
      s.hub.standsAt c (.loop lvl creg body count) → n = (if creg = 0 then count else (x.r creg).toNat) →
      (0 < n → n < 2 ^ 32 → x.pc + 1 < x.count → exec (.loop c z) s = .next (s.withCell c
        { x with pc := x.pc + 1, loops := x.loops.setIfInBounds lvl { rem := n, start := x.pc + 1, last := x.pc + body } })) ∧
      (n = 0 → (loopEnd (x.pc + body) 4 x.loops).1 < x.count → exec (.loop c z) s = .next (s.withCell c (x.past (x.pc + body)))) ∧
      (2 ^ 32 ≤ n → exec (.loop c z) s = .next (s.withHub (s.hub.stopCellS c kADDR)))) ∧
    (∀ (i : Nat) (ls : Vector LoopLvl 4), (∀ k : Fin 4, ls[k].rem = 0 ∨ ls[k].last ≠ i) → loopEnd i 4 ls = (i + 1, ls)) ∧
    (∀ (i : Nat) (ls : Vector LoopLvl 4) (k : Fin 4), 1 < ls[k].rem → ls[k].last = i →
      (∀ j : Fin 4, k < j → ls[j].rem = 0 ∨ ls[j].last ≠ i) →
      loopEnd i 4 ls = (ls[k].start, ls.set k { ls[k] with rem := ls[k].rem - 1 }))) ∧
  (
    ∀ (i : Nat) (ls : Vector LoopLvl 4) (k : Nat), k < 4 → (∀ j : Fin 4, k < j.val → ls[j].rem = 0 ∨ ls[j].last ≠ i) →
      ∀ h : k < 4, ls[k].rem = 1 → ls[k].last = i → loopEnd i 4 ls = loopEnd i k (ls.set k { ls[k] with rem := 0 }))

/-- SHEET, END, WAITU and WAITAC with what they wait for come about, and not; a counter number of 64 or above stops the cell; and a
sequencer that waits for a counter resumes once the counter has reached the count. CELL_ECC.CLR zeroes a cell's three counts, and the
checks of a cell count: a corrected error is counted and the instruction goes on. -/
def Obligations.CellsWaitAndCountErrors : Prop :=
  (
    ∀ (s : State) (c : CellId) (z : Hazard) (x : Cell), z = .clean ∨ z = .residue → x = s.hub.cell c →
      (s.hub.standsAt c .sheet → s.hub.unitsIdle c 63 = true → s.hub.cellSheet c ≤ x.sheet → exec (.sheet c z) s =
        .next (s.withCell c { x.past x.pc with run := .atSheet, wait := .none, reachedAt := s.hub.now })) ∧
      (s.hub.standsAt c .sheet → s.hub.unitsIdle c 63 = true → x.sheet < s.hub.cellSheet c → s.hub.goesOn c → exec (.sheet c z) s =
        .next (s.withCell c ((x.past x.pc).startSheet (x.sheet + 1)))) ∧
      (s.hub.standsAt c .sheet → s.hub.unitsIdle c 63 = false → exec (.sheet c z) s = .next (s.withCell c { x with wait := .sheet })) ∧
      (s.hub.standsAt c .end_ → s.hub.unitsIdle c 63 = true → exec (.end_ c z) s =
        .next (s.withHub { s.hub.setCell c { x with run := .idle, wait := .none, reachedAt := s.hub.now } with
          items := s.hub.items.map (fun e => (e.1, e.2.noteEnd c x.sheet)) })) ∧
      (s.hub.standsAt c .end_ → s.hub.unitsIdle c 63 = false → exec (.end_ c z) s = .next (s.withCell c { x with wait := .finish })) ∧
      (∀ m, s.hub.standsAt c (.waitu m) →
        (s.hub.unitsIdle c m = true → s.hub.goesOn c → exec (.waitu c z) s = .next (s.cellPast c x)) ∧
        (s.hub.unitsIdle c m = false → exec (.waitu c z) s = .next (s.withCell c { x with wait := .units m }))) ∧
      (∀ ra rb, s.hub.standsAt c (.waitac ra rb) →
        ((x.r ra).toNat < 64 → s.hub.acReached ((s.hub.cellOwner c).getD 0) (x.r ra).toNat (x.r rb) = true → s.hub.goesOn c →
          exec (.waitac c z) s = .next (s.cellPast c x)) ∧
        ((x.r ra).toNat < 64 → s.hub.acReached ((s.hub.cellOwner c).getD 0) (x.r ra).toNat (x.r rb) = false →
          exec (.waitac c z) s = .next (s.withCell c { x with wait := .counter (x.r ra).toNat (x.r rb) })) ∧
        (64 ≤ (x.r ra).toNat → exec (.waitac c z) s = .next (s.withHub (s.hub.stopCellS c kADDR)))) ∧
      (∀ n t, x.run = .running → x.wait = .counter n t → s.hub.cellsStand = false → s.hub.goesOn c →
        s.hub.acReached ((s.hub.cellOwner c).getD 0) n t = true → exec (.waitacResume c) s = .next (s.cellPast c x)) ∧
      (∀ n t, x.wait = .counter n t → s.hub.acReached ((s.hub.cellOwner c).getD 0) n t = false → exec (.waitacResume c) s = .next s)) ∧
  (
    (∀ (s : State) (o : Origin) (c : CellId), s.hub.mgrActs o → ∃ t, exec (.cellEccClr o c) s = .next t ∧
      t.hub.reg (rCELL_ECC (c / 128) (c % 128)) = 0 ∧ (∀ a, a ≠ rCELL_ECC (c / 128) (c % 128) → t.hub.reg a = s.hub.reg a) ∧
      t.hub.cells = s.hub.cells ∧ t.hub.hbm = s.hub.hbm) ∧
    (∀ (s : State) (c : CellId), s.hub.standsAt c .nop → s.hub.goesOn c → ∃ t, exec (.nop c .corrected) s = .next t ∧
      t.hub.fld (rCELL_ECC (c / 128) (c % 128)) fCELL_ECC_CORR =
        min (s.hub.fld (rCELL_ECC (c / 128) (c % 128)) fCELL_ECC_CORR + 1) (2 ^ fCELL_ECC_CORR.w - 1) ∧
      t.hub.cells = (s.cellPast c (s.hub.cell c)).hub.cells))

/-- The instructions of the tensor unit begin at once where the unit is idle and their scratch operands are good: TCFG sets the window and
zeroes the set, TMMA accumulates, TDRAIN writes the set out, TADDX adds exact partials, TSTAT returns the flags and clears them. The
instructions of the vector unit and the gather-reduce engine begin at once where their unit is idle and their operands are good. -/
def Obligations.UnitInstructionsBeginAtOnce : Prop :=
  (
    ∀ (s : State) (c : CellId) (x : Cell), x = s.hub.cell c → x.tensor = [] → s.hub.goesOn c →
      (∀ set w, s.hub.standsAt c (.tcfg set w) → exec (.tcfg c .clean) s = .next (s.cellPast c
        ((x.setUnit .tensor [{ instr := .tcfg set w, vals := [] }]).updAcc set (fun a => a.config (signed w 16))))) ∧
      (∀ fmt exact sparse set zr ra rb rc rd nblk a b sc sd, s.hub.standsAt c (.tmma fmt exact sparse set zr ra rb rc rd nblk) →
        a = (x.r ra).toNat → b = (x.r rb).toNat → sc = (x.r rc).toNat → sd = (x.r rd).toNat →
        (tmmaOperands fmt sparse a b sc sd nblk).all (fun p => scratchOk p.1 p.2.1 p.2.2) = true →
        exec (.tmma c .clean) s = .next (s.cellPast c
          ((x.setUnit .tensor [{ instr := .tmma fmt exact sparse set zr ra rb rc rd nblk, vals := [a, b, sc, sd] }]).updAcc set
            (tmmaRun x fmt exact sparse a b sc sd nblk (decide (zr = 1)))))) ∧
      (∀ ofmt sat set zr ra a, s.hub.standsAt c (.tdrain ofmt sat set zr ra) → a = (x.r ra).toNat →
        scratchOk a (16 * drainBytes ofmt) (drainBytes ofmt) = true → exec (.tdrain c .clean) s = .next (s.cellPast c
          (((x.setUnit .tensor [{ instr := .tdrain ofmt sat set zr ra, vals := [a] }]).put a
            (drainRun ofmt (decide (sat = 1)) (decide (zr = 1)) (x.acc set)).1).updAcc set
            (fun _ => (drainRun ofmt (decide (sat = 1)) (decide (zr = 1)) (x.acc set)).2)))) ∧
      (∀ set ra a, s.hub.standsAt c (.taddx set ra) → a = (x.r ra).toNat → scratchOk a 256 16 = true →
        exec (.taddx c .clean) s = .next (s.cellPast c
          ((x.setUnit .tensor [{ instr := .taddx set ra, vals := [a] }]).updAcc set (taddxRun (x.get a 256))))) ∧
      (∀ rd, s.hub.standsAt c (.tstat rd) → ∃ t, exec (.tstat c .clean) s = .next t ∧
        (t.hub.cell c).r rd = (if rd = 0 then 0 else if rd < 32 then BitVec.ofNat 64 (tstatValue (x.acc 0).flags (x.acc 1).flags x.gstat) else 0) ∧
        ((t.hub.cell c).acc 0).flags = 0 ∧ ((t.hub.cell c).acc 1).flags = 0 ∧ (t.hub.cell c).gstat = 0 ∧
        ∀ d, d ≠ c.val → t.hub.cell d = s.hub.cell d)) ∧
  (
    ∀ (s : State) (c : CellId) (x : Cell), x = s.hub.cell c → s.hub.goesOn c →
      (∀ (op : VecOp) (rd ra rb rc count fmt sat d a b k : Nat) (i : Instr), x.vector = [] →
        s.hub.standsAt c (.vec op rd ra rb rc count fmt sat) →
        i = (match op with
          | .vfma => .vfma c .clean | .vadd => .vadd c .clean | .vmul => .vmul c .clean | .vmax => .vmax c .clean
          | .vmin => .vmin c .clean | .vpack => .vpack c .clean | .vunpk => .vunpk c .clean | .vqnt => .vqnt c .clean
          | .vdq => .vdq c .clean | .vred => .vred c .clean) →
        d = (x.r rd).toNat → a = (x.r ra).toNat → b = (x.r rb).toNat → k = (x.r rc).toNat →
        (vecOperands op fmt count d a b k).all (fun p => scratchOk p.1 p.2.1 p.2.2) = true →
        exec i s = .next (s.cellPast c (vecRun op fmt (decide (sat = 1)) count d a b k
          (x.setUnit .vector [{ instr := .vec op rd ra rb rc count fmt sat, vals := [d, a, b, k] }])))) ∧
      (∀ ifmt red wfmt ra a, x.gather = [] → s.hub.standsAt c (.gr ifmt red wfmt ra) → a = (x.r ra).toNat → scratchOk a 32 8 = true →
        gatherOk x ifmt red wfmt (x.get a 32) = true → exec (.gr c .clean) s = .next (s.cellPast c
          (gatherRun ifmt red wfmt (x.get a 32) (x.setUnit .gather [{ instr := .gr ifmt red wfmt ra, vals := [a] }])))))

/-- A long operation issued behind one that runs is queued and the sequencer goes on; behind two, nothing happens yet; with an operand
outside scratch or unaligned the cell stops with ADDR; with a failed residue check it stops with DATAPATH. Here TADDX. A unit's operation
that has ended leaves the unit, and a queued one begins; an operation that is not at its end stays. -/
def Obligations.UnitsFinishInOrder : Prop :=
  (
    ∀ (s : State) (c : CellId) (x : Cell) (set ra a : Nat), x = s.hub.cell c → s.hub.standsAt c (.taddx set ra) → a = (x.r ra).toNat →
      (∀ p, x.tensor = [p] → scratchOk a 256 16 = true → s.hub.goesOn c →
        exec (.taddx c .clean) s = .next (s.cellPast c (x.setUnit .tensor [p, { instr := .taddx set ra, vals := [a] }]))) ∧
      (2 ≤ x.tensor.length → scratchOk a 256 16 = true → exec (.taddx c .clean) s = .next s) ∧
      (scratchOk a 256 16 = false → exec (.taddx c .clean) s = .next (s.withHub (s.hub.stopCellS c kADDR))) ∧
      exec (.taddx c .residue) s = .next (s.withHub ((s.hub.eccCount c fCELL_ECC_CHECK).stopCellS c kDATAPATH)) ∧
      exec (.taddx c .uncorrectable) s = .next (s.withHub ((s.hub.eccCount c fCELL_ECC_UNCORR).stopCellS c kCELL_SRAM))) ∧
  (
    ∀ (s : State) (c : CellId) (u : CellUnit) (x : Cell) (o : UOp), x = s.hub.cell c →
      (x.unit u = [o] → o.complete = true → s.hub.cellsStand = false →
        exec (.unitOperationDone c u .clean) s = .next (s.withHub ((s.hub.updCell c (fun x => x.setUnit u [])).settle c))) ∧
      (∀ p, x.unit u = [o, p] → o.complete = true → s.hub.cellsStand = false →
        exec (.unitOperationDone c u .clean) s = .next (s.withHub (((s.hub.updCell c (fun x => x.setUnit u [p])).beginOp c p).settle c))) ∧
      (x.unit u = [] → exec (.unitOperationDone c u .clean) s = .next s) ∧
      (∀ l, x.unit u = o :: l → o.complete = false → exec (.unitOperationDone c u .clean) s = .next s))

/-- SEND, RECV, FWD and PASS enter the channel unit with a new log entry of the sheet. A channel word passes: a RECV takes the oldest word
of its buffer into scratch; a SEND puts a scratch word into the neighbour's buffer; a FWD does both with the word; with bad parity the
cell that takes the word stops with DATAPATH. -/
def Obligations.ChannelWordsPassOneByOne : Prop :=
  (
    ∀ (s : State) (c : CellId) (z : Hazard) (x : Cell) (op : ChanOp) (dir dir2 ra count : Nat) (i : Instr), z = .clean ∨ z = .residue →
      x = s.hub.cell c → s.hub.standsAt c (.chan op dir dir2 ra count) → s.hub.goesOn c → x.chan = [] → x.replay = none →
      x.log.length < 256 → 0 < count → op = .pass ∨ scratchOk (x.r ra).toNat (16 * count) 16 = true →
      i = (match op with | .send => .send c z | .recv => .recv c z | .fwd => .fwd c z | .pass => .pass c z) →
      exec i s = .next (s.cellPast c { x with
        log := x.log ++ [{ fabric := false }]
        chan := [{ instr := .chan op dir dir2 ra count, vals := [(x.r ra).toNat], log := some x.log.length, recvd := 0, sent := 0 }] })) ∧
  (
    ∀ (s : State) (c : CellId) (x : Cell) (o : UOp) (l : List UOp) (d : Fin 4) (ra count a : Nat) (w : BitVec 128), x = s.hub.cell c →
      x.run = .running → s.hub.cellsStand = false → x.chan = o :: l → a = o.vals.getD 0 0 →
      (o.instr = .chan .recv d 0 ra count → x.inbuf[d] = some w → o.recvd < count →
        exec (.channelWordPass c d true) s = .next (s.withCell c
          (({ x with inbuf := x.inbuf.setIfInBounds d none }.put (a + 16 * o.recvd) (toLE 16 w.toNat)).chanStep o 1 0)) ∧
        exec (.channelWordPass c d false) s = .next (s.withHub ((s.hub.eccCount c fCELL_ECC_CHECK).stopCellS c kDATAPATH))) ∧
      (∀ n, o.instr = .chan .send d 0 ra count → s.hub.neighbour c d = some n → o.sent < count → s.hub.accepts n (opposite d) = true →
        exec (.channelWordPass c d true) s = .next (s.withHub ((s.hub.setCell c (x.chanStep o 0 1)).updCell n
          (fun y => { y with inbuf := y.inbuf.setIfInBounds (opposite d) (some (wordOf (x.get (a + 16 * o.sent) 16))) })))) ∧
      (∀ n (d1 : Fin 4), o.instr = .chan .fwd d1 d ra count → x.inbuf[d1] = some w → s.hub.neighbour c d = some n → o.sent < count →
        s.hub.accepts n (opposite d) = true → exec (.channelWordPass c d true) s = .next (s.withHub
          ((s.hub.setCell c ((({ x with inbuf := x.inbuf.setIfInBounds d1 none }.put (a + 16 * o.recvd) (toLE 16 w.toNat))).chanStep o 1 1)).updCell n
            (fun y => { y with inbuf := y.inbuf.setIfInBounds (opposite d) (some w) })))) ∧
      (o.instr = .chan .recv d 0 ra count → x.inbuf[d] = none → exec (.channelWordPass c d true) s = .next s))

/-- FLD, FST, FSTA and FATOM send their requests where the operands are good, the port has room and the context is enabled; with a context
that the slice does not enable, a corrected CTX_OFF is raised and nothing is sent; with bad operands the cell stops with ADDR. The answers
of a FABRIC operation: data goes into scratch at the request's offset while more answers are due; the last answer of a store that goes to
this hub raises its arrival counter by the operation's bytes. An answer with bad parity fails its request. -/
def Obligations.FabricInstructionsAskAndAreAnswered : Prop :=
  (
    ∀ (s : State) (c : CellId) (z : Hazard) (x y : Cell) (op : FabOp) (ra rb rc ctx aop rd sl : Nat) (i : Instr), z = .clean ∨ z = .residue →
      x = s.hub.cell c → s.hub.standsAt c (.fab op ra rb rc ctx aop rd) → s.hub.cellOwner c = some sl →
      i = (match op with | .fld => .fld c z | .fst => .fst c z | .fsta => .fsta c z | .fatom => .fatom c z) →
      y = { x with log := x.log ++ [{ fabric := true }] } →
      (fabOperandsOk op (x.r ra).toNat (x.r rb).toNat (x.r rc).toNat (x.r rd).toNat = true → s.hub.portRoom c op = true → x.replay = none →
        x.log.length < 256 →
        (s.hub.ctxOn sl ctx = true → exec i s = .next (s.withHub (((s.hub.setCell c y).sendOp c sl ctx aop op (x.r ra).toNat (x.r rb).toNat
          (x.r rc).toNat (x.r rd).toNat (some x.log.length)).goOnLive c))) ∧
        (s.hub.ctxOn sl ctx = false → exec i s = .next (s.withHub (((s.hub.setCell c y).fault
          { source := srcOf uHTU 0, kind := kCTX_OFF, cls := clsCorrected, slice := some sl, ctx := some ctx }).goOn c id)))) ∧
      (fabOperandsOk op (x.r ra).toNat (x.r rb).toNat (x.r rc).toNat (x.r rd).toNat = false →
        exec i s = .next (s.withHub (s.hub.stopCellS c kADDR)))) ∧
  (
    ∀ (s : State) (r c op off : Nat) (q : Req) (o : FabricOp), s.hub.req r = some q → q.src = .cell c op off → q.stage = .done →
      mapGet s.hub.fabricOps op = some o → (s.hub.cell c).run = .running →
      (q.kind = .read → 1 < o.left → exec (.fabricResponse ⟨r, true⟩) s = .next (s.withHub
        { (s.hub.dropReq r).cellPut c (o.ra + off) q.data with fabricOps := mapPut s.hub.fabricOps op { o with left := o.left - 1 } })) ∧
      (∀ n, q.kind = .write → o.left = 1 → o.failed = none → o.remote = false → o.bundle = none → o.acnum = some n → o.log = none →
        (s.hub.cell c).wait = .none → exec (.fabricResponse ⟨r, true⟩) s = .next (s.withHub
          (({ s.hub.dropReq r with fabricOps := mapDel s.hub.fabricOps op } : Hub).addAc o.slice n o.len))) ∧
      exec (.fabricResponse ⟨r, false⟩) s = .next (s.withHub (s.hub.parityFail r)))

/-! ## Schedule groups and the beat -/

/-- A group forms by votes: a hub that is no origin votes its subtree's count up the tree, the origin whose total equals HUBS fixes START,
and a group that has not started within 10 ms raises one corrected GROUP_FORM. A manager's eclipse of a started group ends it; of any
other group it gets an error response. CLR zeroes a group's telemetry. An eclipse that a hub has seen, by its source and number, is not
acted on again. -/
def Obligations.GroupsFormAndEndByVotesAndEclipses : Prop :=
  (
    ∀ (s : State) (g : GroupId) (r : Sched), s.hub.beatSched g = some r → s.hub.gState g = 1 →
      (r.origin = false → exec (.formingVoteTimer g) s = .next (s.withHub (s.hub.sendVote g r { count := s.hub.formCount g } true))) ∧
      (r.origin = true → s.hub.formCount g = r.hubs → (s.hub.grp g).fixed = none → (s.hub.grp g).pend = none → (s.hub.grp g).started = false →
        ∃ t, exec (.formingVoteTimer g) s = .next t ∧ (t.hub.grp g).fixed = some vSTART ∧ t.hub.regs = s.hub.regs ∧ t.hub.links = s.hub.links) ∧
      (r.origin = true → s.hub.formCount g ≠ r.hubs → exec (.formingVoteTimer g) s = .next s) ∧
      ((s.hub.grp g).formRaised = false → (s.hub.grp g).commitAt + 10000000000 ≤ s.hub.now → ∃ t, exec (.groupFormTimeout g) s = .next t ∧
        (t.hub.grp g).formRaised = true ∧ t.hub.gState g = 1 ∧
        t.hub.fcol.msgs = s.hub.fcol.msgs ++ [{ source := srcOf uBEAT g, kind := kGROUP_FORM, cls := clsCorrected, slice := none, aux := g }]) ∧
      ((s.hub.grp g).formRaised = true → exec (.groupFormTimeout g) s = .next s)) ∧
  (
    (∀ (s : State) (o : Origin) (v : Word), s.hub.mgrActs o → vFld v fFCOL_ECL_GROUP < 1024 →
      (s.hub.groupStarted (vFld v fFCOL_ECL_GROUP) = true → ∃ t, exec (.managerEclipse o v) s = .next t ∧
        t.hub = (s.hub.regOk.writeRW rFCOL_ECL [fFCOL_ECL_GROUP] [] (setFld v fFCOL_ECL_GO 1)).raiseEclipse (vFld v fFCOL_ECL_GROUP) 1) ∧
      (s.hub.groupStarted (vFld v fFCOL_ECL_GROUP) = false → exec (.managerEclipse o v) s = .next (s.withHub s.hub.regErr))) ∧
    (∀ (s : State) (o : Origin) (g : GroupId), s.hub.mgrActs o → ∃ t, exec (.groupTelemetryClr o g) s = .next t ∧
      t.hub.fld (rQL_GRP_SLIP g) fQL_GRP_SLIP_SLIPS = 0 ∧ t.hub.fld (rQL_GRP_SLIP g) fQL_GRP_SLIP_HELD = 0 ∧
      t.hub.fld (rQL_GRP_TIME g) fQL_GRP_TIME_LATE_ARR = 0 ∧ t.hub.fld (rQL_GRP_SLACK g) fQL_GRP_SLACK_SLACK_MIN = 0xFFFF ∧
      t.hub.fld (rQL_GRP_SLIP g) fQL_GRP_SLIP_CONSEC = s.hub.fld (rQL_GRP_SLIP g) fQL_GRP_SLIP_CONSEC ∧ t.hub.gState g = s.hub.gState g ∧
      t.hub.fld (rQL_GRP_CTL g) fQL_GRP_CTL_SLIP_THR = s.hub.fld (rQL_GRP_CTL g) fQL_GRP_CTL_SLIP_THR ∧ t.hub.groups = s.hub.groups) ∧
    (∀ (h : Hub) (l : Nat) (f : List Byte),
      (h.grp (bits (leAt f 8 8) 9 0)).eclSeen.contains (bits (leAt f 8 8) 18 10, bits (leAt f 8 8) 63 32) = true → h.takeEclipse l f = h) ∧
    (∀ (h : Hub) (g src : Nat), h.groupSlices g = [] → h.gState g ≠ 5 → (h.endGroup g src).gState g = 5 ∧ ((h.endGroup g src).grp g).pend = none))

/-- The origin sends the fixed verdict of the next boundary once that boundary is no further off than the lead, with the number of the
sheet after it as its check, and keeps it to act on at the boundary itself; before that it sends nothing. A BEAT, a VOTE and an ECLIPSE at
the head of virtual channel 2 are taken from it and acted on; another message stays; a beat message that is kept is acted on at its
arrival plus the lead less ELAPSED, and one with a reserved value is discarded. At its boundary a hub of a group takes the pending
verdict: the boundary's number and verdict are shown, the current sheet is 0 after START, one more after ADVANCE and RELEASE, and the same
after every other verdict; SLIP and HANG count a slip, HOLD, HELD and RELEASE a held boundary. Here for a group none of whose slices is on
this hub, and whose check agrees. -/
def Obligations.BeatsCarryVerdictsToBoundaries : Prop :=
  (
    ∀ (s : State) (g : GroupId) (r : Sched) (v : Nat), s.hub.beatSched g = some r → r.origin = true → (s.hub.grp g).fixed = some v →
      s.hub.gState g ≠ 5 → (s.hub.grp g).started = true →
      ((s.hub.grp g).lastAt + r.sheet ≤ s.hub.now + r.lead → exec (.beatSend g) s = .next (s.withHub
        ((s.hub.updGrp g (fun k => { k with
            fixed := none
            pend := some { verdict := v, boundary := s.hub.gBoundary g + 1, elapsed := 0, chk := s.hub.sheetAfter g v % 2 ^ 32, hop := 0,
                           link := 31, actAt := (s.hub.grp g).lastAt + r.sheet } })).sendBeat
          g v (s.hub.gBoundary g + 1) 0 (s.hub.sheetAfter g v % 2 ^ 32) 1))) ∧
      (s.hub.now + r.lead < (s.hub.grp g).lastAt + r.sheet → exec (.beatSend g) s = .next s)) ∧
  (
    (∀ (s : State) (l : LinkId) (f : List Byte), s.hub.rxHead l 2 = some f →
      (msgOp f = opBEAT → exec (.beat l) s = .next (s.withHub ((s.hub.rxPop l 2).takeBeat l ((s.hub.link l).arrivedAt.headD s.hub.now) f))) ∧
      (msgOp f = opVOTE → exec (.vote l) s = .next (s.withHub ((s.hub.rxPop l 2).takeVote l f))) ∧
      (msgOp f = opECLIPSE → exec (.eclipse l) s = .next (s.withHub ((s.hub.rxPop l 2).takeEclipse l f))) ∧
      (msgOp f ≠ opBEAT → exec (.beat l) s = .next s) ∧ (msgOp f ≠ opVOTE → exec (.vote l) s = .next s) ∧
      (msgOp f ≠ opECLIPSE → exec (.eclipse l) s = .next s)) ∧
    (∀ (h : Hub) (l arrived g v n e hop chk : Nat) (r : Sched), g < 1024 → h.beatSched g = some r → r.beatLink = l → h.children g = [] →
      v ≤ 6 → n < 2 ^ 48 → e ≤ r.lead → e < 2 ^ 32 → chk < 2 ^ 32 → 0 < hop → hop ≤ r.hops → hop < 16 → h.gState g ≠ 5 → h.gState g ≠ 0 →
      ((h.takeBeat l arrived (msgFrame opBEAT (beatW0 g v n) (beatW1 e chk) hop)).grp g).pend =
        some { verdict := v, boundary := n, elapsed := e, chk := chk, hop := hop, link := l, actAt := arrived + r.lead - e }) ∧
    (∀ (h : Hub) (l arrived : Nat) (f : List Byte), 6 < bits (leAt f 8 8) 13 10 ∨ bits (leAt f 8 8) 15 14 ≠ 0 ∨ bits (leAt f 24 8) 3 0 = 0 →
      h.takeBeat l arrived f = h)) ∧
  (
    ∀ (s : State) (g : GroupId) (m : BeatMsg), (s.hub.grp g).pend = some m → m.actAt ≤ s.hub.now → s.hub.gState g ≠ 5 →
      s.hub.stoppedInst uBEAT g = false → m.verdict ≤ 6 →
      s.hub.groupSlices g = [] → s.hub.flag rFCOL_CTL fFCOL_CTL_ECL_ON_HANG = false → s.hub.sheetAfter g m.verdict % 2 ^ 32 = m.chk →
      s.hub.gSheet g + 1 < 2 ^ 48 → m.boundary < 2 ^ 48 →
      ∃ t, exec (.boundaryAct g) s = .next t ∧ (t.hub.grp g).pend = none ∧ (t.hub.grp g).started = true ∧ (t.hub.grp g).lastAt = m.actAt ∧
        t.hub.gBoundary g = m.boundary ∧ t.hub.fld (rQL_GRP_BND g) fQL_GRP_BND_VERDICT = m.verdict ∧
        t.hub.gSheet g = (if m.verdict = vSTART then 0
          else if m.verdict = vADVANCE ∨ m.verdict = vRELEASE then s.hub.gSheet g + 1 else s.hub.gSheet g) ∧
        t.hub.gState g = (if m.verdict = vHOLD then 3 else if m.verdict = vHELD ∨ m.verdict = vHANG then 4 else 2) ∧
        t.hub.fld (rQL_GRP_SLIP g) fQL_GRP_SLIP_SLIPS = (if m.verdict = vSLIP ∨ m.verdict = vHANG then
          min (s.hub.fld (rQL_GRP_SLIP g) fQL_GRP_SLIP_SLIPS + 1) (2 ^ fQL_GRP_SLIP_SLIPS.w - 1) else s.hub.fld (rQL_GRP_SLIP g) fQL_GRP_SLIP_SLIPS) ∧
        t.hub.fld (rQL_GRP_SLIP g) fQL_GRP_SLIP_HELD = (if m.verdict = vHOLD ∨ m.verdict = vHELD ∨ m.verdict = vRELEASE then
          min (s.hub.fld (rQL_GRP_SLIP g) fQL_GRP_SLIP_HELD + 1) (2 ^ fQL_GRP_SLIP_HELD.w - 1) else s.hub.fld (rQL_GRP_SLIP g) fQL_GRP_SLIP_HELD) ∧
        t.hub.hbm = s.hub.hbm ∧ t.hub.cells = s.hub.cells)

/-- 20 ns after a boundary that carried a check a hub votes on it: late where a counted cell has not finished the sheet; the vote deadline
sends the combined vote of a group that has not ended; a group without its beat message for SHEET_NS + 1 microsecond after the boundary it
expects raises BEAT_LOST for each of its slices and stops voting. The origin fixes each verdict from the combined vote once the votes
close: while running, four late checks in a row are answered with SLIP three times and then with HANG; a fault, or else a hold request, is
answered with HOLD; otherwise ADVANCE. While holding, a check without a late cell is answered with HELD; while held, RELEASE comes once
every hub is ready. A hub that is missing counts as late. A group whose beat source a fatal fault has stopped takes no part: its timers,
checks, votes and boundaries do nothing. -/
def Obligations.HubsVoteAndTheOriginFixesVerdicts : Prop :=
  (
    ∀ (s : State) (g : GroupId) (r : Sched), s.hub.beatSched g = some r →
      ((s.hub.grp g).started = true → (s.hub.grp g).own = none → verdictChecks (s.hub.fld (rQL_GRP_BND g) fQL_GRP_BND_VERDICT) = true →
        s.hub.gState g ≠ 5 → (s.hub.grp g).lastAt + 20000 ≤ s.hub.now → ∃ t v, exec (.sheetCheck g) s = .next t ∧
          (t.hub.grp g).own = some v ∧ v.count = 1 ∧ v.boundary = s.hub.gBoundary g ∧
          (v.late = true ↔ ∃ c ∈ s.hub.countedCells g, (s.hub.cell c).finished (s.hub.grp g).chkSheet (s.hub.grp g).lastAt = false)) ∧
      ((s.hub.grp g).lastAt + r.sheet ≤ s.hub.now + r.lead + (100 + 400 * s.hub.fld (rQL_GRP_STS g) fQL_GRP_STS_DEPTH) * 1000 →
        s.hub.gState g ≠ 5 → exec (.voteDeadline g) s = .next (s.withHub (s.hub.sendCombined g r))) ∧
      (r.origin = false → (s.hub.grp g).started = true → (s.hub.grp g).beatSilent = false → (s.hub.grp g).pend = none →
        s.hub.groupStarted g = true → (s.hub.grp g).lastAt + 2 * r.sheet + 1000000 ≤ s.hub.now → exec (.beatLostTimeout g) s =
        .next (s.withHub ((s.hub.groupSlices g).foldl (fun h s => h.beatFault g kBEAT_LOST s)
          (s.hub.updGrp g (fun k => { k with beatSilent := true }))))) ∧
      ((s.hub.grp g).pend.isSome = true → exec (.beatLostTimeout g) s = .next s)) ∧
  (
    (∀ (s : State) (g : GroupId) (r : Sched) (v : Vote), s.hub.beatSched g = some r → r.origin = true → (s.hub.grp g).started = true →
      (s.hub.grp g).fixed = none → (s.hub.grp g).pend = none → s.hub.gState g ≠ 5 →
      (s.hub.grp g).lastAt + r.sheet ≤ s.hub.now + r.lead + 100000 → verdictChecks (s.hub.grp g).lastVerdict = true →
      (s.hub.grp g).combined = some v → r.hubs ≤ v.count → exec (.verdictFix g) s = .next (s.withHub (s.hub.setGrp g
        { (fixVerdict (s.hub.grp g) v r.hubs).2 with
          fixed := some (fixVerdict (s.hub.grp g) v r.hubs).1, lastVerdict := (fixVerdict (s.hub.grp g) v r.hubs).1 }))) ∧
    (∀ (k : GroupRt) (v1 v2 v3 v4 : Vote) (n : Nat), k.ostate = 2 → k.consec = 0 → v1.fault = false → v2.fault = false → v3.fault = false →
      v4.fault = false → v1.late = true → v2.late = true → v3.late = true → v4.late = true →
      let a := fixVerdict k v1 n
      let b := fixVerdict a.2 v2 n
      let c := fixVerdict b.2 v3 n
      let d := fixVerdict c.2 v4 n
      a.1 = vSLIP ∧ b.1 = vSLIP ∧ c.1 = vSLIP ∧ d.1 = vHANG ∧ d.2.ostate = 4) ∧
    (∀ (k : GroupRt) (v : Vote) (n : Nat), k.ostate = 2 →
      (v.fault = true → (fixVerdict k v n).1 = vHOLD) ∧
      (v.fault = false → v.late = false → n ≤ v.count → (k.holdPending || v.holdReq) = true → (fixVerdict k v n).1 = vHOLD) ∧
      (v.fault = false → v.late = false → n ≤ v.count → (k.holdPending || v.holdReq) = false → (fixVerdict k v n).1 = vADVANCE) ∧
      (v.fault = false → v.count < n → (fixVerdict k v n).1 = vSLIP ∨ (fixVerdict k v n).1 = vHANG)) ∧
    (∀ (k : GroupRt) (v : Vote) (n : Nat), k.ostate = 3 → v.late = false → n ≤ v.count → (fixVerdict k v n).1 = vHELD ∧ (fixVerdict k v n).2.ostate = 4) ∧
    (∀ (k : GroupRt) (v : Vote) (n : Nat), k.ostate = 4 →
      ((fixVerdict k v n).1 = vRELEASE ↔ v.relReady = true ∧ v.count = n) ∧ ((fixVerdict k v n).1 ≠ vRELEASE → (fixVerdict k v n).1 = vHELD))) ∧
  (
    ∀ (s : State) (g : GroupId), s.hub.stoppedInst uBEAT g = true →
      exec (.formingVoteTimer g) s = .next s ∧ exec (.groupFormTimeout g) s = .next s ∧ exec (.beatSend g) s = .next s ∧
      exec (.boundaryAct g) s = .next s ∧ exec (.sheetCheck g) s = .next s ∧ exec (.voteDeadline g) s = .next s ∧
      exec (.verdictFix g) s = .next s ∧ exec (.beatLostTimeout g) s = .next s)

/-! ## Queues, descriptors and arrival counters -/

/-- A doorbell that its queue takes: TAIL ahead of what is submitted and no further than the ring is accepted, TAIL behind is ignored
without error, TAIL beyond the ring is ignored with ERR_DB and a corrected DOORBELL named to the slice; on a queue the slice does not
hold, that is not enabled, or whose slice's function is not presented, and after a fatal fault of the unit, the write gets an error
response and nothing changes. The same for management queues. FAB_Q_RING: a write that enables a management queue clears its pointers and
CDONE and stores the ring; one whose LOG2 is over 12, or that changes an enabled queue's ring, gets an error response; one that clears EN
stops the queue, and while descriptors it ended are still to be taken the queue is not enabled again (log entry 142). -/
def Obligations.DoorbellsAndRingsFeedQueues : Prop :=
  (
    (∀ (h : Hub) (q tail : Nat) (so : Option Nat), q < 65536 → tail < 2 ^ 32 →
      let d := (tail + 2 ^ 32 - h.fld (rFAB_Q_PTR q) fFAB_Q_PTR_HEAD) % 2 ^ 32
      (h.submitted q < d → d ≤ h.qN q → (h.ring q so tail).fld (rFAB_Q_PTR q) fFAB_Q_PTR_TAIL = tail ∧ (h.ring q so tail).submitted q = d ∧
        (h.ring q so tail).fld (rFAB_Q_PTR q) fFAB_Q_PTR_HEAD = h.fld (rFAB_Q_PTR q) fFAB_Q_PTR_HEAD ∧
        (h.ring q so tail).out = .regOk :: h.out ∧ ∀ a, a ≠ rFAB_Q_PTR q → (h.ring q so tail).reg a = h.reg a) ∧
      (d ≤ h.submitted q → d ≤ h.qN q → h.ring q so tail = h.regOk) ∧
      (h.qN q < d → (h.ring q so tail).flag (rFAB_Q_STS q) fFAB_Q_STS_ERR_DB = true ∧ (h.ring q so tail).submitted q = h.submitted q ∧
        (h.ring q so tail).fcol.msgs.map (fun m => (m.kind, m.cls, m.slice)) =
          h.fcol.msgs.map (fun m => (m.kind, m.cls, m.slice)) ++ [(kDOORBELL, clsCorrected, so)])) ∧
    (∀ (s : State) (o : Origin) (sl : SliceId) (v : Word), s.hub.sliceActs o sl →
      (s.hub.queueOwner (vFld v fFAB_DOORBELL_QUEUE) = some sl.val → s.hub.active sl = true →
        s.hub.flag (rFAB_Q_RING (vFld v fFAB_DOORBELL_QUEUE)) fFAB_Q_RING_EN = true →
        s.hub.presented (s.hub.slD sl).vfPort (s.hub.slD sl).vfIndex = true → s.hub.stoppedInst uFAB 0 = false → exec (.doorbell o sl v) s = .next (s.withHub
          (s.hub.ring (vFld v fFAB_DOORBELL_QUEUE) (some sl.val) (vFld v fFAB_DOORBELL_TAIL)))) ∧
      (s.hub.queueOwner (vFld v fFAB_DOORBELL_QUEUE) ≠ some sl.val ∨ s.hub.active sl = false ∨
        s.hub.flag (rFAB_Q_RING (vFld v fFAB_DOORBELL_QUEUE)) fFAB_Q_RING_EN = false ∨
        s.hub.presented (s.hub.slD sl).vfPort (s.hub.slD sl).vfIndex = false ∨ s.hub.stoppedInst uFAB 0 = true →
        exec (.doorbell o sl v) s = .next (s.withHub s.hub.regErr))) ∧
    (∀ (s : State) (o : Origin) (v : Word), s.hub.mgrActs o →
      (s.hub.queueOwner (vFld v fFAB_MDOORBELL_QUEUE) = none → s.hub.flag (rFAB_Q_RING (vFld v fFAB_MDOORBELL_QUEUE)) fFAB_Q_RING_EN = true →
        s.hub.stoppedInst uFAB 0 = false → ∃ qs, exec (.managementDoorbell o v) s = .next (s.withHub
          (({ s.hub with queues := qs } : Hub).ring (vFld v fFAB_MDOORBELL_QUEUE) none (vFld v fFAB_MDOORBELL_TAIL)))) ∧
      (s.hub.queueOwner (vFld v fFAB_MDOORBELL_QUEUE) ≠ none ∨ s.hub.flag (rFAB_Q_RING (vFld v fFAB_MDOORBELL_QUEUE)) fFAB_Q_RING_EN = false ∨
        s.hub.stoppedInst uFAB 0 = true → exec (.managementDoorbell o v) s = .next (s.withHub s.hub.regErr)))) ∧
  (
    ∀ (s : State) (o : Origin) (q : QueueId) (v : Word), s.hub.mgrActs o →
      (12 < vFld v fFAB_Q_RING_LOG2 → exec (.queueRingWrite o q v) s = .next (s.withHub s.hub.regErr)) ∧
      (s.hub.flag (rFAB_Q_RING q) fFAB_Q_RING_EN = true →
        s.hub.changes (rFAB_Q_RING q) [fFAB_Q_RING_CTX, fFAB_Q_RING_LOG2, fFAB_Q_RING_BASE] v = true →
        exec (.queueRingWrite o q v) s = .next (s.withHub s.hub.regErr)) ∧
      (s.hub.flag (rFAB_Q_RING q) fFAB_Q_RING_EN = false → vFlag v fFAB_Q_RING_EN = true → vFld v fFAB_Q_RING_LOG2 ≤ 12 →
        s.hub.queueOwner q = none → (s.hub.qrt q).cut.2 = 0 → ∃ t, exec (.queueRingWrite o q v) s = .next t ∧
          t.hub.flag (rFAB_Q_RING q) fFAB_Q_RING_EN = true ∧ t.hub.fld (rFAB_Q_RING q) fFAB_Q_RING_LOG2 = vFld v fFAB_Q_RING_LOG2 ∧
          t.hub.fld (rFAB_Q_RING q) fFAB_Q_RING_BASE = vFld v fFAB_Q_RING_BASE ∧ t.hub.reg (rFAB_Q_PTR q) = 0 ∧
          t.hub.fld (rFAB_Q_STS q) fFAB_Q_STS_CDONE = 0 ∧ t.hub.hbm = s.hub.hbm ∧ t.hub.items = s.hub.items ∧
          ∀ a, a ≠ rFAB_Q_RING q → a ≠ rFAB_Q_PTR q → a ≠ rFAB_Q_STS q → t.hub.reg a = s.hub.reg a) ∧
      (s.hub.flag (rFAB_Q_RING q) fFAB_Q_RING_EN = false → vFlag v fFAB_Q_RING_EN = true → vFld v fFAB_Q_RING_LOG2 ≤ 12 →
        0 < (s.hub.qrt q).cut.2 → exec (.queueRingWrite o q v) s = .next s) ∧
      (s.hub.flag (rFAB_Q_RING q) fFAB_Q_RING_EN = true → vFlag v fFAB_Q_RING_EN = false → vFld v fFAB_Q_RING_LOG2 ≤ 12 →
        s.hub.changes (rFAB_Q_RING q) [fFAB_Q_RING_CTX, fFAB_Q_RING_LOG2, fFAB_Q_RING_BASE] v = false →
        exec (.queueRingWrite o q v) s = .next (s.withHub (((s.hub.setF (rFAB_Q_RING q) fFAB_Q_RING_EN 0).setQrt q
          { s.hub.qrt q with stopping := true }).stopQueue q))))

/-- A queue whose turn has come takes its next descriptor; descriptors that an event ended come first. With nothing submitted, in the
halt, with the unit stopped, with its slice in FAULT, or with the command store full for its slice, it takes none. A descriptor that is
not well formed is consumed and ends BAD_DESC. A descriptor that nothing holds back starts: a FILL writes its first chunk, a COPY reads
it, or with CHECK waits for its channel; a LOAD runs; a LAUNCH arms the cells that hold its kernel; a WAITAC and a FENCE wait; a KEYLOAD
opens its blob. One that an earlier descriptor holds back stays, and one whose tag is old ends SQUASHED. -/
def Obligations.DescriptorsAreTakenAndStart : Prop :=
  (
    (∀ (s : State) (q : QueueId) (ecc : Ecc),
      (s.hub.halted = true ∨ s.hub.stoppedInst uFAB 0 = true → exec (.descriptorTake q ecc) s = .next s) ∧
      (s.hub.halted = false → s.hub.stoppedInst uFAB 0 = false → (s.hub.qrt q).broken = false →
        s.hub.queueOwner q = none ∨ (s.hub.qrt q).cring.isEmpty = false →
        (s.hub.queueOwner q = none → s.hub.submitted q ≠ 0 → (s.hub.qrt q).cut.2 = 0 → s.hub.storeMay none = true →
          exec (.descriptorTake q ecc) s = .next (s.withHub
            (({ s.hub with queueRr := mapPut s.hub.queueRr 4096 q } : Hub).takeDesc q ecc none))) ∧
        (∀ sl, s.hub.queueOwner q = some sl → s.hub.submitted q ≠ 0 → (s.hub.qrt q).cut.2 = 0 → s.hub.stateOf sl ≠ slFAULT →
          s.hub.storeMay (some sl) = true → nextAfter (mapGet s.hub.queueRr sl) (s.hub.queuesReady sl) = some q.val →
          exec (.descriptorTake q ecc) s = .next (s.withHub
            (({ s.hub with queueRr := mapPut s.hub.queueRr sl q } : Hub).takeDesc q ecc none))) ∧
        (s.hub.submitted q ≠ 0 → 0 < (s.hub.qrt q).cut.2 → exec (.descriptorTake q ecc) s = .next (s.withHub (s.hub.takeCut q ecc))) ∧
        (s.hub.submitted q = 0 → exec (.descriptorTake q ecc) s = .next s) ∧
        ((s.hub.qrt q).cut.2 = 0 → s.hub.storeMay (s.hub.queueOwner q) = false ∨
          (∃ sl, s.hub.queueOwner q = some sl ∧ s.hub.stateOf sl = slFAULT) → exec (.descriptorTake q ecc) s = .next s))) ∧
    (∀ (h : Hub) (q : Nat) (d : List Byte), h.descOk (h.queueOwner q) d = false →
      ∃ h1 : Hub, h.enterDesc q (.data d) none = h1.endItem h.nextId stBAD_DESC 0 ∧ (h1.item h.nextId).map (·.desc) = some d ∧
        h1.fld (rFAB_Q_PTR q) fFAB_Q_PTR_HEAD = (h.fld (rFAB_Q_PTR q) fFAB_Q_PTR_HEAD + 1) % 2 ^ 32)) ∧
  (
    ∀ (s : State) (i line : Nat) (t : Item) (ecc : Ecc),
      (s.hub.startsNow i opFILL t → dCheck t.desc = false → s.hub.moverMay t.slice = true →
        exec (.fill i) s = .next (s.withHub (({ s.hub with nextId := s.hub.nextId + 1 } : Hub).startChunk i { t with startNo := s.hub.nextId }))) ∧
      (s.hub.startsNow i opCOPY t → dCheck t.desc = false → s.hub.moverMay t.slice = true →
        exec (.copy i) s = .next (s.withHub (({ s.hub with nextId := s.hub.nextId + 1 } : Hub).startChunk i { t with startNo := s.hub.nextId }))) ∧
      (s.hub.startsNow i opCOPY t → dCheck t.desc = true → s.hub.moverMay t.slice = true →
        exec (.copy i) s = .next (s.withHub (({ s.hub with nextId := s.hub.nextId + 1 } : Hub).setItem i
          { t with startNo := s.hub.nextId, st := .waitChan }))) ∧
      (s.hub.startsNow i opLOAD t → exec (.load i ⟨line, ecc⟩) s = .next (s.withHub (s.hub.runLoad i line ecc t))) ∧
      (∀ sl, s.hub.startsNow i opLAUNCH t → t.slice = some sl → s.hub.kernelCells sl (dKid t.desc) ≠ [] →
        (s.hub.kernelCells sl (dKid t.desc)).any (fun c => (s.hub.cell c).busy) = false → exec (.launch i) s = .next (s.withHub
          ((s.hub.kernelCells sl (dKid t.desc)).foldl (fun h c => h.updCell c (fun x => { x with armed := some i }))
            (s.hub.setItem i { t with st := .armed, cells := s.hub.kernelCells sl (dKid t.desc), ended := [] })))) ∧
      (∀ sl, s.hub.startsNow i opLAUNCH t → t.slice = some sl → s.hub.kernelCells sl (dKid t.desc) = [] →
        exec (.launch i) s = .next (s.withHub (s.hub.endItem i stNO_KERNEL 0))) ∧
      (s.hub.startsNow i opWAITAC t → exec (.waitacDesc i) s = .next (s.withHub (s.hub.setItem i { t with st := .waiting }))) ∧
      (s.hub.startsNow i opFENCE t → exec (.fence i) s = .next (s.withHub (s.hub.setItem i { t with st := .waiting }))) ∧
      (s.hub.startsNow i opKEYLOAD t → exec (.keyload i ⟨line, ecc⟩) s = .next (s.withHub (s.hub.runKeyload i line ecc t))) ∧
      (s.hub.item i = some t → dOpcode t.desc = opFENCE → s.hub.heldBack t = true → exec (.fence i) s = .next s) ∧
      (s.hub.item i = some t → dOpcode t.desc = opFENCE → s.hub.mayStart t = true → s.hub.stale t = true →
        exec (.fence i) s = .next (s.withHub (s.hub.failItem i stSQUASHED))))

/-- Descriptors end as their work does: a WAITAC once its counter has reached TARGET, a FENCE once every earlier descriptor of its queue
has completed, a kernel once each of its cells has reached END and its stores are visible, a mover's chunk and item once every request of
it is answered; a COPY with CHECK takes its armed channel, and ends CHECK on an unarmed one or one that a fatal fault has stopped. -/
def Obligations.DescriptorsEndAsTheirWorkDoes : Prop :=
  ∀ (s : State) (i sl : Nat) (t : Item), s.hub.item i = some t → t.slice = some sl → s.hub.halted = false →
    (t.st = .waiting → dOpcode t.desc = opWAITAC →
      (s.hub.acReached sl (dAcnum t.desc) (dTarget t.desc) = true → exec (.waitacDescDone i) s = .next (s.withHub (s.hub.endItem i stDONE 0))) ∧
      (s.hub.acReached sl (dAcnum t.desc) (dTarget t.desc) = false → exec (.waitacDescDone i) s = .next s)) ∧
    (t.st = .waiting → dOpcode t.desc = opFENCE →
      (s.hub.earlierOpen t = false → exec (.fenceDone i) s = .next (s.withHub (s.hub.endItem i stDONE 0))) ∧
      (s.hub.earlierOpen t = true → exec (.fenceDone i) s = .next s)) ∧
    (t.st = .running → dOpcode t.desc = opLAUNCH → s.hub.storesDone t.cells = true →
      t.cells.all t.ended.contains = true → exec (.kernelEnd i) s = .next (s.withHub
        ((t.cells.foldl (fun h c => h.updCell c (fun x => { x with launch := if x.launch = some i then none else x.launch })) s.hub).endItem i
        stDONE (min (t.lastSheet + 1 - t.firstSheet) (2 ^ 32 - 1))))) ∧
    (t.st = .running → dOpcode t.desc = opCOPY → t.left = 0 → t.failed = none → t.pos < dLen t.desc → t.writing = false → t.taken = false →
      exec (.moverChunkDone i) s = .next (s.withHub (s.hub.issueRuns i t true (dDst t.desc + t.pos) t.chunk t.buf))) ∧
    (t.st = .running → dOpcode t.desc = opFILL → t.left = 0 → t.failed = none → t.pos + t.chunk < dLen t.desc → t.squash = none →
      s.hub.moverOver t.slice = false → exec (.moverChunkDone i) s = .next (s.withHub (s.hub.startChunk i
        { t with pos := t.pos + t.chunk, granules := (t.pos + t.chunk) / 64, writing := false, buf := [] }))) ∧
    (t.st = .running → dOpcode t.desc = opFILL → t.left = 0 → t.failed = none → dLen t.desc ≤ t.pos → t.taken = false → t.bundle = none →
      exec (.moverItemDone i) s = .next (s.withHub
        ((if dAc t.desc then s.hub.addAc sl (dAcnum t.desc) (dLen t.desc) else s.hub).endItem i stDONE t.granules))) ∧
    (t.st = .waitChan → s.hub.chanTurn sl t = true → s.hub.flag (rCKC_EXPn sl (dCkch t.desc)) fCKC_EXPn_ARM = false ∨
      s.hub.stoppedInst uCKC (dCkch t.desc) = true → exec (.checkChannelTake i) s = .next (s.withHub (s.hub.endItem i stCHECK 0))) ∧
    (t.st = .waitChan → s.hub.chanTurn sl t = true → s.hub.flag (rCKC_EXPn sl (dCkch t.desc)) fCKC_EXPn_ARM = true →
      s.hub.stoppedInst uCKC (dCkch t.desc) = false → exec (.checkChannelTake i) s = .next (s.withHub ((s.hub.setF (rCKC_RESn sl (dCkch t.desc)) fCKC_RESn_BUSY 1).startChunk i
        { t with
          taken := true
          crc := crcRun crcInit (checkSeed sl (s.hub.fld (rCKC_EXPn sl (dCkch t.desc)) fCKC_EXPn_SEQ) (dSrc t.desc)) })))

/-- Counter n has reached a target T when (value - T) mod 2^64 is less than 2^63. -/
def Obligations.CountersReachTheirTarget : Prop :=
  ∀ (h : Hub) (s n : Nat) (t : Word),
    h.acReached s n t = true ↔ ((h.reg (rFAB_AC_n s n)).toNat + 2 ^ 64 - t.toNat) % 2 ^ 64 < 2 ^ 63

/-- A write to FAB_AC_n sets the counter to the value written; one to FAB_AC_ADD raises counter NUM of the page's slice by BYTES, modulo
2^64; each changes that counter alone. CKC_EXPn is set up by the holder of a compare channel while no stream runs, and refused while one
does or on a channel the slice does not hold; CLR of CKC_APPk zeroes FAIL and LAST_SEQ alone. -/
def Obligations.CountersAndChecksAreWritten : Prop :=
  (
    ∀ (s : State) (o : Origin) (sl : SliceId) (v : Word), s.hub.sliceActs o sl →
      (∀ n : RegionId, ∃ t, exec (.arrivalCounterWrite o sl n v) s = .next t ∧ t.hub.reg (rFAB_AC_n sl n) = v ∧
        t = s.withHub { s.hub with regs := t.hub.regs, out := .regOk :: s.hub.out } ∧
        ∀ a, a ≠ rFAB_AC_n sl n → t.hub.reg a = s.hub.reg a) ∧
      (∃ t, exec (.arrivalCounterAdd o sl v) s = .next t ∧
        t.hub.reg (rFAB_AC_n sl (vFld v fFAB_AC_ADD_NUM)) =
          s.hub.reg (rFAB_AC_n sl (vFld v fFAB_AC_ADD_NUM)) + BitVec.ofNat 64 (vFld v fFAB_AC_ADD_BYTES) ∧
        t = s.withHub { s.hub with regs := t.hub.regs, out := .regOk :: s.hub.out } ∧
        ∀ a, a ≠ rFAB_AC_n sl (vFld v fFAB_AC_ADD_NUM) → t.hub.reg a = s.hub.reg a)) ∧
  (
    (∀ (s : State) (o : Origin) (sl : SliceId) (n : Fin 224) (v : Word), s.hub.sliceActs o sl →
      (s.hub.checkOwner n = some sl.val → s.hub.flag (rCKC_RESn sl n) fCKC_RESn_BUSY = false →
        s.hub.stoppedInst uCKC n = false → ∃ t, exec (.checkExpectWrite o sl n v) s = .next t ∧ t.hub.fld (rCKC_EXPn sl n) fCKC_EXPn_EXPECT = vFld v fCKC_EXPn_EXPECT ∧
          t.hub.fld (rCKC_EXPn sl n) fCKC_EXPn_SEQ = vFld v fCKC_EXPn_SEQ ∧ t.hub.fld (rCKC_EXPn sl n) fCKC_EXPn_ARM = vFld v fCKC_EXPn_ARM ∧
          t = s.withHub { s.hub with regs := t.hub.regs, out := .regOk :: s.hub.out } ∧
          ∀ a, a ≠ rCKC_EXPn sl n → t.hub.reg a = s.hub.reg a) ∧
      (s.hub.checkOwner n ≠ some sl.val ∨ s.hub.flag (rCKC_RESn sl n) fCKC_RESn_BUSY = true ∨ s.hub.stoppedInst uCKC n = true →
        exec (.checkExpectWrite o sl n v) s = .next (s.withHub s.hub.regErr))) ∧
    (∀ (s : State) (o : Origin) (k : Fin 32), s.hub.mgrActs o → ∃ t, exec (.appendChannelClr o k) s = .next t ∧
      t.hub.fld (rCKC_APPk k) fCKC_APPk_FAIL = 0 ∧ t.hub.fld (rCKC_APPk k) fCKC_APPk_LAST_SEQ = 0 ∧
      t.hub.fld (rCKC_APPk k) fCKC_APPk_NUM = s.hub.fld (rCKC_APPk k) fCKC_APPk_NUM ∧
      t = s.withHub { s.hub with regs := t.hub.regs, out := .regOk :: s.hub.out } ∧ ∀ a, a ≠ rCKC_APPk k → t.hub.reg a = s.hub.reg a))

/-! ## Host requests and memory -/

/-- A host function's request is served where its BAR leads: a register access or a memory access enters behind the function's earlier
requests; one that leads nowhere gets an error response, one whose translation fails also a corrected XLATE, and a function that is not
there sends none. A read of a register with nothing before it completes with the register's bytes, or as an Unsupported Request, and a
write of one takes its effect. An access whose page entry cannot be read yet waits (the model's choice, log entry 137). An AtomicOp of a
host function that is not of 64 aligned bits, or that leads to a register, gets an Unsupported Request completion; one that leads to HBM
or a cell window enters as an atomic of the kind that R238 gives. -/
def Obligations.HostRequestsGoWhereTheirBarLeads : Prop :=
  (
    ∀ (s : State) (fn : HostFn) (walk : List Word) (ecc : Ecc) (h : Hub),
      (s.hub.fnThere fn = false → ∀ op, exec (.hostRequest fn op walk ecc) s = .next s) ∧
      (s.hub.fnThere fn = true → ∀ bar off len, 0 < len → off % 4096 + len ≤ 4096 →
        (s.hub.hostWhere fn bar off .read walk ecc = (.refused, h) → exec (.hostRequest fn (.read bar off len) walk ecc) s =
          .next (s.withHub (h.emit (.hostUR fn)))) ∧
        (∀ sl c, s.hub.hostWhere fn bar off .read walk ecc = (.xlate sl c, h) → exec (.hostRequest fn (.read bar off len) walk ecc) s =
          .next (s.withHub ((h.emit (.hostUR fn)).fault
            { source := srcOf uHTU 0, kind := kXLATE, cls := clsCorrected, slice := some sl, ctx := some c }))) ∧
        (s.hub.hostWhere fn bar off .read walk ecc = (.blocked, h) → exec (.hostRequest fn (.read bar off len) walk ecc) s =
          .next (s.withHub h)) ∧
        (∀ a d, h.reqs = [] → s.hub.hostWhere fn bar off .read walk ecc = (.register a, h) →
          readBytes s.fuses { h with nextId := h.nextId + 1 } (fnOrigin fn) a len = some d →
          exec (.hostRequest fn (.read bar off len) walk ecc) s =
            .next (s.withHub (({ h with nextId := h.nextId + 1 } : Hub).emit (.hostDone fn d)))) ∧
        (∀ a, h.reqs = [] → s.hub.hostWhere fn bar off .read walk ecc = (.register a, h) →
          readBytes s.fuses { h with nextId := h.nextId + 1 } (fnOrigin fn) a len = none →
          exec (.hostRequest fn (.read bar off len) walk ecc) s =
            .next (s.withHub (({ h with nextId := h.nextId + 1 } : Hub).emit (.hostUR fn))))) ∧
      (s.hub.fnThere fn = true → ∀ bar off (bs : List Byte) relaxed pa sl c (m : Bool), 0 < bs.length → off % 4096 + bs.length ≤ 4096 →
        (s.hub.hostWhere fn bar off .write walk ecc = (.refused, h) → exec (.hostRequest fn (.write bar off bs relaxed) walk ecc) s =
          .next (s.withHub (h.emit (.aer fn)))) ∧
        (∀ a, h.reqs = [] → s.hub.hostWhere fn bar off .write walk ecc = (.register a, h) → bs.length = 8 ∨ bs.length = 4 →
          (writeReg s.fuses { h with nextId := h.nextId + 1 } (fnOrigin fn) a (if bs.length = 8 then .w64 else .w32)
            (BitVec.ofNat 64 (leNat bs))).2.out = .regOk :: h.out →
          ∃ t, exec (.hostRequest fn (.write bar off bs relaxed) walk ecc) s = .next t ∧
            (t.fuses, t.hub) = writeReg s.fuses { h with nextId := h.nextId + 1 } (fnOrigin fn) a (if bs.length = 8 then .w64 else .w32)
              (BitVec.ofNat 64 (leNat bs))) ∧
        (s.hub.hostWhere fn bar off .write walk ecc = (.memory pa sl c m, h) → h.beatsOnly pa = false →
          ∃ t, exec (.hostRequest fn (.write bar off bs relaxed) walk ecc) s = .next t ∧
            (t.fuses, t.hub) = hostPump s.fuses (h.enterHost
              { src := .host fn, kind := .write, len := bs.length, data := bs, relaxed := relaxed,
                cls := 3, pa := pa, slice := sl, ctx := c, mgmt := m, gen := if m then 0 else h.gen (ctxid sl c) })))) ∧
  (
    ∀ (s : State) (fn : HostFn) (k : HostAtomic) (bar off size : Nat) (opd cmp : Word) (walk : List Word) (ecc : Ecc) (h : Hub),
      s.hub.fnThere fn = true →
      (size ≠ 8 ∨ off % 8 ≠ 0 → exec (.hostAtomicop fn k bar off size opd cmp walk ecc) s = .next (s.withHub (s.hub.emit (.hostUR fn)))) ∧
      (∀ a, size = 8 → off % 8 = 0 → s.hub.hostWhere fn bar off (.atomic (hostAop k) opd cmp) walk ecc = (.register a, h) →
        exec (.hostAtomicop fn k bar off size opd cmp walk ecc) s = .next (s.withHub (h.emit (.hostUR fn)))) ∧
      (∀ pa sl c (m : Bool), size = 8 → off % 8 = 0 →
        s.hub.hostWhere fn bar off (.atomic (hostAop k) opd cmp) walk ecc = (.memory pa sl c m, h) →
        ¬ (SITE_BASE ≤ pa % 2 ^ 42 ∧ pa % 2 ^ 42 < SITE_END) → ∃ t, exec (.hostAtomicop fn k bar off size opd cmp walk ecc) s = .next t ∧
          (t.fuses, t.hub) = hostPump s.fuses (h.newReq
            { src := .host fn, kind := .atomic (hostAop k) opd cmp, len := 8, cls := 3,
              pa := pa, slice := sl, ctx := c, mgmt := m, stage := .held, gen := if m then 0 else h.gen (ctxid sl c),
              hostNo := h.nextId + 1 }).2) ∧
      (k = .fetchAdd → atomicNew (hostAop k) opd cmp opd = some (opd + cmp)) ∧ (k = .swap → atomicNew (hostAop k) opd cmp opd = some cmp))

/-- HBM that is not sealed: bytes written within a line read back, every other byte reads as before, and the line leaves its channel's
lost-line list. -/
def Obligations.MemoryReadsBackWhatWasWritten : Prop :=
  ∀ (h : Hub) (w : Payer) (a : Nat) (bs : List Byte), h.regionOf a = none → a % 64 + bs.length ≤ 64 →
    (∀ k, (hk : k < bs.length) → (h.hbmPutLine w a bs).hbmByte (a + k) = bs[k]) ∧
    (∀ b, b < a ∨ a + bs.length ≤ b → (h.hbmPutLine w a bs).hbmByte b = h.hbmByte b) ∧
    h.hbmPutLine w a bs = ({ h with hbm := (h.hbmPutLine w a bs).hbm } : Hub).unloseAt a

/-- A request at its controller: one that the owner map refuses is recorded and fails, one for a channel that is retired or absent, or at
a stopped controller, fails, any other joins its master's queue; one with bad parity fails. In the halt, before it is on its way, while it
stands in a crossing FIFO, and behind an earlier request of its source to the same granules, nothing happens. A channel's slot serves one
piece of the request picked: a read of a line takes its bytes, a write puts them. With nothing that may be picked, in the halt, on a
channel that is not active, and while a key sweep wants the slot, no request is served. -/
def Obligations.ControllersServeTheirChannels : Prop :=
  (
    ∀ (s : State) (i : Nat) (q : Req), s.hub.req i = some q → q.stage = .flight → s.hub.halted = false →
      (s.hub.crossing i = true ∨ s.hub.behind i q 0 (q.len - 1) Req.coming = true → exec (.hbmRequestArrive ⟨i, true⟩) s = .next s) ∧
      (s.hub.crossing i = false → exec (.hbmRequestArrive ⟨i, false⟩) s = .next (s.withHub (s.hub.parityFail i))) ∧
      (s.hub.crossing i = false → s.hub.behind i q 0 (q.len - 1) Req.coming = false →
        (s.hub.ownerOk q.mgmt q.slice (q.pa % 2 ^ 42 / GRAN) = false → exec (.hbmRequestArrive ⟨i, true⟩) s = .next (s.withHub
          ((s.hub.violation (s.hub.ctrlOf (q.pa % 2 ^ 42)) (q.pa % 2 ^ 42) q.mgmt (decide (q.hdr ≠ [])) (ctxid q.slice q.ctx)).failAtMem i q
            fsACCESS kACCESS))) ∧
        (∀ ch off, s.hub.ownerOk q.mgmt q.slice (q.pa % 2 ^ 42 / GRAN) = true → s.hub.decode (q.pa % 2 ^ 42) = some (ch, off) →
          (s.hub.chState ch = chRETIRED ∨ s.hub.chState ch = chABSENT ∨ s.hub.stoppedInst uMEM (ch / 32) = true →
            exec (.hbmRequestArrive ⟨i, true⟩) s = .next (s.withHub (s.hub.failAtMem i q fsMEMORY kMEM_CHANNEL))) ∧
          (s.hub.chState ch ≠ chRETIRED → s.hub.chState ch ≠ chABSENT → s.hub.stoppedInst uMEM (ch / 32) = false →
            exec (.hbmRequestArrive ⟨i, true⟩) s = .next (s.withHub ((s.hub.setReq i { q with stage := .queued }).setChan ch
              { s.hub.chan ch with queues := mapPut (s.hub.chan ch).queues q.master (mapGetD (s.hub.chan ch).queues q.master [] ++ [i]) }))))) ∧
      (∀ (h : Hub) (ctrl a cid : Nat) (mgmt remote : Bool), h.flag (rMEM_VIOL_INFOn ctrl) fMEM_VIOL_INFOn_VALID = true →
        (h.violation ctrl a mgmt remote cid).reg (rMEM_VIOL_ADDRn ctrl) = h.reg (rMEM_VIOL_ADDRn ctrl))) ∧
  (
    (∀ (s : State) (ch : ChanId) (n : Nat) (ecc : Ecc),
      (s.hub.halted = true ∨ s.hub.chState ch ≠ chACTIVE ∨ s.hub.sweepWants ch = true ∨ s.hub.pickMaster ch = none →
        exec (.channelCommandSlot ch n ecc) s = .next s) ∧
      (∀ k paid ds i q, s.hub.halted = false → s.hub.chState ch = chACTIVE → s.hub.sweepWants ch = false →
        s.hub.pickMaster ch = some (k, paid, ds) → (s.hub.heads ch).find? (fun e => e.1 == k) = some (k, i, q) →
        (q.admitted = true → exec (.channelCommandSlot ch n ecc) s = .next (s.withHub (s.hub.servePiece ch i q n ecc))) ∧
        (q.admitted = false → exec (.channelCommandSlot ch n ecc) s = .next (s.withHub
          ((((s.hub.updChan ch (fun x => { x with rr := k, deficits := ds })).charge ch k paid).setReq i
            { q with admitted := true, since := s.hub.now }).servePiece ch i { q with admitted := true, since := s.hub.now } n ecc))))) ∧
    (∀ (h : Hub) (q : Req) (off m : Nat), q.kind = .read → h.applyPiece q off m =
      ({ q with data := patch (if q.data = [] then zeros q.len else q.data) off (h.hbmGet (q.pa % 2 ^ 42 + off) m) }, h)) ∧
    (∀ (h : Hub) (q : Req) (off m : Nat), q.kind = .write →
      h.applyPiece q off m = (q, h.hbmPutLine q.payer (q.pa % 2 ^ 42 + off) (sub q.data off m))))

/-- A cell window is served granule by granule by its own slice where the array is in service, behind what the request's source sent there
before; an access by another slice fails; one to an array in its self-test waits; and a request past its meter that has had no reply
within the watchdog's limit fails with FAB_TO. -/
def Obligations.CellWindowsAnswerTheirSlice : Prop :=
  ∀ (s : State) (i g : Nat) (q : Req) (c off : Nat), s.hub.req i = some q → q.stage = .window → windowOf (q.pa % 2 ^ 42) = some (c, off) →
    s.hub.halted = false →
    (s.hub.windowSays q.mgmt q.slice c off (isWrite q.kind) = .served → ∀ p o n, q.pickPiece g = some p → q.pieces.getD p (0, 0) = (o, n) →
      (s.hub.behind i q o (o + n - 1) Req.open_ = false → exec (.cellWindowAccess i ⟨g, .clean⟩) s = .next (s.withHub (s.hub.windowPiece i q c off p))) ∧
      (s.hub.behind i q o (o + n - 1) Req.open_ = true → exec (.cellWindowAccess i ⟨g, .clean⟩) s = .next s)) ∧
    (s.hub.windowSays q.mgmt q.slice c off (isWrite q.kind) = .waits → ∀ z, exec (.cellWindowAccess i ⟨g, z⟩) s = .next s) ∧
    (s.hub.windowSays q.mgmt q.slice c off (isWrite q.kind) = .refused →
      ∀ z, exec (.cellWindowAccess i ⟨g, z⟩) s = .next (s.withHub (s.hub.failAtArr i q c))) ∧
    (s.hub.cellOwner c ≠ some q.slice → q.mgmt = false → s.hub.windowSays q.mgmt q.slice c off (isWrite q.kind) = .refused) ∧
    (q.hdr = [] → q.since + s.hub.fabLimit ≤ s.hub.now → (∀ j o, q.src ≠ .item j o) → exec (.fabTimeout i) s = .next (s.withHub
      (((s.hub.leaveQueue i q).failReq i fsTIMEOUT kFAB_TO uFAB 0).count rWDG_STS fWDG_STS_FAB_EXPIRED 1))) ∧
    (∀ j o, q.hdr = [] → q.since + s.hub.fabLimit ≤ s.hub.now → q.src = .item j o → q.mgmt = false → exec (.fabTimeout i) s = .next (s.withHub
      ((((s.hub.leaveQueue i q).failReq i fsTIMEOUT kFAB_TO uFAB 0).count rWDG_STS fWDG_STS_FAB_EXPIRED 1).faultR uFAB 0 kFAB_TO clsContained
        q.slice q.ctx (q.pa % 2 ^ 42) 0))) ∧
    (s.hub.now < q.since + s.hub.fabLimit → exec (.fabTimeout i) s = .next s)

/-- METER_WINDOW completes in every state: every master gets the credit of its guarantee and its weight for the window that begins, what
was left is lost, and nothing else changes. METER_EVALUATION completes in every state: each channel's AVAIL is taken, and each group's
factor is computed, and SCALE with it. -/
def Obligations.MetersGiveCreditAndFactors : Prop :=
  (∀ s : State, ∃ t, exec .meterWindow s = .next t ∧
    t = s.withHub { s.hub with credits := t.hub.credits, weights := t.hub.weights, sweepBytes := [] } ∧
    ((s.hub.forme.slices.map (·.1)).Nodup → (s.hub.forme.igroups.map (·.igrp)).Nodup → (∀ e ∈ s.hub.forme.slices, e.1 < 4096) →
      ∀ e ∈ s.hub.forme.slices, ∀ m, m < 4 → mapGetD t.hub.weights (e.1 * 4 + m) 0 = (e.2.meters.getD m {}).weight ∧
        ∀ g ∈ s.hub.forme.igroups, s.hub.stoppedInst uMTR g.igrp = false →
          mapGetD t.hub.credits (g.igrp * 16384 + (e.1 * 4 + m)) 0 = s.hub.windowCredit e.2 g.igrp m)) ∧
  (∀ (s : State) (avail : List Nat), ∃ (t : State) (h : Hub), exec (.meterEvaluation avail) s = .next t ∧
    t = s.withHub (h.forme.igroups.foldl (fun h g => h.evalGroup g) h).updateScales ∧ h = { s.hub with regs := h.regs } ∧
    ∀ ch : ChanId, s.hub.chState ch ≠ chABSENT → h.fld (rMEM_CH_STS ch) fMEM_CH_STS_AVAIL = min 256 (avail.getD ch 256))

/-- The channel commands complete: RETRAIN of an active channel, written or the controller's own, its end, RETIRE of a channel in service,
and CLR of its error counts. -/
def Obligations.ChannelsAreManaged : Prop :=
  (∀ (s : State) (o : Origin) (ch : ChanId), s.hub.mgrActs o →
    (s.hub.chState ch = chACTIVE → ∃ t, exec (.channelRetrain (some o) ch) s = .next t ∧ t.hub.chState ch = chRETRAINING ∧
      t.hub.fld (rMEM_CH_STS ch) fMEM_CH_STS_RETRAINS = min (s.hub.fld (rMEM_CH_STS ch) fMEM_CH_STS_RETRAINS + 1) 65535 ∧
      t = s.withHub { s.hub with regs := t.hub.regs, out := .regOk :: s.hub.out } ∧
      ∀ a, a ≠ rMEM_CH_STS ch → t.hub.reg a = s.hub.reg a) ∧
    (s.hub.chState ch ≠ chRETIRED → s.hub.chState ch ≠ chABSENT → ∃ t, exec (.channelRetire o ch) s = .next t ∧
      t = s.withHub (s.hub.regOk.retireChan ch) ∧
      (s.hub.forme.slices = [] → (s.hub.chan ch).queues = [] → t.hub.chState ch = chRETIRED ∧ t.hub.fld (rMEM_CH_STS ch) fMEM_CH_STS_AVAIL = 0 ∧
        t.hub.hbm = s.hub.hbm ∧ ∀ a, a ≠ rMEM_CH_STS ch → t.hub.reg a = s.hub.reg a)) ∧
    (∃ t, exec (.channelEccClr o ch) s = .next t ∧ t.hub.fld (rMEM_CH_ECC ch) fMEM_CH_ECC_CORR = 0 ∧
      t.hub.fld (rMEM_CH_ECC ch) fMEM_CH_ECC_UNCORR = 0 ∧
      t.hub.fld (rMEM_CH_ECC ch) fMEM_CH_ECC_LOST = s.hub.fld (rMEM_CH_ECC ch) fMEM_CH_ECC_LOST ∧
      t = s.withHub { s.hub with regs := t.hub.regs, out := .regOk :: s.hub.out } ∧ ∀ a, a ≠ rMEM_CH_ECC ch → t.hub.reg a = s.hub.reg a)) ∧
  (∀ (s : State) (ch : ChanId),
    (s.hub.chState ch = chACTIVE → ∃ t, exec (.channelRetrain none ch) s = .next t ∧ t.hub.chState ch = chRETRAINING ∧
      t.hub.fld (rMEM_CH_STS ch) fMEM_CH_STS_RETRAINS = min (s.hub.fld (rMEM_CH_STS ch) fMEM_CH_STS_RETRAINS + 1) 65535 ∧
      ∀ a, a ≠ rMEM_CH_STS ch → t.hub.reg a = s.hub.reg a) ∧
    (s.hub.chState ch ≠ chACTIVE → exec (.channelRetrain none ch) s = .next s)) ∧
  (∀ (s : State) (ch : ChanId), s.hub.chState ch = chRETRAINING →
    (∃ t, exec (.channelRetrainDone ch true) s = .next t ∧ t.hub.chState ch = chACTIVE ∧ (t.hub.chan ch).trainFails = 0 ∧
      ∀ a, a ≠ rMEM_CH_STS ch → t.hub.reg a = s.hub.reg a) ∧
    ((s.hub.chan ch).trainFails < 2 → ∃ t, exec (.channelRetrainDone ch false) s = .next t ∧ t.hub.chState ch = chRETRAINING ∧
      (t.hub.chan ch).trainFails = (s.hub.chan ch).trainFails + 1) ∧
    (2 ≤ (s.hub.chan ch).trainFails → ∃ t, exec (.channelRetrainDone ch false) s = .next t ∧ t = s.withHub (s.hub.retireChan ch)))

/-- Temperatures: a stack's reading is shown and its 32 channels take its throttle step, at least 2 while the junction is too hot; a stack
that enters step 2 or 3 raises HBM_HOT; a junction that passes 115 degrees raises a fatal THERM_TRIP and stops every cell where it stands.
Patrol, row repair and the traffic generators: a patrol read whose turn has come and that is uncorrectable raises MEM_UE_PATROL; a remap
runs one at a time, on an active channel, and its end makes an entry; a row with enough corrected errors is remapped by itself; a
generator runs on a free channel and ends with what its checker found. -/
def Obligations.HeatAndFaultyRowsAreHandled : Prop :=
  (
    (∀ (s : State) (n : LinkId) (temp : Nat), s.hub.flag (rMEM_STKn n) fMEM_STKn_PRESENT = true → temp < 256 →
      ∃ t, exec (.stackTempRead n temp) s = .next t ∧ t.hub.fld (rMEM_STKn n) fMEM_STKn_TEMP = temp ∧
        t.hub.stackStep n = throttleStep temp (s.hub.stackStep n) ∧
        (∀ i, i < 32 → t.hub.fld (rMEM_CH_STS (32 * n + i)) fMEM_CH_STS_THROTTLE =
          max (throttleStep temp (s.hub.stackStep n)) (if s.hub.junctionHot then 2 else 0)) ∧
        t.hub.fcol.msgs = s.hub.fcol.msgs ++ (if 2 ≤ throttleStep temp (s.hub.stackStep n) ∧ s.hub.stackStep n < throttleStep temp (s.hub.stackStep n)
          then [{ source := srcOf uMEM n, kind := kHBM_HOT, cls := clsCorrected, slice := none }] else []) ∧
        t.hub.cells = s.hub.cells ∧ t.hub.hbm = s.hub.hbm) ∧
    (∀ (s : State) (n : LinkId) (temp : Nat), s.hub.flag (rMEM_STKn n) fMEM_STKn_PRESENT = false → exec (.stackTempRead n temp) s = .next s) ∧
    (∀ temp cur, (105 ≤ temp → throttleStep temp cur = 3) ∧ (temp < 82 → throttleStep temp cur = 0) ∧
      (temp < 105 → 95 ≤ temp → cur ≤ 2 → throttleStep temp cur = 2) ∧ (temp < 95 → 85 ≤ temp → cur ≤ 1 → throttleStep temp cur = 1) ∧
      (temp < 105 → 102 ≤ temp → 3 ≤ cur → throttleStep temp cur = 3) ∧ (temp < 95 → 92 ≤ temp → 2 ≤ cur → throttleStep temp cur = 2) ∧
      (temp < 85 → 82 ≤ temp → 1 ≤ cur → throttleStep temp cur = 1)) ∧
    (∀ (s : State) (n deg : Nat), n < 4096 → mapGetD s.hub.sensors n 0 < 115 → 115 ≤ deg →
      ∃ t, exec (.junctionSensorReading n deg) s = .next t ∧ mapGetD t.hub.sensors n 0 = deg ∧
        (∃ m ∈ t.hub.fcol.msgs, m.kind = kTHERM_TRIP ∧ m.cls = clsFatal ∧ m.slice = none) ∧
        ∀ e ∈ t.hub.cells, e.2.run ≠ .running ∧ e.2.run ≠ .atSheet) ∧
    (∀ (s : State) (n deg : Nat), n < 4096 → mapGetD s.hub.sensors n 0 ≤ deg → deg ≤ 100 →
      ∃ t, exec (.junctionSensorReading n deg) s = .next t ∧ mapGetD t.hub.sensors n 0 = deg ∧ t.hub.fcol = s.hub.fcol ∧ t.hub.cells = s.hub.cells)) ∧
  (
    (∀ (s : State) (ch : ChanId) (line : Nat), s.hub.halted = false → s.hub.chState ch = chACTIVE → line < 25165824 →
      s.hub.patrolDue ch = true → s.hub.stoppedInst uMEM (ch.val / 32) = false →
      (∃ m, exec (.patrolRead ch line .uncorrected) s = .next (s.withHub
        ((((s.hub.updChan ch (fun x => { x with patrolAt := some s.hub.now })).countUE ch (64 * line)).served (ch / 32) 13 64).fault m)) ∧ m.kind = kMEM_UE_PATROL ∧ m.cls = clsCorrected) ∧
      ((s.hub.chan ch).lost.contains line = false → exec (.patrolRead ch line .clean) s =
        .next (s.withHub ((s.hub.updChan ch (fun x => { x with patrolAt := some s.hub.now })).served (ch / 32) 13 64)))) ∧
    (∀ (s : State) (ch : ChanId) (line : Nat) (ecc : Ecc), s.hub.patrolDue ch = false → exec (.patrolRead ch line ecc) s = .next s) ∧
    (∀ (s : State) (o : Origin) (v : Word), s.hub.mgrActs o →
      (s.hub.remapJob = none → v.toNat % 1024 < 768 → s.hub.chState (v.toNat % 1024) = chACTIVE → ∃ t, exec (.rowRemap o v) s = .next t ∧
        t.hub.remapJob = some (v.toNat % 2 ^ 33, false) ∧ t.hub.flag rMEM_REMAP_CMD fMEM_REMAP_CMD_BUSY = true ∧
        ∀ a, a ≠ rMEM_REMAP_CMD → t.hub.reg a = s.hub.reg a) ∧
      (s.hub.remapJob.isSome = true → exec (.rowRemap o v) s = .next (s.withHub s.hub.regErr))) ∧
    (∀ (s : State) (ch : ChanId) (pc : Fin 2) (bank : RegionId) (row : QueueId), s.hub.remapJob = none → s.hub.chState ch = chACTIVE →
      let r := pc.val + bank.val * 2 + row.val * 128
      (65536 ≤ mapGetD (s.hub.chan ch).rows r 0 → ∃ t, exec (.repairCandidateRemap ch pc bank row) s = .next t ∧
        t.hub.remapJob = some (ch.val + r * 1024, true) ∧ mapGet (t.hub.chan ch).rows r = none) ∧
      (mapGetD (s.hub.chan ch).rows r 0 < 65536 → mapGetD (s.hub.chan ch).rows r 0 < s.hub.fld rMEM_ECC_CFG fMEM_ECC_CFG_ROW_CE_THR →
        exec (.repairCandidateRemap ch pc bank row) s = .next s)) ∧
    (∀ (s : State) (row i : Nat) (auto : Bool), s.hub.remapJob = some (row, auto) → row < 2 ^ 33 → i < 8192 →
      (List.range 8192).find? (fun i => decide (s.hub.fld (rMEM_REMAPi i) fMEM_REMAPi_STATE = 0)) = some i →
      (s.hub.chan (row % 1024)).lost.length ≤ 64 → s.hub.bankBusy (row % 1024) (row / 1024 % 128) = false → ∃ t, exec (.rowRemapDone 0 []) s = .next t ∧ t.hub.remapJob = none ∧
        t.hub.flag rMEM_REMAP_CMD fMEM_REMAP_CMD_BUSY = false ∧ t.hub.fld rMEM_REMAP_CMD fMEM_REMAP_CMD_RESULT = 0 ∧
        t.hub.fld (rMEM_REMAPi i) fMEM_REMAPi_ROWADDR = row ∧ t.hub.fld (rMEM_REMAPi i) fMEM_REMAPi_STATE = 1 ∧
        t.hub.flag (rMEM_REMAPi i) fMEM_REMAPi_AUTO = auto) ∧
    (∀ (s : State) (o : Origin) (ch : ChanId) (v : Word), s.hub.mgrActs o →
      (s.hub.chState ch = chACTIVE → s.hub.chanInUse ch = false → s.hub.flag (rMEM_TG_CTL ch) fMEM_TG_CTL_BUSY = false →
        vFld v fMEM_TG_CTL_MODE ≠ 3 → vFld v fMEM_TG_CTL_PATTERN ≤ 4 → 0 < s.hub.fld (rMEM_TG_RANGE ch) fMEM_TG_RANGE_LINES →
        s.hub.fld (rMEM_TG_RANGE ch) fMEM_TG_RANGE_FIRST + s.hub.fld (rMEM_TG_RANGE ch) fMEM_TG_RANGE_LINES ≤ 25165824 →
        ∃ t, exec (.trafficGeneratorGo o ch v) s = .next t ∧ t.hub.flag (rMEM_TG_CTL ch) fMEM_TG_CTL_BUSY = true ∧
          t.hub.fld (rMEM_TG_CTL ch) fMEM_TG_CTL_MODE = vFld v fMEM_TG_CTL_MODE ∧ t.hub.hbm = s.hub.hbm ∧
          ∀ a, a ≠ rMEM_TG_CTL ch → t.hub.reg a = s.hub.reg a) ∧
      (s.hub.chanInUse ch = true → exec (.trafficGeneratorGo o ch v) s = .next (s.withHub s.hub.regErr)) ∧
      (∃ t, exec (.trafficGeneratorStop o ch) s = .next t ∧ t.hub.flag (rMEM_TG_CTL ch) fMEM_TG_CTL_BUSY = false ∧
        (s.hub.flag (rMEM_TG_CTL ch) fMEM_TG_CTL_BUSY = false → t.hub.hbm = s.hub.hbm ∧ ∀ a, a ≠ rMEM_TG_CTL ch → t.hub.reg a = s.hub.reg a))) ∧
    (∀ (s : State) (ch : ChanId) (n first : Nat) (lanes : Word), s.hub.flag (rMEM_TG_CTL ch) fMEM_TG_CTL_BUSY = true → s.hub.halted = false →
      s.hub.fld (rMEM_TG_CTL ch) fMEM_TG_CTL_MODE = 2 → s.hub.flag (rMEM_TG_CTL ch) fMEM_TG_CTL_LOOP = false → 0 < n → n < 2 ^ 32 → first < 2 ^ 25 →
      ∃ t, exec (.trafficGeneratorPassDone ch n first lanes) s = .next t ∧ t.hub.flag (rMEM_TG_CTL ch) fMEM_TG_CTL_BUSY = false ∧
        t.hub.flag (rMEM_TG_CTL ch) fMEM_TG_CTL_DONE = true ∧ t.hub.flag (rMEM_TG_CTL ch) fMEM_TG_CTL_FAIL = true ∧
        t.hub.fld (rMEM_TG_RES ch) fMEM_TG_RES_FAIL_LINES = n ∧ t.hub.fld (rMEM_TG_RES ch) fMEM_TG_RES_FIRST_FAIL = first ∧
        t.hub.reg (rMEM_TG_LANES ch) = lanes ∧ t.hub.hbm = s.hub.hbm))

/-! ## Translation -/

/-- The fault ring: an answer RETRY or FAIL goes to the unanswered entry that holds the number, and is ignored where none does; an entry
older than TIMEOUT is answered FAIL with a corrected XLATE_TIMEOUT; CONS moves and faults that wait are written; the base moves only while
EN is 0, inside the slice's granules; TIMEOUT over 10,000 is refused, setting EN zeroes the pointers and writes the faults that wait, and
a virtual function reaches FULL alone. -/
def Obligations.TranslationFaultsAreAnswered : Prop :=
  ∀ (s : State) (o : Origin) (sl : SliceId) (v : Word),
    (s.hub.sliceActs o sl →
      (∀ x, s.hub.xfaults.find? (fun x => decide (x.slice = sl.val) && decide (x.fid = some (vFld v fHTU_FQ_RESP_FAULT_ID))) = some x →
        exec (.faultRetry o sl v) s = .next (s.withHub (s.hub.regOk.answerRetry x)) ∧
        exec (.faultFail o sl v) s = .next (s.withHub (s.hub.regOk.answerFail x))) ∧
      ((∀ x ∈ s.hub.xfaults, x.slice = sl.val → x.fid ≠ some (vFld v fHTU_FQ_RESP_FAULT_ID)) →
        exec (.faultRetry o sl v) s = .next (s.withHub s.hub.regOk) ∧ exec (.faultFail o sl v) s = .next (s.withHub s.hub.regOk)) ∧
      ((∀ x ∈ s.hub.xfaults, x.slice = sl.val → x.fid ≠ none) → ∃ t, exec (.faultRingConsume o sl v) s = .next t ∧
        t.hub.fld (rHTU_FQ_PTR sl) fHTU_FQ_PTR_CONS = vFld v fHTU_FQ_PTR_CONS ∧
        t.hub.fld (rHTU_FQ_PTR sl) fHTU_FQ_PTR_PROD = s.hub.fld (rHTU_FQ_PTR sl) fHTU_FQ_PTR_PROD ∧
        t = s.withHub { s.hub with regs := t.hub.regs, out := .regOk :: s.hub.out } ∧
        ∀ a, a ≠ rHTU_FQ_PTR sl → t.hub.reg a = s.hub.reg a)) ∧
    (∀ (fid : Nat) x, s.hub.xfaults.find? (fun x => decide (x.slice = sl.val) && decide (x.fid = some fid)) = some x →
      (x.since + s.hub.fqTimeout sl ≤ s.hub.now → exec (.xlateTimeout sl fid) s = .next (s.withHub ((s.hub.answerFail x).fault
        { source := srcOf uHTU 0, kind := kXLATE_TIMEOUT, cls := clsCorrected, slice := some sl.val, ctx := some (x.ctxid % 16) }))) ∧
      (s.hub.now < x.since + s.hub.fqTimeout sl → exec (.xlateTimeout sl fid) s = .next s)) ∧
    (s.hub.fld (rHTU_FQ_CTL sl) fHTU_FQ_CTL_TIMEOUT = 0 → s.hub.fqTimeout sl = 10 * psMs) ∧
    (s.hub.mgrActs o →
      (s.hub.flag (rHTU_FQ_CTL sl) fHTU_FQ_CTL_EN = false → vFld v fHTU_FQ_BASE_LOG2 ≤ 8 →
        s.hub.inGranules sl (vFld v fHTU_FQ_BASE_ADDR * 4096) (32 * 2 ^ (vFld v fHTU_FQ_BASE_LOG2 + 4)) = true →
        ∃ t, exec (.faultRingBaseWrite o sl v) s = .next t ∧
          t.hub.fld (rHTU_FQ_BASE sl) fHTU_FQ_BASE_LOG2 = vFld v fHTU_FQ_BASE_LOG2 ∧
          t.hub.fld (rHTU_FQ_BASE sl) fHTU_FQ_BASE_ADDR = vFld v fHTU_FQ_BASE_ADDR ∧
          t = s.withHub { s.hub with regs := t.hub.regs, out := .regOk :: s.hub.out } ∧
          ∀ a, a ≠ rHTU_FQ_BASE sl → t.hub.reg a = s.hub.reg a) ∧
      (s.hub.flag (rHTU_FQ_CTL sl) fHTU_FQ_CTL_EN = true ∨ 8 < vFld v fHTU_FQ_BASE_LOG2 →
        exec (.faultRingBaseWrite o sl v) s = .next (s.withHub s.hub.regErr)) ∧
      (10000 < vFld v fHTU_FQ_CTL_TIMEOUT → exec (.faultRingCtlWrite o sl v) s = .next (s.withHub s.hub.regErr)) ∧
      (vFld v fHTU_FQ_CTL_TIMEOUT ≤ 10000 → s.hub.flag (rHTU_FQ_CTL sl) fHTU_FQ_CTL_EN = false → vFlag v fHTU_FQ_CTL_EN = true →
        exec (.faultRingCtlWrite o sl v) s = .next (s.withHub (Hub.drainFaults 4096 ((s.hub.regOk.writeRW (rHTU_FQ_CTL sl)
          [fHTU_FQ_CTL_EN, fHTU_FQ_CTL_VECTOR, fHTU_FQ_CTL_TIMEOUT] [fHTU_FQ_CTL_FULL] v).setReg (rHTU_FQ_PTR sl) 0) sl))) ∧
      (vFld v fHTU_FQ_CTL_TIMEOUT ≤ 10000 → s.hub.flag (rHTU_FQ_CTL sl) fHTU_FQ_CTL_EN = false → vFlag v fHTU_FQ_CTL_EN = true →
        (∀ x ∈ s.hub.xfaults, x.slice = sl.val → x.fid ≠ none) → ∃ t, exec (.faultRingCtlWrite o sl v) s = .next t ∧ t.hub.flag (rHTU_FQ_CTL sl) fHTU_FQ_CTL_EN = true ∧
          t.hub.fld (rHTU_FQ_CTL sl) fHTU_FQ_CTL_TIMEOUT = vFld v fHTU_FQ_CTL_TIMEOUT ∧ t.hub.reg (rHTU_FQ_PTR sl) = 0 ∧
          t = s.withHub { s.hub with regs := t.hub.regs, out := .regOk :: s.hub.out } ∧
          ∀ a, a ≠ rHTU_FQ_CTL sl → a ≠ rHTU_FQ_PTR sl → t.hub.reg a = s.hub.reg a)) ∧
    (s.hub.isMgr o = false → s.hub.sliceActs o sl →
      s.hub.changes (rHTU_FQ_CTL sl) [fHTU_FQ_CTL_EN, fHTU_FQ_CTL_VECTOR, fHTU_FQ_CTL_TIMEOUT] v = true →
      exec (.faultRingCtlWrite o sl v) s = .next (s.withHub s.hub.regErr))

/-- A walk whose slice may take a walker starts where its context translates and its address keeps the CANON rule, and faults OFF or
NON_CANON where not; an entry that returns takes it down one level, to a leaf given to every access that waits, or to a fault; one that
cannot be read faults WALK_READ, and one that cannot be read yet leaves the walk where it is (the model's choice, log entry 137). -/
def Obligations.WalksDescendToTheirLeaf : Prop :=
  ∀ (s : State) (w : Nat) (x : Walk), mapGet s.hub.walks w = some x → s.hub.halted = false → s.hub.stoppedInst uHTU 0 = false →
    let cid := ctxid x.slice x.ctx
    (x.started = false → s.hub.walkerMay x.slice = true →
      (s.hub.ctxValid cid = true → canonOk (s.hub.ctxFmt cid) x.va = true →
        let y : Walk := { x with started := true, table := (s.hub.walkStart cid x.va).1, lv := (s.hub.walkStart cid x.va).2 }
        exec (.translationWalk w) s = .next (s.withHub
          { s.hub with walks := mapPut s.hub.walks w y, walkRound := s.hub.roundAfter x.slice })) ∧
      (s.hub.ctxValid cid = false → exec (.translationWalk w) s = .next (s.withHub (s.hub.walkFault w x rsOFF 0 0))) ∧
      (s.hub.ctxValid cid = true → canonOk (s.hub.ctxFmt cid) x.va = false →
        exec (.translationWalk w) s = .next (s.withHub (s.hub.walkFault w x rsNON_CANON 0 0)))) ∧
    (s.hub.walkerMay x.slice = false → exec (.translationWalk w) s = .next s) ∧
    (x.started = false → ∀ host ecc, exec (.walkTableReadReturn w host ecc) s = .next s) ∧
    (x.started = true → s.hub.ctxValid cid = false → ∀ host ecc,
      exec (.walkTableReadReturn w host ecc) s = .next (s.withHub (s.hub.walkFault w x rsOFF 0 0))) ∧
    (x.started = true → s.hub.ctxValid cid = true → ∀ (host : Option Word) (ecc : Ecc) (h : Hub) (v : TableSays),
      s.hub.tableRead cid (entryAddr (s.hub.ctxFmt cid) x.table x.lv x.va) (if x.who = 3 then 1 else x.who) host ecc = (v, h) →
      (v = .blocked → exec (.walkTableReadReturn w host ecc) s = .next (s.withHub (s.hub.orHalted h))) ∧
      (v = .failed → exec (.walkTableReadReturn w host ecc) s = .next (s.withHub (h.walkFault w x rsWALK_READ 0 0))) ∧
      (∀ e r, v = .entry e → walkEntry (s.hub.ctxFmt cid) x.lv e = .fault r →
        exec (.walkTableReadReturn w host ecc) s = .next (s.withHub (h.walkFault w x r e x.lv))) ∧
      (∀ e d, v = .entry e → walkEntry (s.hub.ctxFmt cid) x.lv e = .down d →
        exec (.walkTableReadReturn w host ecc) s = .next (s.withHub { (h.fillWalk cid x.va (x.lv - 1) d) with
          walks := mapPut h.walks w { x with table := d, lv := x.lv - 1 } })) ∧
      (∀ e p sz, v = .entry e → walkEntry (s.hub.ctxFmt cid) x.lv e = .leaf p sz →
        exec (.walkTableReadReturn w host ecc) s = .next (s.withHub
          (h.walkLeaf w x (mkLeaf (s.hub.ctxFmt cid) cid x.va p sz x.lv e)))))

/-- A context's VALID is set where R244 allows it, and refused where not; clearing it starts an invalidation of the whole tag; a valid
context is not otherwise rewritten. A format slot in use, or a form outside its ranges, is refused; slots 0 and 1 ignore writes. A context
reset of an enabled context of an active slice begins, one at a time, and ends once the context's running mover items have ended and none
of its submitted descriptors is left; the tag of the context rises by 1 modulo 256 and no other does in the rise. -/
def Obligations.ContextsAndFormatsAreWrittenAndReset : Prop :=
  (
    (∀ (s : State) (o : Origin) (sl : SliceId) (n : Fin 16) (v : Word), s.hub.mgrActs o →
      (s.hub.flag (rHTU_CTX_CFGn sl n) fHTU_CTX_CFGn_VALID = false → vFlag v fHTU_CTX_CFGn_VALID = true → s.hub.ctxSetOk sl n v = true →
        ∃ t, exec (.contextCfgWrite o sl n v) s = .next t ∧ t.hub.flag (rHTU_CTX_CFGn sl n) fHTU_CTX_CFGn_VALID = true ∧
          t.hub.fld (rHTU_CTX_CFGn sl n) fHTU_CTX_CFGn_FMT = vFld v fHTU_CTX_CFGn_FMT ∧
          t.hub.fld (rHTU_CTX_CFGn sl n) fHTU_CTX_CFGn_PASID = vFld v fHTU_CTX_CFGn_PASID ∧
          t = s.withHub { s.hub with regs := t.hub.regs, out := .regOk :: s.hub.out } ∧
          ∀ a, a ≠ rHTU_CTX_CFGn sl n → t.hub.reg a = s.hub.reg a) ∧
      (s.hub.flag (rHTU_CTX_CFGn sl n) fHTU_CTX_CFGn_VALID = false → vFlag v fHTU_CTX_CFGn_VALID = true → s.hub.ctxSetOk sl n v = false →
        exec (.contextCfgWrite o sl n v) s = .next (s.withHub s.hub.regErr)) ∧
      (s.hub.flag (rHTU_CTX_CFGn sl n) fHTU_CTX_CFGn_VALID = true → vFlag v fHTU_CTX_CFGn_VALID = true →
        exec (.contextCfgWrite o sl n v) s = .next (s.withHub s.hub.regErr)) ∧
      (s.hub.flag (rHTU_CTX_CFGn sl n) fHTU_CTX_CFGn_VALID = true → vFlag v fHTU_CTX_CFGn_VALID = false →
        s.hub.changes (rHTU_CTX_CFGn sl n) [fHTU_CTX_CFGn_FMT, fHTU_CTX_CFGn_LOC, fHTU_CTX_CFGn_PASID] v = false →
        exec (.contextCfgWrite o sl n v) s = .next (s.withHub ((s.hub.regOk.setF (rHTU_CTX_CFGn sl n) fHTU_CTX_CFGn_VALID 0).queueInval
          { slice := sl, ctx := n, range := none, irq := s.hub.flag (rHTU_INV_CTL sl) fHTU_INV_CTL_IRQ,
            vector := s.hub.fld (rHTU_INV_CTL sl) fHTU_INV_CTL_VECTOR })))) ∧
    (∀ (s : State) (o : Origin) (f : Fin 8) (r : Fin 5) (v : Word), s.hub.mgrActs o →
      (s.hub.fmtInUse f = true → exec (.formatSlotWrite o f r v) s = .next (s.withHub s.hub.regErr)) ∧
      (s.hub.fmtInUse f = false → f.val < 2 → exec (.formatSlotWrite o f r v) s = .next (s.withHub s.hub.regOk)) ∧
      (s.hub.fmtInUse f = false → 2 ≤ f.val → r.val = 0 → vFlag v fHTU_FMT_CTL_VALID = true →
        fmtCtlOk v (s.hub.reg (rHTU_FMT_POS f)) = false → exec (.formatSlotWrite o f r v) s = .next (s.withHub s.hub.regErr)) ∧
      (s.hub.fmtInUse f = false → 2 ≤ f.val → r.val = 0 → fmtCtlOk v (s.hub.reg (rHTU_FMT_POS f)) = true →
        ∃ t, exec (.formatSlotWrite o f r v) s = .next t ∧
          t.hub.fld (rHTU_FMT_CTL f) fHTU_FMT_CTL_LEVELS = vFld v fHTU_FMT_CTL_LEVELS ∧
          t.hub.fld (rHTU_FMT_CTL f) fHTU_FMT_CTL_VALID = vFld v fHTU_FMT_CTL_VALID ∧
          t = s.withHub { s.hub with regs := t.hub.regs, out := .regOk :: s.hub.out } ∧
          ∀ a, a ≠ rHTU_FMT_CTL f → t.hub.reg a = s.hub.reg a))) ∧
  (
    (∀ (s : State) (o : Origin) (sl : SliceId) (v : Word), s.hub.mgrActs o →
      let w := setFld v fSLM_CTX_RESET_GO 1
      (s.hub.active sl = true → s.hub.flag (rSLM_CTX_RESET sl) fSLM_CTX_RESET_BUSY = false → s.hub.ctxOn sl (vFld w fSLM_CTX_RESET_CTX) = true →
        exec (.contextReset o sl v) s = .next (s.withHub
          ((((s.hub.regOk.writeRW (rSLM_CTX_RESET sl) [] [fSLM_CTX_RESET_DONE] w).setF (rSLM_CTX_RESET sl) fSLM_CTX_RESET_BUSY 1).updRt sl
            (fun x => { x with ctxReset := some (vFld w fSLM_CTX_RESET_CTX) })).resetContext sl (vFld w fSLM_CTX_RESET_CTX)))) ∧
      (s.hub.active sl = false ∨ s.hub.flag (rSLM_CTX_RESET sl) fSLM_CTX_RESET_BUSY = true ∨ s.hub.ctxOn sl (vFld w fSLM_CTX_RESET_CTX) = false →
        exec (.contextReset o sl v) s = .next (s.withHub s.hub.regErr))) ∧
    (∀ (h : Hub) (cid : Nat), (h.bumpGen cid).gen cid = (h.gen cid + 1) % 256 ∧ ∀ d, d ≠ cid → (h.bumpGen cid).gen d = h.gen d) ∧
    (∀ (s : State) (sl : SliceId) (c : Nat), (s.hub.rt sl).ctxReset = some c →
      (s.hub.ctxCutLeft sl c = false → (∀ e ∈ s.hub.items, e.2.slice = some sl.val → e.2.ctx = c → e.2.isMover = true → e.2.started = true → e.2.gen = s.hub.gen (ctxid sl c)) →
        ∃ t, exec (.contextResetDone sl) s = .next t ∧ (t.hub.rt sl).ctxReset = none ∧
          t.hub.flag (rSLM_CTX_RESET sl) fSLM_CTX_RESET_BUSY = false ∧ t.hub.flag (rSLM_CTX_RESET sl) fSLM_CTX_RESET_DONE = true ∧
          t = s.withHub { s.hub with regs := t.hub.regs, slices := t.hub.slices } ∧
          ∀ a, a ≠ rSLM_CTX_RESET sl → t.hub.reg a = s.hub.reg a) ∧
      (∀ e ∈ s.hub.items, e.2.slice = some sl.val → e.2.ctx = c → e.2.isMover = true → e.2.started = true → e.2.gen ≠ s.hub.gen (ctxid sl c) →
        exec (.contextResetDone sl) s = .next s) ∧
      (s.hub.ctxCutLeft sl c = true → exec (.contextResetDone sl) s = .next s)))

/-- An invalidation of an enabled context is taken one at a time, and drops the tag's cached leaves its range covers (shown where no ring
of the slice uses the context); its end waits for the requests and items it noted and the quiesces it sent, and with the last of a slice's
BUSY falls and DONE is set. A host's own invalidation drops the walk-cache entries of its PASID and is answered. -/
def Obligations.InvalidationsDropAndDrain : Prop :=
  (∀ (s : State) (o : Origin) (sl : SliceId) (v : Word), s.hub.sliceActs o sl → vFlag v fHTU_INV_CTL_GO = true →
    (s.hub.flag (rHTU_INV_STS sl) fHTU_INV_STS_BUSY = true ∨ s.hub.ctxOn sl (vFld v fHTU_INV_CTL_CTX) = false ∨
        (vFlag v fHTU_INV_CTL_RANGE = true ∧ vFld v fHTU_INV_CTL_COUNT = 0) →
      exec (.invalidate o sl v) s = .next (s.withHub s.hub.regErr)) ∧
    (s.hub.flag (rHTU_INV_STS sl) fHTU_INV_STS_BUSY = false → s.hub.ctxOn sl (vFld v fHTU_INV_CTL_CTX) = true →
      (vFlag v fHTU_INV_CTL_RANGE = true → vFld v fHTU_INV_CTL_COUNT ≠ 0) → exec (.invalidate o sl v) s = .next (s.withHub
        ((s.hub.regOk.writeRW (rHTU_INV_CTL sl)
            [fHTU_INV_CTL_CTX, fHTU_INV_CTL_RANGE, fHTU_INV_CTL_IRQ, fHTU_INV_CTL_VECTOR, fHTU_INV_CTL_COUNT] [] v).queueInval
          { slice := sl, ctx := vFld v fHTU_INV_CTL_CTX,
            range := if vFlag v fHTU_INV_CTL_RANGE then some (s.hub.fld (rHTU_INV_VA sl) fHTU_INV_VA_VA * GRAN, vFld v fHTU_INV_CTL_COUNT) else none,
            irq := vFlag v fHTU_INV_CTL_IRQ, vector := vFld v fHTU_INV_CTL_VECTOR })))) ∧
  (∀ (h : Hub) (v : Inval) (l : Leaf), (∀ q ∈ (h.slD v.slice).queueIds, h.flag (rFAB_Q_RING q) fFAB_Q_RING_EN = false ∨ h.qCtx q ≠ v.ctx) →
    (l ∈ (h.startInval v).cache ↔
      l ∈ h.cache ∧ ¬ (l.ctxid = ctxid v.slice v.ctx ∧ invCovers v.range l = true))) ∧
  (∀ (s : State) (sl : SliceId) (v : Inval), s.hub.invals = [v] → v.slice = sl.val →
    (v.started = true → s.hub.invalLate v = [] → s.hub.invalEnds v = true → v.irq = false →
      ∃ t, exec (.invalidationDone sl) s = .next t ∧ t.hub.invals = [] ∧ t.hub.flag (rHTU_INV_STS sl) fHTU_INV_STS_BUSY = false ∧
        t.hub.flag (rHTU_INV_STS sl) fHTU_INV_STS_DONE = true ∧
        t = s.withHub { s.hub with regs := t.hub.regs, invals := [] } ∧ ∀ a, a ≠ rHTU_INV_STS sl → t.hub.reg a = s.hub.reg a) ∧
    (v.started = false ∨ (s.hub.invalLate v = [] ∧ s.hub.invalEnds v = false) → exec (.invalidationDone sl) s = .next s)) ∧
  (∀ (s : State) (port : Fin 2) (idx pasid : Nat), ∃ t, exec (.atsInvalidation (.vf port idx) pasid) s = .next t ∧
    t = s.withHub { s.hub with walkCache := t.hub.walkCache, out := .atsDone (.vf port idx) :: s.hub.out } ∧
    ∀ e, e ∈ t.hub.walkCache ↔ e ∈ s.hub.walkCache ∧ ∀ sl, s.hub.vfSlice port idx = some sl → e.ctxid / 16 = sl → s.hub.ctxLoc e.ctxid = true →
      s.hub.fld (s.hub.ctxCfg e.ctxid) fHTU_CTX_CFGn_PASID ≠ pasid)

/-! ## Umbra -/

/-- A piece of a sealed access: on an unverifiable line, or where a fatal fault has stopped its Umbra, it fails LOST; where every node of
its path and the MAC of its line verify it is applied; a node or a line that does not verify halts the hub, with the failing address kept
and a fatal UMB_MAC; a lost data line fails it, a lost node takes its lines with it. A dirty node that leaves the cache raises its
parent's counter and stands in its bank, or is lost; a counter past 2^56 - 1 halts. -/
def Obligations.SealedAccessesAreVerified : Prop :=
  (∀ (s : State) (i g : Nat) (x : SealPiece) (out : SealOutcome) (ecc : Ecc), s.hub.sealPiece i g = some x →
    let k := lineIdx x.r x.a
    let new := s.hub.onNewSide x.r.region k
    let e := s.hub.eccOf (s.hub.chanAt x.a).1 (s.hub.chanAt x.a).2 ecc
    let reads := readsLine x.q.kind x.n && decide ((s.hub.side x.r.region new).ctr 0 k ≠ 0)
    let served (h : Hub) : Prop := (isWrite x.q.kind = false → exec (.sealedRead i g out ecc) s = .next (s.withHub h)) ∧
      (isWrite x.q.kind = true → exec (.sealedWrite i g out ecc) s = .next (s.withHub h))
    let umb := s.hub.lineLost x.r.region k || s.hub.stoppedInst uUMB (s.hub.ctrlOf x.a)
    let o := (s.hub.ncReport x.r new k reads out).1
    let h1 := (s.hub.ncReport x.r new k reads out).2
    let found := h1.sealSays x.r new k x.a reads o e
    (umb = true → served (s.hub.failAtUmb i x.q x.a fsLOST kUMB_LOST uUMB)) ∧
    (umb = false →
      (found = .pass → served ((h1.sealTaken x.r new k x.a reads o).sealApply i x new reads e)) ∧
      (∀ b kind, found = .halt b kind → served (h1.halt b kind x.r.region)) ∧
      (found = .dataLost → served
        ((h1.countUE (s.hub.chanAt x.a).1 (s.hub.chanAt x.a).2).failAtUmb i x.q x.a fsMEMORY kMEM_UE uMEM)) ∧
      (∀ lv j, found = .lost lv j → served ((h1.loseNode x.r new o lv j).failAtUmb i x.q x.a fsLOST kUMB_LOST uUMB)))) ∧
  (∀ (h : Hub) (r : SealedRec) (new : Bool) (i a : Nat) (reads : Bool) (e : Ecc),
    ((∀ lv ∈ h.pathFetch r new i, h.nodeGood r new lv (i / 8 ^ (lv + 1)) .ok = true) →
      h.pathSays r new i reads .ok = .pass ∧
      (reads = false → h.sealSays r new i a reads .ok e = .pass) ∧
      (reads = true → e = .uncorrected → h.sealSays r new i a reads .ok e = .dataLost) ∧
      (reads = true → e ≠ .uncorrected → h.lineGood r new i a .ok = true → h.sealSays r new i a reads .ok e = .pass)) ∧
    (∀ line mac, h.pathSays r new i reads (.lineMac line mac false) = .pass → reads = true → e = .clean →
      h.lineGood r new i a (.lineMac line mac false) = false → h.sealSays r new i a reads (.lineMac line mac false) e = .halt (a / 64 * 64) 0) ∧
    (∀ lv bytes, lv ∈ h.pathFetch r new i →
      (∀ l ∈ h.pathFetch r new i, lv < l → h.nodeGood r new l (i / 8 ^ (l + 1)) (.nodeMac lv (i / 8 ^ (lv + 1)) bytes false) = true) →
      h.nodeGood r new lv (i / 8 ^ (lv + 1)) (.nodeMac lv (i / 8 ^ (lv + 1)) bytes false) = false →
      h.sealSays r new i a reads (.nodeMac lv (i / 8 ^ (lv + 1)) bytes false) e = .halt (h.nodeAddr r new lv (i / 8 ^ (lv + 1))) 1)) ∧
  (∀ (h : Hub) (a kind region : Nat), a < 2 ^ 42 → region < 64 → kind < 4 → (h.halt a kind region).halted = true ∧
    (h.halt a kind region).fld rUMB_HALT_ADDR fUMB_HALT_ADDR_ADDR = a ∧ (h.halt a kind region).fld rUMB_HALT_ADDR fUMB_HALT_ADDR_KIND = kind ∧
    (h.halt a kind region).fld rUMB_HALT_ADDR fUMB_HALT_ADDR_REGION = region ∧ (h.halt a kind region).hbm = h.hbm ∧
    ∃ m ∈ (h.halt a kind region).fcol.msgs, m.kind = kUMB_MAC ∧ m.cls = clsFatal ∧ m.slice = none ∧ m.addr = some a) ∧
  (∀ (s : State) (r : RegionId) (x : SealedRec) (lv j : Nat) (new : Bool), s.hub.sealedRec r = some x → s.hub.halted = false →
    s.hub.dirtySide x.region lv j = some new →
    exec (.nodeWriteback r lv j true) s = .next (s.withHub ((s.hub.ncDrop x new lv j).writeBack { cls := if new then 12 else 11 } x new lv j)) ∧
    exec (.nodeWriteback r lv j false) s = .next (s.withHub (s.hub.loseNode x new (.cacheDirtyUncorrected lv j) lv j))) ∧
  (∀ (h : Hub) (w : Payer) (r : SealedRec) (new : Bool) (lv j : Nat), (h.side r.region new).ctr (lv + 1) j + 1 < 2 ^ 55 →
    Memory.wf h = true → (∀ n < 64, h.regionOf (h.nodeAddr r new lv j + n) = none) →
    let k := h.writeBackNode w r new lv j
    (k.side r.region new).ctr (lv + 1) j = (h.side r.region new).ctr (lv + 1) j + 1 ∧
    k.hbmGet (h.nodeAddr r new lv j) 56 = (h.side r.region new).nodeBytes lv j ∧
    ∀ b, b < h.nodeAddr r new lv j ∨ h.nodeAddr r new lv j + 64 ≤ b → mapGet k.hbm b = mapGet h.hbm b) ∧
  (∀ (h : Hub) (w : Payer) (r : SealedRec) (a : Nat), 2 ^ 56 ≤ (h.side r.region (h.onNewSide r.region (lineIdx r a))).ctr 0 (lineIdx r a) + 1 →
    h.sealBump w r a = (false, h.halt (a / 64 * 64) 2 r.region))

/-- Sweeps: GO queues a region that is ready and is refused for another; a due region is queued; the first queued region of a group that
runs no sweep starts with keys of its own and BOUNDARY 0; each step reads the lines at BOUNDARY under the old keys, the step's node first,
and moves them 8 on, a step whose lines are unverifiable moving past them; the end makes the region ready; a sweep that waits an hour past
its due time, or has run for an hour, raises UMB_SWEEP_LATE once. -/
def Obligations.SweepsMoveRegionsToFreshKeys : Prop :=
  ∀ (s : State) (r : RegionId),
    (∀ o x, s.hub.mgrActs o → s.hub.sealedRec r = some x → s.hub.regState r = 1 → ∃ t, exec (.sweepGo o r) s = .next t ∧
      t.hub.regState r = 3 ∧ (t.hub.seal r).queuedAt = some s.hub.now ∧ (t.hub.seal r).byGo = some s.hub.nextId ∧
      t.hub.hbm = s.hub.hbm ∧ ∀ a, a ≠ rUMB_REG_STS r → t.hub.reg a = s.hub.reg a) ∧
    (∀ o, s.hub.mgrActs o → s.hub.sealedRec r = none ∨ s.hub.regState r ≠ 1 →
      exec (.sweepGo o r) s = .next (s.withHub s.hub.regErr)) ∧
    (∀ x, s.hub.sealedRec r = some x →
      (∀ due, s.hub.sweepDueAt x = some due → due ≤ s.hub.now → s.hub.regState r = 1 → (s.hub.seal r).dueAt = none →
        ∃ t, exec (.sweepDue r) s = .next t ∧ t.hub.regState r = 3 ∧ (t.hub.seal r).dueAt = some due ∧
          ∀ a, a ≠ rUMB_REG_STS r → t.hub.reg a = s.hub.reg a) ∧
      (x.sweepH = 0xFFFF → exec (.sweepDue r) s = .next s) ∧
      (s.hub.regState r = 2 → s.hub.halted = false → s.hub.sweepPaused x = false →
        let b := s.hub.fld (rUMB_REG_SWEEP r) fUMB_REG_SWEEP_BOUNDARY
        b < sealLines x → s.hub.stepBusy x b = false → s.hub.stoppedInst uUMB (s.hub.ctrlOf (x.first * GRAN + 64 * b)) = false →
        ∀ line out ecc, exec (.sweepStep r ⟨line, out, ecc⟩) s = .next (s.withHub (s.hub.sweepStep x line out ecc)) ∧
          (∃ h0 : Hub, h0 = { s.hub with sweepBytes := h0.sweepBytes } ∧
            (h0.lineLost x.region b = true → s.hub.sweepStep x line out ecc = h0.stepMove x b) ∧
            (h0.lineLost x.region b = false →
              (h0.pathSays x false b true .ok = .pass → (∀ j ∈ h0.stepLines x b, h0.stepSays x b line j .ok ecc = .pass) →
                s.hub.sweepStep x line .ok ecc = h0.stepTake x b line .ok ecc) ∧
              (∀ c kind, h0.pathSays x false b true .ok = .halt c kind → s.hub.sweepStep x line .ok ecc = h0.halt c kind x.region))) ∧
          (s.hub.stepLines x b = [] → s.hub.stepMove x b =
            (s.hub.setSide x.region true (s.hub.side x.region true)).setF (rUMB_REG_SWEEP r) fUMB_REG_SWEEP_BOUNDARY (b + 8))) ∧
      (s.hub.regState r = 2 → s.hub.halted = false → sealLines x ≤ s.hub.fld (rUMB_REG_SWEEP r) fUMB_REG_SWEEP_BOUNDARY →
        (∀ g, s.hub.igOf x.first = some g → g.igrp < 64) → ∃ t, exec (.sweepEnd r) s = .next t ∧ t = s.withHub (s.hub.endSweep x) ∧
          t.hub.regState r = 1 ∧ t.hub.fld (rUMB_REG_SWEEP r) fUMB_REG_SWEEP_BOUNDARY = 0 ∧
          t.hub.flag (rUMB_REG_STS r) fUMB_REG_STS_CTR_HIGH = false) ∧
      (s.hub.regState r = 2 → (s.hub.seal r).lateRaised = false →
        ((s.hub.seal r).startedAt + psHour ≤ s.hub.now → exec (.umbSweepLate r) s = .next (s.withHub
          ((s.hub.updSeal r (fun k => { k with lateRaised := true })).faultS uUMB (s.hub.ctrlOf (x.first * GRAN)) kUMB_SWEEP_LATE clsCorrected
            none 0))) ∧
        (s.hub.now < (s.hub.seal r).startedAt + psHour → exec (.umbSweepLate r) s = .next s)) ∧
      (∀ due, s.hub.regState r = 3 → (s.hub.seal r).lateRaised = false → (s.hub.seal r).dueAt = some due → (∀ q, (s.hub.seal r).queuedAt = some q → due ≤ q) →
        (due + psHour ≤ s.hub.now → exec (.umbSweepLate r) s = .next (s.withHub
          ((s.hub.updSeal r (fun k => { k with lateRaised := true })).faultS uUMB (s.hub.ctrlOf (x.first * GRAN)) kUMB_SWEEP_LATE clsCorrected
            none 0))) ∧
        (s.hub.now < due + psHour → exec (.umbSweepLate r) s = .next s)) ∧
      ((s.hub.seal r).lateRaised = true → exec (.umbSweepLate r) s = .next s)) ∧
    (∀ g x, s.hub.forme.igroups.find? (fun y => y.igrp == r.val) = some g → s.hub.nextSweep g = some x → s.hub.halted = false →
      s.hub.rngBad = false → s.hub.pwrState ≠ 3 →
      (s.hub.sweepIn g = true → exec (.sweepStart r) s = .next s) ∧
      (s.hub.sweepIn g = false → exec (.sweepStart r) s = .next (s.withHub (s.hub.startSweep g x)) ∧
        (x.region < 64 → (s.hub.startSweep g x).regState x.region = 2 ∧
          (s.hub.startSweep g x).fld (rUMB_REG_SWEEP x.region) fUMB_REG_SWEEP_BOUNDARY = 0 ∧
          ((s.hub.startSweep g x).seal x.region).cur = (s.hub.seal x.region).cur ∧
          ((s.hub.startSweep g x).seal x.region).nxt = { key := s.hub.draws + 1 } ∧ (s.hub.startSweep g x).draws = s.hub.draws + 3)))

/-! ## Quire links -/

/-- Blocks leave and arrive: a training link sends TRAIN blocks; an UP one with frames that wait sends a DATA block, numbers it and keeps
it for replay; one with nothing to carry sends IDLE frames alone; a block asked for again goes out again. An uncorrectable codeword is
counted and NAKed; a DATA block already taken is ignored, one beyond the next is NAKed, and the next one's frames are taken where every
check value holds. Each link-control frame that has arrived is taken once: IDLE is discarded, ACK takes blocks out of the replay buffer,
NAK has them sent again, CREDIT brings the freed slots and the peer's number and makes a link UP where both ends report VALID, DELAY is
answered or measured. The timers send ACK after 64 blocks or 200 ns, CREDIT, and 64 DELAY frames. -/
def Obligations.LinksCarryBlocksAndControlFrames : Prop :=
  (
    ∀ (s : State) (l : LinkId),
      (s.hub.lkState l = lkTRAINING ∨ s.hub.lkState l = lkRETRAINING → s.hub.halted = false →
        exec (.blockTx l) s = .next (s.withHub (s.hub.emit (.block l (blockHdr 1 0 none) (Config.trainData l))))) ∧
      (s.hub.lkRuns l = true →
        ((s.hub.link l).resend = none → s.hub.dataBlock l = true → ∃ t b, exec (.blockTx l) s = .next t ∧
          b.bseq = (s.hub.link l).bseq ∧ b.sends = 1 ∧ b.since = s.hub.now ∧ t.hub.out = .block l b.hdr b.data :: s.hub.out ∧
          (t.hub.link l).replay = (s.hub.link l).replay ++ [b] ∧ (t.hub.link l).bseq = ((s.hub.link l).bseq + 1) % 4096 ∧
          t = s.withHub { s.hub with links := t.hub.links, out := t.hub.out }) ∧
        ((s.hub.link l).resend = none → s.hub.dataBlock l = false → (s.hub.link l).ctl = [] → ∃ t, exec (.blockTx l) s = .next t ∧
          t.hub.out = .block l (blockHdr 2 0 (some 0)) (List.replicate 20 (s.hub.sealFrame l 0 (controlFrame 0 []))).flatten :: s.hub.out ∧
          (t.hub.link l).replay = (s.hub.link l).replay ∧ t = s.withHub { s.hub with links := t.hub.links, out := t.hub.out }) ∧
        (∀ n, (s.hub.link l).resend = some n → exec (.blockTx l) s = .next (s.withHub (s.hub.resendBlock l n))) ∧
        exec (.blockRx l .uncorrectable) s = .next (s.withHub ((s.hub.count (rQL_LINK_ERR l) fQL_LINK_ERR_UNCORR 1).sendNak l)) ∧
        (∀ (hdr : BitVec 20) (b : List Byte), bits hdr.toNat 1 0 = 0 →
          let seq := bits hdr.toNat 13 2
          let r := rxFrames (s.hub.link l) true seq (bits hdr.toNat 18 14) b
          (0 < ((s.hub.link l).rxSeq + 4096 - seq) % 4096 → ((s.hub.link l).rxSeq + 4096 - seq) % 4096 < 2048 →
            exec (.blockRx l (.block 0 hdr b)) s = .next s) ∧
          (2048 ≤ ((s.hub.link l).rxSeq + 4096 - seq) % 4096 → exec (.blockRx l (.block 0 hdr b)) s = .next (s.withHub (s.hub.sendNak l))) ∧
          (seq = (s.hub.link l).rxSeq → (∀ e ∈ r.1, leAt e.2 4 4 = s.hub.linkChk l e.1 e.2) → ∃ h1 : Hub,
            exec (.blockRx l (.block 0 hdr b)) s = .next (s.withHub (h1.takeFrames l (r.1.map (·.2)))) ∧
            h1 = { s.hub with links := h1.links } ∧ (h1.link l).rxSeq = (seq + 1) % 4096 ∧
            (h1.link l).ackBlocks = (s.hub.link l).ackBlocks + 1) ∧
          (∀ e, seq = (s.hub.link l).rxSeq → r.1.find? (fun e => decide (leAt e.2 4 4 ≠ s.hub.linkChk l e.1 e.2)) = some e →
            exec (.blockRx l (.block 0 hdr b)) s = .next (s.withHub (s.hub.chkFail l e.1))))) ∧
      (s.hub.lkRuns l = false → ∀ cw, exec (.blockRx l cw) s = .next s)) ∧
  (
    ∀ (s : State) (l : LinkId),
      (∀ x, let h1 := s.hub.updLink l (fun k => { k with rxCtl := k.rxCtl.erase x })
        ((s.hub.link l).rxCtl.find? (fun f => frameType f == 0) = some x → exec (.idleFrame l) s = .next (s.withHub h1)) ∧
        ((s.hub.link l).rxCtl.find? (fun f => frameType f == 2) = some x → exec (.ack l) s = .next (s.withHub
          (h1.takeAck l (leAt x 8 2 % 4096)))) ∧
        ((s.hub.link l).rxCtl.find? (fun f => frameType f == 3) = some x → exec (.nak l) s = .next (s.withHub
          (h1.takeNak l (leAt x 8 2 % 4096)))) ∧
        ((s.hub.link l).rxCtl.find? (fun f => frameType f == 4) = some x → ∃ t, exec (.credit l) s = .next t ∧
          (t.hub.link l).peerFreed = [leAt x 8 2, leAt x 10 2, leAt x 12 2] ∧
          t.hub.fld (rQL_LINK_STS l) fQL_LINK_STS_PEER_HUB = leAt x 14 2 % 512 ∧
          t.hub.fld (rQL_LINK_STS l) fQL_LINK_STS_PEER_V = leAt x 14 2 / 512 % 2 ∧
          (s.hub.lkState l = lkUPNONUM ∨ s.hub.lkState l = lkUP →
            t.hub.lkState l = if leAt x 14 2 / 512 % 2 = 1 ∧ s.hub.flag rTOP_HUB_ID fTOP_HUB_ID_VALID = true then lkUP else lkUPNONUM) ∧
          ∀ a, a ≠ rQL_LINK_STS l → t.hub.reg a = s.hub.reg a) ∧
        ((s.hub.link l).rxCtl.find? (fun f => frameType f == 5) = some x → exec (.delay l) s = .next (s.withHub (h1.takeDelay l x)))) ∧
      (∀ (h : Hub) (a : Nat) (b : TxBlock), b ∈ ((h.takeAck l a).link l).replay ↔
        b ∈ (h.link l).replay ∧ 2048 ≤ (a + 4096 - b.bseq) % 4096) ∧
      ((s.hub.link l).rxCtl = [] → exec (.ack l) s = .next s) ∧
      (s.hub.lkRuns l = true →
        (64 ≤ (s.hub.link l).ackBlocks ∨ (s.hub.link l).lastAck + 200 * psNs ≤ s.hub.now → ∃ t, exec (.ackTimer l) s = .next t ∧
          (t.hub.link l).ctl = (s.hub.link l).ctl ++ [controlFrame 2 (toLE 2 (((s.hub.link l).rxSeq + 4095) % 4096))] ∧
          (t.hub.link l).ackBlocks = 0 ∧ t = s.withHub { s.hub with links := t.hub.links }) ∧
        ((s.hub.link l).ackBlocks < 64 → s.hub.now < (s.hub.link l).lastAck + 200 * psNs → exec (.ackTimer l) s = .next s) ∧
        (∃ t, exec (.creditTimer l) s = .next t ∧ (t.hub.link l).ctl = (s.hub.link l).ctl ++ [controlFrame 4
            ((s.hub.link l).freed.flatMap (toLE 2) ++ toLE 2 (s.hub.hubNum + 512 * s.hub.fld rTOP_HUB_ID fTOP_HUB_ID_VALID))] ∧
          t = s.withHub { s.hub with links := t.hub.links }) ∧
        (s.hub.lkState l = lkUP → ∃ t, exec (.delayMeasureTimer l) s = .next t ∧
          (t.hub.link l).ctl = (s.hub.link l).ctl ++ List.replicate 64 (controlFrame 5 []) ∧ (t.hub.link l).delays = [] ∧
          t = s.withHub { s.hub with links := t.hub.links })))

/-- A request of another hub is checked in the order of R343: DST_SLICE assigned and its LINK entry there, active, then its address; one
that is not refused is a request like those of this hub's own engines, under DST_SLICE's context of its number. It is refused or, once
served, answered, with the response of its opcode. A bundle raises its counter once its last frame has come and its bytes are all there,
and the acknowledgement of that frame follows; a bundle with a failed frame raises nothing. -/
def Obligations.RequestsOfOtherHubsAreCheckedInOrder : Prop :=
  (∀ (s : State) (l : LinkId) (f : List Byte) (op : Nat) (c : Instr) (steps line : Nat) (ecc : Ecc),
    (op = 1 ∧ c = .write l steps ⟨line, ecc⟩) ∨ (op = 2 ∧ c = .read l steps ⟨line, ecc⟩) ∨ (op = 3 ∧ c = .atomic l steps ⟨line, ecc⟩) →
    s.hub.rxHead l 0 = some f → (thdrOf f).op = op → s.hub.halted = false → s.hub.lkValid l = true → (thdrOf f).dstHub = s.hub.hubNum →
    let t := thdrOf f
    let g := s.hub.rxPop l 0
    let q := s.hub.remoteReq l f
    (s.hub.sl t.dstSlice = none → exec c s = .next (s.withHub (g.remoteRefuse l f 3))) ∧
    (∀ r, s.hub.sl t.dstSlice = some r →
      ((t.srcHub, t.srcSlice) ∉ r.links → exec c s = .next (s.withHub (g.remoteRefuse l f 3))) ∧
      ((t.srcHub, t.srcSlice) ∈ r.links → s.hub.active t.dstSlice = false → exec c s = .next (s.withHub (g.remoteRefuse l f 4))) ∧
      ((t.srcHub, t.srcSlice) ∈ r.links → s.hub.active t.dstSlice = true →
        (linkAddrOk t.addr q.len = false → exec c s = .next (s.withHub (g.remoteRefuse l f 1))) ∧
        (linkAddrOk t.addr q.len = true → q.slice = t.dstSlice ∧ q.ctx = t.ctx ∧ q.pa = s.hub.hubNum * 2 ^ 42 + t.addr ∧
          exec c s = .next (s.withHub (Hub.runOwn (min steps 24) ((g.newReq q).2.routeReq (g.newReq q).1) (g.newReq q).1
            (fun a => if a = t.addr / 64 + line then ecc else .clean))))))) ∧
  (∀ (h : Hub) (i l : Nat) (q : Req), h.req i = some q → q.src = .remote l → h.doneReq i = (h.dropReq i).remoteAnswer q.hdr q.data) ∧
  (∀ (h : Hub) (l st : Nat) (f : List Byte), st ≠ 2 →
    ∃ h1 : Hub, h.remoteRefuse l f st = h1.sendRsp (thdrOf f) ((thdrOf f).op + 7) st [] ∧
      ∃ m ∈ h1.fcol.msgs, m.source = srcOf uQL l ∧ m.cls = clsCorrected ∧ m.slice = some (thdrOf f).dstSlice ∧
        m.kind = (if st = 1 then kACCESS else kLINK_REFUSED) ∧ m.ctx = if st = 1 then some (thdrOf f).ctx else none) ∧
  (∀ (s : State) (l : LinkId) (f : List Byte), s.hub.rxHead l 0 = some f → (thdrOf f).op = 4 → s.hub.halted = false →
    s.hub.lkValid l = true → (thdrOf f).dstHub = s.hub.hubNum →
    (∀ st, s.hub.pairRefused (thdrOf f) = some st → exec (.quiesce l) s = .next (s.withHub ((s.hub.rxPop l 0).remoteRefuse l f st))) ∧
    (s.hub.pairRefused (thdrOf f) = none → ∃ h1 : Hub,
      exec (.quiesce l) s = .next (s.withHub h1.pump.answerQuiesces) ∧
      ((thdrOf f).dstSlice, (thdrOf f).srcHub, (thdrOf f).srcSlice) ∈ h1.closedPairs ∧
      h1 = { s.hub.rxPop l 0 with closedPairs := h1.closedPairs, quiescesIn := h1.quiescesIn })) ∧
  (∀ (s : State) (l : LinkId) (vc : Fin 2) (f : List Byte), s.hub.rxHead l vc = some f → s.hub.halted = false →
    (s.hub.lkValid l = false → exec (.transitFrame l vc) s = .next (s.withHub (s.hub.rxPop l vc))) ∧
    (s.hub.lkValid l = true → (thdrOf f).dstHub ≠ s.hub.hubNum →
      let out := s.hub.fld (rQL_ROUTEh (thdrOf f).dstHub) fQL_ROUTEh_LINK
      (s.hub.flag (rQL_ROUTEh (thdrOf f).dstHub) fQL_ROUTEh_VALID = true → s.hub.lkState out = lkUP ∨ s.hub.lkState out = lkRETRAINING →
        exec (.transitFrame l vc) s = .next (s.withHub ((s.hub.rxPop l vc).sendFrame out vc f))) ∧
      (s.hub.flag (rQL_ROUTEh (thdrOf f).dstHub) fQL_ROUTEh_VALID = false → exec (.transitFrame l vc) s = .next (s.withHub
        (if vc = 0 then (s.hub.rxPop l vc).sendRsp (thdrOf f) ((thdrOf f).op + 7) 5 [] else s.hub.rxPop l vc))))) ∧
  (∀ (h : Hub) (f : List Byte), (thdrOf f).ac = true →
    let t := thdrOf f
    let k := t.srcHub * 64 + t.bundle
    let b := mapGetD h.bundles k {}
    let h1 : Hub := { h with bundles := mapDel h.bundles k }
    (t.last = true → b.bad = 0 → b.sum + 32 * t.len = t.btotal → h.trackBundle f true = (true, h1.addAc t.dstSlice t.acnum t.btotal)) ∧
    (t.last = false → b.lastSeen = true → b.bad = 0 → b.sum + 32 * t.len = t.btotal → ∀ g, b.lastHdr = some g →
      h.trackBundle f true = (true, (h1.addAc t.dstSlice t.acnum t.btotal).sendRsp (thdrOf g) 8 0 [])) ∧
    (b.lastSeen = true ∨ t.last = true → b.bad + b.sum + 32 * t.len = t.btotal → 0 < t.len → t.last = true ∨ b.lastHdr = none →
      h.trackBundle f false = (true, h1)) ∧
    (b.sum + b.bad + 32 * t.len ≠ t.btotal → ∃ h2 : Hub, h.trackBundle f true = (!t.last, h2) ∧ h2 = { h with bundles := h2.bundles } ∧
      (mapGetD h2.bundles k {}).sum = b.sum + 32 * t.len))

/-- A response whose tag is outstanding and whose GEN is current answers its request, or fails it as STATUS says; any other is counted
STALE and changes nothing else. A request unanswered for RESP_TO fails TIMEOUT, and its tag rests twice as long; a quiesce ends with its
QUIESCE_DONE or after 100 microseconds, and one whose QUIESCE_DONE carries a failure STATUS goes on. -/
def Obligations.ResponsesAnswerTheirTag : Prop :=
  (∀ (s : State) (l : LinkId) (f : List Byte) (op : Nat) (c : Instr),
    (op = 8 ∧ c = .writeAck l) ∨ (op = 9 ∧ c = .readRsp l) ∨ (op = 10 ∧ c = .atomicRsp l) →
    s.hub.rxHead l 1 = some f → (thdrOf f).op = op → s.hub.halted = false → s.hub.lkValid l = true → (thdrOf f).dstHub = s.hub.hubNum →
    let t := thdrOf f
    (∀ x, mapGet s.hub.tags t.tag = some x → x.freeAt = none → t.gen = s.hub.gen (ctxid x.slice x.ctx) →
      exec c s = .next (s.withHub ((s.hub.rxPop l 1).answerTag l t (frameData f) x))) ∧
    ((∀ x, mapGet s.hub.tags t.tag = some x → x.freeAt ≠ none ∨ t.gen ≠ s.hub.gen (ctxid x.slice x.ctx)) →
      exec c s = .next (s.withHub ((s.hub.rxPop l 1).count (rQL_LINK_ERR l) fQL_LINK_ERR_STALE 1)))) ∧
  (remoteFailure 1 = (fsACCESS, kACCESS) ∧ remoteFailure 2 = (fsMEMORY, kMEM_UE) ∧ remoteFailure 5 = (fsROUTE, kROUTE_MISS)) ∧
  (∀ (s : State) (tag : QueueId) (x : Tag), mapGet s.hub.tags tag = some x →
    (x.since + s.hub.respTo ≤ s.hub.now → exec (.responseTimeout tag) s = .next (s.withHub (s.hub.failTag tag fsTIMEOUT))) ∧
    (s.hub.now < x.since + s.hub.respTo → exec (.responseTimeout tag) s = .next s) ∧
    (∀ e, x.freeAt = some e → e ≤ s.hub.now → exec (.tagQuarantineEnd tag) s = .next (s.withHub (s.hub.freeTag tag).afterTag)) ∧
    (∀ e, x.freeAt = some e → s.hub.now < e → exec (.tagQuarantineEnd tag) s = .next s) ∧
    (x.freeAt = none → (mapGet (s.hub.parkTag tag).tags tag).map (·.freeAt) = some (some (s.hub.now + 2 * s.hub.respTo)))) ∧
  (∀ (s : State) (l : LinkId) (f : List Byte) (i : Nat) (q : Quiesce), s.hub.rxHead l 1 = some f → (thdrOf f).op = 11 → s.hub.halted = false →
    s.hub.lkValid l = true → (thdrOf f).dstHub = s.hub.hubNum →
    s.hub.quiesces.find? (fun e => decide (e.2.slice = (thdrOf f).dstSlice) && decide (e.2.hub = (thdrOf f).srcHub) &&
      decide (e.2.peer = (thdrOf f).srcSlice)) = some (i, q) →
    ((thdrOf f).status = 0 → exec (.quiesceDone l) s = .next (s.withHub ((s.hub.rxPop l 1).quiesceOver i q false))) ∧
    ((thdrOf f).status ≠ 0 → exec (.quiesceDone l) s = .next (s.withHub (s.hub.rxPop l 1)))) ∧
  (∀ (s : State) (i : Nat) (q : Quiesce), mapGet s.hub.quiesces i = some q →
    (q.since + 100 * psUs ≤ s.hub.now → exec (.quiesceTimeout i) s = .next (s.withHub (s.hub.quiesceOver i q true))) ∧
    (s.hub.now < q.since + 100 * psUs → exec (.quiesceTimeout i) s = .next s))

/-- A link's life: enabled it trains, bring-up takes it to UP_NONUM with its delay, a third failed one or one past 100 ms takes it DOWN; a
retraining keeps what waits and ends UP; DOWN empties it and names each slice routed over it; CLR zeroes its counts; an arriving frame
wakes it; a VC without credit for 1 ms raises LINK_STALL. -/
def Obligations.LinksComeUpRetrainAndGoDown : Prop :=
  ∀ (s : State) (l : LinkId),
    (∀ o, s.hub.mgrActs o → s.hub.flag (rQL_LINK_CTL l) fQL_LINK_CTL_EN = false →
      s.hub.flag (rQL_LINK_CTL l) fQL_LINK_CTL_RETRAIN = false → s.hub.flag (rQL_LINK_CTL l) fQL_LINK_CTL_DOWN = false →
      (s.hub.lkState l = lkDISABLED → ∃ t, exec (.linkEnable o l) s = .next t ∧ t.hub.lkState l = lkTRAINING ∧
        t.hub.flag (rQL_LINK_CTL l) fQL_LINK_CTL_EN = true ∧ t.hub.link l = { s.hub.link l with enabledAt := s.hub.now } ∧ (∀ m, m ≠ l.val → t.hub.link m = s.hub.link m) ∧
        t = s.withHub { s.hub with regs := t.hub.regs, links := t.hub.links, out := .regOk :: s.hub.out } ∧
        ∀ a, a ≠ rQL_LINK_CTL l → a ≠ rQL_LINK_STS l → t.hub.reg a = s.hub.reg a) ∧
      (s.hub.lkState l = lkABSENT → ∃ t, exec (.linkEnable o l) s = .next t ∧ t.hub.lkState l = lkABSENT)) ∧
    (∀ o, s.hub.mgrActs o → s.hub.flag (rQL_LINK_CTL l) fQL_LINK_CTL_EN = true → s.hub.lkState l = lkUP →
      (s.hub.flag (rQL_LINK_CTL l) fQL_LINK_CTL_DOWN = false → ∃ t, exec (.linkRetrain o l) s = .next t ∧ t.hub.lkState l = lkRETRAINING ∧
        t.hub.links = s.hub.links ∧ t.hub.fld (rQL_LINK_STS l) fQL_LINK_STS_RETRAINS =
          min (s.hub.fld (rQL_LINK_STS l) fQL_LINK_STS_RETRAINS + 1) 65535) ∧
      (s.hub.flag (rQL_LINK_CTL l) fQL_LINK_CTL_RETRAIN = false → exec (.linkDown o l) s = .next (s.withHub ((s.hub.regOk.writeRW
        (rQL_LINK_CTL l) [fQL_LINK_CTL_EN] [] (setFld (s.hub.reg (rQL_LINK_CTL l)) fQL_LINK_CTL_DOWN 1)).downLink l)))) ∧
    (s.hub.lkState l = lkUP ∨ s.hub.lkState l = lkUPNONUM → ∃ t, exec (.laneLockLoss l) s = .next t ∧ t.hub.lkState l = lkRETRAINING ∧
      t.hub.links = s.hub.links ∧ (∃ m ∈ t.hub.fcol.msgs, m.kind = kLINK_RETRAIN ∧ m.cls = clsCorrected) ∧
      ∀ a, a ≠ rQL_LINK_STS l → t.hub.reg a = s.hub.reg a) ∧
    (s.hub.lkState l = lkTRAINING → (s.hub.link l).enabledAt + 100 * psMs < s.hub.now → ∀ ok (peer : LinkId) (d : Nat),
      exec (.linkBringupDone l ok peer d) s = .next (s.withHub (s.hub.downLink l))) ∧
    (s.hub.lkState l = lkTRAINING → s.hub.now ≤ (s.hub.link l).enabledAt + 100 * psMs → ∀ (peer : LinkId) (d : Nat), d < 2 ^ 24 →
      (∃ t, exec (.linkBringupDone l true peer d) s = .next t ∧ t.hub.lkState l = lkUPNONUM ∧
        t.hub.fld (rQL_LINK_STS l) fQL_LINK_STS_PEER_LINK = peer ∧ t.hub.fld (rQL_LINK_DLY l) fQL_LINK_DLY_DELAY = d ∧
        (t.hub.link l).replay = [] ∧ (t.hub.link l).bseq = 0 ∧ (t.hub.link l).rxSeq = 0 ∧ (t.hub.link l).vc0 = (s.hub.link l).vc0) ∧
      ((s.hub.link l).bringFails < 2 → ∃ t, exec (.linkBringupDone l false peer d) s = .next t ∧ t.hub.lkState l = lkTRAINING ∧
        (t.hub.link l).bringFails = (s.hub.link l).bringFails + 1) ∧
      (2 ≤ (s.hub.link l).bringFails → exec (.linkBringupDone l false peer d) s = .next (s.withHub (s.hub.downLink l)))) ∧
    (s.hub.lkState l = lkRETRAINING → ∀ d, d < 2 ^ 24 →
      (s.hub.lkValid l = true → ∃ t, exec (.linkRetrainDone l true d) s = .next t ∧ t.hub.lkState l = lkUP ∧
        t.hub.fld (rQL_LINK_DLY l) fQL_LINK_DLY_DELAY = d ∧ (t.hub.link l).resend = ((s.hub.link l).replay.head?).map (·.bseq) ∧
        (t.hub.link l).vc0 = (s.hub.link l).vc0) ∧
      (∃ t, exec (.linkRetrainDone l false d) s = .next t ∧ t.hub.lkState l = lkTRAINING)) ∧
    (s.hub.linkTags l = [] → ∃ h1 : Hub, s.hub.downLink l = h1.pump ∧ h1.lkState l = lkDOWN ∧ h1.link l = {} ∧ h1.reqs = s.hub.reqs ∧
      ∀ sl ∈ s.hub.linkSlices l, ∃ m ∈ h1.fcol.msgs, m.kind = kLINK_DOWN ∧ m.cls = clsContained ∧ m.slice = some sl) ∧
    (∀ o, s.hub.mgrActs o → ∃ t, exec (.linkFecClr o l) s = .next t ∧ t.hub.reg (rQL_LINK_FEC l) = 0 ∧ t.hub.reg (rQL_LINK_ERR l) = 0 ∧
      t = s.withHub { s.hub with regs := t.hub.regs, out := .regOk :: s.hub.out } ∧
      ∀ a, a ≠ rQL_LINK_FEC l → a ≠ rQL_LINK_ERR l → t.hub.reg a = s.hub.reg a) ∧
    (∃ t, exec (.linkWake l) s = .next t ∧ (t.hub.link l).low = false ∧ t = s.withHub { s.hub with links := t.hub.links } ∧
      ∀ m, m ≠ l.val → t.hub.link m = s.hub.link m) ∧
    (∀ (vc : Fin 3) (since : Nat), (s.hub.link l).starved.getD vc none = some since →
      (since + psMs ≤ s.hub.now → ∃ t, exec (.linkStall l vc) s = .next t ∧
        t.hub.fcol.msgs.map (fun m => (m.kind, m.cls, m.addr)) =
          s.hub.fcol.msgs.map (fun m => (m.kind, m.cls, m.addr)) ++ [(kLINK_STALL, clsCorrected, some l.val)] ∧ t.hub.regs = s.hub.regs) ∧
      (s.hub.now < since + psMs → exec (.linkStall l vc) s = .next s))

/-! ## Chiplet sites -/

/-- A chiplet engine's packet is taken once and in order where its check value holds; a request passes its checks in the order of R368:
the engine held and open (STOPPED), fewer than 16 outstanding, its form, its context enabled; NOTIFY raises its vector, and an access
enters. -/
def Obligations.EngineRequestsPassTheirChecks : Prop :=
  ∀ (s : State) (st : SiteId) (p : Packet) (op : Nat) (c : Instr),
    (op = 1 ∧ c = .siteWrite st p) ∨ (op = 2 ∧ c = .siteRead st p) ∨ (op = 3 ∧ c = .siteAtomic st p) ∨ (op = 4 ∧ c = .notify st p) →
    (pktOf p).op = op → s.hub.stState st = stUP → s.hub.halted = false →
    let f := pktOf p
    let h1 := s.hub.setSite st { s.hub.site st with rxSeq := ((s.hub.site st).rxSeq + 1) % 4096 }
    let wrong (kind cls sl : Nat) : Hub :=
      h1.fault { source := srcOf uSITE st, kind := kind, cls := cls, slice := some sl, ctx := some f.ctx, aux := f.engine }
    let answer (status : Nat) (h : Hub) : Hub :=
      h.sendSite st (mkPacket { op := if op = 4 then 8 else op + 7, engine := f.engine, tag := f.tag, status := status } [])
    (s.hub.siteChkOk st p = false → exec c s = .next (s.withHub (s.hub.siteChkFail st (pktSeq p)))) ∧
    (s.hub.siteChkOk st p = true → pktSeq p ≠ (s.hub.site st).rxSeq → ((s.hub.site st).rxSeq + 4096 - pktSeq p) % 4096 < 2048 →
      exec c s = .next s) ∧
    (s.hub.siteChkOk st p = true → pktSeq p ≠ (s.hub.site st).rxSeq → 2048 ≤ ((s.hub.site st).rxSeq + 4096 - pktSeq p) % 4096 →
      exec c s = .next (s.withHub (s.hub.sendSiteCredit st (s.hub.site st).rxSeq true))) ∧
    (s.hub.siteChkOk st p = true → pktSeq p = (s.hub.site st).rxSeq →
      (s.hub.engineOwner st f.engine = none → exec c s = .next (s.withHub (answer 4 h1))) ∧
      (∀ sl, s.hub.engineOwner st f.engine = some sl →
        (s.hub.engineOpen st f.engine = false → exec c s = .next (s.withHub (answer 4 h1))) ∧
        (s.hub.engineOpen st f.engine = true → 16 ≤ s.hub.engineOut st f.engine →
          exec c s = .next (s.withHub (answer 4 (wrong kSITE_CREDIT clsCorrected sl)))) ∧
        (s.hub.engineOpen st f.engine = true → s.hub.engineOut st f.engine < 16 →
          (requestOk op p = false → exec c s = .next (s.withHub (answer 1 (wrong kSITE_PROTO clsContained sl)))) ∧
          (requestOk op p = true → s.hub.ctxOn sl f.ctx = false → ∃ m, m.kind = kCTX_OFF ∧ m.cls = clsCorrected ∧ m.slice = some sl ∧
            m.ctx = some f.ctx ∧ exec c s = .next (s.withHub (answer 1 (h1.fault m)))) ∧
          (requestOk op p = true → s.hub.ctxOn sl f.ctx = true →
            (op = 4 → exec c s = .next (s.withHub (answer 0 (h1.raiseVf sl f.vec)))) ∧
            (op ≠ 4 → exec c s = .next (s.withHub (h1.enterEngine st sl op p)))))))

/-- A response from a chiplet's window answers the request its tag names, or fails it as its STATUS says, and one that fits none is
discarded; a request without an answer for RESP_TO fails with SITE_TO; an engine's closing ends with its QUIESCE_DONE or after 100
microseconds with SITE_QTO. A site's CREDIT takes acknowledged packets out of the replay buffer, and a NAK in it has them sent again; the
timer sends CREDIT; HELLO takes what the chiplet advertises and brings the site up; the control register enables, retrains and takes it
DOWN. -/
def Obligations.SitesAnswerQuiesceAndComeUp : Prop :=
  (
    (∀ (s : State) (st : SiteId) (p : Packet) (c : Instr),
      ((pktOf p).op = 0x18 ∧ c = .wwriteAck st p) ∨ ((pktOf p).op = 0x19 ∧ c = .wreadRsp st p) ∨ ((pktOf p).op = 0x1A ∧ c = .watomicRsp st p) →
      s.hub.stState st = stUP → s.hub.halted = false → s.hub.siteChkOk st p = true → pktSeq p = (s.hub.site st).rxSeq →
      let h1 := s.hub.setSite st { s.hub.site st with rxSeq := ((s.hub.site st).rxSeq + 1) % 4096 }
      let h2 := h1.updSite st (fun k => { k with wins := mapDel k.wins (pktOf p).tag })
      (mapGet (s.hub.site st).wins (pktOf p).tag = none → exec c s = .next (s.withHub h1)) ∧
      (∀ w i q, mapGet (s.hub.site st).wins (pktOf p).tag = some w → w.key = none → w.req = some i → s.hub.req i = some q →
        (winFits q p = false → exec c s = .next (s.withHub h1)) ∧
        (winFits q p = true → (pktOf p).status ≠ 0 → exec c s = .next (s.withHub
          (h2.winFail st w (chipletFailure (pktOf p).status).2 (chipletFailure (pktOf p).status).1).pumpSite)) ∧
        (winFits q p = true → (pktOf p).status = 0 → q.kind = .read → exec c s = .next (s.withHub
          (((h2.setReq i { q with data := p.data }).doneReq i).settleSrc q.src).pumpSite))) ∧
      (∀ w sl, mapGet (s.hub.site st).wins (pktOf p).tag = some w → w.key = some sl → (pktOf p).op = 0x18 → (pktOf p).status = 0 →
        exec c s = .next (s.withHub (h2.keyDelivered sl).pumpSite))) ∧
    (∀ (s : State) (st : SiteId) (tag : QueueId) (w : WinReq), mapGet (s.hub.site st).wins tag = some w →
      (w.since + s.hub.siteRespTo ≤ s.hub.now → exec (.siteWindowTimeout st tag) s = .next (s.withHub
        ((((s.hub.updSite st (fun k => { k with wins := mapDel k.wins tag })).count (rSITE_ERR st) fSITE_ERR_TIMEOUTS 1).winFail st w kSITE_TO
          fsTIMEOUT).pumpSite))) ∧
      (s.hub.now < w.since + s.hub.siteRespTo → exec (.siteWindowTimeout st tag) s = .next s)) ∧
    (∀ (s : State) (st : SiteId) (p : Packet) (t : Nat), (pktOf p).op = 0x1D → s.hub.stState st = stUP → s.hub.halted = false →
      s.hub.siteChkOk st p = true → pktSeq p = (s.hub.site st).rxSeq → mapGet (s.hub.site st).closing (pktOf p).engine = some t →
      exec (.siteQuiesceDone st p) s = .next (s.withHub
        ((s.hub.setSite st { s.hub.site st with rxSeq := ((s.hub.site st).rxSeq + 1) % 4096 }).quiesced st (pktOf p).engine))) ∧
    (∀ (s : State) (st : SiteId) (e : RegionId) (since : Nat), mapGet (s.hub.site st).closing e = some since →
      (since + 100 * psUs ≤ s.hub.now → ∃ t, exec (.siteQuiesceTimeout st e) s = .next t ∧ mapGet (t.hub.site st).closing e = none ∧
        e.val ∈ (t.hub.site st).dead ∧ t.hub.fld (rSITE_ENGe st e) fSITE_ENGe_STATE = 0 ∧
        (∀ sl, s.hub.engineOwner st e = some sl → ∃ m ∈ t.hub.fcol.msgs, m.kind = kSITE_QTO ∧ m.cls = clsContained ∧ m.slice = some sl)) ∧
      (s.hub.now < since + 100 * psUs → exec (.siteQuiesceTimeout st e) s = .next s))) ∧
  (
    ∀ (s : State) (st : SiteId),
      (s.hub.stState st = stUP → s.hub.halted = false →
        (∀ p, (pktOf p).op = 0x1E → s.hub.siteChkOk st p = true →
          (bit p.w1.toNat 12 = false → exec (.siteCreditPacket st p) s = .next (s.withHub (Hub.flushSite 256 (s.hub.updSite st
            (fun k => { k with replay := k.replay.filter (fun e => decide (2048 ≤ (bits p.w1.toNat 11 0 + 4096 - e.1) % 4096)) })) st))) ∧
          (bit p.w1.toNat 12 = true → (s.hub.site st).replay.any (fun e => e.1 == bits p.w1.toNat 11 0) = true →
            exec (.siteCreditPacket st p) s = .next (s.withHub
              ((s.hub.count (rSITE_ERR st) fSITE_ERR_RESENDS 1).resendSite st (bits p.w1.toNat 11 0)))) ∧
          (bit p.w1.toNat 12 = true → (∀ e ∈ (s.hub.site st).replay, e.1 ≠ bits p.w1.toNat 11 0) → exec (.siteCreditPacket st p) s = .next s)) ∧
        exec (.siteCreditTimer st) s = .next (s.withHub (s.hub.sendSiteCredit st (((s.hub.site st).rxSeq + 4095) % 4096) false))) ∧
      (s.hub.stState st ≠ stUP → exec (.siteCreditTimer st) s = .next s) ∧
      (∀ p, (pktOf p).op = 0x1F → s.hub.stState st = stTRAINING ∨ s.hub.stState st = stRETRAINING → s.hub.halted = false →
        s.hub.siteChkOk st p = true → pktSeq p = (s.hub.site st).rxSeq → exec (.hello st p) s = .next (s.withHub
          ((s.hub.setSite st { s.hub.site st with rxSeq := ((s.hub.site st).rxSeq + 1) % 4096 }).takeHello st p))) ∧
      (∀ (h : Hub) (p : Packet), h.stState st = stTRAINING → (h.site st).enabledAt + 10 * psMs < h.now → h.takeHello st p = h.downSite st) ∧
      (∀ (h : Hub) (p : Packet), h.stState st = stTRAINING → h.now ≤ (h.site st).enabledAt + 10 * psMs → (h.site st).txq = [] →
        h.keyOrder = [] → h.reqs = [] → h.forme.slices = [] → h.items = [] → h.fabricOps = [] → (h.takeHello st p).stState st = stUP ∧
          (h.takeHello st p).fld (rSITE_STS st) fSITE_STS_ENGINES = min (bits p.w1.toNat 6 0) 64 ∧
          (h.takeHello st p).fld (rSITE_STS st) fSITE_STS_VENDOR = bits p.w1.toNat 22 7 ∧
          ((h.takeHello st p).site st).wcred = bits p.w1.toNat 62 47) ∧
      (∀ o, s.hub.mgrActs o →
        (s.hub.stState st = stDISABLED → s.hub.flag (rSITE_CTL st) fSITE_CTL_DOWN = false → ∃ t, exec (.siteEnable o st) s = .next t ∧
          t.hub.stState st = stTRAINING ∧ t.hub.flag (rSITE_CTL st) fSITE_CTL_EN = true ∧ (t.hub.site st).enabledAt = s.hub.now ∧
          ∀ a, a ≠ rSITE_CTL st → a ≠ rSITE_STS st → t.hub.reg a = s.hub.reg a) ∧
        (s.hub.stState st = stUP → s.hub.flag (rSITE_CTL st) fSITE_CTL_EN = true →
          (s.hub.flag (rSITE_CTL st) fSITE_CTL_DOWN = false → ∃ t, exec (.siteRetrain o st) s = .next t ∧ t.hub.stState st = stRETRAINING ∧
            t.hub.sites = s.hub.sites) ∧
          (s.hub.flag (rSITE_CTL st) fSITE_CTL_RETRAIN = false → exec (.siteDown o st) s = .next (s.withHub ((s.hub.regOk.writeRW
            (rSITE_CTL st) [fSITE_CTL_EN] [] (setFld (s.hub.reg (rSITE_CTL st)) fSITE_CTL_DOWN 1)).downSite st))))))

/-! ## Host functions, mailboxes and MSI-X -/

/-- The oldest pending vector of an active host link leaves: its message is sent, or masked its Pending Bit is set; one whose Pending Bit
is set is sent once its mask is cleared; nothing leaves without one, or while the link is down or its unit has stopped. A mailbox message
goes toward the other side with the next SEQ where a place is free and LEN is at most 56, and TX_REFUSED is set otherwise; POP takes the
oldest. -/
def Obligations.MessagesLeaveTowardHosts : Prop :=
  (∀ (s : State) (k : HostLink) (v : Nat × Nat) (vs : List (Nat × Nat)), (s.hub.msixOf k).slots = v :: vs → (s.hub.msixOf k).backlog = [] →
    (s.hub.msixRuns k = true →
      (∃ t, exec (.msixSend k (.oldest false)) s = .next t ∧ t.hub.out = .msix k v.1 v.2 :: s.hub.out ∧ (t.hub.msixOf k).slots = vs ∧
        (t.hub.msixOf k).pendBits = (s.hub.msixOf k).pendBits.erase v ∧ t = s.withHub { s.hub with msix := t.hub.msix, out := t.hub.out }) ∧
      (∃ t, exec (.msixSend k (.oldest true)) s = .next t ∧ (t.hub.msixOf k).slots = vs ∧ v ∈ (t.hub.msixOf k).pendBits ∧
        t = s.withHub { s.hub with msix := t.hub.msix }))) ∧
  (∀ (s : State) (k : HostLink), s.hub.msixRuns k = true →
    ((s.hub.msixOf k).slots = [] → ∀ masked, exec (.msixSend k (.oldest masked)) s = .next s) ∧
    (∀ n v, (s.hub.msixOf k).pendBits[n]? = some v → ∃ t, exec (.msixSend k (.pending n)) s = .next t ∧
      t.hub.out = .msix k v.1 v.2 :: s.hub.out ∧ (t.hub.msixOf k).pendBits = (s.hub.msixOf k).pendBits.erase v ∧
      (t.hub.msixOf k).slots = (s.hub.msixOf k).slots ∧ t = s.withHub { s.hub with msix := t.hub.msix, out := t.hub.out }) ∧
    (∀ n, (s.hub.msixOf k).pendBits[n]? = none → exec (.msixSend k (.pending n)) s = .next s)) ∧
  (∀ (s : State) (k : HostLink) (x : MsixPick), s.hub.msixRuns k = false → exec (.msixSend k x) s = .next s) ∧
  (∀ (s : State) (o : Origin) (sl : SliceId), s.hub.vfOf o = some sl.val → s.hub.hostBusy o = false → s.hub.flag (rMBX_T_CTL sl) fMBX_T_CTL_SEND = false →
    s.hub.flag (rMBX_T_CTL sl) fMBX_T_CTL_POP = false →
    let m := s.hub.composed (rMBX_T_TXDn sl)
    (mayQueue (s.hub.mbx sl).toMgr m = true → ∃ t, exec (.mailboxTenantSend o sl) s = .next t ∧
      (t.hub.mbx sl).toMgr = (s.hub.mbx sl).toMgr ++ [patch m 0 (toLE 2 (((s.hub.mbx sl).seqM + 1) % 65536))] ∧
      (t.hub.mbx sl).seqM = ((s.hub.mbx sl).seqM + 1) % 65536 ∧ (t.hub.mbx sl).toTen = (s.hub.mbx sl).toTen ∧
      ∀ a, a ≠ rMBX_T_CTL sl → t.hub.reg a = s.hub.reg a) ∧
    (mayQueue (s.hub.mbx sl).toMgr m = false → ∃ t, exec (.mailboxTenantSend o sl) s = .next t ∧ t.hub.mail = s.hub.mail ∧
      t.hub.flag (rMBX_T_STS sl) fMBX_T_STS_TX_REFUSED = true ∧
      ∀ a, a ≠ rMBX_T_CTL sl → a ≠ rMBX_T_STS sl → t.hub.reg a = s.hub.reg a) ∧
    (∃ t, exec (.mailboxTenantPop o sl) s = .next t ∧ (t.hub.mbx sl).toTen = (s.hub.mbx sl).toTen.tail ∧
      (t.hub.mbx sl).toMgr = (s.hub.mbx sl).toMgr ∧ ∀ a, a ≠ rMBX_T_CTL sl → t.hub.reg a = s.hub.reg a)) ∧
  (∀ (s : State) (o : Origin) (sl : SliceId), s.hub.mgrActs o → s.hub.flag (rMBX_M_CTL sl) fMBX_M_CTL_SEND = false →
    s.hub.flag (rMBX_M_CTL sl) fMBX_M_CTL_POP = false →
    let m := s.hub.composed (rMBX_M_TXDn sl)
    (mayQueue (s.hub.mbx sl).toTen m = true → ∃ t, exec (.mailboxManagerSend o sl) s = .next t ∧
      (t.hub.mbx sl).toTen = (s.hub.mbx sl).toTen ++ [patch m 0 (toLE 2 (((s.hub.mbx sl).seqT + 1) % 65536))] ∧
      (t.hub.mbx sl).seqT = ((s.hub.mbx sl).seqT + 1) % 65536 ∧ (t.hub.mbx sl).toMgr = (s.hub.mbx sl).toMgr ∧
      ∀ a, a ≠ rMBX_M_CTL sl → t.hub.reg a = s.hub.reg a) ∧
    (mayQueue (s.hub.mbx sl).toTen m = false → ∃ t, exec (.mailboxManagerSend o sl) s = .next t ∧ t.hub.mail = s.hub.mail ∧
      t.hub.flag (rMBX_M_STS sl) fMBX_M_STS_TX_REFUSED = true ∧
      ∀ a, a ≠ rMBX_M_CTL sl → a ≠ rMBX_M_STS sl → t.hub.reg a = s.hub.reg a) ∧
    (∃ t, exec (.mailboxManagerPop o sl) s = .next t ∧ (t.hub.mbx sl).toMgr = (s.hub.mbx sl).toMgr.tail ∧
      (t.hub.mbx sl).toTen = (s.hub.mbx sl).toTen ∧ ∀ a, a ≠ rMBX_M_CTL sl → t.hub.reg a = s.hub.reg a)) ∧
  (∀ (s : State) (o : Origin) (sl : SliceId), s.hub.hostBusy o = false → s.hub.vfOf o ≠ some sl.val →
    exec (.mailboxTenantSend o sl) s = .next (s.withHub (s.hub.turnedAway o)) ∧
    exec (.mailboxTenantPop o sl) s = .next (s.withHub (s.hub.turnedAway o)))

/-- Functions come and go: a function reset does a slice reset's work on the slice it serves and reports once that is done; VF Enable and
NumVFs present the virtual functions and remove those no longer presented; a link that goes down takes its functions with it, and one in
use that has trained is active with its width and speed. -/
def Obligations.FunctionsAreResetAndRemoved : Prop :=
  (∀ (s : State) (port : Fin 2) (i : Nat),
    (s.hub.presented port i = false → exec (.vfFunctionLevelReset port i) s = .next s) ∧
    (s.hub.presented port i = true → s.hub.vfSlice port i = none →
      exec (.vfFunctionLevelReset port i) s = .next (s.withHub (s.hub.emit (.flrDone (.vf port i))))) ∧
    (∀ sl, s.hub.presented port i = true → s.hub.vfSlice port i = some sl →
      let h1 := ({ s.hub with flrs := s.hub.flrs ++ [(HostFn.vf port i, [sl])] } : Hub).functionReset sl
      exec (.vfFunctionLevelReset port i) s = .next (s.withHub (if (h1.rt sl).resetting then h1 else h1.flrStep sl)))) ∧
  (∀ (s : State) (k : HostLink), s.hub.linkUsed k = true →
    exec (.pfFunctionLevelReset k) s = .next (s.withHub (s.hub.pfReset k)) ∧
    (∀ n en, exec (.sriovConfigWrite k n en) s = .next (s.withHub (s.hub.setVfs k n en))) ∧
    (∀ n, n ≤ 1024 → s.hub.forme.slices = [] → ∃ t, exec (.sriovConfigWrite k n true) s = .next t ∧
      t.hub.fld (rHOST_LINK_STS k) fHOST_LINK_STS_NUMVFS = n ∧ t.hub.flag (rHOST_LINK_STS k) fHOST_LINK_STS_VF_EN = true ∧
      t = s.withHub { s.hub with regs := t.hub.regs } ∧ ∀ a, a ≠ rHOST_LINK_STS k → t.hub.reg a = s.hub.reg a) ∧
    (s.hub.fld (rHOST_LINK_STS k) fHOST_LINK_STS_STATE = 2 → ∃ t, exec (.hostLinkDown k) s = .next t ∧
      t.hub.fld (rHOST_LINK_STS k) fHOST_LINK_STS_STATE = 3 ∧ t.hub.fld (rHOST_LINK_STS k) fHOST_LINK_STS_WIDTH = 0 ∧
      t.hub.fld (rHOST_LINK_STS k) fHOST_LINK_STS_SPEED = 0) ∧
    (∀ w g, s.hub.fld (rHOST_LINK_STS k) fHOST_LINK_STS_STATE ≠ 2 → 1 ≤ w → w ≤ 16 → 1 ≤ g → g ≤ 6 →
      ∃ t, exec (.hostLinkUp k w g) s = .next t ∧ t.hub.fld (rHOST_LINK_STS k) fHOST_LINK_STS_STATE = 2 ∧
        t.hub.fld (rHOST_LINK_STS k) fHOST_LINK_STS_WIDTH = w ∧ t.hub.fld (rHOST_LINK_STS k) fHOST_LINK_STS_SPEED = g ∧
        t = s.withHub { s.hub with regs := t.hub.regs } ∧ ∀ a, a ≠ rHOST_LINK_STS k → t.hub.reg a = s.hub.reg a)) ∧
  (∀ (s : State) (k : HostLink), s.hub.linkUsed k = false → exec (.pfFunctionLevelReset k) s = .next s ∧
    exec (.hostLinkDown k) s = .next s ∧ ∀ n en w g, exec (.sriovConfigWrite k n en) s = .next s ∧ exec (.hostLinkUp k w g) s = .next s)

/-! ## Faults -/

/-- A fault message is numbered, classed and stored: a corrected or contained record goes to the slot at PROD where the queue has room,
and its words say source, kind, class and what it names; a class that its key already holds rises by one, but never to fatal where the
message names a slice. Its effects follow by its class: a contained fault of a live slice puts it in FAULT. -/
def Obligations.FaultMessagesAreClassedStoredAndActedOn : Prop :=
  (∀ (h : Hub) (m : FaultMsg), m.cls ≠ clsFatal → m.cls < 3 → m.slice.isSome = true → (h.classed m).cls ≠ clsFatal) ∧
  (∀ (h : Hub) (m : FaultMsg), h.holdsKey m m.cls = true →
    (m.cls = clsCorrected → (h.classed m).cls = clsContained ∧ (h.classed m).esc = true) ∧
    (m.cls = clsContained → m.slice = none → (h.classed m).cls = clsFatal ∧ (h.classed m).esc = true) ∧
    (m.cls = clsContained → m.slice.isSome = true → (h.classed m).cls = clsContained ∧ (h.classed m).lock = true)) ∧
  (∀ (h : Hub) (m : FaultMsg), h.holdsKey m m.cls = false → (h.classed m).cls = m.cls ∧ (h.classed m).esc = false ∧ (h.classed m).lock = false) ∧
  (∀ (s : State) (i : Nat) (m : FaultMsg) (e : BootEnv), s.hub.fcol.msgs[i]? = some m →
    let h1 : Hub := { s.hub with fcol := { s.hub.fcol with msgs := s.hub.fcol.msgs.eraseIdx i } }
    let x := h1.storeFault m
    let p := s.hub.fld rFCOL_Q_PTR fFCOL_Q_PTR_PROD
    exec (.faultMessage i e) s = .next { s with fuses := (applyFault s.fuses x.2.2 x.1 x.2.1 e).1, hub := (applyFault s.fuses x.2.2 x.1 x.2.1 e).2 } ∧
    x.1.seq = s.hub.fcol.seq ∧ x.2.2.fcol.seq = (s.hub.fcol.seq + 1) % 2 ^ 32 ∧ x.2.2.fcol.msgs = s.hub.fcol.msgs.eraseIdx i ∧
    (x.1.cls ≠ clsFatal → s.hub.unacked.length < 1024 → x.2.1 = .kept ∧
      x.2.2.fld rFCOL_Q_PTR fFCOL_Q_PTR_PROD = (p + 1) % 2 ^ 32 ∧
      (∀ k, k < 4 → x.2.2.reg (rFCOL_Qi_k (p % 1024) k) = (x.1.words s.hub.now).getD k 0) ∧
      ∀ a, a ≠ rFCOL_Q_PTR → (∀ k, k < 4 → a ≠ rFCOL_Qi_k (p % 1024) k) → x.2.2.reg a = s.hub.reg a) ∧
    (x.1.cls = clsCorrected → s.hub.unacked.length = 1024 → x.2.1 = .dropped ∧
      x.2.2.fld rFCOL_OVF fFCOL_OVF_CORR_DROP = min (s.hub.fld rFCOL_OVF fFCOL_OVF_CORR_DROP + 1) (2 ^ 32 - 1) ∧
      ∀ a, a ≠ rFCOL_OVF → x.2.2.reg a = s.hub.reg a) ∧
    (x.1.cls = clsFatal → s.hub.latchSlot = none → x.2.1 = .fifth ∧ applyFault s.fuses x.2.2 x.1 x.2.1 e =
      hubReset s.fuses x.2.2 3 m.source m.kind e)) ∧
  (∀ (s : State) (i : Nat) (m : FaultMsg) (e : BootEnv) (sl : SliceId), s.hub.fcol.msgs[i]? = some m → m.slice = some sl.val →
    m.cls = clsContained → m.kind < 2 ^ 16 → s.hub.holdsKey m m.cls = false → s.hub.unacked.length < 1024 → s.hub.reactions m.source = reIRQ →
    m.source / 1024 ≠ uSITE → s.hub.stateOf sl = slLIVE → s.hub.flag (rSLM_MOVE sl) fSLM_MOVE_BUSY = false →
    ∃ t, exec (.faultMessage i e) s = .next t ∧ t.fuses = s.fuses ∧ t.hub.stateOf sl = slFAULT ∧
      t.hub.fld (rSLM_FAULT sl) fSLM_FAULT_KIND = m.kind ∧ t.hub.flag (rSLM_FAULT sl) fSLM_FAULT_LOCK = false ∧
      t.hub.flag (rSLM_FAULT sl) fSLM_FAULT_AUTO = autoExit m.kind ∧ (t.hub.rt sl).faultAt = s.hub.now ∧ t.hub.hbm = s.hub.hbm ∧
      ∀ r : SliceId, r ≠ sl → t.hub.stateOf r = s.hub.stateOf r)

/-- The collector's registers: CONS advances no further than PROD; OVF_CLR zeroes FCOL_OVF; FATAL_ACK frees the entries it names; SET and
CLR move HOLD, a CLR during the pulse as it ends; the query answers with the reactions in force; the hub leaves its fault state when every
condition holds, and not before. Kelvy's watchdog is kicked by Kelvy alone, and expires once a period has passed while firmware runs; a
mismatch of its cores and a bad configuration entry raise their fatal faults once a start has begun, and an error of its memory that is
corrected a corrected one. -/
def Obligations.CollectorAndWatchdogRegisters : Prop :=
  (
    ∀ (s : State) (o : Origin) (v : Word), s.hub.mgrActs o →
      let c := s.hub.fld rFCOL_Q_PTR fFCOL_Q_PTR_CONS
      let d (x : Nat) : Nat := (x + 2 ^ 32 - c) % 2 ^ 32
      (d (vFld v fFCOL_Q_PTR_CONS) ≤ d (s.hub.fld rFCOL_Q_PTR fFCOL_Q_PTR_PROD) → ∃ t, exec (.faultQueueConsume o v) s = .next t ∧
        t.hub.fld rFCOL_Q_PTR fFCOL_Q_PTR_CONS = vFld v fFCOL_Q_PTR_CONS ∧
        t.hub.fld rFCOL_Q_PTR fFCOL_Q_PTR_PROD = s.hub.fld rFCOL_Q_PTR fFCOL_Q_PTR_PROD ∧
        t = s.withHub { s.hub with regs := t.hub.regs, out := .regOk :: s.hub.out } ∧ ∀ a, a ≠ rFCOL_Q_PTR → t.hub.reg a = s.hub.reg a) ∧
      (d (s.hub.fld rFCOL_Q_PTR fFCOL_Q_PTR_PROD) < d (vFld v fFCOL_Q_PTR_CONS) →
        exec (.faultQueueConsume o v) s = .next (s.withHub s.hub.regErr)) ∧
      (∃ t, exec (.faultQueueOvfClr o) s = .next t ∧ t.hub.reg rFCOL_OVF = 0 ∧
        t = s.withHub { s.hub with regs := t.hub.regs, out := .regOk :: s.hub.out } ∧
        ∀ a, a ≠ rFCOL_OVF → a ≠ rFCOL_CTL → t.hub.reg a = s.hub.reg a) ∧
      (∀ n, n < 4 → bit (vFld v fFCOL_FATAL_ACK_ACK) n = true → ∃ t, exec (.fatalAck o v) s = .next t ∧ t.hub.latchValid n = false ∧
        t.hub.latchPre n = false ∧ t.hub.fcol.blocked.getD n [] = [] ∧
        (∀ m, m < 4 → bit (vFld v fFCOL_FATAL_ACK_ACK) m = false → t.hub.latchValid m = s.hub.latchValid m) ∧
        ∀ a, a ≠ rFCOL_FATAL_STS → t.hub.reg a = s.hub.reg a) ∧
      (∃ t, exec (.errPinSet o) s = .next t ∧ t.hub.flag rFCOL_PIN fFCOL_PIN_HOLD = true ∧ t.hub.fcol.clrPending = false ∧
        ∀ a, a ≠ rFCOL_PIN → t.hub.reg a = s.hub.reg a) ∧
      (s.hub.flag rFCOL_PIN fFCOL_PIN_PULSE = false → ∃ t, exec (.errPinClr o) s = .next t ∧ t.hub.flag rFCOL_PIN fFCOL_PIN_HOLD = false ∧
        ∀ a, a ≠ rFCOL_PIN → t.hub.reg a = s.hub.reg a) ∧
      (s.hub.flag rFCOL_PIN fFCOL_PIN_PULSE = true → ∃ t, exec (.errPinClr o) s = .next t ∧ t.hub.fcol.clrPending = true ∧
        t.hub.regs = s.hub.regs) ∧
      (∀ due, s.hub.fcol.pulseEnd = some due → due ≤ s.hub.now → ∃ t, exec .errPinPulseEnd s = .next t ∧
        t.hub.flag rFCOL_PIN fFCOL_PIN_PULSE = false ∧ t.hub.fcol.pulseEnd = none ∧
        t.hub.flag rFCOL_PIN fFCOL_PIN_HOLD = (s.hub.flag rFCOL_PIN fFCOL_PIN_HOLD && !s.hub.fcol.clrPending)) ∧
      (∀ due, s.hub.fcol.pulseEnd = some due → s.hub.now < due → exec .errPinPulseEnd s = .next s) ∧
      (∃ t q, exec (.reactionQuery o v) s = .next t ∧ t.hub.out = .regData q :: .regOk :: s.hub.out ∧
        getFld q fFCOL_REACT_Q_SOURCE = vFld v fFCOL_REACT_Q_SOURCE ∧
        getFld q fFCOL_REACT_Q_REACT = s.hub.reactions (vFld v fFCOL_REACT_Q_SOURCE) % 2 ^ fFCOL_REACT_Q_REACT.w ∧
        t = s.withHub { s.hub with regs := t.hub.regs, out := t.hub.out } ∧ ∀ a, a ≠ rFCOL_REACT_Q → t.hub.reg a = s.hub.reg a) ∧
      (s.hub.mayLeaveFault = true → s.hub.flag rFCOL_PIN fFCOL_PIN_PULSE = false → ∃ t, exec .hubFaultExit s = .next t ∧
        t.hub.flag rFCOL_STS fFCOL_STS_HUB_FAULT = false ∧ t.hub.flag rFCOL_PIN fFCOL_PIN_HOLD = false ∧
        t.hub.fld rFCOL_STS fFCOL_STS_RECOVERIES = min (s.hub.fld rFCOL_STS fFCOL_STS_RECOVERIES + 1) 65535 ∧
        ∀ a, a ≠ rFCOL_STS → a ≠ rFCOL_PIN → t.hub.reg a = s.hub.reg a) ∧
      (s.hub.mayLeaveFault = false → exec .hubFaultExit s = .next s)) ∧
  (
    ∀ (s : State) (v : Word),
      (vFld v fWDG_KLV_PERIOD_MS ≤ 60000 → ∃ t, exec (.klvWatchdogKick .kelvy v) s = .next t ∧ t.hub.klv.kickedAt = s.hub.now ∧
        t.hub.fld rWDG_KLV fWDG_KLV_PERIOD_MS = vFld v fWDG_KLV_PERIOD_MS ∧ t.hub.fld rWDG_KLV fWDG_KLV_EN = vFld v fWDG_KLV_EN ∧
        t = s.withHub { s.hub with regs := t.hub.regs, klv := t.hub.klv, out := .regOk :: s.hub.out } ∧
        ∀ a, a ≠ rWDG_KLV → t.hub.reg a = s.hub.reg a) ∧
      (60000 < vFld v fWDG_KLV_PERIOD_MS → exec (.klvWatchdogKick .kelvy v) s = .next (s.withHub s.hub.regErr)) ∧
      (∀ k, exec (.klvWatchdogKick (.pf k) v) s = .next (s.withHub s.hub.regErr)) ∧
      (s.hub.flag rWDG_KLV fWDG_KLV_EN = true → s.hub.bootStage = 6 → s.hub.klv.kickedAt + s.hub.wdgPeriod < s.hub.now →
        ∃ t, exec .klvWatchdogExpiry s = .next t ∧ t.hub.klv.kickedAt = s.hub.now ∧
          t.hub.fld rWDG_STS fWDG_STS_KLV_EXPIRED = min (s.hub.fld rWDG_STS fWDG_STS_KLV_EXPIRED + 1) 65535 ∧
          t.hub.fcol.msgs = s.hub.fcol.msgs ++ [{ source := srcOf uWDG 0, kind := kKLV_WDG, cls := clsFatal }] ∧
          ∀ a, a ≠ rWDG_STS → t.hub.reg a = s.hub.reg a) ∧
      (s.hub.flag rWDG_KLV fWDG_KLV_EN = false ∨ s.hub.bootStage ≠ 6 ∨ s.hub.now ≤ s.hub.klv.kickedAt + s.hub.wdgPeriod →
        exec .klvWatchdogExpiry s = .next s) ∧
      (s.hub.fld rWDG_KLV fWDG_KLV_PERIOD_MS = 0 → s.hub.wdgPeriod = 1000 * psMs) ∧
      (s.hub.bootStage ≠ 0 → exec .lockstepMismatch s = .next (s.withHub (s.hub.faultS uKLV 0 kKLV_LOCKSTEP clsFatal none 0)) ∧
        exec (.configParityScrub ⟨true, false⟩) s = .next (s.withHub (s.hub.faultS uHUB 0 kCFG_PARITY clsFatal none 0)) ∧
        exec (.configParityScrub ⟨false, true⟩) s = .next (s.withHub (s.hub.faultS uKLV 0 kKLV_ECC clsCorrected none 0))) ∧
      exec (.configParityScrub ⟨false, false⟩) s = .next s)

/-! ## Arrays, cells and their tests -/

/-- A cell reset ends once no request of the cell is out: its registers are zero, it reads FAULTED, and the LAUNCHes and LOADs of a cell
that cannot replay end FAULT. An array reset ends so for every cell of the array, drops their storage and begins the self-test; a test
starts on an idle lit array that is due or asked for, and its end puts the array in service or raises ARRAY_TEST and resets the arrays
fused with it. -/
def Obligations.CellsAndArraysAreResetAndTested : Prop :=
  (∀ (s : State) (c : CellId), (s.hub.cell c).run = .inReset →
    (s.hub.cellBusyOut c = false → ∃ t, exec (.cellReset c) s = .next t ∧ (t.hub.cell c).run = .faulted ∧
      (t.hub.cell c).regs = Vector.replicate 32 0 ∧ (t.hub.cell c).pc = 0 ∧ (t.hub.cell c).gstat = 0 ∧
      ((s.hub.cell c).replayable = false → t = s.withHub ((s.hub.endLaunches [c] stFAULT).updCell c Cell.endReset)) ∧
      ((s.hub.cell c).replayable = true ∨ s.hub.items = [] → (t.hub.cell c).mem = (s.hub.cell c).mem ∧
        t = s.withHub { s.hub with cells := t.hub.cells, restAt := t.hub.restAt } ∧ ∀ d, d ≠ c.val → t.hub.cell d = s.hub.cell d)) ∧
    (s.hub.cellBusyOut c = true → exec (.cellReset c) s = .next s)) ∧
  (∀ (s : State) (c : CellId), (s.hub.cell c).run ≠ .inReset → exec (.cellReset c) s = .next s) ∧
  (∀ (s : State) (a : ArrayId), s.hub.fld (rARR_STAT a) fARR_STAT_MODE = 2 → s.hub.forme.slices = [] → s.hub.items = [] →
    (∀ c, c / 128 = a.val → s.hub.cellBusyOut c = false) → ∃ t, exec (.arrayReset a) s = .next t ∧ t.hub.arrMode a = 1 ∧
      (∀ c, c / 128 = a.val → t.hub.cell c = {}) ∧ (∀ c, c / 128 ≠ a.val → t.hub.cell c = s.hub.cell c) ∧
      ∀ r, r ≠ rARR_STAT a → t.hub.reg r = s.hub.reg r) ∧
  (∀ (s : State) (a : ArrayId), s.hub.fld (rARR_STAT a) fARR_STAT_MODE ≠ 2 → exec (.arrayReset a) s = .next s) ∧
  (∀ (s : State) (a : ArrayId), s.hub.arrMode a = 0 → s.hub.pwrState = 0 → s.hub.halted = false → s.hub.arrIdle a (100 * psUs) = true →
    (3600 < s.hub.testAge a → ∃ t, exec (.selfTestStart a) s = .next t ∧ t.hub.arrMode a = 1 ∧ s.hub.cells = t.hub.cells ∧
      ∀ r, r ≠ rARR_STAT a → t.hub.reg r = s.hub.reg r) ∧
    (s.hub.testAge a ≤ 3600 → (mapGetD s.hub.tests a (0, false)).2 = false → exec (.selfTestStart a) s = .next s)) ∧
  (∀ (s : State) (o : Origin) (a : ArrayId), s.hub.mgrActs o → ∃ t, exec (.selfTestRunNow o a) s = .next t ∧
    (mapGetD t.hub.tests a (0, false)).2 = true ∧ t = s.withHub { s.hub with tests := t.hub.tests, out := .regOk :: s.hub.out }) ∧
  (∀ (s : State) (a : ArrayId), s.hub.arrMode a = 1 → s.hub.badArrays.contains a.val = false → s.hub.flag (rARR_CTL a) fARR_CTL_RETIRE = false →
    (∃ t, exec (.selfTestDone a true) s = .next t ∧ t.hub.arrMode a = 0 ∧ t.hub.flag (rARR_TEST a) fARR_TEST_PASS = true ∧
      t.hub.flag (rARR_TEST a) fARR_TEST_DUE = false ∧ mapGetD t.hub.tests a (0, false) = (s.hub.now, false) ∧ t.hub.cells = s.hub.cells) ∧
    (s.hub.cells = [] → s.hub.arraySlices a = [] → ∃ t, exec (.selfTestDone a false) s = .next t ∧ t.hub.arrMode a = 1 ∧
      t.hub.flag (rARR_TEST a) fARR_TEST_PASS = false ∧ a.val ∈ t.hub.badArrays ∧
      (∀ g, s.hub.fuseOf a = some g → ∀ b ∈ g.arrays, b ≠ a.val → b ∉ s.hub.badArrays → t.hub.arrMode b = 2) ∧
      ∃ m ∈ t.hub.fcol.msgs, m.kind = kARRAY_TEST ∧ m.cls = clsContained ∧ m.source = srcOf uARR a)) ∧
  (∀ (s : State) (a : ArrayId), s.hub.flag (rARR_TEST a) fARR_TEST_DUE = false →
    (82800 < s.hub.testAge a → ∃ t, exec (.testDue a) s = .next t ∧ t.hub.flag (rARR_TEST a) fARR_TEST_DUE = true ∧
      t.hub.fcol.msgs.map (fun m => (m.kind, m.cls)) = s.hub.fcol.msgs.map (fun m => (m.kind, m.cls)) ++ [(kTEST_DUE, clsCorrected)] ∧
      ∀ r, r ≠ rARR_TEST a → t.hub.reg r = s.hub.reg r) ∧
    (s.hub.testAge a ≤ 82800 → exec (.testDue a) s = .next s))

/-! ## Fuses, the lifecycle and the TAP -/

/-- Kelvy's LCS_PROG programs its target where it is blank in OPEN, and is refused otherwise with its RESULT; the data is zeroed. A
transition whose checks fail leaves its code, a fresh nonce and a zero token; one whose checks pass marks INTENT and resets the hub. -/
def Obligations.FusesAreProgrammedAndTransitionsChecked : Prop :=
  (∀ (s : State) (v : Word), s.hub.progJob = none → ∃ t, exec (.fuseProgram .kelvy v) s = .next t ∧
    t.hub.progJob = some (vFld v fLCS_PROG_TARGET) ∧ t.hub.flag rLCS_PROG fLCS_PROG_BUSY = true ∧ t.fuses = s.fuses ∧
    t = s.withHub { s.hub with regs := t.hub.regs, progJob := t.hub.progJob, out := .regOk :: s.hub.out } ∧
    ∀ a, a ≠ rLCS_PROG → t.hub.reg a = s.hub.reg a) ∧
  (∀ (s : State) (v : Word), s.hub.progJob.isSome = true → exec (.fuseProgram .kelvy v) s = .next (s.withHub s.hub.regErr)) ∧
  (∀ (s : State) (k : HostLink) (v : Word), s.hub.hostBusy (.pf k) = false → exec (.fuseProgram (.pf k) v) s = .next (s.withHub s.hub.regErr)) ∧
  (∀ (s : State) (x : Nat), s.hub.progJob = some x → x < 3 →
    (s.hub.lcState = lcOPEN → s.fuses.target s.hub x = 0 → ∃ t, exec (.fuseProgramDone true) s = .next t ∧
      t.hub.fld rLCS_PROG fLCS_PROG_RESULT = 0 ∧ t.hub.flag rLCS_PROG fLCS_PROG_BUSY = false ∧ t.hub.progJob = none ∧
      t.fuses.rows = s.fuses.rows ∧ (x < 2 → t.fuses.target s.hub x = s.hub.progData) ∧ ∀ n, n < 6 → t.hub.reg (rLCS_PROG_DATAn n) = 0) ∧
    (s.hub.lcState ≠ lcOPEN → ∃ t, exec (.fuseProgramDone true) s = .next t ∧ t.fuses = s.fuses ∧
      t.hub.fld rLCS_PROG fLCS_PROG_RESULT = 1) ∧
    (s.hub.lcState = lcOPEN → s.fuses.target s.hub x ≠ 0 → ∃ t, exec (.fuseProgramDone true) s = .next t ∧ t.fuses = s.fuses ∧
      t.hub.fld rLCS_PROG fLCS_PROG_RESULT = 2)) ∧
  (∀ (s : State) (o : Origin) (v : Word), s.hub.lcsMay o = true → s.hub.hostBusy o = false →
    (s.hub.lcsJob = none → ∃ t, exec (.lifecycleTransition o v) s = .next t ∧ t.hub.lcsJob = some (setFld v fLCS_REQ_GO 1) ∧
      t.hub.flag rLCS_REQ fLCS_REQ_BUSY = true ∧ t.fuses = s.fuses ∧ ∀ a, a ≠ rLCS_REQ → t.hub.reg a = s.hub.reg a) ∧
    (s.hub.lcsJob.isSome = true → exec (.lifecycleTransition o v) s = .next (s.withHub s.hub.regErr)) ∧
    (∃ t, exec (.debugLock o) s = .next t ∧ t.hub.flag rLCS_DBG fLCS_DBG_LOCK = true ∧ t.hub.debugOn = false ∧ t.fuses = s.fuses ∧
      ∀ a, a ≠ rLCS_DBG → t.hub.reg a = s.hub.reg a)) ∧
  (∀ (s : State) (v : Word) (e : BootEnv) (ok : Bool), s.hub.lcsJob = some v →
    (∀ c, s.hub.lcsRefused s.fuses v ok = some c → exec (.transitionChecksDone ok e) s = .next (s.withHub (s.hub.lcsOver c)) ∧
      (c < 256 → (s.hub.lcsOver c).fld rLCS_REQ fLCS_REQ_RESULT = c) ∧ (s.hub.lcsOver c).lcsJob = none ∧
      ∀ n, n < 24 → (s.hub.lcsOver c).reg (rLCS_TOKENn n) = 0) ∧
    (s.hub.lcsRefused s.fuses v ok = none →
      let r := warmReset (s.fuses.markIntent s.hub.epoch) { s.hub with lcsJob := none } 4 0 0 e
      exec (.transitionChecksDone ok e) s = .next { s with fuses := r.1, hub := r.2 })) ∧
  (∀ (s : State) (e : BootEnv), s.hub.debugOn = true →
    (∀ a v, readReg s.fuses s.hub .tap a = some v → exec (.tapInstruction (.regRead a) e) s = .next (s.withHub (s.hub.emit (.regData v)))) ∧
    (∃ t, exec (.tapInstruction .kelvyHalt e) s = .next t ∧ t.hub.klv.halted = true ∧ t.hub.regs = s.hub.regs ∧ t.fuses = s.fuses)) ∧
  (∀ (s : State) (e : BootEnv) (a : Nat), s.hub.debugOn = false → exec (.tapInstruction (.regRead a) e) s = .next s ∧
    exec (.tapInstruction .kelvyHalt e) s = .next s ∧ exec (.tapInstruction .kelvyStep e) s = .next s ∧
    exec (.tapInstruction .scanDump e) s = .next s) ∧
  (∀ (s : State) (e : BootEnv), exec (.tapInstruction (.boundary false) e) s = .next s ∧
    (s.hub.lcState = lcOPEN → exec (.tapInstruction (.boundary true) e) s = .next s))

/-! ## Keys and random numbers -/

/-- An operation of KEY_CTL is taken in its turn and leaves BUSY while it runs; while BUSY another is refused. Its end: WRAP leaves a
blob, ZERO empties a slot the slice holds, ATTEST is refused ERR 7 but in CLOSED; a failed random source refuses WRAP with ERR 6. The
third health failure in a row stops every draw, and a reseed ends the count. -/
def Obligations.KeyOperationsRunInTheirTurn : Prop :=
  (∀ (s : State) (o : Origin) (sl : SliceId) (v : Word), s.hub.pfOrKelvy o = true ∨ s.hub.vfOf o = some sl.val →
    s.hub.hostBusy o = false → s.hub.stoppedInst uKEY 0 = false →
    (s.hub.flag (rKEY_STS sl) fKEY_STS_BUSY = false → ∀ op c, (op = kyWRAP ∧ c = .wrap o sl v) ∨ (op = kyZERO ∧ c = .keyZero o sl v) ∨
        (op = kyATTEST ∧ c = .attest o sl v) → ∃ t, exec c s = .next t ∧
      mapGet t.hub.keyJobs sl = some { op := op, ctl := setFld v fKEY_CTL_OP op, mgmt := s.hub.isMgr o } ∧
      t.hub.keyOrder = s.hub.keyOrder ++ [sl.val] ∧ t.hub.flag (rKEY_STS sl) fKEY_STS_BUSY = true ∧ t.hub.keySlots = s.hub.keySlots ∧
      ∀ a, a ≠ rKEY_STS sl → a ≠ rKEY_CTL sl → t.hub.reg a = s.hub.reg a) ∧
    (s.hub.flag (rKEY_STS sl) fKEY_STS_BUSY = false →
      let j : KeyJob := { op := kyDELIVER, ctl := setFld v fKEY_CTL_OP kyDELIVER, mgmt := s.hub.isMgr o }
      let h0 := s.hub.regOk.writeRW (rKEY_CTL sl) keyCtlFields [] j.ctl
      let h1 := { h0 with keyJobs := mapPut h0.keyJobs sl j, keyOrder := h0.keyOrder ++ [sl.val] }.setF (rKEY_STS sl) fKEY_STS_BUSY 1
      (h1.deliverErr sl (setFld v fKEY_CTL_OP kyDELIVER) = none → exec (.deliver o sl v) s = .next (s.withHub (h1.sendKey sl))) ∧
      (∀ e, h1.deliverErr sl (setFld v fKEY_CTL_OP kyDELIVER) = some e → exec (.deliver o sl v) s = .next (s.withHub (h1.keyOpDone sl e))) ∧
      mapGet h1.keyJobs sl = some j ∧ h1.keySlots = s.hub.keySlots ∧ h1.keyOrder = s.hub.keyOrder ++ [sl.val]) ∧
    (s.hub.flag (rKEY_STS sl) fKEY_STS_BUSY = true → ∀ c ∈ [Instr.wrap o sl v, .keyZero o sl v, .deliver o sl v, .attest o sl v],
      exec c s = .next (s.withHub s.hub.regErr))) ∧
  (∀ (s : State) (sl : SliceId) (j : KeyJob), mapGet s.hub.keyJobs sl = some j → s.hub.keyTurn sl = true → s.hub.stoppedInst uKEY 0 = false →
    (j.op = kyWRAP → exec (.keyOperationDone sl) s = .next (s.withHub (s.hub.wrapDone sl j.ctl).pumpSite)) ∧
    (j.op = kyZERO → (s.hub.slD sl).keys.contains (vFld j.ctl fKEY_CTL_SLOT) = true → exec (.keyOperationDone sl) s = .next (s.withHub
      ((s.hub.zeroSlot (vFld j.ctl fKEY_CTL_SLOT)).keyOpDone sl 0).pumpSite)) ∧
    (j.op = kyZERO → (s.hub.slD sl).keys.contains (vFld j.ctl fKEY_CTL_SLOT) = false →
      exec (.keyOperationDone sl) s = .next (s.withHub (s.hub.keyOpDone sl 1).pumpSite)) ∧
    (j.op = kyATTEST → exec (.keyOperationDone sl) s = .next (s.withHub (s.hub.attestDone s.fuses sl j.ctl j.mgmt).pumpSite)) ∧
    (s.hub.lcState ≠ lcCLOSED → s.hub.attestDone s.fuses sl j.ctl j.mgmt = s.hub.keyOpDone sl 7) ∧
    (keyLens.contains (vFld j.ctl fKEY_CTL_KEY_LEN) = true → engOk (vFld j.ctl fKEY_CTL_ENG) = true → s.hub.rngBad = true →
      s.hub.wrapDone sl j.ctl = s.hub.keyOpDone sl 6)) ∧
  (∀ (s : State) (sl : SliceId), s.hub.keyTurn sl = false → exec (.keyOperationDone sl) s = .next s) ∧
  (∀ (h : Hub) (sl : SliceId) (err : Nat), err < 16 → (h.keyOpDone sl err).flag (rKEY_STS sl) fKEY_STS_BUSY = false ∧
    (h.keyOpDone sl err).flag (rKEY_STS sl) fKEY_STS_DONE = true ∧ (h.keyOpDone sl err).fld (rKEY_STS sl) fKEY_STS_ERR = err ∧
    mapGet (h.keyOpDone sl err).keyJobs sl = none) ∧
  (∀ s : State, ∃ t, exec .rngHealthFail s = .next t ∧ t.hub.rngFails = s.hub.rngFails + 1 ∧
    t.hub.fld rKEY_RNG_STS fKEY_RNG_STS_FAILS = min (s.hub.fld rKEY_RNG_STS fKEY_RNG_STS_FAILS + 1) 65535 ∧
    (2 ≤ s.hub.rngFails → t.hub.rngBad = true ∧ t.hub.flag rKEY_RNG_STS fKEY_RNG_STS_FAIL = true) ∧
    (s.hub.rngFails < 2 → t.hub.rngBad = s.hub.rngBad) ∧ ∀ a, a ≠ rKEY_RNG_STS → t.hub.reg a = s.hub.reg a) ∧
  (∀ s : State, (2 ^ 20 ≤ s.hub.generated → s.hub.rngBad = false →
      exec .drbgReseed s = .next (s.withHub { s.hub with generated := 0, rngFails := 0 })) ∧
    (s.hub.generated < 2 ^ 20 ∨ s.hub.rngBad = true → exec .drbgReseed s = .next s))

/-! ## Power states and arrays' own power -/

/-- A request for another power state is taken where no condition of its table stands against it, and refused with its code otherwise; the
state it is in answers at once. Its end sets the state and clears BUSY. RETIRE tests a free array first, DARK gates one, LIGHT lights a
dark one; each is refused for an array that is held. -/
def Obligations.PowerStatesAreEnteredWhereAllowed : Prop :=
  (∀ (s : State) (o : Origin) (target : Nat) (c : Instr), s.hub.mgrActs o → (target = 0 ∧ c = .powerToLit o) ∨ (target = 1 ∧ c = .powerToDim o) ∨
      (target = 2 ∧ c = .powerToDark o) ∨ (target = 3 ∧ c = .powerToShade o) → s.hub.pwrJob = none →
      s.hub.pwrState ≠ 3 ∨ (∃ k, o = .pf k) →
    (target ≠ s.hub.pwrState → s.hub.pwrRefused target = none → ∃ t, exec c s = .next t ∧ t.hub.pwrJob = some target ∧
      t.hub.flag rPWR_STS fPWR_STS_BUSY = true ∧ t.hub.pwrState = s.hub.pwrState ∧
      t.hub.forme = s.hub.forme ∧ t.hub.cells = s.hub.cells ∧
      ∀ a, a ≠ rPWR_STS → a ≠ rPWR_CTL → t.hub.reg a = s.hub.reg a) ∧
    (∀ r, target ≠ s.hub.pwrState → s.hub.pwrRefused target = some r → ∃ t, exec c s = .next t ∧ t.hub.pwrJob = none ∧
      t.hub.fld rPWR_STS fPWR_STS_REFUSED = r % 8 ∧ t.hub.pwrState = s.hub.pwrState ∧
      ∀ a, a ≠ rPWR_STS → a ≠ rPWR_CTL → t.hub.reg a = s.hub.reg a) ∧
    (target = s.hub.pwrState → ∃ t, exec c s = .next t ∧ t.hub.pwrJob = none ∧ t.hub.pwrState = target ∧
      ∀ a, a ≠ rPWR_CTL → t.hub.reg a = s.hub.reg a)) ∧
  (∀ (s : State) (o : Origin), s.hub.mgrActs o → s.hub.pwrJob.isSome = true → exec (.powerToLit o) s = .next (s.withHub s.hub.regErr)) ∧
  (∀ (h : Hub), h.commitJob.isSome = true → ∀ target, h.pwrRefused target = some 4) ∧
  (∀ (s : State) (target : Nat) (fails : List Nat), s.hub.pwrJob = some target → target < 4 → s.hub.pwrState ≠ 3 ∨ s.hub.rngBad = false →
    ∃ t, exec (.powerTransitionDone fails) s = .next t ∧ t.hub.pwrState = target ∧ t.hub.pwrJob = none ∧
      t.hub.flag rPWR_STS fPWR_STS_BUSY = false) ∧
  (∀ (s : State) (fails : List Nat), s.hub.pwrJob = some 1 → s.hub.pwrState = 0 → ∃ t, exec (.powerTransitionDone fails) s = .next t ∧
    t.hub.pwrState = 1 ∧ t.hub.cells = s.hub.cells ∧ ∀ a, a ≠ rPWR_STS → t.hub.reg a = s.hub.reg a) ∧
  (∀ (s : State) (fails : List Nat), s.hub.pwrJob = none → exec (.powerTransitionDone fails) s = .next s) ∧
  (∀ (s : State) (o : Origin) (a : ArrayId), s.hub.mgrActs o →
    (s.hub.arrHeld a = false → s.hub.arrMode a = 0 → ∃ t, exec (.arrayRetire o a) s = .next t ∧ t.hub.arrMode a = 1 ∧
      t.hub.flag (rARR_CTL a) fARR_CTL_RETIRE = true ∧ t.hub.cells = s.hub.cells ∧
      ∀ r, r ≠ rARR_STAT a → r ≠ rARR_CTL a → t.hub.reg r = s.hub.reg r) ∧
    (s.hub.arrHeld a = true → exec (.arrayRetire o a) s = .next (s.withHub s.hub.regErr) ∧
      exec (.arrayDark o a) s = .next (s.withHub s.hub.regErr)) ∧
    (s.hub.arrHeld a = false → s.hub.arrMode a ≠ 3 → ∃ t, exec (.arrayDark o a) s = .next t ∧ t.hub.arrMode a = 4 ∧
      (∀ c, c / 128 ≠ a.val → t.hub.cell c = s.hub.cell c) ∧ ∀ r, r ≠ rARR_STAT a → t.hub.reg r = s.hub.reg r) ∧
    (s.hub.pwrState < 2 → exec (.arrayLight o a) s = .next (s.withHub (s.hub.regOk.lightArray a))) ∧
    (2 ≤ s.hub.pwrState → exec (.arrayLight o a) s = .next (s.withHub s.hub.regErr)))

/-! ## Kelvy's images -/

/-- An image operation is taken at its STAGE where none runs, and an OP while one runs gets an error response; PUSH off STAGE 7, another
off STAGE 6, and SWITCH with nothing staged end at once with RESULT 7, 7 and 5. Each ends with its RESULT, DONE and BUSY down, once its
image can be read; SWITCH runs the staged half once nothing is BUSY, or gives RESULT 4 after 100 ms. -/
def Obligations.ImageOperationsEndWithTheirResult : Prop :=
  (∀ (s : State) (o : Origin) (op : Nat) (c : Instr), s.hub.onBus o = true → s.hub.hostBusy o = false → (op = klPUSH ∧ c = .push o) ∨ (op = klSTAGE ∧ c = .stage o) ∨
      (op = klSWITCH ∧ c = .switch o) ∨ (op = klFLASH ∧ c = .flash o) ∨ (op = klFORME_FLASH ∧ c = .formeFlash o) →
    (s.hub.klv.op.isSome = true → exec c s = .next (s.withHub s.hub.regErr)) ∧
    (s.hub.klv.op = none → s.hub.bootStage = (if op = klPUSH then 7 else 6) →
        (op = klSWITCH → s.hub.flag rKLV_IMG_CTL fKLV_IMG_CTL_STAGED = true) → ∃ t, exec c s = .next t ∧ t.hub.klv.op = some op ∧
      t.hub.flag rKLV_IMG_CTL fKLV_IMG_CTL_BUSY = true ∧ t.hub.klv.imgAddr = s.hub.fld rKLV_IMG_ADDR fKLV_IMG_ADDR_ADDR * 4096 ∧
      t.hub.flash = s.hub.flash ∧ t.hub.klv.halfA = s.hub.klv.halfA ∧ t.hub.klv.halfB = s.hub.klv.halfB ∧
      ∀ a, a ≠ rKLV_IMG_CTL → t.hub.reg a = s.hub.reg a) ∧
    (s.hub.klv.op = none → s.hub.bootStage ≠ (if op = klPUSH then 7 else 6) → ∃ t, exec c s = .next t ∧ t.hub.klv.op = none ∧
      t.hub.fld rKLV_IMG_CTL fKLV_IMG_CTL_RESULT = 7 ∧ t.hub.flag rKLV_IMG_CTL fKLV_IMG_CTL_DONE = true ∧
      ∀ a, a ≠ rKLV_IMG_CTL → t.hub.reg a = s.hub.reg a) ∧
    (s.hub.klv.op = none → s.hub.bootStage = 6 → op = klSWITCH → s.hub.flag rKLV_IMG_CTL fKLV_IMG_CTL_STAGED = false →
      ∃ t, exec c s = .next t ∧ t.hub.fld rKLV_IMG_CTL fKLV_IMG_CTL_RESULT = 5)) ∧
  (∀ (s : State) (ok : Bool) (line : Nat) (ecc : Ecc), let ec := atLine line ecc
    let c : Instr := .imageOperationDone ⟨ok, line, ecc⟩
    (s.hub.imgWaits ec 0x10 1048576 = true → s.hub.klv.op = some klPUSH ∨ s.hub.klv.op = some klSTAGE → exec c s = .next s) ∧
    (s.hub.imgWaits ec 0x18 2097152 = true → s.hub.klv.op = some klFORME_FLASH → exec c s = .next s) ∧
    (s.hub.imgWaits ec 0x10 1048576 = false →
      (∀ r, checkFirmware s.fuses s.hub.lcState (s.hub.imgReader ec) = .error r →
        (s.hub.klv.op = some klPUSH → exec c s = .next (s.withHub (s.hub.imgOver r))) ∧
        (s.hub.klv.op = some klSTAGE → ∃ t, exec c s = .next t ∧ t.hub.klv.op = none ∧
          t.hub.flag rKLV_IMG_CTL fKLV_IMG_CTL_STAGED = false ∧ t.hub.running = s.hub.running ∧
          t = s.withHub { s.hub with regs := t.hub.regs, klv := t.hub.klv })) ∧
      (∀ w, checkFirmware s.fuses s.hub.lcState (s.hub.imgReader ec) = .ok w →
        let h1 := s.hub.imgRead ec w.body.length
        (s.hub.klv.op = some klPUSH → exec c s = .next (s.withHub ((h1.runFirmware w).imgOver 0))) ∧
        (s.hub.klv.op = some klSTAGE → ∃ t, exec c s = .next t ∧ t = s.withHub { h1 with regs := t.hub.regs, klv := t.hub.klv } ∧
          t.hub.flag rKLV_IMG_CTL fKLV_IMG_CTL_STAGED = true ∧ t.hub.fld rKLV_IMG_CTL fKLV_IMG_CTL_RESULT = 0 ∧
          t.hub.klv.op = none ∧ t.hub.klv.stagedMeas = w.meas ∧
          (h1.flag rKLV_BOOT fKLV_BOOT_HALF = true → t.hub.klv.halfA = w.body ∧ t.hub.klv.halfB = h1.klv.halfB) ∧
          (h1.flag rKLV_BOOT fKLV_BOOT_HALF = false → t.hub.klv.halfB = w.body ∧ t.hub.klv.halfA = h1.klv.halfA)))) ∧
    (s.hub.klv.op = some klFLASH →
      (ok = true → exec c s = .next (s.withHub ((s.hub.flashPut slotFW.1 slotFW.2 s.hub.running).imgOver 0))) ∧
      (ok = false → exec c s = .next (s.withHub (s.hub.cutFlash.imgOver 6)))) ∧
    (s.hub.klv.op = some klFORME_FLASH → s.hub.imgWaits ec 0x18 2097152 = false →
      (∀ e, takeImage (s.hub.imgReader ec) (s.fuses.hashFor s.hub.lcState) = .error e →
        exec c s = .next (s.withHub (s.hub.imgOver (formeResult e.code)))) ∧
      (∀ i, takeImage (s.hub.imgReader ec) (s.fuses.hashFor s.hub.lcState) = .ok i →
        (i.isPartial = true → exec c s = .next (s.withHub (s.hub.imgOver 1))) ∧
        (i.isPartial = false → ok = true → exec c s = .next (s.withHub (((s.hub.imgRead ec i.len).flashPut slotFORME.1 slotFORME.2
          ((s.hub.imgReader ec 0 i.len).getD [])).imgOver 0)))))) ∧
  (∀ (s : State) (since : Nat), s.hub.klv.op = some klSWITCH → s.hub.klv.switchAt = some since →
    (s.hub.quiescent = true → exec .switchQuiescent s = .next (s.withHub s.hub.switchNow)) ∧
    (s.hub.quiescent = false → since + 100 * psMs ≤ s.hub.now → exec .switchQuiescent s = .next (s.withHub (s.hub.imgOver 4))) ∧
    (s.hub.quiescent = false → s.hub.now < since + 100 * psMs → exec .switchQuiescent s = .next s))

/-! ## Resets, the loss of power, and the crossings -/

/-- A power-on runs the start-up sequence on what outlives a loss of power, and stops at STAGE 8 on a bad strap; the loss of power keeps
the flash and the fuses and nothing else; a warm reset runs where a start has begun, and Kelvy may ask for one. At a crossing a word is
offered, enters where there is room, and leaves in order; what leaves into the memory island is a request, which arrives at its
controller. -/
def Obligations.ResetsStartTheHubAgain : Prop :=
  (∀ (s : State) (e : BootEnv), let r := powerOn (cutProg s.fuses s.hub) s.hub.cutFlash.failFifos e
    exec (.powerOnReset e) s = .next { s with fuses := r.1, hub := r.2 }) ∧
  (∀ (f : Fuses) (h : Hub) (e : BootEnv), e.bootSrc % 4 = 3 → e.recovN = true → (powerOn f h e).1 = f ∧ (powerOn f h e).2.bootStage = 8 ∧
    (powerOn f h e).2.flash = h.flash ∧ (powerOn f h e).2.hbm = [] ∧ (powerOn f h e).2.flag rTOP_STRAP fTOP_STRAP_BAD_STRAP = true) ∧
  (∀ s : State, s.hub.klv.op = none → s.hub.progJob = none → ∃ t, exec .powerLoss s = .next t ∧ t.fuses = s.fuses ∧ t.hub.flash = s.hub.flash ∧
    t.hub = { flash := s.hub.flash, draws := s.hub.draws, keyDraw := s.hub.keyDraw, out := s.hub.out }) ∧
  (∀ (s : State) (e : BootEnv), s.hub.bootStage = 0 ∨ s.hub.bootStage = 8 → exec (.warmReset e) s = .next s) ∧
  (∀ (s : State) (e : BootEnv), let r := warmReset s.fuses s.hub 1 0 0 e
    exec (.warmReset e) s = .next { s with fuses := r.1, hub := r.2 }) ∧
  (∀ (s : State) (e : BootEnv), let r := warmReset s.fuses s.hub.regOk 4 0 0 e
    exec (.kelvyWarmResetRequest .kelvy e) s = .next { s with fuses := r.1, hub := r.2 }) ∧
  (∀ (s : State) (k : HostLink) (e : BootEnv), s.hub.hostBusy (.pf k) = false → exec (.kelvyWarmResetRequest (.pf k) e) s = .next (s.withHub s.hub.regErr)) ∧
  (∀ (f : Fuses) (h : Hub) (c src k : Nat) (e : BootEnv), h.bootStage ≠ 0 → h.bootStage ≠ 8 → f.pendingRow = none → e.rngOk = false →
    (warmReset f h c src k e).1 = f ∧ (warmReset f h c src k e).2.bootStage = 8 ∧
    (warmReset f h c src k e).2.hbm = [] ∧ (warmReset f h c src k e).2.cells = [] ∧ (warmReset f h c src k e).2.keySlots = [] ∧
    (warmReset f h c src k e).2.forme = h.forme) ∧
  (∀ (s : State) (i : Island) (ep : Fin 32) (inward : Bool) (w : Nat), let k := fifoKey i ep inward
    let x := s.hub.fifo k
    (i ≠ .memory ∨ inward = false ∨ s.hub.mayCross ep w = true → ∃ t, exec (.crossingFifoTransfer ⟨i, ep, inward⟩ (.offer w)) s = .next t ∧
      (t.hub.fifo k).offered = x.offered ++ [w] ∧ (t.hub.fifo k).inside = x.inside ∧ t = s.withHub { s.hub with fifos := t.hub.fifos }) ∧
    (i = .memory → inward = true → s.hub.mayCross ep w = false → exec (.crossingFifoTransfer ⟨i, ep, inward⟩ (.offer w)) s = .next s) ∧
    (∀ ws, x.offered = w :: ws → x.inside.length < fifoWords → ∃ t,
      exec (.crossingFifoTransfer ⟨i, ep, inward⟩ .enter) s = .next t ∧ (t.hub.fifo k).offered = ws ∧
      (t.hub.fifo k).inside = x.inside ++ [w] ∧ t = s.withHub { s.hub with fifos := t.hub.fifos }) ∧
    (fifoWords ≤ x.inside.length → exec (.crossingFifoTransfer ⟨i, ep, inward⟩ .enter) s = .next s) ∧
    (∀ ws, x.inside = w :: ws →
      (i ≠ .memory ∨ inward = false → ∃ t, exec (.crossingFifoTransfer ⟨i, ep, inward⟩ .leave) s = .next t ∧ (t.hub.fifo k).inside = ws ∧
        (t.hub.fifo k).offered = x.offered ∧ t.hub.out = .islandWord i ep w :: s.hub.out ∧
        t = s.withHub { s.hub with fifos := t.hub.fifos, out := t.hub.out }) ∧
      (i = .memory → inward = true → ∃ h1 : Hub, (h1.fifo k).inside = ws ∧ h1 = { s.hub with fifos := h1.fifos } ∧
        ((∀ q, (h1.arrive w).req w = some q → q.stage ≠ .flight) →
          exec (.crossingFifoTransfer ⟨i, ep, inward⟩ .leave) s = .next (s.withHub (h1.arrive w))) ∧
        (∀ q, (h1.arrive w).req w = some q → q.stage = .flight → exec (.crossingFifoTransfer ⟨i, ep, inward⟩ .leave) s = .next s))))
end

