-- ==== Sys2Proof/Laws/Regs.lean ====
section
/-! SUPPORT. The laws of the sparse maps and of register fields: a read after a write to the same place gives the value written, and a
write leaves every other place alone. -/
set_option Elab.async false

namespace Sys2Proof.Machine

/-! ## Sparse maps -/

@[simp] theorem mapGet_mapPut_same {α : Type} (m : SMap α) (i : Nat) (x : α) : mapGet (mapPut m i x) i = some x := by
  induction m with
  | nil => simp [mapPut, mapGet]
  | cons e m ih =>
    obtain ⟨k, v⟩ := e
    simp only [mapPut]
    split
    · simp [mapGet]
    · split
      · simp [mapGet]
      · rename_i h1 h2; simp [mapGet, h2, ih]

theorem mapGet_mapPut_ne {α : Type} (m : SMap α) {i j : Nat} (x : α) (h : j ≠ i) : mapGet (mapPut m i x) j = mapGet m j := by
  induction m with
  | nil => simp [mapPut, mapGet, h]
  | cons e m ih =>
    obtain ⟨k, v⟩ := e
    simp only [mapPut]
    split
    · simp [mapGet, h]
    · split
      · rename_i h1 h2; subst h2; simp [mapGet, h]
      · simp [mapGet, ih]

@[simp] theorem mapGet_mapDel_same {α : Type} (m : SMap α) (i : Nat) : mapGet (mapDel m i) i = none := by
  induction m with
  | nil => rfl
  | cons e m ih =>
    obtain ⟨k, v⟩ := e
    simp only [mapDel, List.filter_cons] at ih ⊢
    split
    · rename_i h; simp only [mapGet, if_neg (fun h' => (of_decide_eq_true h) (Eq.symm h'))]; exact ih
    · exact ih

theorem mapGet_mapDel_ne {α : Type} (m : SMap α) {i j : Nat} (h : j ≠ i) : mapGet (mapDel m i) j = mapGet m j := by
  induction m with
  | nil => rfl
  | cons e m ih =>
    obtain ⟨k, v⟩ := e
    simp only [mapDel, List.filter_cons] at ih ⊢
    split
    · simp only [mapGet, ih]
    · rename_i hk
      have hk' : k = i := by simpa using hk
      subst hk'
      rw [ih]; simp [mapGet, h]

@[simp] theorem mapGetD_mapPut_same {α : Type} (m : SMap α) (i : Nat) (x d : α) : mapGetD (mapPut m i x) i d = x := by
  simp [mapGetD]

theorem mapGetD_mapPut_ne {α : Type} (m : SMap α) {i j : Nat} (x d : α) (h : j ≠ i) :
    mapGetD (mapPut m i x) j d = mapGetD m j d := by simp [mapGetD, mapGet_mapPut_ne m x h]

/-- A key set twice holds the second value. -/
theorem mapPut_mapPut {α : Type} (m : SMap α) (i : Nat) (x y : α) : mapPut (mapPut m i x) i y = mapPut m i y := by
  induction m with
  | nil => simp [mapPut]
  | cons e m ih =>
    obtain ⟨k, v⟩ := e
    by_cases h1 : i < k
    · simp [mapPut, h1]
    · by_cases h2 : i = k
      · simp [mapPut, h2]
      · simp [mapPut, h1, h2, ih]

/-- A key set and dropped is dropped. -/
theorem mapDel_mapPut {α : Type} (m : SMap α) (i : Nat) (x : α) : mapDel (mapPut m i x) i = mapDel m i := by
  unfold mapDel
  induction m with
  | nil => simp [mapPut]
  | cons e m ih =>
    obtain ⟨k, v⟩ := e
    by_cases h1 : i < k
    · simp [mapPut, h1]
    · by_cases h2 : i = k
      · simp [mapPut, h2]
      · simp only [mapPut, h1, h2, if_false, List.filter_cons, ih]

/-- A key set over a default and set again holds the second value. -/
theorem mapPutD_mapPutD {α : Type} [DecidableEq α] (d : α) (m : SMap α) (i : Nat) {x : α} (y : α) (hx : x ≠ d) :
    mapPutD d (mapPutD d m i x) i y = mapPutD d m i y := by
  unfold mapPutD
  rw [if_neg hx]
  split
  · exact mapDel_mapPut m i x
  · exact mapPut_mapPut m i x y

/-- A key set over a default reads back as set. -/
@[simp] theorem mapGetD_mapPutD_same {α : Type} [DecidableEq α] (d : α) (m : SMap α) (i : Nat) (x : α) :
    mapGetD (mapPutD d m i x) i d = x := by
  unfold mapPutD
  split
  · rename_i h; simp [mapGetD, h]
  · simp

/-- A key set over a default leaves every other key. -/
theorem mapGetD_mapPutD_ne {α : Type} [DecidableEq α] (d d' : α) (m : SMap α) {i j : Nat} (x : α) (h : j ≠ i) :
    mapGetD (mapPutD d m i x) j d' = mapGetD m j d' := by
  unfold mapPutD mapGetD
  split
  · rw [mapGet_mapDel_ne m h]
  · rw [mapGet_mapPut_ne m x h]

/-! ## Keys in rising order -/

/-- Every key of the map is above a bound. -/
def keysAbove {α : Type} (a : Nat) (m : SMap α) : Prop := ∀ e ∈ m, a < e.1

theorem keysRise_cons {α : Type} {a : Nat} {x : α} {m : SMap α} : keysRise ((a, x) :: m) = true ↔ keysAbove a m ∧ keysRise m = true := by
  induction m generalizing a x with
  | nil => simp [keysRise, keysAbove]
  | cons e m ih =>
    obtain ⟨b, y⟩ := e
    simp only [keysRise, Bool.and_eq_true, decide_eq_true_eq]
    constructor
    · rintro ⟨hab, hm⟩
      refine ⟨?_, hm⟩
      intro e he
      rcases List.mem_cons.mp he with rfl | he
      · exact hab
      · exact lt_trans hab ((ih.mp hm).1 e he)
    · rintro ⟨ha, hm⟩
      exact ⟨ha (b, y) (by simp), hm⟩

theorem keysAbove_mapPut {α : Type} {a i : Nat} {x : α} {m : SMap α} (hm : keysAbove a m) (hi : a < i) : keysAbove a (mapPut m i x) := by
  induction m with
  | nil => intro e he; simp [mapPut] at he; subst he; exact hi
  | cons e m ih =>
    obtain ⟨k, v⟩ := e
    have hk : a < k := hm (k, v) (by simp)
    have hm' : keysAbove a m := fun e he => hm e (by simp [he])
    simp only [mapPut]
    split
    · intro e he
      rcases List.mem_cons.mp he with rfl | he
      · exact hi
      · exact hm e he
    · split
      · intro e he
        rcases List.mem_cons.mp he with rfl | he
        · exact hi
        · exact hm' e he
      · intro e he
        rcases List.mem_cons.mp he with rfl | he
        · exact hk
        · exact ih hm' e he

/-- Setting a key keeps the keys rising. -/
theorem keysRise_mapPut {α : Type} {m : SMap α} (i : Nat) (x : α) (h : keysRise m = true) : keysRise (mapPut m i x) = true := by
  induction m with
  | nil => rfl
  | cons e m ih =>
    obtain ⟨k, v⟩ := e
    obtain ⟨ha, hr⟩ := keysRise_cons.mp h
    simp only [mapPut]
    split
    · rename_i hik
      refine keysRise_cons.mpr ⟨?_, h⟩
      intro e he
      rcases List.mem_cons.mp he with rfl | he
      · exact hik
      · exact lt_trans hik (ha e he)
    · split
      · rename_i hik; subst hik; exact keysRise_cons.mpr ⟨ha, hr⟩
      · exact keysRise_cons.mpr ⟨keysAbove_mapPut ha (by omega), ih hr⟩

/-- Keeping some entries keeps the keys rising. -/
theorem keysRise_filter {α : Type} {m : SMap α} (p : Nat × α → Bool) (h : keysRise m = true) : keysRise (m.filter p) = true := by
  induction m with
  | nil => rfl
  | cons e m ih =>
    obtain ⟨k, v⟩ := e
    obtain ⟨ha, hr⟩ := keysRise_cons.mp h
    rw [List.filter_cons]
    split
    · exact keysRise_cons.mpr ⟨fun e he => ha e (List.mem_of_mem_filter he), ih hr⟩
    · exact ih hr

theorem keysRise_mapDel {α : Type} {m : SMap α} (i : Nat) (h : keysRise m = true) : keysRise (mapDel m i) = true :=
  keysRise_filter _ h

/-- Setting a key over a default keeps the keys rising. -/
theorem keysRise_mapPutD {α : Type} [DecidableEq α] (d : α) {m : SMap α} (i : Nat) (x : α) (h : keysRise m = true) :
    keysRise (mapPutD d m i x) = true := by
  unfold mapPutD
  split
  · exact keysRise_mapDel i h
  · exact keysRise_mapPut i x h

theorem mem_mapPut {α : Type} {m : SMap α} {i : Nat} {x : α} {e : Nat × α} (h : e ∈ mapPut m i x) : e = (i, x) ∨ e ∈ m := by
  induction m with
  | nil => simp [mapPut] at h; exact .inl h
  | cons f m ih =>
    obtain ⟨k, v⟩ := f
    simp only [mapPut] at h
    split at h
    · simpa using h
    · split at h
      · rcases List.mem_cons.mp h with h | h
        · exact .inl h
        · exact .inr (by simp [h])
      · rcases List.mem_cons.mp h with h | h
        · exact .inr (by simp [h])
        · rcases ih h with h | h
          · exact .inl h
          · exact .inr (by simp [h])

/-! ## Fields -/

/-- Bit i of a field's mask. -/
theorem getLsbD_fldMask (f : Fld) (i : Nat) (hi : i < 64) : (fldMask f).getLsbD i = (decide (f.lo ≤ i) && decide (i < f.lo + f.w)) := by
  simp only [fldMask, BitVec.getLsbD_ofNat, hi, decide_true, Bool.true_and, Nat.testBit_mul_two_pow, Nat.testBit_two_pow_sub_one]
  by_cases h : f.lo ≤ i
  · have : (i - f.lo < f.w) = (i < f.lo + f.w) := by apply propext; omega
    simp [h, this]
  · simp [h]

theorem testBit_getFld (v : Word) (f : Fld) (i : Nat) : (getFld v f).testBit i = (decide (i < f.w) && v.getLsbD (f.lo + i)) := by
  simp only [getFld, Nat.testBit_mod_two_pow, Nat.testBit_div_two_pow, BitVec.getLsbD]
  rw [Nat.add_comm i f.lo]

theorem getLsbD_setFld (v : Word) (f : Fld) (x i : Nat) (hi : i < 64) :
    (setFld v f x).getLsbD i = if f.lo ≤ i ∧ i < f.lo + f.w then x.testBit (i - f.lo) else v.getLsbD i := by
  simp only [setFld, BitVec.getLsbD_or, BitVec.getLsbD_and, BitVec.getLsbD_not, getLsbD_fldMask f i hi, BitVec.getLsbD_ofNat, hi,
    decide_true, Bool.true_and, Nat.testBit_mul_two_pow, Nat.testBit_mod_two_pow]
  by_cases h : f.lo ≤ i
  · by_cases h2 : i < f.lo + f.w
    · have : i - f.lo < f.w := by omega
      simp [h, h2, this]
    · have : ¬ (i - f.lo < f.w) := by omega
      simp [h, h2, this]
  · simp [h]

/-- A field set reads back as the value cut to its width. -/
theorem getFld_setFld_same (v : Word) (f : Fld) (x : Nat) (hf : f.lo + f.w ≤ 64) : getFld (setFld v f x) f = x % 2 ^ f.w := by
  apply Nat.eq_of_testBit_eq
  intro i
  rw [testBit_getFld, Nat.testBit_mod_two_pow]
  by_cases h : i < f.w
  · rw [getLsbD_setFld v f x _ (by omega)]
    simp [h]
  · simp [h]

/-- A field set leaves every field that shares no bit with it. -/
theorem getFld_setFld_disj (v : Word) (f g : Fld) (x : Nat) (hg : g.lo + g.w ≤ 64) (h : f.lo + f.w ≤ g.lo ∨ g.lo + g.w ≤ f.lo) :
    getFld (setFld v f x) g = getFld v g := by
  apply Nat.eq_of_testBit_eq
  intro i
  rw [testBit_getFld, testBit_getFld]
  by_cases hi : i < g.w
  · rw [getLsbD_setFld v f x _ (by omega)]
    have : ¬ (f.lo ≤ g.lo + i ∧ g.lo + i < f.lo + f.w) := by omega
    simp [hi, this]
  · simp [hi]

/-- A field never holds more than its width. -/
theorem getFld_lt (v : Word) (f : Fld) : getFld v f < 2 ^ f.w := Nat.mod_lt _ (by positivity)

/-! ## Cells -/

/-- A cell that is set reads back. -/
@[simp] theorem Hub.cell_setCell_same (h : Hub) (c : Nat) (x : Cell) : (h.setCell c x).cell c = x := by simp [Hub.cell, Hub.setCell]

/-- A cell that is set leaves every other. -/
theorem Hub.cell_setCell_ne (h : Hub) {c d : Nat} (x : Cell) (hd : d ≠ c) : (h.setCell c x).cell d = h.cell d :=
  mapGetD_mapPutD_ne _ _ _ _ hd

/-- A cell set to a state that is not the blank one, and set again to one that rests where the first does, is set once. -/
theorem Hub.setCell_setCell (h : Hub) (c : Nat) {x : Cell} (y : Cell) (hx : x ≠ {}) (hr : x.atRest = y.atRest) :
    (h.setCell c x).setCell c y = h.setCell c y := by
  unfold Hub.setCell
  have h1 : (mapPutD {} (mapPutD {} h.cells c x) c y) = mapPutD {} h.cells c y := mapPutD_mapPutD _ _ _ _ hx
  simp only [h1]
  have h2 : ∀ m r : SMap Nat, (({ h with cells := mapPutD {} h.cells c x, restAt := r } : Hub).cell c) = x := by
    intro m r; simp [Hub.cell]
  rw [h2 [] _, hr]
  cases y.atRest <;> simp

/-- A cell that runs is not blank. -/
theorem Cell.ne_blank_of_running {x : Cell} (h : x.run = .running) : x ≠ {} := by
  intro e; subst e; cases h

/-! ## Registers -/

@[simp] theorem Hub.reg_setReg_same (h : Hub) (a : Nat) (v : Word) : (h.setReg a v).reg a = v := by
  simp [Hub.reg, Hub.setReg]

/-- Setting one register leaves every other. -/
theorem Hub.reg_setReg_ne (h : Hub) {a b : Nat} (v : Word) (hab : b ≠ a) : (h.setReg a v).reg b = h.reg b :=
  mapGetD_mapPutD_ne _ _ _ _ hab

theorem Hub.fld_setReg_same (h : Hub) (a : Nat) (v : Word) (f : Fld) : (h.setReg a v).fld a f = getFld v f := by simp [Hub.fld]

theorem Hub.fld_setReg_ne (h : Hub) {a b : Nat} (v : Word) (f : Fld) (hab : b ≠ a) : (h.setReg a v).fld b f = h.fld b f := by
  simp [Hub.fld, Hub.reg_setReg_ne h v hab]

theorem Hub.reg_setF_same (h : Hub) (a : Nat) (f : Fld) (x : Nat) : (h.setF a f x).reg a = setFld (h.reg a) f x := by simp [Hub.setF]

theorem Hub.reg_setF_ne (h : Hub) {a b : Nat} (f : Fld) (x : Nat) (hab : b ≠ a) : (h.setF a f x).reg b = h.reg b :=
  Hub.reg_setReg_ne h _ hab

/-- A field of a register set reads back as the value cut to its width. -/
theorem Hub.fld_setF_same (h : Hub) (a : Nat) (f : Fld) (x : Nat) (hf : f.lo + f.w ≤ 64 := by decide) :
    (h.setF a f x).fld a f = x % 2 ^ f.w := by simp [Hub.fld, Hub.reg_setF_same, getFld_setFld_same _ _ _ hf]

/-- A field of a register set leaves the register's other fields. -/
theorem Hub.fld_setF_disj (h : Hub) (a : Nat) (f g : Fld) (x : Nat) (hg : g.lo + g.w ≤ 64 := by decide)
    (hd : f.lo + f.w ≤ g.lo ∨ g.lo + g.w ≤ f.lo := by decide) : (h.setF a f x).fld a g = h.fld a g := by
  simp [Hub.fld, Hub.reg_setF_same, getFld_setFld_disj _ _ _ _ hg hd]

/-- A field of a register set leaves every other register. -/
theorem Hub.fld_setF_ne (h : Hub) {a b : Nat} (f g : Fld) (x : Nat) (hab : b ≠ a) : (h.setF a f x).fld b g = h.fld b g :=
  Hub.fld_setReg_ne h _ g hab

/-- A read of any field after a field is set, by cases on the place. -/
theorem Hub.flag_setF_same (h : Hub) (a : Nat) (f : Fld) (x : Nat) (hf : f.lo + f.w ≤ 64 := by decide) :
    (h.setF a f x).flag a f = decide (x % 2 ^ f.w ≠ 0) := by simp [Hub.flag, Hub.fld_setF_same h a f x hf]

end Sys2Proof.Machine
end

