-- ==== Sys2Proof/Laws/Cells.lean ====
section
/-! SUPPORT. What the shared operations of the sequencer do: an instruction issued where its cell stands at it, and a cell that goes on. -/
set_option Elab.async false

namespace Sys2Proof.Machine

/-- An instruction issued where its cell stands at it meets its check, and then has its effect. -/
theorem Hub.issue_of {h : Hub} {c : Nat} {i : GInstr} {z : Hazard} {u : Bool} {pick : GInstr → Option (Hub → Hub)} {f : Hub → Hub}
    (hs : h.standsAt c i) (hp : pick i = some f) : h.issue c z u pick = h.hazard c z u f := by
  obtain ⟨h1, h2, h3, h4, h5⟩ := hs
  have hset : h.settle c = h := by simp [Hub.settle, h1, h2]
  simp [Hub.issue, hset, Hub.canIssue, h1, h2, h3, h4, h5, hp]

/-- A check that finds nothing lets the effect happen; a residue matters to the units alone. -/
theorem Hub.hazard_of {h : Hub} {c : Nat} {z : Hazard} {u : Bool} {f : Hub → Hub} (hz : z = .clean ∨ (z = .residue ∧ u = false)) :
    h.hazard c z u f = f h := by
  rcases hz with rfl | ⟨rfl, rfl⟩ <;> rfl

/-- A cell that goes on inside its galley: its state changed by `f`, its sequencer past the present instruction, waiting for nothing. -/
theorem Hub.goOn_of {h : Hub} {c : Nat} {f : Cell → Cell} (hg : h.goesOn c) (h1 : (f (h.cell c)).loops = (h.cell c).loops)
    (h2 : (f (h.cell c)).galley = (h.cell c).galley) :
    h.goOn c f = h.setCell c { (f (h.cell c)).past (h.cell c).pc with wait := .none } := by
  unfold Hub.goOn Hub.updCell Hub.fetchCheck
  rw [if_neg]
  simp only [Hub.cell_setCell_same]
  unfold Cell.past Cell.count
  simp only [h1, h2]
  unfold Hub.goesOn Cell.count at hg
  omega

end Sys2Proof.Machine
end

