-- ==== Sys2Proof/Laws/Commands.lean ====
section
/-! SUPPORT. What each command of a register's action bits is, with the written word's fields read once: proofs cite these and never
unfold a written word. -/
set_option Elab.async false

namespace Sys2Proof.Machine

/-! ## Who may write -/

/-- A manager's write takes effect. -/
theorem Hub.mgrWrite_of (h : Hub) (o : Origin) (f : Hub → Hub) (hm : h.isMgr o = true) : h.mgrWrite o f = f h := if_pos hm

/-- A write by one that is no manager is turned away. -/
theorem Hub.mgrWrite_not (h : Hub) (o : Origin) (f : Hub → Hub) (hm : h.isMgr o = false) : h.mgrWrite o f = h.turnedAway o := by
  simp [Hub.mgrWrite, hm]

/-- What the range accepts of a register that a physical function reaches before STAGE 6. -/
theorem Hub.bootWrite_of (h : Hub) (o : Origin) (f : Hub → Hub) (hm : h.onBus o = true) : h.bootWrite o f = f h := if_pos hm

/-- A manager's write, and one by the slice's own virtual function, takes effect on a per-slice register. -/
theorem Hub.sliceWrite_of (h : Hub) (o : Origin) (s : Nat) (f : Hub → Hub) (hm : h.isMgr o = true ∨ h.vfOf o = some s) :
    h.sliceWrite o s f = f h := by simp [Hub.sliceWrite, hm]

/-- Whoever is a manager is on the bus. -/
theorem Hub.onBus_of_isMgr {h : Hub} {o : Origin} (hm : h.isMgr o = true) : h.onBus o = true := by
  revert hm
  cases o <;> simp [Hub.isMgr, Hub.onBus]
  intro a _; exact a

/-- A register command acts where no posted write of its sender is still on its way (R222), and waits else. -/
theorem onReg_of {o : Origin} {s : State} {f : Hub → Hub} (hb : s.hub.hostBusy o = false) : onReg o s f = .next (s.withHub (f s.hub)) := by
  simp [onReg, onHub, hb, State.withHub]

theorem onReg_busy {o : Origin} {s : State} {f : Hub → Hub} (hb : s.hub.hostBusy o = true) : onReg o s f = .next s := by
  simp [onReg, onHub, hb]

/-- Kelvy, the debug port and the site engines have no posted writes. -/
@[simp] theorem Hub.hostBusy_kelvy (h : Hub) : h.hostBusy .kelvy = false := rfl
@[simp] theorem Hub.hostBusy_tap (h : Hub) : h.hostBusy .tap = false := rfl
@[simp] theorem Hub.hostBusy_engine (h : Hub) : h.hostBusy .engine = false := rfl

/-! ## SLM_SLICE_CTL -/

theorem exec_sliceTeardown (o : Origin) (sl : SliceId) (s : State) (hb : s.hub.hostBusy o = false) :
    exec (.sliceTeardown o sl) s = .next (s.withHub (s.hub.mgrWrite o (fun h => h.regOk.teardownSlice sl))) :=
  onReg_of (f := fun h => h.writeSliceCtl o sl (setFld 0 fSLM_SLICE_CTL_TEARDOWN 1)) hb

theorem exec_sliceHold (o : Origin) (sl : SliceId) (s : State) (hb : s.hub.hostBusy o = false) :
    exec (.sliceHold o sl) s = .next (s.withHub (s.hub.mgrWrite o (fun h => h.regOk.holdSlice sl))) :=
  onReg_of (f := fun h => h.writeSliceCtl o sl (setFld 0 fSLM_SLICE_CTL_HOLD 1)) hb

theorem exec_sliceRelease (o : Origin) (sl : SliceId) (s : State) (hb : s.hub.hostBusy o = false) :
    exec (.sliceRelease o sl) s = .next (s.withHub (s.hub.mgrWrite o (fun h => h.regOk.releaseSlice sl))) :=
  onReg_of (f := fun h => h.writeSliceCtl o sl (setFld 0 fSLM_SLICE_CTL_RELEASE 1)) hb

theorem exec_sliceReset (o : Origin) (sl : SliceId) (s : State) (hb : s.hub.hostBusy o = false) :
    exec (.sliceReset o sl) s = .next (s.withHub (s.hub.mgrWrite o (fun h => h.regOk.resetSlice sl))) :=
  onReg_of (f := fun h => h.writeSliceCtl o sl (setFld 0 fSLM_SLICE_CTL_RESET 1)) hb

end Sys2Proof.Machine
end

