-- ==== Sys2Proof/Laws/Memory.lean ====
section
/-! SUPPORT. Every operation on HBM and on the byte maps keeps their canonical form, and Umbra's bookkeeping leaves memory alone. -/
set_option Elab.async false

namespace Sys2Proof.Machine

/-! ## Byte maps over a default: cells' storage, the flash -/

theorem mapWf_iff {α : Type} [DecidableEq α] {d : α} {m : SMap α} : mapWf d m = true ↔ keysRise m = true ∧ ∀ e ∈ m, e.2 ≠ d := by
  simp [mapWf, List.all_eq_true]

theorem mapWf_mapPutD {α : Type} [DecidableEq α] (d : α) {m : SMap α} (i : Nat) (x : α) (h : mapWf d m = true) : mapWf d (mapPutD d m i x) = true := by
  rw [mapWf_iff] at h ⊢
  refine ⟨keysRise_mapPutD d i x h.1, fun e he => ?_⟩
  unfold mapPutD at he
  split at he
  · exact h.2 e (List.mem_filter.mp he).1
  · rcases mem_mapPut he with rfl | he
    · assumption
    · exact h.2 e he

theorem mapWf_mapWriteBytes (d : Byte) (bs : List Byte) : ∀ (m : SMap Byte) (a : Nat), mapWf d m = true → mapWf d (mapWriteBytes d m a bs) = true := by
  induction bs with
  | nil => intro m a h; exact h
  | cons b bs ih => intro m a h; exact ih _ _ (mapWf_mapPutD d a b h)

theorem mapWf_mapDropRange (d : Byte) (m : SMap Byte) (a n : Nat) (h : mapWf d m = true) : mapWf d (mapDropRange m a n) = true := by
  rw [mapWf_iff] at h ⊢
  exact ⟨keysRise_filter _ h.1, fun e he => h.2 e (List.mem_filter.mp he).1⟩

/-- A cell's storage stays canonical when bytes are written to it. -/
theorem Cell.put_wf (x : Cell) (off : Nat) (bs : List Byte) (h : mapWf 0 x.mem = true) : mapWf 0 (x.put off bs).mem = true :=
  mapWf_mapWriteBytes 0 bs _ _ h

/-- The flash stays canonical when an image is written to it. -/
theorem Hub.flashPut_wf (h : Hub) (a size : Nat) (b : List Byte) (hw : mapWf 0xFF h.flash = true) : mapWf 0xFF (h.flashPut a size b).flash = true :=
  mapWf_mapWriteBytes _ _ _ _ (mapWf_mapDropRange _ _ _ _ hw)

/-! ## HBM -/

theorem Memory.wf_iff {h : Hub} : Memory.wf h = true ↔ keysRise h.hbm = true ∧ ∀ e ∈ h.hbm, h.hbmFill e.1 ≠ some e.2 := by
  simp [Memory.wf, List.all_eq_true]

/-- Two hubs with the same HBM, scrubbed granules and live forme. -/
def Hub.sameMem (a b : Hub) : Prop := a.hbm = b.hbm ∧ a.zeroed = b.zeroed ∧ a.forme = b.forme

theorem Hub.sameMem.refl (a : Hub) : a.sameMem a := ⟨rfl, rfl, rfl⟩

theorem Hub.sameMem.trans {a b c : Hub} (h : a.sameMem b) (k : b.sameMem c) : a.sameMem c := ⟨h.1.trans k.1, h.2.1.trans k.2.1, h.2.2.trans k.2.2⟩

theorem Hub.sameMem.regionOf {a b : Hub} (h : a.sameMem b) (x : Nat) : a.regionOf x = b.regionOf x := by simp [Hub.regionOf, h.2.2]

theorem Hub.sameMem.fill {a b : Hub} (h : a.sameMem b) (x : Nat) : a.hbmFill x = b.hbmFill x := by simp [Hub.hbmFill, h.regionOf, h.2.1]

theorem Hub.sameMem.wf {a b : Hub} (h : a.sameMem b) (hb : Memory.wf b = true) : Memory.wf a = true := by
  rw [Memory.wf_iff] at hb ⊢
  simp only [h.1, h.fill]; exact hb

/-- A fold of steps that leave memory alone leaves it alone. -/
theorem Hub.sameMem_foldl {α : Type} (f : Hub → α → Hub) (hf : ∀ h x, (f h x).sameMem h) (l : List α) : ∀ h : Hub, (l.foldl f h).sameMem h := by
  induction l with
  | nil => intro h; exact .refl h
  | cons x l ih => intro h; exact (ih (f h x)).trans (hf h x)

theorem Hub.sameMem_setF (h : Hub) (a : Nat) (f : Fld) (x : Nat) : (h.setF a f x).sameMem h := ⟨rfl, rfl, rfl⟩

theorem Hub.sameMem_fault (h : Hub) (m : FaultMsg) : (h.fault m).sameMem h := ⟨rfl, rfl, rfl⟩

theorem Hub.sameMem_setSide (h : Hub) (r : Nat) (new : Bool) (x : SealSide) : (h.setSide r new x).sameMem h := ⟨rfl, rfl, rfl⟩

theorem Hub.sameMem_charge (h : Hub) (ch key : Nat) (paid : Bool) : (h.charge ch key paid).sameMem h := by
  unfold Hub.charge
  dsimp only
  split
  · exact .refl h
  · split
    · split <;> exact ⟨rfl, rfl, rfl⟩
    · exact ⟨rfl, rfl, rfl⟩

theorem Hub.sameMem_metaTraffic (h : Hub) (w : Payer) (a : Nat) : (h.metaTraffic w a).sameMem h := by
  unfold Hub.metaTraffic
  dsimp only
  split
  · exact Hub.sameMem.trans (b := h.chargeTo _ _) ⟨rfl, rfl, rfl⟩ (Hub.sameMem_charge _ _ _ _)
  · exact ⟨rfl, rfl, rfl⟩

theorem Hub.sameMem_halt (h : Hub) (a kind region : Nat) : (h.halt a kind region).sameMem h := ⟨rfl, rfl, rfl⟩

theorem Hub.sameMem_queueSweep (h : Hub) (r : Nat) : (h.queueSweep r).sameMem h := by
  unfold Hub.queueSweep; split <;> exact ⟨rfl, rfl, rfl⟩

theorem Hub.sameMem_ctrHigh (h : Hub) (r : SealedRec) (c : Nat) : (h.ctrHigh r c).sameMem h :=
  Hub.sameMem.trans (b := h.queueSweep r.region) ⟨rfl, rfl, rfl⟩ (Hub.sameMem_queueSweep h r.region)

theorem Hub.sameMem_unlose (h : Hub) (ch off : Nat) : (h.unlose ch off).sameMem h := by
  unfold Hub.unlose; split <;> exact ⟨rfl, rfl, rfl⟩

theorem Hub.sameMem_unloseAt (h : Hub) (a : Nat) : (h.unloseAt a).sameMem h := by
  unfold Hub.unloseAt
  split
  · exact Hub.sameMem_unlose _ _ _
  · exact .refl h

/-! ## What keeps the canonical form -/

/-- `a` comes of `b` by writes that keep the canonical form: the scrubbed granules and the live forme are the same. -/
def Hub.memKept (a b : Hub) : Prop := a.zeroed = b.zeroed ∧ a.forme = b.forme ∧ (Memory.wf b = true → Memory.wf a = true)

theorem Hub.memKept.refl (a : Hub) : a.memKept a := ⟨rfl, rfl, id⟩

theorem Hub.memKept.trans {a b c : Hub} (h : a.memKept b) (k : b.memKept c) : a.memKept c :=
  ⟨h.1.trans k.1, h.2.1.trans k.2.1, fun w => h.2.2 (k.2.2 w)⟩

theorem Hub.sameMem.kept {a b : Hub} (h : a.sameMem b) : a.memKept b := ⟨h.2.1, h.2.2, h.wf⟩

/-- A fold of steps that keep the form keeps it. -/
theorem Hub.memKept_foldl {α : Type} (f : Hub → α → Hub) (hf : ∀ h x, (f h x).memKept h) (l : List α) : ∀ h : Hub, (l.foldl f h).memKept h := by
  induction l with
  | nil => intro h; exact .refl h
  | cons x l ih => intro h; exact (ih (f h x)).trans (hf h x)

/-- The canonical form with one fill. -/
theorem keysRise_putByte (fill : Option Byte) {m : SMap Byte} (a : Nat) (b : Byte) (h : keysRise m = true) : keysRise (putByte fill m a b) = true := by
  unfold putByte; split
  · exact keysRise_mapDel a h
  · exact keysRise_mapPut a b h

theorem mem_putByte {fill : Option Byte} {m : SMap Byte} {a : Nat} {b : Byte} {e : Nat × Byte} (he : e ∈ putByte fill m a b) :
    (e = (a, b) ∧ fill ≠ some b) ∨ e ∈ m := by
  unfold putByte at he
  split at he
  · exact .inr (List.mem_filter.mp he).1
  · rcases mem_mapPut he with rfl | he
    · exact .inl ⟨rfl, by assumption⟩
    · exact .inr he

/-- Bytes written over a range on which the fill is one value keep the canonical form of any fill. -/
theorem putBytes_wf (fill : Option Byte) (F : Nat → Option Byte) (bs : List Byte) : ∀ (m : SMap Byte) (a : Nat),
    (∀ x, a ≤ x → x < a + bs.length → F x = fill) → keysRise m = true → (∀ e ∈ m, F e.1 ≠ some e.2) →
    keysRise (putBytes fill m a bs) = true ∧ ∀ e ∈ putBytes fill m a bs, F e.1 ≠ some e.2 := by
  induction bs with
  | nil => intro m a _ h1 h2; exact ⟨h1, h2⟩
  | cons b bs ih =>
    intro m a hF h1 h2
    refine ih (putByte fill m a b) (a + 1) (fun x h3 h4 => hF x (by omega) (by simp only [List.length_cons]; omega)) (keysRise_putByte fill a b h1) ?_
    intro e he
    rcases mem_putByte he with ⟨rfl, hne⟩ | he
    · rw [hF a (le_refl _) (by simp)]; exact hne
    · exact h2 e he

/-- Sealed regions and scrubbed granules are whole granules, so the fill is one value on a line. -/
theorem Hub.regionOf_granule (h : Hub) {a b : Nat} (hab : a / GRAN = b / GRAN) : h.regionOf a = h.regionOf b := by
  unfold Hub.regionOf GRAN at *
  congr 1
  funext r
  have e1 : (r.first * 2097152 ≤ a) = (r.first * 2097152 ≤ b) := propext (by omega)
  have e2 : (a < (r.first + r.count) * 2097152) = (b < (r.first + r.count) * 2097152) := propext (by omega)
  simp only [e1, e2]

theorem Hub.hbmFill_granule (h : Hub) {a b : Nat} (hab : a / GRAN = b / GRAN) : h.hbmFill a = h.hbmFill b := by
  simp [Hub.hbmFill, h.regionOf_granule hab, hab]

theorem length_patch (l p : List Byte) (i : Nat) (h : i + p.length ≤ l.length) : (patch l i p).length = l.length := by
  simp [patch]; omega

/-- Bytes of one line put into the stack keep the canonical form. -/
theorem Hub.memKept_hbmSet (h : Hub) (a : Nat) (bs : List Byte) (hl : a % 64 + bs.length ≤ 64) : (h.hbmSet a bs).memKept h := by
  refine ⟨rfl, rfl, fun hw => ?_⟩
  have hs := Memory.wf_iff.mp hw
  exact Memory.wf_iff.mpr (putBytes_wf (h.hbmFill a) h.hbmFill bs h.hbm a
    (fun x h1 h2 => h.hbmFill_granule (by unfold GRAN; omega)) hs.1 hs.2)

@[simp] theorem length_toLE (n : Nat) : ∀ v : Nat, (toLE n v).length = n := by
  induction n with
  | zero => intro v; rfl
  | succ n ih => intro v; simp [toLE, ih]

theorem length_nodeBytes (x : SealSide) (lv j : Nat) : (x.nodeBytes lv j).length = 56 := by
  simp [SealSide.nodeBytes, List.length_flatMap]

theorem length_gmac64 (key iv aad : List Byte) : (gmac64 key iv aad).length ≤ 8 := by
  unfold gmac64
  exact (List.length_take_le _ _)

theorem Hub.nodeAddr_line (h : Hub) (r : SealedRec) (new : Bool) (lv j : Nat) : h.nodeAddr r new lv j % 64 = 0 := by
  unfold Hub.nodeAddr sealLines GRAN
  dsimp only
  split <;> omega

/-- A node's write-back keeps the canonical form. -/
theorem Hub.memKept_writeBackNode (h : Hub) (w : Payer) (r : SealedRec) (new : Bool) (lv j : Nat) : (h.writeBackNode w r new lv j).memKept h := by
  unfold Hub.writeBackNode
  dsimp only
  split
  · exact (Hub.sameMem_halt _ _ _ _).kept
  · have base : ∀ (x y : SealSide) (n : Nat), (((h.setSide r.region new y).hbmSet (h.nodeAddr r new lv j)
        (x.nodeBytes lv j ++ x.nodeMac r.region lv j n (x.nodeBytes lv j))).metaTraffic w (h.nodeAddr r new lv j)).memKept h := fun x y n =>
      (Hub.sameMem_metaTraffic _ _ _).kept.trans ((Hub.memKept_hbmSet _ _ _ (by
        have := h.nodeAddr_line r new lv j
        have := length_gmac64 x.treeKey (toLE 12 (r.region % 64 + lv % 8 * 2 ^ 6 + j % 2 ^ 28 * 2 ^ 9 + n % 2 ^ 56 * 2 ^ 37 + 2 ^ 93)) (x.nodeBytes lv j)
        rw [List.length_append, length_nodeBytes]
        unfold SealSide.nodeMac
        omega)).trans (Hub.sameMem_setSide _ _ _ _).kept)
    split
    · exact (Hub.sameMem_ctrHigh _ _ _).kept.trans (base _ _ _)
    · exact base _ _ _

theorem Hub.memKept_ncPut (n : Nat) : ∀ (h : Hub) (w : Payer) (r : SealedRec) (new : Bool) (lv j : Nat), (Hub.ncPut n h w r new lv j).memKept h := by
  induction n with
  | zero => intro h w r new lv j; exact .refl h
  | succ n ih =>
    intro h w r new lv j
    unfold Hub.ncPut
    dsimp only
    split
    · exact ⟨rfl, rfl, id⟩
    · split
      · exact ⟨rfl, rfl, id⟩
      · split
        · exact ⟨rfl, rfl, id⟩
        · split
          · exact ⟨rfl, rfl, id⟩
          · split
            · split
              · exact (ih _ _ _ _ _ _).trans ((Hub.memKept_writeBackNode _ _ _ _ _ _).trans ⟨rfl, rfl, id⟩)
              · exact (Hub.memKept_writeBackNode _ _ _ _ _ _).trans ⟨rfl, rfl, id⟩
            · exact ⟨rfl, rfl, id⟩

theorem Hub.memKept_ncTouch (h : Hub) (w : Payer) (r : SealedRec) (new : Bool) (lv j : Nat) : (h.ncTouch w r new lv j).memKept h :=
  Hub.memKept_ncPut _ _ _ _ _ _ _

theorem Hub.memKept_writeBack (h : Hub) (w : Payer) (r : SealedRec) (new : Bool) (lv j : Nat) : (h.writeBack w r new lv j).memKept h := by
  unfold Hub.writeBack
  dsimp only
  split
  · refine (Hub.memKept_ncTouch _ _ _ _ _ _).trans ?_
    split
    · exact (Hub.sameMem_metaTraffic _ _ _).kept.trans (Hub.memKept_writeBackNode _ _ _ _ _ _)
    · exact Hub.memKept_writeBackNode _ _ _ _ _ _
  · exact Hub.memKept_writeBackNode _ _ _ _ _ _

theorem Hub.memKept_pathTouch (h : Hub) (w : Payer) (r : SealedRec) (new : Bool) (i : Nat) : (h.pathTouch w r new i).memKept h :=
  (Hub.memKept_foldl (fun h lv => h.ncTouch w r new lv (i / 8 ^ (lv + 1))) (fun _ _ => Hub.memKept_ncTouch _ _ _ _ _ _) _ _).trans
    (Hub.memKept_foldl _ (fun _ _ => (Hub.sameMem_metaTraffic _ _ _).kept) _ _)

theorem Hub.memKept_macTouch (h : Hub) (w : Payer) (r : SealedRec) (new : Bool) (i : Nat) : (h.macTouch w r new i).memKept h := by
  refine (Hub.memKept_ncTouch _ _ _ _ _ _).trans ?_
  split
  · exact .refl h
  · exact (Hub.sameMem_metaTraffic _ _ _).kept

/-- A full-line write's bookkeeping keeps the canonical form. -/
theorem Hub.memKept_sealBump (h : Hub) (w : Payer) (r : SealedRec) (a : Nat) : (h.sealBump w r a).2.memKept h := by
  unfold Hub.sealBump
  dsimp only
  split
  · exact (Hub.sameMem_halt _ _ _ _).kept
  · have base : ∀ (x : SealSide) (n : Bool), (((((h.setSide r.region n x).pathTouch w r n (lineIdx r a)).ncTouch w r n 15 (lineIdx r a / 8)).metaTraffic w
        (macAddr r (lineIdx r a)))).memKept h := fun x n =>
      (Hub.sameMem_metaTraffic _ _ _).kept.trans ((Hub.memKept_ncTouch _ _ _ _ _ _).trans ((Hub.memKept_pathTouch _ _ _ _ _).trans
        (Hub.sameMem_setSide _ _ _ _).kept))
    split
    · exact (Hub.sameMem_ctrHigh _ _ _).kept.trans (base _ _)
    · exact base _ _

/-- A line's MAC written keeps the canonical form. -/
theorem Hub.memKept_putMac (h : Hub) (r : SealedRec) (new : Bool) (i : Nat) : (h.putMac r new i).memKept h := by
  unfold Hub.putMac
  dsimp only
  refine Hub.memKept_hbmSet _ _ _ ?_
  unfold SealSide.lineMac
  refine Nat.le_trans (Nat.add_le_add_left (length_gmac64 _ _ _) _) ?_
  unfold macAddr GRAN
  omega

/-- A write within one 64-byte line keeps the canonical form. -/
theorem Hub.memKept_hbmPutLine (h : Hub) (w : Payer) (a : Nat) (bs : List Byte) (hl : a % 64 + bs.length ≤ 64) : (h.hbmPutLine w a bs).memKept h := by
  unfold Hub.hbmPutLine
  split
  · exact (Hub.sameMem_unloseAt _ _).kept.trans (Hub.memKept_hbmSet _ _ _ hl)
  · rename_i r hr
    dsimp only
    have hlen : (patch (h.hbmGet (a / 64 * 64) 64) (a - a / 64 * 64) bs).length = 64 := by
      rw [length_patch] <;> simp [Hub.hbmGet]
      omega
    split
    · exact (Hub.memKept_putMac _ _ _ _).trans ((Hub.sameMem_unloseAt _ _).kept.trans
        ((Hub.memKept_hbmSet _ _ _ (by rw [hlen]; omega)).trans (Hub.memKept_sealBump _ _ _ _)))
    · exact Hub.memKept_sealBump _ _ _ _

/-- Entries dropped, where the fill of those kept stays or is given up, keep the canonical form. -/
theorem Memory.wf_of_filter {h k : Hub} (p : Nat × Byte → Bool) (hk : k.hbm = h.hbm.filter p)
    (hf : ∀ e ∈ h.hbm, p e = true → k.hbmFill e.1 = h.hbmFill e.1 ∨ k.hbmFill e.1 = none) (hw : Memory.wf h = true) : Memory.wf k = true := by
  have hs := Memory.wf_iff.mp hw
  refine Memory.wf_iff.mpr ⟨by rw [hk]; exact keysRise_filter p hs.1, fun e he => ?_⟩
  rw [hk] at he
  obtain ⟨h1, h2⟩ := List.mem_filter.mp he
  rcases hf e h1 h2 with h3 | h3 <;> rw [h3]
  · exact hs.2 e h1
  · simp

/-- One line of a scrub keeps the canonical form. -/
theorem Hub.memKept_scrubLine (h : Hub) (a : Nat) (ha : a % 64 = 0) : (h.scrubLine a).memKept h := by
  unfold Hub.scrubLine
  split
  · exact .refl h
  · split
    · split
      · exact .refl h
      · exact (Hub.sameMem_metaTraffic _ _ _).kept.trans (Hub.memKept_hbmPutLine _ _ _ _ (by simp only [zeros, List.length_replicate]; omega))
    · exact (Hub.sameMem_metaTraffic _ _ _).kept.trans (Hub.sameMem_unloseAt _ _).kept

/-- A granule's entries dropped where it is scrubbed keep the canonical form. -/
theorem Memory.wf_dropGranule (h : Hub) (g : Nat) (hw : Memory.wf h = true) :
    Memory.wf { h with hbm := mapDropRange h.hbm (g * GRAN) GRAN, zeroed := if h.zeroed.contains g then h.zeroed else h.zeroed ++ [g] } = true := by
  refine Memory.wf_of_filter (h := h) _ rfl (fun e _ he => .inl ?_) hw
  have hne : e.1 / GRAN ≠ g := by
    simp only [Bool.not_eq_true', Bool.and_eq_false_imp, decide_eq_true_eq, decide_eq_false_iff_not] at he
    unfold GRAN at *
    omega
  unfold Hub.hbmFill
  have hreg : Hub.regionOf { h with hbm := mapDropRange h.hbm (g * GRAN) GRAN, zeroed := if h.zeroed.contains g then h.zeroed else h.zeroed ++ [g] } e.1 =
    h.regionOf e.1 := rfl
  rw [hreg]
  dsimp only
  split
  · rfl
  · simp [hne]

theorem Hub.memKept_scrubLines (g : Nat) (l : List Nat) (h : Hub) : (l.foldl (fun h i => h.scrubLine (g * GRAN + 64 * i)) h).memKept h :=
  Hub.memKept_foldl (fun h i => h.scrubLine (g * GRAN + 64 * i)) (fun _ _ => Hub.memKept_scrubLine _ _ (by unfold GRAN; omega)) l h

/-- A granule filled with zeros keeps the canonical form. -/
theorem Hub.zeroGranule_wf (h : Hub) (g : Nat) (hw : Memory.wf h = true) : Memory.wf (h.zeroGranule g) = true := by
  have key : ∀ l : List Nat, Memory.wf (
      let h1 := l.foldl (fun h i => h.scrubLine (g * GRAN + 64 * i)) h
      if (h.regionOf (g * GRAN)).isSome then h1
      else { h1 with hbm := mapDropRange h1.hbm (g * GRAN) GRAN, zeroed := if h1.zeroed.contains g then h1.zeroed else h1.zeroed ++ [g] }) = true := by
    intro l
    have h1 := (Hub.memKept_scrubLines g l h).2.2 hw
    dsimp only
    split
    · exact h1
    · exact Memory.wf_dropGranule _ _ h1
  exact key _

/-- Lines that a traffic generator overwrote keep the canonical form. -/
theorem Hub.loseLines_wf (h : Hub) (ch first lines : Nat) (hw : Memory.wf h = true) : Memory.wf (h.loseLines ch first lines) = true := by
  refine Memory.wf_of_filter (h := h) _ rfl (fun e _ _ => ?_) hw
  have hreg : (h.loseLines ch first lines).regionOf e.1 = h.regionOf e.1 := rfl
  unfold Hub.hbmFill
  rw [hreg]
  by_cases h1 : (h.regionOf e.1).isSome = true
  · simp [h1]
  · simp only [h1, Bool.false_or]
    by_cases h2 : e.1 / GRAN ∈ (h.loseLines ch first lines).zeroed
    · left
      have h3 : e.1 / GRAN ∈ h.zeroed := (List.mem_filter.mp h2).1
      simp [h2, h3]
    · right; simp [h2]

/-- The bytes that a new forme keeps are in the canonical form under it. -/
theorem Hub.keepHbm_wf (h : Hub) (nf : Forme) (fresh : List Nat) (hw : Memory.wf h = true) : Memory.wf { h.keepHbm nf fresh with forme := nf } = true := by
  refine Memory.wf_of_filter (h := h) _ rfl (fun e _ he => .inl ?_) hw
  simp only [Bool.and_eq_true, decide_eq_true_eq] at he
  obtain ⟨⟨⟨h1, h2⟩, h3⟩, h4⟩ := he
  have hsr : ∀ (x : Hub), (x.regionOf e.1).isSome =
      ((x.forme.sealedRegs.find? (fun r => decide (r.first ≤ e.1 / GRAN) && decide (e.1 / GRAN < r.first + r.count))).map (·.region)).isSome := by
    intro x
    unfold Hub.regionOf GRAN
    rw [Option.isSome_map]
    congr 2
    funext r
    have e1 : (r.first * 2097152 ≤ e.1) = (r.first ≤ e.1 / 2097152) := propext (by omega)
    have e2 : (e.1 < (r.first + r.count) * 2097152) = (e.1 / 2097152 < r.first + r.count) := propext (by omega)
    simp only [e1, e2]
  unfold Hub.hbmFill
  rw [hsr, hsr h]
  have hz : (Hub.keepHbm h nf fresh).zeroed.contains (e.1 / GRAN) = h.zeroed.contains (e.1 / GRAN) := by
    rw [Bool.eq_iff_iff, List.contains_iff_mem, List.contains_iff_mem]
    refine ⟨fun hh => (List.mem_filter.mp hh).1, fun hh => List.mem_filter.mpr ⟨hh, ?_⟩⟩
    simp only [Bool.and_eq_true, decide_eq_true_eq]
    exact ⟨⟨⟨h1, h2⟩, h3⟩, h4⟩
  dsimp only at hz ⊢
  rw [hz, h2]

/-- The end of a sweep drops the entries of lines whose counter is 0, and keeps the canonical form. -/
theorem Memory.wf_filter_sameFill {h k : Hub} (p : Nat × Byte → Bool) (hk : k.hbm = h.hbm.filter p) (hz : k.zeroed = h.zeroed) (hf : k.forme = h.forme)
    (hw : Memory.wf h = true) : Memory.wf k = true :=
  Memory.wf_of_filter p hk (fun _ _ _ => .inl (by simp [Hub.hbmFill, Hub.regionOf, hz, hf])) hw

/-- Memory with nothing listed is in the canonical form, as reset and a start leave it. -/
theorem Memory.wf_nil {h : Hub} (hn : h.hbm = []) : Memory.wf h = true := by simp [Memory.wf, hn, keysRise]

theorem Memory.wf_reset : Memory.wf State.reset.hub = true := Memory.wf_nil rfl

end Sys2Proof.Machine
end

