-- ==== Sys2Proof/Laws/State.lean ====
section
/-! SUPPORT. What the named updates of the hub leave alone: one lemma per field and update. -/
set_option Elab.async false

namespace Sys2Proof.Machine

/-! ## setReg -/

@[simp] theorem Hub.now_setReg (h : Hub) (a : Nat) (v : Word) : (h.setReg a v).now = h.now := rfl
@[simp] theorem Hub.hbm_setReg (h : Hub) (a : Nat) (v : Word) : (h.setReg a v).hbm = h.hbm := rfl
@[simp] theorem Hub.zeroed_setReg (h : Hub) (a : Nat) (v : Word) : (h.setReg a v).zeroed = h.zeroed := rfl
@[simp] theorem Hub.flash_setReg (h : Hub) (a : Nat) (v : Word) : (h.setReg a v).flash = h.flash := rfl
@[simp] theorem Hub.forme_setReg (h : Hub) (a : Nat) (v : Word) : (h.setReg a v).forme = h.forme := rfl
@[simp] theorem Hub.slices_setReg (h : Hub) (a : Nat) (v : Word) : (h.setReg a v).slices = h.slices := rfl
@[simp] theorem Hub.gens_setReg (h : Hub) (a : Nat) (v : Word) : (h.setReg a v).gens = h.gens := rfl
@[simp] theorem Hub.cells_setReg (h : Hub) (a : Nat) (v : Word) : (h.setReg a v).cells = h.cells := rfl
@[simp] theorem Hub.tests_setReg (h : Hub) (a : Nat) (v : Word) : (h.setReg a v).tests = h.tests := rfl
@[simp] theorem Hub.restAt_setReg (h : Hub) (a : Nat) (v : Word) : (h.setReg a v).restAt = h.restAt := rfl
@[simp] theorem Hub.badArrays_setReg (h : Hub) (a : Nat) (v : Word) : (h.setReg a v).badArrays = h.badArrays := rfl
@[simp] theorem Hub.fabricOps_setReg (h : Hub) (a : Nat) (v : Word) : (h.setReg a v).fabricOps = h.fabricOps := rfl
@[simp] theorem Hub.reqs_setReg (h : Hub) (a : Nat) (v : Word) : (h.setReg a v).reqs = h.reqs := rfl
@[simp] theorem Hub.nextId_setReg (h : Hub) (a : Nat) (v : Word) : (h.setReg a v).nextId = h.nextId := rfl
@[simp] theorem Hub.items_setReg (h : Hub) (a : Nat) (v : Word) : (h.setReg a v).items = h.items := rfl
@[simp] theorem Hub.queues_setReg (h : Hub) (a : Nat) (v : Word) : (h.setReg a v).queues = h.queues := rfl
@[simp] theorem Hub.queueRr_setReg (h : Hub) (a : Nat) (v : Word) : (h.setReg a v).queueRr = h.queueRr := rfl
@[simp] theorem Hub.walks_setReg (h : Hub) (a : Nat) (v : Word) : (h.setReg a v).walks = h.walks := rfl
@[simp] theorem Hub.walkRound_setReg (h : Hub) (a : Nat) (v : Word) : (h.setReg a v).walkRound = h.walkRound := rfl
@[simp] theorem Hub.xfaults_setReg (h : Hub) (a : Nat) (v : Word) : (h.setReg a v).xfaults = h.xfaults := rfl
@[simp] theorem Hub.cache_setReg (h : Hub) (a : Nat) (v : Word) : (h.setReg a v).cache = h.cache := rfl
@[simp] theorem Hub.walkCache_setReg (h : Hub) (a : Nat) (v : Word) : (h.setReg a v).walkCache = h.walkCache := rfl
@[simp] theorem Hub.invals_setReg (h : Hub) (a : Nat) (v : Word) : (h.setReg a v).invals = h.invals := rfl
@[simp] theorem Hub.chans_setReg (h : Hub) (a : Nat) (v : Word) : (h.setReg a v).chans = h.chans := rfl
@[simp] theorem Hub.groupMeters_setReg (h : Hub) (a : Nat) (v : Word) : (h.setReg a v).groupMeters = h.groupMeters := rfl
@[simp] theorem Hub.credits_setReg (h : Hub) (a : Nat) (v : Word) : (h.setReg a v).credits = h.credits := rfl
@[simp] theorem Hub.weights_setReg (h : Hub) (a : Nat) (v : Word) : (h.setReg a v).weights = h.weights := rfl
@[simp] theorem Hub.sweepBytes_setReg (h : Hub) (a : Nat) (v : Word) : (h.setReg a v).sweepBytes = h.sweepBytes := rfl
@[simp] theorem Hub.stackSteps_setReg (h : Hub) (a : Nat) (v : Word) : (h.setReg a v).stackSteps = h.stackSteps := rfl
@[simp] theorem Hub.remapJob_setReg (h : Hub) (a : Nat) (v : Word) : (h.setReg a v).remapJob = h.remapJob := rfl
@[simp] theorem Hub.keyDraw_setReg (h : Hub) (a : Nat) (v : Word) : (h.setReg a v).keyDraw = h.keyDraw := rfl
@[simp] theorem Hub.seals_setReg (h : Hub) (a : Nat) (v : Word) : (h.setReg a v).seals = h.seals := rfl
@[simp] theorem Hub.nodeCache_setReg (h : Hub) (a : Nat) (v : Word) : (h.setReg a v).nodeCache = h.nodeCache := rfl
@[simp] theorem Hub.links_setReg (h : Hub) (a : Nat) (v : Word) : (h.setReg a v).links = h.links := rfl
@[simp] theorem Hub.tags_setReg (h : Hub) (a : Nat) (v : Word) : (h.setReg a v).tags = h.tags := rfl
@[simp] theorem Hub.bundles_setReg (h : Hub) (a : Nat) (v : Word) : (h.setReg a v).bundles = h.bundles := rfl
@[simp] theorem Hub.bundlesOut_setReg (h : Hub) (a : Nat) (v : Word) : (h.setReg a v).bundlesOut = h.bundlesOut := rfl
@[simp] theorem Hub.quiesces_setReg (h : Hub) (a : Nat) (v : Word) : (h.setReg a v).quiesces = h.quiesces := rfl
@[simp] theorem Hub.quiescesIn_setReg (h : Hub) (a : Nat) (v : Word) : (h.setReg a v).quiescesIn = h.quiescesIn := rfl
@[simp] theorem Hub.closedPairs_setReg (h : Hub) (a : Nat) (v : Word) : (h.setReg a v).closedPairs = h.closedPairs := rfl
@[simp] theorem Hub.groups_setReg (h : Hub) (a : Nat) (v : Word) : (h.setReg a v).groups = h.groups := rfl
@[simp] theorem Hub.sites_setReg (h : Hub) (a : Nat) (v : Word) : (h.setReg a v).sites = h.sites := rfl
@[simp] theorem Hub.mail_setReg (h : Hub) (a : Nat) (v : Word) : (h.setReg a v).mail = h.mail := rfl
@[simp] theorem Hub.msix_setReg (h : Hub) (a : Nat) (v : Word) : (h.setReg a v).msix = h.msix := rfl
@[simp] theorem Hub.flrs_setReg (h : Hub) (a : Nat) (v : Word) : (h.setReg a v).flrs = h.flrs := rfl
@[simp] theorem Hub.fcol_setReg (h : Hub) (a : Nat) (v : Word) : (h.setReg a v).fcol = h.fcol := rfl
@[simp] theorem Hub.keySlots_setReg (h : Hub) (a : Nat) (v : Word) : (h.setReg a v).keySlots = h.keySlots := rfl
@[simp] theorem Hub.keyJobs_setReg (h : Hub) (a : Nat) (v : Word) : (h.setReg a v).keyJobs = h.keyJobs := rfl
@[simp] theorem Hub.keyOrder_setReg (h : Hub) (a : Nat) (v : Word) : (h.setReg a v).keyOrder = h.keyOrder := rfl
@[simp] theorem Hub.klv_setReg (h : Hub) (a : Nat) (v : Word) : (h.setReg a v).klv = h.klv := rfl
@[simp] theorem Hub.commitJob_setReg (h : Hub) (a : Nat) (v : Word) : (h.setReg a v).commitJob = h.commitJob := rfl
@[simp] theorem Hub.releasing_setReg (h : Hub) (a : Nat) (v : Word) : (h.setReg a v).releasing = h.releasing := rfl
@[simp] theorem Hub.lcsJob_setReg (h : Hub) (a : Nat) (v : Word) : (h.setReg a v).lcsJob = h.lcsJob := rfl
@[simp] theorem Hub.progJob_setReg (h : Hub) (a : Nat) (v : Word) : (h.setReg a v).progJob = h.progJob := rfl
@[simp] theorem Hub.pwrJob_setReg (h : Hub) (a : Nat) (v : Word) : (h.setReg a v).pwrJob = h.pwrJob := rfl
@[simp] theorem Hub.sensors_setReg (h : Hub) (a : Nat) (v : Word) : (h.setReg a v).sensors = h.sensors := rfl
@[simp] theorem Hub.fifos_setReg (h : Hub) (a : Nat) (v : Word) : (h.setReg a v).fifos = h.fifos := rfl
@[simp] theorem Hub.rngFails_setReg (h : Hub) (a : Nat) (v : Word) : (h.setReg a v).rngFails = h.rngFails := rfl
@[simp] theorem Hub.rngBad_setReg (h : Hub) (a : Nat) (v : Word) : (h.setReg a v).rngBad = h.rngBad := rfl
@[simp] theorem Hub.draws_setReg (h : Hub) (a : Nat) (v : Word) : (h.setReg a v).draws = h.draws := rfl
@[simp] theorem Hub.generated_setReg (h : Hub) (a : Nat) (v : Word) : (h.setReg a v).generated = h.generated := rfl
@[simp] theorem Hub.env_setReg (h : Hub) (a : Nat) (v : Word) : (h.setReg a v).env = h.env := rfl
@[simp] theorem Hub.out_setReg (h : Hub) (a : Nat) (v : Word) : (h.setReg a v).out = h.out := rfl

/-! ## setF -/

@[simp] theorem Hub.now_setF (h : Hub) (a : Nat) (f : Fld) (x : Nat) : (h.setF a f x).now = h.now := rfl
@[simp] theorem Hub.hbm_setF (h : Hub) (a : Nat) (f : Fld) (x : Nat) : (h.setF a f x).hbm = h.hbm := rfl
@[simp] theorem Hub.zeroed_setF (h : Hub) (a : Nat) (f : Fld) (x : Nat) : (h.setF a f x).zeroed = h.zeroed := rfl
@[simp] theorem Hub.flash_setF (h : Hub) (a : Nat) (f : Fld) (x : Nat) : (h.setF a f x).flash = h.flash := rfl
@[simp] theorem Hub.forme_setF (h : Hub) (a : Nat) (f : Fld) (x : Nat) : (h.setF a f x).forme = h.forme := rfl
@[simp] theorem Hub.slices_setF (h : Hub) (a : Nat) (f : Fld) (x : Nat) : (h.setF a f x).slices = h.slices := rfl
@[simp] theorem Hub.gens_setF (h : Hub) (a : Nat) (f : Fld) (x : Nat) : (h.setF a f x).gens = h.gens := rfl
@[simp] theorem Hub.cells_setF (h : Hub) (a : Nat) (f : Fld) (x : Nat) : (h.setF a f x).cells = h.cells := rfl
@[simp] theorem Hub.tests_setF (h : Hub) (a : Nat) (f : Fld) (x : Nat) : (h.setF a f x).tests = h.tests := rfl
@[simp] theorem Hub.restAt_setF (h : Hub) (a : Nat) (f : Fld) (x : Nat) : (h.setF a f x).restAt = h.restAt := rfl
@[simp] theorem Hub.badArrays_setF (h : Hub) (a : Nat) (f : Fld) (x : Nat) : (h.setF a f x).badArrays = h.badArrays := rfl
@[simp] theorem Hub.fabricOps_setF (h : Hub) (a : Nat) (f : Fld) (x : Nat) : (h.setF a f x).fabricOps = h.fabricOps := rfl
@[simp] theorem Hub.reqs_setF (h : Hub) (a : Nat) (f : Fld) (x : Nat) : (h.setF a f x).reqs = h.reqs := rfl
@[simp] theorem Hub.nextId_setF (h : Hub) (a : Nat) (f : Fld) (x : Nat) : (h.setF a f x).nextId = h.nextId := rfl
@[simp] theorem Hub.items_setF (h : Hub) (a : Nat) (f : Fld) (x : Nat) : (h.setF a f x).items = h.items := rfl
@[simp] theorem Hub.queues_setF (h : Hub) (a : Nat) (f : Fld) (x : Nat) : (h.setF a f x).queues = h.queues := rfl
@[simp] theorem Hub.queueRr_setF (h : Hub) (a : Nat) (f : Fld) (x : Nat) : (h.setF a f x).queueRr = h.queueRr := rfl
@[simp] theorem Hub.walks_setF (h : Hub) (a : Nat) (f : Fld) (x : Nat) : (h.setF a f x).walks = h.walks := rfl
@[simp] theorem Hub.walkRound_setF (h : Hub) (a : Nat) (f : Fld) (x : Nat) : (h.setF a f x).walkRound = h.walkRound := rfl
@[simp] theorem Hub.xfaults_setF (h : Hub) (a : Nat) (f : Fld) (x : Nat) : (h.setF a f x).xfaults = h.xfaults := rfl
@[simp] theorem Hub.cache_setF (h : Hub) (a : Nat) (f : Fld) (x : Nat) : (h.setF a f x).cache = h.cache := rfl
@[simp] theorem Hub.walkCache_setF (h : Hub) (a : Nat) (f : Fld) (x : Nat) : (h.setF a f x).walkCache = h.walkCache := rfl
@[simp] theorem Hub.invals_setF (h : Hub) (a : Nat) (f : Fld) (x : Nat) : (h.setF a f x).invals = h.invals := rfl
@[simp] theorem Hub.chans_setF (h : Hub) (a : Nat) (f : Fld) (x : Nat) : (h.setF a f x).chans = h.chans := rfl
@[simp] theorem Hub.groupMeters_setF (h : Hub) (a : Nat) (f : Fld) (x : Nat) : (h.setF a f x).groupMeters = h.groupMeters := rfl
@[simp] theorem Hub.credits_setF (h : Hub) (a : Nat) (f : Fld) (x : Nat) : (h.setF a f x).credits = h.credits := rfl
@[simp] theorem Hub.weights_setF (h : Hub) (a : Nat) (f : Fld) (x : Nat) : (h.setF a f x).weights = h.weights := rfl
@[simp] theorem Hub.sweepBytes_setF (h : Hub) (a : Nat) (f : Fld) (x : Nat) : (h.setF a f x).sweepBytes = h.sweepBytes := rfl
@[simp] theorem Hub.stackSteps_setF (h : Hub) (a : Nat) (f : Fld) (x : Nat) : (h.setF a f x).stackSteps = h.stackSteps := rfl
@[simp] theorem Hub.remapJob_setF (h : Hub) (a : Nat) (f : Fld) (x : Nat) : (h.setF a f x).remapJob = h.remapJob := rfl
@[simp] theorem Hub.keyDraw_setF (h : Hub) (a : Nat) (f : Fld) (x : Nat) : (h.setF a f x).keyDraw = h.keyDraw := rfl
@[simp] theorem Hub.seals_setF (h : Hub) (a : Nat) (f : Fld) (x : Nat) : (h.setF a f x).seals = h.seals := rfl
@[simp] theorem Hub.nodeCache_setF (h : Hub) (a : Nat) (f : Fld) (x : Nat) : (h.setF a f x).nodeCache = h.nodeCache := rfl
@[simp] theorem Hub.links_setF (h : Hub) (a : Nat) (f : Fld) (x : Nat) : (h.setF a f x).links = h.links := rfl
@[simp] theorem Hub.tags_setF (h : Hub) (a : Nat) (f : Fld) (x : Nat) : (h.setF a f x).tags = h.tags := rfl
@[simp] theorem Hub.bundles_setF (h : Hub) (a : Nat) (f : Fld) (x : Nat) : (h.setF a f x).bundles = h.bundles := rfl
@[simp] theorem Hub.bundlesOut_setF (h : Hub) (a : Nat) (f : Fld) (x : Nat) : (h.setF a f x).bundlesOut = h.bundlesOut := rfl
@[simp] theorem Hub.quiesces_setF (h : Hub) (a : Nat) (f : Fld) (x : Nat) : (h.setF a f x).quiesces = h.quiesces := rfl
@[simp] theorem Hub.quiescesIn_setF (h : Hub) (a : Nat) (f : Fld) (x : Nat) : (h.setF a f x).quiescesIn = h.quiescesIn := rfl
@[simp] theorem Hub.closedPairs_setF (h : Hub) (a : Nat) (f : Fld) (x : Nat) : (h.setF a f x).closedPairs = h.closedPairs := rfl
@[simp] theorem Hub.groups_setF (h : Hub) (a : Nat) (f : Fld) (x : Nat) : (h.setF a f x).groups = h.groups := rfl
@[simp] theorem Hub.sites_setF (h : Hub) (a : Nat) (f : Fld) (x : Nat) : (h.setF a f x).sites = h.sites := rfl
@[simp] theorem Hub.mail_setF (h : Hub) (a : Nat) (f : Fld) (x : Nat) : (h.setF a f x).mail = h.mail := rfl
@[simp] theorem Hub.msix_setF (h : Hub) (a : Nat) (f : Fld) (x : Nat) : (h.setF a f x).msix = h.msix := rfl
@[simp] theorem Hub.flrs_setF (h : Hub) (a : Nat) (f : Fld) (x : Nat) : (h.setF a f x).flrs = h.flrs := rfl
@[simp] theorem Hub.fcol_setF (h : Hub) (a : Nat) (f : Fld) (x : Nat) : (h.setF a f x).fcol = h.fcol := rfl
@[simp] theorem Hub.keySlots_setF (h : Hub) (a : Nat) (f : Fld) (x : Nat) : (h.setF a f x).keySlots = h.keySlots := rfl
@[simp] theorem Hub.keyJobs_setF (h : Hub) (a : Nat) (f : Fld) (x : Nat) : (h.setF a f x).keyJobs = h.keyJobs := rfl
@[simp] theorem Hub.keyOrder_setF (h : Hub) (a : Nat) (f : Fld) (x : Nat) : (h.setF a f x).keyOrder = h.keyOrder := rfl
@[simp] theorem Hub.klv_setF (h : Hub) (a : Nat) (f : Fld) (x : Nat) : (h.setF a f x).klv = h.klv := rfl
@[simp] theorem Hub.commitJob_setF (h : Hub) (a : Nat) (f : Fld) (x : Nat) : (h.setF a f x).commitJob = h.commitJob := rfl
@[simp] theorem Hub.releasing_setF (h : Hub) (a : Nat) (f : Fld) (x : Nat) : (h.setF a f x).releasing = h.releasing := rfl
@[simp] theorem Hub.lcsJob_setF (h : Hub) (a : Nat) (f : Fld) (x : Nat) : (h.setF a f x).lcsJob = h.lcsJob := rfl
@[simp] theorem Hub.progJob_setF (h : Hub) (a : Nat) (f : Fld) (x : Nat) : (h.setF a f x).progJob = h.progJob := rfl
@[simp] theorem Hub.pwrJob_setF (h : Hub) (a : Nat) (f : Fld) (x : Nat) : (h.setF a f x).pwrJob = h.pwrJob := rfl
@[simp] theorem Hub.sensors_setF (h : Hub) (a : Nat) (f : Fld) (x : Nat) : (h.setF a f x).sensors = h.sensors := rfl
@[simp] theorem Hub.fifos_setF (h : Hub) (a : Nat) (f : Fld) (x : Nat) : (h.setF a f x).fifos = h.fifos := rfl
@[simp] theorem Hub.rngFails_setF (h : Hub) (a : Nat) (f : Fld) (x : Nat) : (h.setF a f x).rngFails = h.rngFails := rfl
@[simp] theorem Hub.rngBad_setF (h : Hub) (a : Nat) (f : Fld) (x : Nat) : (h.setF a f x).rngBad = h.rngBad := rfl
@[simp] theorem Hub.draws_setF (h : Hub) (a : Nat) (f : Fld) (x : Nat) : (h.setF a f x).draws = h.draws := rfl
@[simp] theorem Hub.generated_setF (h : Hub) (a : Nat) (f : Fld) (x : Nat) : (h.setF a f x).generated = h.generated := rfl
@[simp] theorem Hub.env_setF (h : Hub) (a : Nat) (f : Fld) (x : Nat) : (h.setF a f x).env = h.env := rfl
@[simp] theorem Hub.out_setF (h : Hub) (a : Nat) (f : Fld) (x : Nat) : (h.setF a f x).out = h.out := rfl

/-! ## count -/

@[simp] theorem Hub.now_count (h : Hub) (a : Nat) (f : Fld) (x : Nat) : (h.count a f x).now = h.now := rfl
@[simp] theorem Hub.hbm_count (h : Hub) (a : Nat) (f : Fld) (x : Nat) : (h.count a f x).hbm = h.hbm := rfl
@[simp] theorem Hub.zeroed_count (h : Hub) (a : Nat) (f : Fld) (x : Nat) : (h.count a f x).zeroed = h.zeroed := rfl
@[simp] theorem Hub.flash_count (h : Hub) (a : Nat) (f : Fld) (x : Nat) : (h.count a f x).flash = h.flash := rfl
@[simp] theorem Hub.forme_count (h : Hub) (a : Nat) (f : Fld) (x : Nat) : (h.count a f x).forme = h.forme := rfl
@[simp] theorem Hub.slices_count (h : Hub) (a : Nat) (f : Fld) (x : Nat) : (h.count a f x).slices = h.slices := rfl
@[simp] theorem Hub.gens_count (h : Hub) (a : Nat) (f : Fld) (x : Nat) : (h.count a f x).gens = h.gens := rfl
@[simp] theorem Hub.cells_count (h : Hub) (a : Nat) (f : Fld) (x : Nat) : (h.count a f x).cells = h.cells := rfl
@[simp] theorem Hub.tests_count (h : Hub) (a : Nat) (f : Fld) (x : Nat) : (h.count a f x).tests = h.tests := rfl
@[simp] theorem Hub.restAt_count (h : Hub) (a : Nat) (f : Fld) (x : Nat) : (h.count a f x).restAt = h.restAt := rfl
@[simp] theorem Hub.badArrays_count (h : Hub) (a : Nat) (f : Fld) (x : Nat) : (h.count a f x).badArrays = h.badArrays := rfl
@[simp] theorem Hub.fabricOps_count (h : Hub) (a : Nat) (f : Fld) (x : Nat) : (h.count a f x).fabricOps = h.fabricOps := rfl
@[simp] theorem Hub.reqs_count (h : Hub) (a : Nat) (f : Fld) (x : Nat) : (h.count a f x).reqs = h.reqs := rfl
@[simp] theorem Hub.nextId_count (h : Hub) (a : Nat) (f : Fld) (x : Nat) : (h.count a f x).nextId = h.nextId := rfl
@[simp] theorem Hub.items_count (h : Hub) (a : Nat) (f : Fld) (x : Nat) : (h.count a f x).items = h.items := rfl
@[simp] theorem Hub.queues_count (h : Hub) (a : Nat) (f : Fld) (x : Nat) : (h.count a f x).queues = h.queues := rfl
@[simp] theorem Hub.queueRr_count (h : Hub) (a : Nat) (f : Fld) (x : Nat) : (h.count a f x).queueRr = h.queueRr := rfl
@[simp] theorem Hub.walks_count (h : Hub) (a : Nat) (f : Fld) (x : Nat) : (h.count a f x).walks = h.walks := rfl
@[simp] theorem Hub.walkRound_count (h : Hub) (a : Nat) (f : Fld) (x : Nat) : (h.count a f x).walkRound = h.walkRound := rfl
@[simp] theorem Hub.xfaults_count (h : Hub) (a : Nat) (f : Fld) (x : Nat) : (h.count a f x).xfaults = h.xfaults := rfl
@[simp] theorem Hub.cache_count (h : Hub) (a : Nat) (f : Fld) (x : Nat) : (h.count a f x).cache = h.cache := rfl
@[simp] theorem Hub.walkCache_count (h : Hub) (a : Nat) (f : Fld) (x : Nat) : (h.count a f x).walkCache = h.walkCache := rfl
@[simp] theorem Hub.invals_count (h : Hub) (a : Nat) (f : Fld) (x : Nat) : (h.count a f x).invals = h.invals := rfl
@[simp] theorem Hub.chans_count (h : Hub) (a : Nat) (f : Fld) (x : Nat) : (h.count a f x).chans = h.chans := rfl
@[simp] theorem Hub.groupMeters_count (h : Hub) (a : Nat) (f : Fld) (x : Nat) : (h.count a f x).groupMeters = h.groupMeters := rfl
@[simp] theorem Hub.credits_count (h : Hub) (a : Nat) (f : Fld) (x : Nat) : (h.count a f x).credits = h.credits := rfl
@[simp] theorem Hub.weights_count (h : Hub) (a : Nat) (f : Fld) (x : Nat) : (h.count a f x).weights = h.weights := rfl
@[simp] theorem Hub.sweepBytes_count (h : Hub) (a : Nat) (f : Fld) (x : Nat) : (h.count a f x).sweepBytes = h.sweepBytes := rfl
@[simp] theorem Hub.stackSteps_count (h : Hub) (a : Nat) (f : Fld) (x : Nat) : (h.count a f x).stackSteps = h.stackSteps := rfl
@[simp] theorem Hub.remapJob_count (h : Hub) (a : Nat) (f : Fld) (x : Nat) : (h.count a f x).remapJob = h.remapJob := rfl
@[simp] theorem Hub.keyDraw_count (h : Hub) (a : Nat) (f : Fld) (x : Nat) : (h.count a f x).keyDraw = h.keyDraw := rfl
@[simp] theorem Hub.seals_count (h : Hub) (a : Nat) (f : Fld) (x : Nat) : (h.count a f x).seals = h.seals := rfl
@[simp] theorem Hub.nodeCache_count (h : Hub) (a : Nat) (f : Fld) (x : Nat) : (h.count a f x).nodeCache = h.nodeCache := rfl
@[simp] theorem Hub.links_count (h : Hub) (a : Nat) (f : Fld) (x : Nat) : (h.count a f x).links = h.links := rfl
@[simp] theorem Hub.tags_count (h : Hub) (a : Nat) (f : Fld) (x : Nat) : (h.count a f x).tags = h.tags := rfl
@[simp] theorem Hub.bundles_count (h : Hub) (a : Nat) (f : Fld) (x : Nat) : (h.count a f x).bundles = h.bundles := rfl
@[simp] theorem Hub.bundlesOut_count (h : Hub) (a : Nat) (f : Fld) (x : Nat) : (h.count a f x).bundlesOut = h.bundlesOut := rfl
@[simp] theorem Hub.quiesces_count (h : Hub) (a : Nat) (f : Fld) (x : Nat) : (h.count a f x).quiesces = h.quiesces := rfl
@[simp] theorem Hub.quiescesIn_count (h : Hub) (a : Nat) (f : Fld) (x : Nat) : (h.count a f x).quiescesIn = h.quiescesIn := rfl
@[simp] theorem Hub.closedPairs_count (h : Hub) (a : Nat) (f : Fld) (x : Nat) : (h.count a f x).closedPairs = h.closedPairs := rfl
@[simp] theorem Hub.groups_count (h : Hub) (a : Nat) (f : Fld) (x : Nat) : (h.count a f x).groups = h.groups := rfl
@[simp] theorem Hub.sites_count (h : Hub) (a : Nat) (f : Fld) (x : Nat) : (h.count a f x).sites = h.sites := rfl
@[simp] theorem Hub.mail_count (h : Hub) (a : Nat) (f : Fld) (x : Nat) : (h.count a f x).mail = h.mail := rfl
@[simp] theorem Hub.msix_count (h : Hub) (a : Nat) (f : Fld) (x : Nat) : (h.count a f x).msix = h.msix := rfl
@[simp] theorem Hub.flrs_count (h : Hub) (a : Nat) (f : Fld) (x : Nat) : (h.count a f x).flrs = h.flrs := rfl
@[simp] theorem Hub.fcol_count (h : Hub) (a : Nat) (f : Fld) (x : Nat) : (h.count a f x).fcol = h.fcol := rfl
@[simp] theorem Hub.keySlots_count (h : Hub) (a : Nat) (f : Fld) (x : Nat) : (h.count a f x).keySlots = h.keySlots := rfl
@[simp] theorem Hub.keyJobs_count (h : Hub) (a : Nat) (f : Fld) (x : Nat) : (h.count a f x).keyJobs = h.keyJobs := rfl
@[simp] theorem Hub.keyOrder_count (h : Hub) (a : Nat) (f : Fld) (x : Nat) : (h.count a f x).keyOrder = h.keyOrder := rfl
@[simp] theorem Hub.klv_count (h : Hub) (a : Nat) (f : Fld) (x : Nat) : (h.count a f x).klv = h.klv := rfl
@[simp] theorem Hub.commitJob_count (h : Hub) (a : Nat) (f : Fld) (x : Nat) : (h.count a f x).commitJob = h.commitJob := rfl
@[simp] theorem Hub.releasing_count (h : Hub) (a : Nat) (f : Fld) (x : Nat) : (h.count a f x).releasing = h.releasing := rfl
@[simp] theorem Hub.lcsJob_count (h : Hub) (a : Nat) (f : Fld) (x : Nat) : (h.count a f x).lcsJob = h.lcsJob := rfl
@[simp] theorem Hub.progJob_count (h : Hub) (a : Nat) (f : Fld) (x : Nat) : (h.count a f x).progJob = h.progJob := rfl
@[simp] theorem Hub.pwrJob_count (h : Hub) (a : Nat) (f : Fld) (x : Nat) : (h.count a f x).pwrJob = h.pwrJob := rfl
@[simp] theorem Hub.sensors_count (h : Hub) (a : Nat) (f : Fld) (x : Nat) : (h.count a f x).sensors = h.sensors := rfl
@[simp] theorem Hub.fifos_count (h : Hub) (a : Nat) (f : Fld) (x : Nat) : (h.count a f x).fifos = h.fifos := rfl
@[simp] theorem Hub.rngFails_count (h : Hub) (a : Nat) (f : Fld) (x : Nat) : (h.count a f x).rngFails = h.rngFails := rfl
@[simp] theorem Hub.rngBad_count (h : Hub) (a : Nat) (f : Fld) (x : Nat) : (h.count a f x).rngBad = h.rngBad := rfl
@[simp] theorem Hub.draws_count (h : Hub) (a : Nat) (f : Fld) (x : Nat) : (h.count a f x).draws = h.draws := rfl
@[simp] theorem Hub.generated_count (h : Hub) (a : Nat) (f : Fld) (x : Nat) : (h.count a f x).generated = h.generated := rfl
@[simp] theorem Hub.env_count (h : Hub) (a : Nat) (f : Fld) (x : Nat) : (h.count a f x).env = h.env := rfl
@[simp] theorem Hub.out_count (h : Hub) (a : Nat) (f : Fld) (x : Nat) : (h.count a f x).out = h.out := rfl

/-! ## bump -/

@[simp] theorem Hub.now_bump (h : Hub) (a : Nat) (f : Fld) (x : Nat) : (h.bump a f x).now = h.now := rfl
@[simp] theorem Hub.hbm_bump (h : Hub) (a : Nat) (f : Fld) (x : Nat) : (h.bump a f x).hbm = h.hbm := rfl
@[simp] theorem Hub.zeroed_bump (h : Hub) (a : Nat) (f : Fld) (x : Nat) : (h.bump a f x).zeroed = h.zeroed := rfl
@[simp] theorem Hub.flash_bump (h : Hub) (a : Nat) (f : Fld) (x : Nat) : (h.bump a f x).flash = h.flash := rfl
@[simp] theorem Hub.forme_bump (h : Hub) (a : Nat) (f : Fld) (x : Nat) : (h.bump a f x).forme = h.forme := rfl
@[simp] theorem Hub.slices_bump (h : Hub) (a : Nat) (f : Fld) (x : Nat) : (h.bump a f x).slices = h.slices := rfl
@[simp] theorem Hub.gens_bump (h : Hub) (a : Nat) (f : Fld) (x : Nat) : (h.bump a f x).gens = h.gens := rfl
@[simp] theorem Hub.cells_bump (h : Hub) (a : Nat) (f : Fld) (x : Nat) : (h.bump a f x).cells = h.cells := rfl
@[simp] theorem Hub.tests_bump (h : Hub) (a : Nat) (f : Fld) (x : Nat) : (h.bump a f x).tests = h.tests := rfl
@[simp] theorem Hub.restAt_bump (h : Hub) (a : Nat) (f : Fld) (x : Nat) : (h.bump a f x).restAt = h.restAt := rfl
@[simp] theorem Hub.badArrays_bump (h : Hub) (a : Nat) (f : Fld) (x : Nat) : (h.bump a f x).badArrays = h.badArrays := rfl
@[simp] theorem Hub.fabricOps_bump (h : Hub) (a : Nat) (f : Fld) (x : Nat) : (h.bump a f x).fabricOps = h.fabricOps := rfl
@[simp] theorem Hub.reqs_bump (h : Hub) (a : Nat) (f : Fld) (x : Nat) : (h.bump a f x).reqs = h.reqs := rfl
@[simp] theorem Hub.nextId_bump (h : Hub) (a : Nat) (f : Fld) (x : Nat) : (h.bump a f x).nextId = h.nextId := rfl
@[simp] theorem Hub.items_bump (h : Hub) (a : Nat) (f : Fld) (x : Nat) : (h.bump a f x).items = h.items := rfl
@[simp] theorem Hub.queues_bump (h : Hub) (a : Nat) (f : Fld) (x : Nat) : (h.bump a f x).queues = h.queues := rfl
@[simp] theorem Hub.queueRr_bump (h : Hub) (a : Nat) (f : Fld) (x : Nat) : (h.bump a f x).queueRr = h.queueRr := rfl
@[simp] theorem Hub.walks_bump (h : Hub) (a : Nat) (f : Fld) (x : Nat) : (h.bump a f x).walks = h.walks := rfl
@[simp] theorem Hub.walkRound_bump (h : Hub) (a : Nat) (f : Fld) (x : Nat) : (h.bump a f x).walkRound = h.walkRound := rfl
@[simp] theorem Hub.xfaults_bump (h : Hub) (a : Nat) (f : Fld) (x : Nat) : (h.bump a f x).xfaults = h.xfaults := rfl
@[simp] theorem Hub.cache_bump (h : Hub) (a : Nat) (f : Fld) (x : Nat) : (h.bump a f x).cache = h.cache := rfl
@[simp] theorem Hub.walkCache_bump (h : Hub) (a : Nat) (f : Fld) (x : Nat) : (h.bump a f x).walkCache = h.walkCache := rfl
@[simp] theorem Hub.invals_bump (h : Hub) (a : Nat) (f : Fld) (x : Nat) : (h.bump a f x).invals = h.invals := rfl
@[simp] theorem Hub.chans_bump (h : Hub) (a : Nat) (f : Fld) (x : Nat) : (h.bump a f x).chans = h.chans := rfl
@[simp] theorem Hub.groupMeters_bump (h : Hub) (a : Nat) (f : Fld) (x : Nat) : (h.bump a f x).groupMeters = h.groupMeters := rfl
@[simp] theorem Hub.credits_bump (h : Hub) (a : Nat) (f : Fld) (x : Nat) : (h.bump a f x).credits = h.credits := rfl
@[simp] theorem Hub.weights_bump (h : Hub) (a : Nat) (f : Fld) (x : Nat) : (h.bump a f x).weights = h.weights := rfl
@[simp] theorem Hub.sweepBytes_bump (h : Hub) (a : Nat) (f : Fld) (x : Nat) : (h.bump a f x).sweepBytes = h.sweepBytes := rfl
@[simp] theorem Hub.stackSteps_bump (h : Hub) (a : Nat) (f : Fld) (x : Nat) : (h.bump a f x).stackSteps = h.stackSteps := rfl
@[simp] theorem Hub.remapJob_bump (h : Hub) (a : Nat) (f : Fld) (x : Nat) : (h.bump a f x).remapJob = h.remapJob := rfl
@[simp] theorem Hub.keyDraw_bump (h : Hub) (a : Nat) (f : Fld) (x : Nat) : (h.bump a f x).keyDraw = h.keyDraw := rfl
@[simp] theorem Hub.seals_bump (h : Hub) (a : Nat) (f : Fld) (x : Nat) : (h.bump a f x).seals = h.seals := rfl
@[simp] theorem Hub.nodeCache_bump (h : Hub) (a : Nat) (f : Fld) (x : Nat) : (h.bump a f x).nodeCache = h.nodeCache := rfl
@[simp] theorem Hub.links_bump (h : Hub) (a : Nat) (f : Fld) (x : Nat) : (h.bump a f x).links = h.links := rfl
@[simp] theorem Hub.tags_bump (h : Hub) (a : Nat) (f : Fld) (x : Nat) : (h.bump a f x).tags = h.tags := rfl
@[simp] theorem Hub.bundles_bump (h : Hub) (a : Nat) (f : Fld) (x : Nat) : (h.bump a f x).bundles = h.bundles := rfl
@[simp] theorem Hub.bundlesOut_bump (h : Hub) (a : Nat) (f : Fld) (x : Nat) : (h.bump a f x).bundlesOut = h.bundlesOut := rfl
@[simp] theorem Hub.quiesces_bump (h : Hub) (a : Nat) (f : Fld) (x : Nat) : (h.bump a f x).quiesces = h.quiesces := rfl
@[simp] theorem Hub.quiescesIn_bump (h : Hub) (a : Nat) (f : Fld) (x : Nat) : (h.bump a f x).quiescesIn = h.quiescesIn := rfl
@[simp] theorem Hub.closedPairs_bump (h : Hub) (a : Nat) (f : Fld) (x : Nat) : (h.bump a f x).closedPairs = h.closedPairs := rfl
@[simp] theorem Hub.groups_bump (h : Hub) (a : Nat) (f : Fld) (x : Nat) : (h.bump a f x).groups = h.groups := rfl
@[simp] theorem Hub.sites_bump (h : Hub) (a : Nat) (f : Fld) (x : Nat) : (h.bump a f x).sites = h.sites := rfl
@[simp] theorem Hub.mail_bump (h : Hub) (a : Nat) (f : Fld) (x : Nat) : (h.bump a f x).mail = h.mail := rfl
@[simp] theorem Hub.msix_bump (h : Hub) (a : Nat) (f : Fld) (x : Nat) : (h.bump a f x).msix = h.msix := rfl
@[simp] theorem Hub.flrs_bump (h : Hub) (a : Nat) (f : Fld) (x : Nat) : (h.bump a f x).flrs = h.flrs := rfl
@[simp] theorem Hub.fcol_bump (h : Hub) (a : Nat) (f : Fld) (x : Nat) : (h.bump a f x).fcol = h.fcol := rfl
@[simp] theorem Hub.keySlots_bump (h : Hub) (a : Nat) (f : Fld) (x : Nat) : (h.bump a f x).keySlots = h.keySlots := rfl
@[simp] theorem Hub.keyJobs_bump (h : Hub) (a : Nat) (f : Fld) (x : Nat) : (h.bump a f x).keyJobs = h.keyJobs := rfl
@[simp] theorem Hub.keyOrder_bump (h : Hub) (a : Nat) (f : Fld) (x : Nat) : (h.bump a f x).keyOrder = h.keyOrder := rfl
@[simp] theorem Hub.klv_bump (h : Hub) (a : Nat) (f : Fld) (x : Nat) : (h.bump a f x).klv = h.klv := rfl
@[simp] theorem Hub.commitJob_bump (h : Hub) (a : Nat) (f : Fld) (x : Nat) : (h.bump a f x).commitJob = h.commitJob := rfl
@[simp] theorem Hub.releasing_bump (h : Hub) (a : Nat) (f : Fld) (x : Nat) : (h.bump a f x).releasing = h.releasing := rfl
@[simp] theorem Hub.lcsJob_bump (h : Hub) (a : Nat) (f : Fld) (x : Nat) : (h.bump a f x).lcsJob = h.lcsJob := rfl
@[simp] theorem Hub.progJob_bump (h : Hub) (a : Nat) (f : Fld) (x : Nat) : (h.bump a f x).progJob = h.progJob := rfl
@[simp] theorem Hub.pwrJob_bump (h : Hub) (a : Nat) (f : Fld) (x : Nat) : (h.bump a f x).pwrJob = h.pwrJob := rfl
@[simp] theorem Hub.sensors_bump (h : Hub) (a : Nat) (f : Fld) (x : Nat) : (h.bump a f x).sensors = h.sensors := rfl
@[simp] theorem Hub.fifos_bump (h : Hub) (a : Nat) (f : Fld) (x : Nat) : (h.bump a f x).fifos = h.fifos := rfl
@[simp] theorem Hub.rngFails_bump (h : Hub) (a : Nat) (f : Fld) (x : Nat) : (h.bump a f x).rngFails = h.rngFails := rfl
@[simp] theorem Hub.rngBad_bump (h : Hub) (a : Nat) (f : Fld) (x : Nat) : (h.bump a f x).rngBad = h.rngBad := rfl
@[simp] theorem Hub.draws_bump (h : Hub) (a : Nat) (f : Fld) (x : Nat) : (h.bump a f x).draws = h.draws := rfl
@[simp] theorem Hub.generated_bump (h : Hub) (a : Nat) (f : Fld) (x : Nat) : (h.bump a f x).generated = h.generated := rfl
@[simp] theorem Hub.env_bump (h : Hub) (a : Nat) (f : Fld) (x : Nat) : (h.bump a f x).env = h.env := rfl
@[simp] theorem Hub.out_bump (h : Hub) (a : Nat) (f : Fld) (x : Nat) : (h.bump a f x).out = h.out := rfl

/-! ## emit -/

@[simp] theorem Hub.now_emit (h : Hub) (o : Output) : (h.emit o).now = h.now := rfl
@[simp] theorem Hub.regs_emit (h : Hub) (o : Output) : (h.emit o).regs = h.regs := rfl
@[simp] theorem Hub.hbm_emit (h : Hub) (o : Output) : (h.emit o).hbm = h.hbm := rfl
@[simp] theorem Hub.zeroed_emit (h : Hub) (o : Output) : (h.emit o).zeroed = h.zeroed := rfl
@[simp] theorem Hub.flash_emit (h : Hub) (o : Output) : (h.emit o).flash = h.flash := rfl
@[simp] theorem Hub.forme_emit (h : Hub) (o : Output) : (h.emit o).forme = h.forme := rfl
@[simp] theorem Hub.slices_emit (h : Hub) (o : Output) : (h.emit o).slices = h.slices := rfl
@[simp] theorem Hub.gens_emit (h : Hub) (o : Output) : (h.emit o).gens = h.gens := rfl
@[simp] theorem Hub.cells_emit (h : Hub) (o : Output) : (h.emit o).cells = h.cells := rfl
@[simp] theorem Hub.tests_emit (h : Hub) (o : Output) : (h.emit o).tests = h.tests := rfl
@[simp] theorem Hub.restAt_emit (h : Hub) (o : Output) : (h.emit o).restAt = h.restAt := rfl
@[simp] theorem Hub.badArrays_emit (h : Hub) (o : Output) : (h.emit o).badArrays = h.badArrays := rfl
@[simp] theorem Hub.fabricOps_emit (h : Hub) (o : Output) : (h.emit o).fabricOps = h.fabricOps := rfl
@[simp] theorem Hub.reqs_emit (h : Hub) (o : Output) : (h.emit o).reqs = h.reqs := rfl
@[simp] theorem Hub.nextId_emit (h : Hub) (o : Output) : (h.emit o).nextId = h.nextId := rfl
@[simp] theorem Hub.items_emit (h : Hub) (o : Output) : (h.emit o).items = h.items := rfl
@[simp] theorem Hub.queues_emit (h : Hub) (o : Output) : (h.emit o).queues = h.queues := rfl
@[simp] theorem Hub.queueRr_emit (h : Hub) (o : Output) : (h.emit o).queueRr = h.queueRr := rfl
@[simp] theorem Hub.walks_emit (h : Hub) (o : Output) : (h.emit o).walks = h.walks := rfl
@[simp] theorem Hub.walkRound_emit (h : Hub) (o : Output) : (h.emit o).walkRound = h.walkRound := rfl
@[simp] theorem Hub.xfaults_emit (h : Hub) (o : Output) : (h.emit o).xfaults = h.xfaults := rfl
@[simp] theorem Hub.cache_emit (h : Hub) (o : Output) : (h.emit o).cache = h.cache := rfl
@[simp] theorem Hub.walkCache_emit (h : Hub) (o : Output) : (h.emit o).walkCache = h.walkCache := rfl
@[simp] theorem Hub.invals_emit (h : Hub) (o : Output) : (h.emit o).invals = h.invals := rfl
@[simp] theorem Hub.chans_emit (h : Hub) (o : Output) : (h.emit o).chans = h.chans := rfl
@[simp] theorem Hub.groupMeters_emit (h : Hub) (o : Output) : (h.emit o).groupMeters = h.groupMeters := rfl
@[simp] theorem Hub.credits_emit (h : Hub) (o : Output) : (h.emit o).credits = h.credits := rfl
@[simp] theorem Hub.weights_emit (h : Hub) (o : Output) : (h.emit o).weights = h.weights := rfl
@[simp] theorem Hub.sweepBytes_emit (h : Hub) (o : Output) : (h.emit o).sweepBytes = h.sweepBytes := rfl
@[simp] theorem Hub.stackSteps_emit (h : Hub) (o : Output) : (h.emit o).stackSteps = h.stackSteps := rfl
@[simp] theorem Hub.remapJob_emit (h : Hub) (o : Output) : (h.emit o).remapJob = h.remapJob := rfl
@[simp] theorem Hub.keyDraw_emit (h : Hub) (o : Output) : (h.emit o).keyDraw = h.keyDraw := rfl
@[simp] theorem Hub.seals_emit (h : Hub) (o : Output) : (h.emit o).seals = h.seals := rfl
@[simp] theorem Hub.nodeCache_emit (h : Hub) (o : Output) : (h.emit o).nodeCache = h.nodeCache := rfl
@[simp] theorem Hub.links_emit (h : Hub) (o : Output) : (h.emit o).links = h.links := rfl
@[simp] theorem Hub.tags_emit (h : Hub) (o : Output) : (h.emit o).tags = h.tags := rfl
@[simp] theorem Hub.bundles_emit (h : Hub) (o : Output) : (h.emit o).bundles = h.bundles := rfl
@[simp] theorem Hub.bundlesOut_emit (h : Hub) (o : Output) : (h.emit o).bundlesOut = h.bundlesOut := rfl
@[simp] theorem Hub.quiesces_emit (h : Hub) (o : Output) : (h.emit o).quiesces = h.quiesces := rfl
@[simp] theorem Hub.quiescesIn_emit (h : Hub) (o : Output) : (h.emit o).quiescesIn = h.quiescesIn := rfl
@[simp] theorem Hub.closedPairs_emit (h : Hub) (o : Output) : (h.emit o).closedPairs = h.closedPairs := rfl
@[simp] theorem Hub.groups_emit (h : Hub) (o : Output) : (h.emit o).groups = h.groups := rfl
@[simp] theorem Hub.sites_emit (h : Hub) (o : Output) : (h.emit o).sites = h.sites := rfl
@[simp] theorem Hub.mail_emit (h : Hub) (o : Output) : (h.emit o).mail = h.mail := rfl
@[simp] theorem Hub.msix_emit (h : Hub) (o : Output) : (h.emit o).msix = h.msix := rfl
@[simp] theorem Hub.flrs_emit (h : Hub) (o : Output) : (h.emit o).flrs = h.flrs := rfl
@[simp] theorem Hub.fcol_emit (h : Hub) (o : Output) : (h.emit o).fcol = h.fcol := rfl
@[simp] theorem Hub.keySlots_emit (h : Hub) (o : Output) : (h.emit o).keySlots = h.keySlots := rfl
@[simp] theorem Hub.keyJobs_emit (h : Hub) (o : Output) : (h.emit o).keyJobs = h.keyJobs := rfl
@[simp] theorem Hub.keyOrder_emit (h : Hub) (o : Output) : (h.emit o).keyOrder = h.keyOrder := rfl
@[simp] theorem Hub.klv_emit (h : Hub) (o : Output) : (h.emit o).klv = h.klv := rfl
@[simp] theorem Hub.commitJob_emit (h : Hub) (o : Output) : (h.emit o).commitJob = h.commitJob := rfl
@[simp] theorem Hub.releasing_emit (h : Hub) (o : Output) : (h.emit o).releasing = h.releasing := rfl
@[simp] theorem Hub.lcsJob_emit (h : Hub) (o : Output) : (h.emit o).lcsJob = h.lcsJob := rfl
@[simp] theorem Hub.progJob_emit (h : Hub) (o : Output) : (h.emit o).progJob = h.progJob := rfl
@[simp] theorem Hub.pwrJob_emit (h : Hub) (o : Output) : (h.emit o).pwrJob = h.pwrJob := rfl
@[simp] theorem Hub.sensors_emit (h : Hub) (o : Output) : (h.emit o).sensors = h.sensors := rfl
@[simp] theorem Hub.fifos_emit (h : Hub) (o : Output) : (h.emit o).fifos = h.fifos := rfl
@[simp] theorem Hub.rngFails_emit (h : Hub) (o : Output) : (h.emit o).rngFails = h.rngFails := rfl
@[simp] theorem Hub.rngBad_emit (h : Hub) (o : Output) : (h.emit o).rngBad = h.rngBad := rfl
@[simp] theorem Hub.draws_emit (h : Hub) (o : Output) : (h.emit o).draws = h.draws := rfl
@[simp] theorem Hub.generated_emit (h : Hub) (o : Output) : (h.emit o).generated = h.generated := rfl
@[simp] theorem Hub.env_emit (h : Hub) (o : Output) : (h.emit o).env = h.env := rfl

/-! ## regOk -/

@[simp] theorem Hub.now_regOk (h : Hub) : (h.regOk).now = h.now := rfl
@[simp] theorem Hub.regs_regOk (h : Hub) : (h.regOk).regs = h.regs := rfl
@[simp] theorem Hub.hbm_regOk (h : Hub) : (h.regOk).hbm = h.hbm := rfl
@[simp] theorem Hub.zeroed_regOk (h : Hub) : (h.regOk).zeroed = h.zeroed := rfl
@[simp] theorem Hub.flash_regOk (h : Hub) : (h.regOk).flash = h.flash := rfl
@[simp] theorem Hub.forme_regOk (h : Hub) : (h.regOk).forme = h.forme := rfl
@[simp] theorem Hub.slices_regOk (h : Hub) : (h.regOk).slices = h.slices := rfl
@[simp] theorem Hub.gens_regOk (h : Hub) : (h.regOk).gens = h.gens := rfl
@[simp] theorem Hub.cells_regOk (h : Hub) : (h.regOk).cells = h.cells := rfl
@[simp] theorem Hub.tests_regOk (h : Hub) : (h.regOk).tests = h.tests := rfl
@[simp] theorem Hub.restAt_regOk (h : Hub) : (h.regOk).restAt = h.restAt := rfl
@[simp] theorem Hub.badArrays_regOk (h : Hub) : (h.regOk).badArrays = h.badArrays := rfl
@[simp] theorem Hub.fabricOps_regOk (h : Hub) : (h.regOk).fabricOps = h.fabricOps := rfl
@[simp] theorem Hub.reqs_regOk (h : Hub) : (h.regOk).reqs = h.reqs := rfl
@[simp] theorem Hub.nextId_regOk (h : Hub) : (h.regOk).nextId = h.nextId := rfl
@[simp] theorem Hub.items_regOk (h : Hub) : (h.regOk).items = h.items := rfl
@[simp] theorem Hub.queues_regOk (h : Hub) : (h.regOk).queues = h.queues := rfl
@[simp] theorem Hub.queueRr_regOk (h : Hub) : (h.regOk).queueRr = h.queueRr := rfl
@[simp] theorem Hub.walks_regOk (h : Hub) : (h.regOk).walks = h.walks := rfl
@[simp] theorem Hub.walkRound_regOk (h : Hub) : (h.regOk).walkRound = h.walkRound := rfl
@[simp] theorem Hub.xfaults_regOk (h : Hub) : (h.regOk).xfaults = h.xfaults := rfl
@[simp] theorem Hub.cache_regOk (h : Hub) : (h.regOk).cache = h.cache := rfl
@[simp] theorem Hub.walkCache_regOk (h : Hub) : (h.regOk).walkCache = h.walkCache := rfl
@[simp] theorem Hub.invals_regOk (h : Hub) : (h.regOk).invals = h.invals := rfl
@[simp] theorem Hub.chans_regOk (h : Hub) : (h.regOk).chans = h.chans := rfl
@[simp] theorem Hub.groupMeters_regOk (h : Hub) : (h.regOk).groupMeters = h.groupMeters := rfl
@[simp] theorem Hub.credits_regOk (h : Hub) : (h.regOk).credits = h.credits := rfl
@[simp] theorem Hub.weights_regOk (h : Hub) : (h.regOk).weights = h.weights := rfl
@[simp] theorem Hub.sweepBytes_regOk (h : Hub) : (h.regOk).sweepBytes = h.sweepBytes := rfl
@[simp] theorem Hub.stackSteps_regOk (h : Hub) : (h.regOk).stackSteps = h.stackSteps := rfl
@[simp] theorem Hub.remapJob_regOk (h : Hub) : (h.regOk).remapJob = h.remapJob := rfl
@[simp] theorem Hub.keyDraw_regOk (h : Hub) : (h.regOk).keyDraw = h.keyDraw := rfl
@[simp] theorem Hub.seals_regOk (h : Hub) : (h.regOk).seals = h.seals := rfl
@[simp] theorem Hub.nodeCache_regOk (h : Hub) : (h.regOk).nodeCache = h.nodeCache := rfl
@[simp] theorem Hub.links_regOk (h : Hub) : (h.regOk).links = h.links := rfl
@[simp] theorem Hub.tags_regOk (h : Hub) : (h.regOk).tags = h.tags := rfl
@[simp] theorem Hub.bundles_regOk (h : Hub) : (h.regOk).bundles = h.bundles := rfl
@[simp] theorem Hub.bundlesOut_regOk (h : Hub) : (h.regOk).bundlesOut = h.bundlesOut := rfl
@[simp] theorem Hub.quiesces_regOk (h : Hub) : (h.regOk).quiesces = h.quiesces := rfl
@[simp] theorem Hub.quiescesIn_regOk (h : Hub) : (h.regOk).quiescesIn = h.quiescesIn := rfl
@[simp] theorem Hub.closedPairs_regOk (h : Hub) : (h.regOk).closedPairs = h.closedPairs := rfl
@[simp] theorem Hub.groups_regOk (h : Hub) : (h.regOk).groups = h.groups := rfl
@[simp] theorem Hub.sites_regOk (h : Hub) : (h.regOk).sites = h.sites := rfl
@[simp] theorem Hub.mail_regOk (h : Hub) : (h.regOk).mail = h.mail := rfl
@[simp] theorem Hub.msix_regOk (h : Hub) : (h.regOk).msix = h.msix := rfl
@[simp] theorem Hub.flrs_regOk (h : Hub) : (h.regOk).flrs = h.flrs := rfl
@[simp] theorem Hub.fcol_regOk (h : Hub) : (h.regOk).fcol = h.fcol := rfl
@[simp] theorem Hub.keySlots_regOk (h : Hub) : (h.regOk).keySlots = h.keySlots := rfl
@[simp] theorem Hub.keyJobs_regOk (h : Hub) : (h.regOk).keyJobs = h.keyJobs := rfl
@[simp] theorem Hub.keyOrder_regOk (h : Hub) : (h.regOk).keyOrder = h.keyOrder := rfl
@[simp] theorem Hub.klv_regOk (h : Hub) : (h.regOk).klv = h.klv := rfl
@[simp] theorem Hub.commitJob_regOk (h : Hub) : (h.regOk).commitJob = h.commitJob := rfl
@[simp] theorem Hub.releasing_regOk (h : Hub) : (h.regOk).releasing = h.releasing := rfl
@[simp] theorem Hub.lcsJob_regOk (h : Hub) : (h.regOk).lcsJob = h.lcsJob := rfl
@[simp] theorem Hub.progJob_regOk (h : Hub) : (h.regOk).progJob = h.progJob := rfl
@[simp] theorem Hub.pwrJob_regOk (h : Hub) : (h.regOk).pwrJob = h.pwrJob := rfl
@[simp] theorem Hub.sensors_regOk (h : Hub) : (h.regOk).sensors = h.sensors := rfl
@[simp] theorem Hub.fifos_regOk (h : Hub) : (h.regOk).fifos = h.fifos := rfl
@[simp] theorem Hub.rngFails_regOk (h : Hub) : (h.regOk).rngFails = h.rngFails := rfl
@[simp] theorem Hub.rngBad_regOk (h : Hub) : (h.regOk).rngBad = h.rngBad := rfl
@[simp] theorem Hub.draws_regOk (h : Hub) : (h.regOk).draws = h.draws := rfl
@[simp] theorem Hub.generated_regOk (h : Hub) : (h.regOk).generated = h.generated := rfl
@[simp] theorem Hub.env_regOk (h : Hub) : (h.regOk).env = h.env := rfl

/-! ## regErr -/

@[simp] theorem Hub.now_regErr (h : Hub) : (h.regErr).now = h.now := rfl
@[simp] theorem Hub.regs_regErr (h : Hub) : (h.regErr).regs = h.regs := rfl
@[simp] theorem Hub.hbm_regErr (h : Hub) : (h.regErr).hbm = h.hbm := rfl
@[simp] theorem Hub.zeroed_regErr (h : Hub) : (h.regErr).zeroed = h.zeroed := rfl
@[simp] theorem Hub.flash_regErr (h : Hub) : (h.regErr).flash = h.flash := rfl
@[simp] theorem Hub.forme_regErr (h : Hub) : (h.regErr).forme = h.forme := rfl
@[simp] theorem Hub.slices_regErr (h : Hub) : (h.regErr).slices = h.slices := rfl
@[simp] theorem Hub.gens_regErr (h : Hub) : (h.regErr).gens = h.gens := rfl
@[simp] theorem Hub.cells_regErr (h : Hub) : (h.regErr).cells = h.cells := rfl
@[simp] theorem Hub.tests_regErr (h : Hub) : (h.regErr).tests = h.tests := rfl
@[simp] theorem Hub.restAt_regErr (h : Hub) : (h.regErr).restAt = h.restAt := rfl
@[simp] theorem Hub.badArrays_regErr (h : Hub) : (h.regErr).badArrays = h.badArrays := rfl
@[simp] theorem Hub.fabricOps_regErr (h : Hub) : (h.regErr).fabricOps = h.fabricOps := rfl
@[simp] theorem Hub.reqs_regErr (h : Hub) : (h.regErr).reqs = h.reqs := rfl
@[simp] theorem Hub.nextId_regErr (h : Hub) : (h.regErr).nextId = h.nextId := rfl
@[simp] theorem Hub.items_regErr (h : Hub) : (h.regErr).items = h.items := rfl
@[simp] theorem Hub.queues_regErr (h : Hub) : (h.regErr).queues = h.queues := rfl
@[simp] theorem Hub.queueRr_regErr (h : Hub) : (h.regErr).queueRr = h.queueRr := rfl
@[simp] theorem Hub.walks_regErr (h : Hub) : (h.regErr).walks = h.walks := rfl
@[simp] theorem Hub.walkRound_regErr (h : Hub) : (h.regErr).walkRound = h.walkRound := rfl
@[simp] theorem Hub.xfaults_regErr (h : Hub) : (h.regErr).xfaults = h.xfaults := rfl
@[simp] theorem Hub.cache_regErr (h : Hub) : (h.regErr).cache = h.cache := rfl
@[simp] theorem Hub.walkCache_regErr (h : Hub) : (h.regErr).walkCache = h.walkCache := rfl
@[simp] theorem Hub.invals_regErr (h : Hub) : (h.regErr).invals = h.invals := rfl
@[simp] theorem Hub.chans_regErr (h : Hub) : (h.regErr).chans = h.chans := rfl
@[simp] theorem Hub.groupMeters_regErr (h : Hub) : (h.regErr).groupMeters = h.groupMeters := rfl
@[simp] theorem Hub.credits_regErr (h : Hub) : (h.regErr).credits = h.credits := rfl
@[simp] theorem Hub.weights_regErr (h : Hub) : (h.regErr).weights = h.weights := rfl
@[simp] theorem Hub.sweepBytes_regErr (h : Hub) : (h.regErr).sweepBytes = h.sweepBytes := rfl
@[simp] theorem Hub.stackSteps_regErr (h : Hub) : (h.regErr).stackSteps = h.stackSteps := rfl
@[simp] theorem Hub.remapJob_regErr (h : Hub) : (h.regErr).remapJob = h.remapJob := rfl
@[simp] theorem Hub.keyDraw_regErr (h : Hub) : (h.regErr).keyDraw = h.keyDraw := rfl
@[simp] theorem Hub.seals_regErr (h : Hub) : (h.regErr).seals = h.seals := rfl
@[simp] theorem Hub.nodeCache_regErr (h : Hub) : (h.regErr).nodeCache = h.nodeCache := rfl
@[simp] theorem Hub.links_regErr (h : Hub) : (h.regErr).links = h.links := rfl
@[simp] theorem Hub.tags_regErr (h : Hub) : (h.regErr).tags = h.tags := rfl
@[simp] theorem Hub.bundles_regErr (h : Hub) : (h.regErr).bundles = h.bundles := rfl
@[simp] theorem Hub.bundlesOut_regErr (h : Hub) : (h.regErr).bundlesOut = h.bundlesOut := rfl
@[simp] theorem Hub.quiesces_regErr (h : Hub) : (h.regErr).quiesces = h.quiesces := rfl
@[simp] theorem Hub.quiescesIn_regErr (h : Hub) : (h.regErr).quiescesIn = h.quiescesIn := rfl
@[simp] theorem Hub.closedPairs_regErr (h : Hub) : (h.regErr).closedPairs = h.closedPairs := rfl
@[simp] theorem Hub.groups_regErr (h : Hub) : (h.regErr).groups = h.groups := rfl
@[simp] theorem Hub.sites_regErr (h : Hub) : (h.regErr).sites = h.sites := rfl
@[simp] theorem Hub.mail_regErr (h : Hub) : (h.regErr).mail = h.mail := rfl
@[simp] theorem Hub.msix_regErr (h : Hub) : (h.regErr).msix = h.msix := rfl
@[simp] theorem Hub.flrs_regErr (h : Hub) : (h.regErr).flrs = h.flrs := rfl
@[simp] theorem Hub.fcol_regErr (h : Hub) : (h.regErr).fcol = h.fcol := rfl
@[simp] theorem Hub.keySlots_regErr (h : Hub) : (h.regErr).keySlots = h.keySlots := rfl
@[simp] theorem Hub.keyJobs_regErr (h : Hub) : (h.regErr).keyJobs = h.keyJobs := rfl
@[simp] theorem Hub.keyOrder_regErr (h : Hub) : (h.regErr).keyOrder = h.keyOrder := rfl
@[simp] theorem Hub.klv_regErr (h : Hub) : (h.regErr).klv = h.klv := rfl
@[simp] theorem Hub.commitJob_regErr (h : Hub) : (h.regErr).commitJob = h.commitJob := rfl
@[simp] theorem Hub.releasing_regErr (h : Hub) : (h.regErr).releasing = h.releasing := rfl
@[simp] theorem Hub.lcsJob_regErr (h : Hub) : (h.regErr).lcsJob = h.lcsJob := rfl
@[simp] theorem Hub.progJob_regErr (h : Hub) : (h.regErr).progJob = h.progJob := rfl
@[simp] theorem Hub.pwrJob_regErr (h : Hub) : (h.regErr).pwrJob = h.pwrJob := rfl
@[simp] theorem Hub.sensors_regErr (h : Hub) : (h.regErr).sensors = h.sensors := rfl
@[simp] theorem Hub.fifos_regErr (h : Hub) : (h.regErr).fifos = h.fifos := rfl
@[simp] theorem Hub.rngFails_regErr (h : Hub) : (h.regErr).rngFails = h.rngFails := rfl
@[simp] theorem Hub.rngBad_regErr (h : Hub) : (h.regErr).rngBad = h.rngBad := rfl
@[simp] theorem Hub.draws_regErr (h : Hub) : (h.regErr).draws = h.draws := rfl
@[simp] theorem Hub.generated_regErr (h : Hub) : (h.regErr).generated = h.generated := rfl
@[simp] theorem Hub.env_regErr (h : Hub) : (h.regErr).env = h.env := rfl

/-! ## setRt -/

@[simp] theorem Hub.now_setRt (h : Hub) (s : Nat) (r : SliceRt) : (h.setRt s r).now = h.now := rfl
@[simp] theorem Hub.regs_setRt (h : Hub) (s : Nat) (r : SliceRt) : (h.setRt s r).regs = h.regs := rfl
@[simp] theorem Hub.hbm_setRt (h : Hub) (s : Nat) (r : SliceRt) : (h.setRt s r).hbm = h.hbm := rfl
@[simp] theorem Hub.zeroed_setRt (h : Hub) (s : Nat) (r : SliceRt) : (h.setRt s r).zeroed = h.zeroed := rfl
@[simp] theorem Hub.flash_setRt (h : Hub) (s : Nat) (r : SliceRt) : (h.setRt s r).flash = h.flash := rfl
@[simp] theorem Hub.forme_setRt (h : Hub) (s : Nat) (r : SliceRt) : (h.setRt s r).forme = h.forme := rfl
@[simp] theorem Hub.gens_setRt (h : Hub) (s : Nat) (r : SliceRt) : (h.setRt s r).gens = h.gens := rfl
@[simp] theorem Hub.cells_setRt (h : Hub) (s : Nat) (r : SliceRt) : (h.setRt s r).cells = h.cells := rfl
@[simp] theorem Hub.tests_setRt (h : Hub) (s : Nat) (r : SliceRt) : (h.setRt s r).tests = h.tests := rfl
@[simp] theorem Hub.restAt_setRt (h : Hub) (s : Nat) (r : SliceRt) : (h.setRt s r).restAt = h.restAt := rfl
@[simp] theorem Hub.badArrays_setRt (h : Hub) (s : Nat) (r : SliceRt) : (h.setRt s r).badArrays = h.badArrays := rfl
@[simp] theorem Hub.fabricOps_setRt (h : Hub) (s : Nat) (r : SliceRt) : (h.setRt s r).fabricOps = h.fabricOps := rfl
@[simp] theorem Hub.reqs_setRt (h : Hub) (s : Nat) (r : SliceRt) : (h.setRt s r).reqs = h.reqs := rfl
@[simp] theorem Hub.nextId_setRt (h : Hub) (s : Nat) (r : SliceRt) : (h.setRt s r).nextId = h.nextId := rfl
@[simp] theorem Hub.items_setRt (h : Hub) (s : Nat) (r : SliceRt) : (h.setRt s r).items = h.items := rfl
@[simp] theorem Hub.queues_setRt (h : Hub) (s : Nat) (r : SliceRt) : (h.setRt s r).queues = h.queues := rfl
@[simp] theorem Hub.queueRr_setRt (h : Hub) (s : Nat) (r : SliceRt) : (h.setRt s r).queueRr = h.queueRr := rfl
@[simp] theorem Hub.walks_setRt (h : Hub) (s : Nat) (r : SliceRt) : (h.setRt s r).walks = h.walks := rfl
@[simp] theorem Hub.walkRound_setRt (h : Hub) (s : Nat) (r : SliceRt) : (h.setRt s r).walkRound = h.walkRound := rfl
@[simp] theorem Hub.xfaults_setRt (h : Hub) (s : Nat) (r : SliceRt) : (h.setRt s r).xfaults = h.xfaults := rfl
@[simp] theorem Hub.cache_setRt (h : Hub) (s : Nat) (r : SliceRt) : (h.setRt s r).cache = h.cache := rfl
@[simp] theorem Hub.walkCache_setRt (h : Hub) (s : Nat) (r : SliceRt) : (h.setRt s r).walkCache = h.walkCache := rfl
@[simp] theorem Hub.invals_setRt (h : Hub) (s : Nat) (r : SliceRt) : (h.setRt s r).invals = h.invals := rfl
@[simp] theorem Hub.chans_setRt (h : Hub) (s : Nat) (r : SliceRt) : (h.setRt s r).chans = h.chans := rfl
@[simp] theorem Hub.groupMeters_setRt (h : Hub) (s : Nat) (r : SliceRt) : (h.setRt s r).groupMeters = h.groupMeters := rfl
@[simp] theorem Hub.credits_setRt (h : Hub) (s : Nat) (r : SliceRt) : (h.setRt s r).credits = h.credits := rfl
@[simp] theorem Hub.weights_setRt (h : Hub) (s : Nat) (r : SliceRt) : (h.setRt s r).weights = h.weights := rfl
@[simp] theorem Hub.sweepBytes_setRt (h : Hub) (s : Nat) (r : SliceRt) : (h.setRt s r).sweepBytes = h.sweepBytes := rfl
@[simp] theorem Hub.stackSteps_setRt (h : Hub) (s : Nat) (r : SliceRt) : (h.setRt s r).stackSteps = h.stackSteps := rfl
@[simp] theorem Hub.remapJob_setRt (h : Hub) (s : Nat) (r : SliceRt) : (h.setRt s r).remapJob = h.remapJob := rfl
@[simp] theorem Hub.keyDraw_setRt (h : Hub) (s : Nat) (r : SliceRt) : (h.setRt s r).keyDraw = h.keyDraw := rfl
@[simp] theorem Hub.seals_setRt (h : Hub) (s : Nat) (r : SliceRt) : (h.setRt s r).seals = h.seals := rfl
@[simp] theorem Hub.nodeCache_setRt (h : Hub) (s : Nat) (r : SliceRt) : (h.setRt s r).nodeCache = h.nodeCache := rfl
@[simp] theorem Hub.links_setRt (h : Hub) (s : Nat) (r : SliceRt) : (h.setRt s r).links = h.links := rfl
@[simp] theorem Hub.tags_setRt (h : Hub) (s : Nat) (r : SliceRt) : (h.setRt s r).tags = h.tags := rfl
@[simp] theorem Hub.bundles_setRt (h : Hub) (s : Nat) (r : SliceRt) : (h.setRt s r).bundles = h.bundles := rfl
@[simp] theorem Hub.bundlesOut_setRt (h : Hub) (s : Nat) (r : SliceRt) : (h.setRt s r).bundlesOut = h.bundlesOut := rfl
@[simp] theorem Hub.quiesces_setRt (h : Hub) (s : Nat) (r : SliceRt) : (h.setRt s r).quiesces = h.quiesces := rfl
@[simp] theorem Hub.quiescesIn_setRt (h : Hub) (s : Nat) (r : SliceRt) : (h.setRt s r).quiescesIn = h.quiescesIn := rfl
@[simp] theorem Hub.closedPairs_setRt (h : Hub) (s : Nat) (r : SliceRt) : (h.setRt s r).closedPairs = h.closedPairs := rfl
@[simp] theorem Hub.groups_setRt (h : Hub) (s : Nat) (r : SliceRt) : (h.setRt s r).groups = h.groups := rfl
@[simp] theorem Hub.sites_setRt (h : Hub) (s : Nat) (r : SliceRt) : (h.setRt s r).sites = h.sites := rfl
@[simp] theorem Hub.mail_setRt (h : Hub) (s : Nat) (r : SliceRt) : (h.setRt s r).mail = h.mail := rfl
@[simp] theorem Hub.msix_setRt (h : Hub) (s : Nat) (r : SliceRt) : (h.setRt s r).msix = h.msix := rfl
@[simp] theorem Hub.flrs_setRt (h : Hub) (s : Nat) (r : SliceRt) : (h.setRt s r).flrs = h.flrs := rfl
@[simp] theorem Hub.fcol_setRt (h : Hub) (s : Nat) (r : SliceRt) : (h.setRt s r).fcol = h.fcol := rfl
@[simp] theorem Hub.keySlots_setRt (h : Hub) (s : Nat) (r : SliceRt) : (h.setRt s r).keySlots = h.keySlots := rfl
@[simp] theorem Hub.keyJobs_setRt (h : Hub) (s : Nat) (r : SliceRt) : (h.setRt s r).keyJobs = h.keyJobs := rfl
@[simp] theorem Hub.keyOrder_setRt (h : Hub) (s : Nat) (r : SliceRt) : (h.setRt s r).keyOrder = h.keyOrder := rfl
@[simp] theorem Hub.klv_setRt (h : Hub) (s : Nat) (r : SliceRt) : (h.setRt s r).klv = h.klv := rfl
@[simp] theorem Hub.commitJob_setRt (h : Hub) (s : Nat) (r : SliceRt) : (h.setRt s r).commitJob = h.commitJob := rfl
@[simp] theorem Hub.releasing_setRt (h : Hub) (s : Nat) (r : SliceRt) : (h.setRt s r).releasing = h.releasing := rfl
@[simp] theorem Hub.lcsJob_setRt (h : Hub) (s : Nat) (r : SliceRt) : (h.setRt s r).lcsJob = h.lcsJob := rfl
@[simp] theorem Hub.progJob_setRt (h : Hub) (s : Nat) (r : SliceRt) : (h.setRt s r).progJob = h.progJob := rfl
@[simp] theorem Hub.pwrJob_setRt (h : Hub) (s : Nat) (r : SliceRt) : (h.setRt s r).pwrJob = h.pwrJob := rfl
@[simp] theorem Hub.sensors_setRt (h : Hub) (s : Nat) (r : SliceRt) : (h.setRt s r).sensors = h.sensors := rfl
@[simp] theorem Hub.fifos_setRt (h : Hub) (s : Nat) (r : SliceRt) : (h.setRt s r).fifos = h.fifos := rfl
@[simp] theorem Hub.rngFails_setRt (h : Hub) (s : Nat) (r : SliceRt) : (h.setRt s r).rngFails = h.rngFails := rfl
@[simp] theorem Hub.rngBad_setRt (h : Hub) (s : Nat) (r : SliceRt) : (h.setRt s r).rngBad = h.rngBad := rfl
@[simp] theorem Hub.draws_setRt (h : Hub) (s : Nat) (r : SliceRt) : (h.setRt s r).draws = h.draws := rfl
@[simp] theorem Hub.generated_setRt (h : Hub) (s : Nat) (r : SliceRt) : (h.setRt s r).generated = h.generated := rfl
@[simp] theorem Hub.env_setRt (h : Hub) (s : Nat) (r : SliceRt) : (h.setRt s r).env = h.env := rfl
@[simp] theorem Hub.out_setRt (h : Hub) (s : Nat) (r : SliceRt) : (h.setRt s r).out = h.out := rfl

/-! ## updRt -/

@[simp] theorem Hub.now_updRt (h : Hub) (s : Nat) (f : SliceRt → SliceRt) : (h.updRt s f).now = h.now := rfl
@[simp] theorem Hub.regs_updRt (h : Hub) (s : Nat) (f : SliceRt → SliceRt) : (h.updRt s f).regs = h.regs := rfl
@[simp] theorem Hub.hbm_updRt (h : Hub) (s : Nat) (f : SliceRt → SliceRt) : (h.updRt s f).hbm = h.hbm := rfl
@[simp] theorem Hub.zeroed_updRt (h : Hub) (s : Nat) (f : SliceRt → SliceRt) : (h.updRt s f).zeroed = h.zeroed := rfl
@[simp] theorem Hub.flash_updRt (h : Hub) (s : Nat) (f : SliceRt → SliceRt) : (h.updRt s f).flash = h.flash := rfl
@[simp] theorem Hub.forme_updRt (h : Hub) (s : Nat) (f : SliceRt → SliceRt) : (h.updRt s f).forme = h.forme := rfl
@[simp] theorem Hub.gens_updRt (h : Hub) (s : Nat) (f : SliceRt → SliceRt) : (h.updRt s f).gens = h.gens := rfl
@[simp] theorem Hub.cells_updRt (h : Hub) (s : Nat) (f : SliceRt → SliceRt) : (h.updRt s f).cells = h.cells := rfl
@[simp] theorem Hub.tests_updRt (h : Hub) (s : Nat) (f : SliceRt → SliceRt) : (h.updRt s f).tests = h.tests := rfl
@[simp] theorem Hub.restAt_updRt (h : Hub) (s : Nat) (f : SliceRt → SliceRt) : (h.updRt s f).restAt = h.restAt := rfl
@[simp] theorem Hub.badArrays_updRt (h : Hub) (s : Nat) (f : SliceRt → SliceRt) : (h.updRt s f).badArrays = h.badArrays := rfl
@[simp] theorem Hub.fabricOps_updRt (h : Hub) (s : Nat) (f : SliceRt → SliceRt) : (h.updRt s f).fabricOps = h.fabricOps := rfl
@[simp] theorem Hub.reqs_updRt (h : Hub) (s : Nat) (f : SliceRt → SliceRt) : (h.updRt s f).reqs = h.reqs := rfl
@[simp] theorem Hub.nextId_updRt (h : Hub) (s : Nat) (f : SliceRt → SliceRt) : (h.updRt s f).nextId = h.nextId := rfl
@[simp] theorem Hub.items_updRt (h : Hub) (s : Nat) (f : SliceRt → SliceRt) : (h.updRt s f).items = h.items := rfl
@[simp] theorem Hub.queues_updRt (h : Hub) (s : Nat) (f : SliceRt → SliceRt) : (h.updRt s f).queues = h.queues := rfl
@[simp] theorem Hub.queueRr_updRt (h : Hub) (s : Nat) (f : SliceRt → SliceRt) : (h.updRt s f).queueRr = h.queueRr := rfl
@[simp] theorem Hub.walks_updRt (h : Hub) (s : Nat) (f : SliceRt → SliceRt) : (h.updRt s f).walks = h.walks := rfl
@[simp] theorem Hub.walkRound_updRt (h : Hub) (s : Nat) (f : SliceRt → SliceRt) : (h.updRt s f).walkRound = h.walkRound := rfl
@[simp] theorem Hub.xfaults_updRt (h : Hub) (s : Nat) (f : SliceRt → SliceRt) : (h.updRt s f).xfaults = h.xfaults := rfl
@[simp] theorem Hub.cache_updRt (h : Hub) (s : Nat) (f : SliceRt → SliceRt) : (h.updRt s f).cache = h.cache := rfl
@[simp] theorem Hub.walkCache_updRt (h : Hub) (s : Nat) (f : SliceRt → SliceRt) : (h.updRt s f).walkCache = h.walkCache := rfl
@[simp] theorem Hub.invals_updRt (h : Hub) (s : Nat) (f : SliceRt → SliceRt) : (h.updRt s f).invals = h.invals := rfl
@[simp] theorem Hub.chans_updRt (h : Hub) (s : Nat) (f : SliceRt → SliceRt) : (h.updRt s f).chans = h.chans := rfl
@[simp] theorem Hub.groupMeters_updRt (h : Hub) (s : Nat) (f : SliceRt → SliceRt) : (h.updRt s f).groupMeters = h.groupMeters := rfl
@[simp] theorem Hub.credits_updRt (h : Hub) (s : Nat) (f : SliceRt → SliceRt) : (h.updRt s f).credits = h.credits := rfl
@[simp] theorem Hub.weights_updRt (h : Hub) (s : Nat) (f : SliceRt → SliceRt) : (h.updRt s f).weights = h.weights := rfl
@[simp] theorem Hub.sweepBytes_updRt (h : Hub) (s : Nat) (f : SliceRt → SliceRt) : (h.updRt s f).sweepBytes = h.sweepBytes := rfl
@[simp] theorem Hub.stackSteps_updRt (h : Hub) (s : Nat) (f : SliceRt → SliceRt) : (h.updRt s f).stackSteps = h.stackSteps := rfl
@[simp] theorem Hub.remapJob_updRt (h : Hub) (s : Nat) (f : SliceRt → SliceRt) : (h.updRt s f).remapJob = h.remapJob := rfl
@[simp] theorem Hub.keyDraw_updRt (h : Hub) (s : Nat) (f : SliceRt → SliceRt) : (h.updRt s f).keyDraw = h.keyDraw := rfl
@[simp] theorem Hub.seals_updRt (h : Hub) (s : Nat) (f : SliceRt → SliceRt) : (h.updRt s f).seals = h.seals := rfl
@[simp] theorem Hub.nodeCache_updRt (h : Hub) (s : Nat) (f : SliceRt → SliceRt) : (h.updRt s f).nodeCache = h.nodeCache := rfl
@[simp] theorem Hub.links_updRt (h : Hub) (s : Nat) (f : SliceRt → SliceRt) : (h.updRt s f).links = h.links := rfl
@[simp] theorem Hub.tags_updRt (h : Hub) (s : Nat) (f : SliceRt → SliceRt) : (h.updRt s f).tags = h.tags := rfl
@[simp] theorem Hub.bundles_updRt (h : Hub) (s : Nat) (f : SliceRt → SliceRt) : (h.updRt s f).bundles = h.bundles := rfl
@[simp] theorem Hub.bundlesOut_updRt (h : Hub) (s : Nat) (f : SliceRt → SliceRt) : (h.updRt s f).bundlesOut = h.bundlesOut := rfl
@[simp] theorem Hub.quiesces_updRt (h : Hub) (s : Nat) (f : SliceRt → SliceRt) : (h.updRt s f).quiesces = h.quiesces := rfl
@[simp] theorem Hub.quiescesIn_updRt (h : Hub) (s : Nat) (f : SliceRt → SliceRt) : (h.updRt s f).quiescesIn = h.quiescesIn := rfl
@[simp] theorem Hub.closedPairs_updRt (h : Hub) (s : Nat) (f : SliceRt → SliceRt) : (h.updRt s f).closedPairs = h.closedPairs := rfl
@[simp] theorem Hub.groups_updRt (h : Hub) (s : Nat) (f : SliceRt → SliceRt) : (h.updRt s f).groups = h.groups := rfl
@[simp] theorem Hub.sites_updRt (h : Hub) (s : Nat) (f : SliceRt → SliceRt) : (h.updRt s f).sites = h.sites := rfl
@[simp] theorem Hub.mail_updRt (h : Hub) (s : Nat) (f : SliceRt → SliceRt) : (h.updRt s f).mail = h.mail := rfl
@[simp] theorem Hub.msix_updRt (h : Hub) (s : Nat) (f : SliceRt → SliceRt) : (h.updRt s f).msix = h.msix := rfl
@[simp] theorem Hub.flrs_updRt (h : Hub) (s : Nat) (f : SliceRt → SliceRt) : (h.updRt s f).flrs = h.flrs := rfl
@[simp] theorem Hub.fcol_updRt (h : Hub) (s : Nat) (f : SliceRt → SliceRt) : (h.updRt s f).fcol = h.fcol := rfl
@[simp] theorem Hub.keySlots_updRt (h : Hub) (s : Nat) (f : SliceRt → SliceRt) : (h.updRt s f).keySlots = h.keySlots := rfl
@[simp] theorem Hub.keyJobs_updRt (h : Hub) (s : Nat) (f : SliceRt → SliceRt) : (h.updRt s f).keyJobs = h.keyJobs := rfl
@[simp] theorem Hub.keyOrder_updRt (h : Hub) (s : Nat) (f : SliceRt → SliceRt) : (h.updRt s f).keyOrder = h.keyOrder := rfl
@[simp] theorem Hub.klv_updRt (h : Hub) (s : Nat) (f : SliceRt → SliceRt) : (h.updRt s f).klv = h.klv := rfl
@[simp] theorem Hub.commitJob_updRt (h : Hub) (s : Nat) (f : SliceRt → SliceRt) : (h.updRt s f).commitJob = h.commitJob := rfl
@[simp] theorem Hub.releasing_updRt (h : Hub) (s : Nat) (f : SliceRt → SliceRt) : (h.updRt s f).releasing = h.releasing := rfl
@[simp] theorem Hub.lcsJob_updRt (h : Hub) (s : Nat) (f : SliceRt → SliceRt) : (h.updRt s f).lcsJob = h.lcsJob := rfl
@[simp] theorem Hub.progJob_updRt (h : Hub) (s : Nat) (f : SliceRt → SliceRt) : (h.updRt s f).progJob = h.progJob := rfl
@[simp] theorem Hub.pwrJob_updRt (h : Hub) (s : Nat) (f : SliceRt → SliceRt) : (h.updRt s f).pwrJob = h.pwrJob := rfl
@[simp] theorem Hub.sensors_updRt (h : Hub) (s : Nat) (f : SliceRt → SliceRt) : (h.updRt s f).sensors = h.sensors := rfl
@[simp] theorem Hub.fifos_updRt (h : Hub) (s : Nat) (f : SliceRt → SliceRt) : (h.updRt s f).fifos = h.fifos := rfl
@[simp] theorem Hub.rngFails_updRt (h : Hub) (s : Nat) (f : SliceRt → SliceRt) : (h.updRt s f).rngFails = h.rngFails := rfl
@[simp] theorem Hub.rngBad_updRt (h : Hub) (s : Nat) (f : SliceRt → SliceRt) : (h.updRt s f).rngBad = h.rngBad := rfl
@[simp] theorem Hub.draws_updRt (h : Hub) (s : Nat) (f : SliceRt → SliceRt) : (h.updRt s f).draws = h.draws := rfl
@[simp] theorem Hub.generated_updRt (h : Hub) (s : Nat) (f : SliceRt → SliceRt) : (h.updRt s f).generated = h.generated := rfl
@[simp] theorem Hub.env_updRt (h : Hub) (s : Nat) (f : SliceRt → SliceRt) : (h.updRt s f).env = h.env := rfl
@[simp] theorem Hub.out_updRt (h : Hub) (s : Nat) (f : SliceRt → SliceRt) : (h.updRt s f).out = h.out := rfl

/-! ## setCell -/

@[simp] theorem Hub.now_setCell (h : Hub) (c : Nat) (x : Cell) : (h.setCell c x).now = h.now := rfl
@[simp] theorem Hub.regs_setCell (h : Hub) (c : Nat) (x : Cell) : (h.setCell c x).regs = h.regs := rfl
@[simp] theorem Hub.hbm_setCell (h : Hub) (c : Nat) (x : Cell) : (h.setCell c x).hbm = h.hbm := rfl
@[simp] theorem Hub.zeroed_setCell (h : Hub) (c : Nat) (x : Cell) : (h.setCell c x).zeroed = h.zeroed := rfl
@[simp] theorem Hub.flash_setCell (h : Hub) (c : Nat) (x : Cell) : (h.setCell c x).flash = h.flash := rfl
@[simp] theorem Hub.forme_setCell (h : Hub) (c : Nat) (x : Cell) : (h.setCell c x).forme = h.forme := rfl
@[simp] theorem Hub.slices_setCell (h : Hub) (c : Nat) (x : Cell) : (h.setCell c x).slices = h.slices := rfl
@[simp] theorem Hub.gens_setCell (h : Hub) (c : Nat) (x : Cell) : (h.setCell c x).gens = h.gens := rfl
@[simp] theorem Hub.tests_setCell (h : Hub) (c : Nat) (x : Cell) : (h.setCell c x).tests = h.tests := rfl
@[simp] theorem Hub.badArrays_setCell (h : Hub) (c : Nat) (x : Cell) : (h.setCell c x).badArrays = h.badArrays := rfl
@[simp] theorem Hub.fabricOps_setCell (h : Hub) (c : Nat) (x : Cell) : (h.setCell c x).fabricOps = h.fabricOps := rfl
@[simp] theorem Hub.reqs_setCell (h : Hub) (c : Nat) (x : Cell) : (h.setCell c x).reqs = h.reqs := rfl
@[simp] theorem Hub.nextId_setCell (h : Hub) (c : Nat) (x : Cell) : (h.setCell c x).nextId = h.nextId := rfl
@[simp] theorem Hub.items_setCell (h : Hub) (c : Nat) (x : Cell) : (h.setCell c x).items = h.items := rfl
@[simp] theorem Hub.queues_setCell (h : Hub) (c : Nat) (x : Cell) : (h.setCell c x).queues = h.queues := rfl
@[simp] theorem Hub.queueRr_setCell (h : Hub) (c : Nat) (x : Cell) : (h.setCell c x).queueRr = h.queueRr := rfl
@[simp] theorem Hub.walks_setCell (h : Hub) (c : Nat) (x : Cell) : (h.setCell c x).walks = h.walks := rfl
@[simp] theorem Hub.walkRound_setCell (h : Hub) (c : Nat) (x : Cell) : (h.setCell c x).walkRound = h.walkRound := rfl
@[simp] theorem Hub.xfaults_setCell (h : Hub) (c : Nat) (x : Cell) : (h.setCell c x).xfaults = h.xfaults := rfl
@[simp] theorem Hub.cache_setCell (h : Hub) (c : Nat) (x : Cell) : (h.setCell c x).cache = h.cache := rfl
@[simp] theorem Hub.walkCache_setCell (h : Hub) (c : Nat) (x : Cell) : (h.setCell c x).walkCache = h.walkCache := rfl
@[simp] theorem Hub.invals_setCell (h : Hub) (c : Nat) (x : Cell) : (h.setCell c x).invals = h.invals := rfl
@[simp] theorem Hub.chans_setCell (h : Hub) (c : Nat) (x : Cell) : (h.setCell c x).chans = h.chans := rfl
@[simp] theorem Hub.groupMeters_setCell (h : Hub) (c : Nat) (x : Cell) : (h.setCell c x).groupMeters = h.groupMeters := rfl
@[simp] theorem Hub.credits_setCell (h : Hub) (c : Nat) (x : Cell) : (h.setCell c x).credits = h.credits := rfl
@[simp] theorem Hub.weights_setCell (h : Hub) (c : Nat) (x : Cell) : (h.setCell c x).weights = h.weights := rfl
@[simp] theorem Hub.sweepBytes_setCell (h : Hub) (c : Nat) (x : Cell) : (h.setCell c x).sweepBytes = h.sweepBytes := rfl
@[simp] theorem Hub.stackSteps_setCell (h : Hub) (c : Nat) (x : Cell) : (h.setCell c x).stackSteps = h.stackSteps := rfl
@[simp] theorem Hub.remapJob_setCell (h : Hub) (c : Nat) (x : Cell) : (h.setCell c x).remapJob = h.remapJob := rfl
@[simp] theorem Hub.keyDraw_setCell (h : Hub) (c : Nat) (x : Cell) : (h.setCell c x).keyDraw = h.keyDraw := rfl
@[simp] theorem Hub.seals_setCell (h : Hub) (c : Nat) (x : Cell) : (h.setCell c x).seals = h.seals := rfl
@[simp] theorem Hub.nodeCache_setCell (h : Hub) (c : Nat) (x : Cell) : (h.setCell c x).nodeCache = h.nodeCache := rfl
@[simp] theorem Hub.links_setCell (h : Hub) (c : Nat) (x : Cell) : (h.setCell c x).links = h.links := rfl
@[simp] theorem Hub.tags_setCell (h : Hub) (c : Nat) (x : Cell) : (h.setCell c x).tags = h.tags := rfl
@[simp] theorem Hub.bundles_setCell (h : Hub) (c : Nat) (x : Cell) : (h.setCell c x).bundles = h.bundles := rfl
@[simp] theorem Hub.bundlesOut_setCell (h : Hub) (c : Nat) (x : Cell) : (h.setCell c x).bundlesOut = h.bundlesOut := rfl
@[simp] theorem Hub.quiesces_setCell (h : Hub) (c : Nat) (x : Cell) : (h.setCell c x).quiesces = h.quiesces := rfl
@[simp] theorem Hub.quiescesIn_setCell (h : Hub) (c : Nat) (x : Cell) : (h.setCell c x).quiescesIn = h.quiescesIn := rfl
@[simp] theorem Hub.closedPairs_setCell (h : Hub) (c : Nat) (x : Cell) : (h.setCell c x).closedPairs = h.closedPairs := rfl
@[simp] theorem Hub.groups_setCell (h : Hub) (c : Nat) (x : Cell) : (h.setCell c x).groups = h.groups := rfl
@[simp] theorem Hub.sites_setCell (h : Hub) (c : Nat) (x : Cell) : (h.setCell c x).sites = h.sites := rfl
@[simp] theorem Hub.mail_setCell (h : Hub) (c : Nat) (x : Cell) : (h.setCell c x).mail = h.mail := rfl
@[simp] theorem Hub.msix_setCell (h : Hub) (c : Nat) (x : Cell) : (h.setCell c x).msix = h.msix := rfl
@[simp] theorem Hub.flrs_setCell (h : Hub) (c : Nat) (x : Cell) : (h.setCell c x).flrs = h.flrs := rfl
@[simp] theorem Hub.fcol_setCell (h : Hub) (c : Nat) (x : Cell) : (h.setCell c x).fcol = h.fcol := rfl
@[simp] theorem Hub.keySlots_setCell (h : Hub) (c : Nat) (x : Cell) : (h.setCell c x).keySlots = h.keySlots := rfl
@[simp] theorem Hub.keyJobs_setCell (h : Hub) (c : Nat) (x : Cell) : (h.setCell c x).keyJobs = h.keyJobs := rfl
@[simp] theorem Hub.keyOrder_setCell (h : Hub) (c : Nat) (x : Cell) : (h.setCell c x).keyOrder = h.keyOrder := rfl
@[simp] theorem Hub.klv_setCell (h : Hub) (c : Nat) (x : Cell) : (h.setCell c x).klv = h.klv := rfl
@[simp] theorem Hub.commitJob_setCell (h : Hub) (c : Nat) (x : Cell) : (h.setCell c x).commitJob = h.commitJob := rfl
@[simp] theorem Hub.releasing_setCell (h : Hub) (c : Nat) (x : Cell) : (h.setCell c x).releasing = h.releasing := rfl
@[simp] theorem Hub.lcsJob_setCell (h : Hub) (c : Nat) (x : Cell) : (h.setCell c x).lcsJob = h.lcsJob := rfl
@[simp] theorem Hub.progJob_setCell (h : Hub) (c : Nat) (x : Cell) : (h.setCell c x).progJob = h.progJob := rfl
@[simp] theorem Hub.pwrJob_setCell (h : Hub) (c : Nat) (x : Cell) : (h.setCell c x).pwrJob = h.pwrJob := rfl
@[simp] theorem Hub.sensors_setCell (h : Hub) (c : Nat) (x : Cell) : (h.setCell c x).sensors = h.sensors := rfl
@[simp] theorem Hub.fifos_setCell (h : Hub) (c : Nat) (x : Cell) : (h.setCell c x).fifos = h.fifos := rfl
@[simp] theorem Hub.rngFails_setCell (h : Hub) (c : Nat) (x : Cell) : (h.setCell c x).rngFails = h.rngFails := rfl
@[simp] theorem Hub.rngBad_setCell (h : Hub) (c : Nat) (x : Cell) : (h.setCell c x).rngBad = h.rngBad := rfl
@[simp] theorem Hub.draws_setCell (h : Hub) (c : Nat) (x : Cell) : (h.setCell c x).draws = h.draws := rfl
@[simp] theorem Hub.generated_setCell (h : Hub) (c : Nat) (x : Cell) : (h.setCell c x).generated = h.generated := rfl
@[simp] theorem Hub.env_setCell (h : Hub) (c : Nat) (x : Cell) : (h.setCell c x).env = h.env := rfl
@[simp] theorem Hub.out_setCell (h : Hub) (c : Nat) (x : Cell) : (h.setCell c x).out = h.out := rfl

/-! ## updCell -/

@[simp] theorem Hub.now_updCell (h : Hub) (c : Nat) (f : Cell → Cell) : (h.updCell c f).now = h.now := rfl
@[simp] theorem Hub.regs_updCell (h : Hub) (c : Nat) (f : Cell → Cell) : (h.updCell c f).regs = h.regs := rfl
@[simp] theorem Hub.hbm_updCell (h : Hub) (c : Nat) (f : Cell → Cell) : (h.updCell c f).hbm = h.hbm := rfl
@[simp] theorem Hub.zeroed_updCell (h : Hub) (c : Nat) (f : Cell → Cell) : (h.updCell c f).zeroed = h.zeroed := rfl
@[simp] theorem Hub.flash_updCell (h : Hub) (c : Nat) (f : Cell → Cell) : (h.updCell c f).flash = h.flash := rfl
@[simp] theorem Hub.forme_updCell (h : Hub) (c : Nat) (f : Cell → Cell) : (h.updCell c f).forme = h.forme := rfl
@[simp] theorem Hub.slices_updCell (h : Hub) (c : Nat) (f : Cell → Cell) : (h.updCell c f).slices = h.slices := rfl
@[simp] theorem Hub.gens_updCell (h : Hub) (c : Nat) (f : Cell → Cell) : (h.updCell c f).gens = h.gens := rfl
@[simp] theorem Hub.tests_updCell (h : Hub) (c : Nat) (f : Cell → Cell) : (h.updCell c f).tests = h.tests := rfl
@[simp] theorem Hub.badArrays_updCell (h : Hub) (c : Nat) (f : Cell → Cell) : (h.updCell c f).badArrays = h.badArrays := rfl
@[simp] theorem Hub.fabricOps_updCell (h : Hub) (c : Nat) (f : Cell → Cell) : (h.updCell c f).fabricOps = h.fabricOps := rfl
@[simp] theorem Hub.reqs_updCell (h : Hub) (c : Nat) (f : Cell → Cell) : (h.updCell c f).reqs = h.reqs := rfl
@[simp] theorem Hub.nextId_updCell (h : Hub) (c : Nat) (f : Cell → Cell) : (h.updCell c f).nextId = h.nextId := rfl
@[simp] theorem Hub.items_updCell (h : Hub) (c : Nat) (f : Cell → Cell) : (h.updCell c f).items = h.items := rfl
@[simp] theorem Hub.queues_updCell (h : Hub) (c : Nat) (f : Cell → Cell) : (h.updCell c f).queues = h.queues := rfl
@[simp] theorem Hub.queueRr_updCell (h : Hub) (c : Nat) (f : Cell → Cell) : (h.updCell c f).queueRr = h.queueRr := rfl
@[simp] theorem Hub.walks_updCell (h : Hub) (c : Nat) (f : Cell → Cell) : (h.updCell c f).walks = h.walks := rfl
@[simp] theorem Hub.walkRound_updCell (h : Hub) (c : Nat) (f : Cell → Cell) : (h.updCell c f).walkRound = h.walkRound := rfl
@[simp] theorem Hub.xfaults_updCell (h : Hub) (c : Nat) (f : Cell → Cell) : (h.updCell c f).xfaults = h.xfaults := rfl
@[simp] theorem Hub.cache_updCell (h : Hub) (c : Nat) (f : Cell → Cell) : (h.updCell c f).cache = h.cache := rfl
@[simp] theorem Hub.walkCache_updCell (h : Hub) (c : Nat) (f : Cell → Cell) : (h.updCell c f).walkCache = h.walkCache := rfl
@[simp] theorem Hub.invals_updCell (h : Hub) (c : Nat) (f : Cell → Cell) : (h.updCell c f).invals = h.invals := rfl
@[simp] theorem Hub.chans_updCell (h : Hub) (c : Nat) (f : Cell → Cell) : (h.updCell c f).chans = h.chans := rfl
@[simp] theorem Hub.groupMeters_updCell (h : Hub) (c : Nat) (f : Cell → Cell) : (h.updCell c f).groupMeters = h.groupMeters := rfl
@[simp] theorem Hub.credits_updCell (h : Hub) (c : Nat) (f : Cell → Cell) : (h.updCell c f).credits = h.credits := rfl
@[simp] theorem Hub.weights_updCell (h : Hub) (c : Nat) (f : Cell → Cell) : (h.updCell c f).weights = h.weights := rfl
@[simp] theorem Hub.sweepBytes_updCell (h : Hub) (c : Nat) (f : Cell → Cell) : (h.updCell c f).sweepBytes = h.sweepBytes := rfl
@[simp] theorem Hub.stackSteps_updCell (h : Hub) (c : Nat) (f : Cell → Cell) : (h.updCell c f).stackSteps = h.stackSteps := rfl
@[simp] theorem Hub.remapJob_updCell (h : Hub) (c : Nat) (f : Cell → Cell) : (h.updCell c f).remapJob = h.remapJob := rfl
@[simp] theorem Hub.keyDraw_updCell (h : Hub) (c : Nat) (f : Cell → Cell) : (h.updCell c f).keyDraw = h.keyDraw := rfl
@[simp] theorem Hub.seals_updCell (h : Hub) (c : Nat) (f : Cell → Cell) : (h.updCell c f).seals = h.seals := rfl
@[simp] theorem Hub.nodeCache_updCell (h : Hub) (c : Nat) (f : Cell → Cell) : (h.updCell c f).nodeCache = h.nodeCache := rfl
@[simp] theorem Hub.links_updCell (h : Hub) (c : Nat) (f : Cell → Cell) : (h.updCell c f).links = h.links := rfl
@[simp] theorem Hub.tags_updCell (h : Hub) (c : Nat) (f : Cell → Cell) : (h.updCell c f).tags = h.tags := rfl
@[simp] theorem Hub.bundles_updCell (h : Hub) (c : Nat) (f : Cell → Cell) : (h.updCell c f).bundles = h.bundles := rfl
@[simp] theorem Hub.bundlesOut_updCell (h : Hub) (c : Nat) (f : Cell → Cell) : (h.updCell c f).bundlesOut = h.bundlesOut := rfl
@[simp] theorem Hub.quiesces_updCell (h : Hub) (c : Nat) (f : Cell → Cell) : (h.updCell c f).quiesces = h.quiesces := rfl
@[simp] theorem Hub.quiescesIn_updCell (h : Hub) (c : Nat) (f : Cell → Cell) : (h.updCell c f).quiescesIn = h.quiescesIn := rfl
@[simp] theorem Hub.closedPairs_updCell (h : Hub) (c : Nat) (f : Cell → Cell) : (h.updCell c f).closedPairs = h.closedPairs := rfl
@[simp] theorem Hub.groups_updCell (h : Hub) (c : Nat) (f : Cell → Cell) : (h.updCell c f).groups = h.groups := rfl
@[simp] theorem Hub.sites_updCell (h : Hub) (c : Nat) (f : Cell → Cell) : (h.updCell c f).sites = h.sites := rfl
@[simp] theorem Hub.mail_updCell (h : Hub) (c : Nat) (f : Cell → Cell) : (h.updCell c f).mail = h.mail := rfl
@[simp] theorem Hub.msix_updCell (h : Hub) (c : Nat) (f : Cell → Cell) : (h.updCell c f).msix = h.msix := rfl
@[simp] theorem Hub.flrs_updCell (h : Hub) (c : Nat) (f : Cell → Cell) : (h.updCell c f).flrs = h.flrs := rfl
@[simp] theorem Hub.fcol_updCell (h : Hub) (c : Nat) (f : Cell → Cell) : (h.updCell c f).fcol = h.fcol := rfl
@[simp] theorem Hub.keySlots_updCell (h : Hub) (c : Nat) (f : Cell → Cell) : (h.updCell c f).keySlots = h.keySlots := rfl
@[simp] theorem Hub.keyJobs_updCell (h : Hub) (c : Nat) (f : Cell → Cell) : (h.updCell c f).keyJobs = h.keyJobs := rfl
@[simp] theorem Hub.keyOrder_updCell (h : Hub) (c : Nat) (f : Cell → Cell) : (h.updCell c f).keyOrder = h.keyOrder := rfl
@[simp] theorem Hub.klv_updCell (h : Hub) (c : Nat) (f : Cell → Cell) : (h.updCell c f).klv = h.klv := rfl
@[simp] theorem Hub.commitJob_updCell (h : Hub) (c : Nat) (f : Cell → Cell) : (h.updCell c f).commitJob = h.commitJob := rfl
@[simp] theorem Hub.releasing_updCell (h : Hub) (c : Nat) (f : Cell → Cell) : (h.updCell c f).releasing = h.releasing := rfl
@[simp] theorem Hub.lcsJob_updCell (h : Hub) (c : Nat) (f : Cell → Cell) : (h.updCell c f).lcsJob = h.lcsJob := rfl
@[simp] theorem Hub.progJob_updCell (h : Hub) (c : Nat) (f : Cell → Cell) : (h.updCell c f).progJob = h.progJob := rfl
@[simp] theorem Hub.pwrJob_updCell (h : Hub) (c : Nat) (f : Cell → Cell) : (h.updCell c f).pwrJob = h.pwrJob := rfl
@[simp] theorem Hub.sensors_updCell (h : Hub) (c : Nat) (f : Cell → Cell) : (h.updCell c f).sensors = h.sensors := rfl
@[simp] theorem Hub.fifos_updCell (h : Hub) (c : Nat) (f : Cell → Cell) : (h.updCell c f).fifos = h.fifos := rfl
@[simp] theorem Hub.rngFails_updCell (h : Hub) (c : Nat) (f : Cell → Cell) : (h.updCell c f).rngFails = h.rngFails := rfl
@[simp] theorem Hub.rngBad_updCell (h : Hub) (c : Nat) (f : Cell → Cell) : (h.updCell c f).rngBad = h.rngBad := rfl
@[simp] theorem Hub.draws_updCell (h : Hub) (c : Nat) (f : Cell → Cell) : (h.updCell c f).draws = h.draws := rfl
@[simp] theorem Hub.generated_updCell (h : Hub) (c : Nat) (f : Cell → Cell) : (h.updCell c f).generated = h.generated := rfl
@[simp] theorem Hub.env_updCell (h : Hub) (c : Nat) (f : Cell → Cell) : (h.updCell c f).env = h.env := rfl
@[simp] theorem Hub.out_updCell (h : Hub) (c : Nat) (f : Cell → Cell) : (h.updCell c f).out = h.out := rfl

/-! ## fault -/

@[simp] theorem Hub.now_fault (h : Hub) (m : FaultMsg) : (h.fault m).now = h.now := rfl
@[simp] theorem Hub.regs_fault (h : Hub) (m : FaultMsg) : (h.fault m).regs = h.regs := rfl
@[simp] theorem Hub.hbm_fault (h : Hub) (m : FaultMsg) : (h.fault m).hbm = h.hbm := rfl
@[simp] theorem Hub.zeroed_fault (h : Hub) (m : FaultMsg) : (h.fault m).zeroed = h.zeroed := rfl
@[simp] theorem Hub.flash_fault (h : Hub) (m : FaultMsg) : (h.fault m).flash = h.flash := rfl
@[simp] theorem Hub.forme_fault (h : Hub) (m : FaultMsg) : (h.fault m).forme = h.forme := rfl
@[simp] theorem Hub.slices_fault (h : Hub) (m : FaultMsg) : (h.fault m).slices = h.slices := rfl
@[simp] theorem Hub.gens_fault (h : Hub) (m : FaultMsg) : (h.fault m).gens = h.gens := rfl
@[simp] theorem Hub.cells_fault (h : Hub) (m : FaultMsg) : (h.fault m).cells = h.cells := rfl
@[simp] theorem Hub.tests_fault (h : Hub) (m : FaultMsg) : (h.fault m).tests = h.tests := rfl
@[simp] theorem Hub.restAt_fault (h : Hub) (m : FaultMsg) : (h.fault m).restAt = h.restAt := rfl
@[simp] theorem Hub.badArrays_fault (h : Hub) (m : FaultMsg) : (h.fault m).badArrays = h.badArrays := rfl
@[simp] theorem Hub.fabricOps_fault (h : Hub) (m : FaultMsg) : (h.fault m).fabricOps = h.fabricOps := rfl
@[simp] theorem Hub.reqs_fault (h : Hub) (m : FaultMsg) : (h.fault m).reqs = h.reqs := rfl
@[simp] theorem Hub.nextId_fault (h : Hub) (m : FaultMsg) : (h.fault m).nextId = h.nextId := rfl
@[simp] theorem Hub.items_fault (h : Hub) (m : FaultMsg) : (h.fault m).items = h.items := rfl
@[simp] theorem Hub.queues_fault (h : Hub) (m : FaultMsg) : (h.fault m).queues = h.queues := rfl
@[simp] theorem Hub.queueRr_fault (h : Hub) (m : FaultMsg) : (h.fault m).queueRr = h.queueRr := rfl
@[simp] theorem Hub.walks_fault (h : Hub) (m : FaultMsg) : (h.fault m).walks = h.walks := rfl
@[simp] theorem Hub.walkRound_fault (h : Hub) (m : FaultMsg) : (h.fault m).walkRound = h.walkRound := rfl
@[simp] theorem Hub.xfaults_fault (h : Hub) (m : FaultMsg) : (h.fault m).xfaults = h.xfaults := rfl
@[simp] theorem Hub.cache_fault (h : Hub) (m : FaultMsg) : (h.fault m).cache = h.cache := rfl
@[simp] theorem Hub.walkCache_fault (h : Hub) (m : FaultMsg) : (h.fault m).walkCache = h.walkCache := rfl
@[simp] theorem Hub.invals_fault (h : Hub) (m : FaultMsg) : (h.fault m).invals = h.invals := rfl
@[simp] theorem Hub.chans_fault (h : Hub) (m : FaultMsg) : (h.fault m).chans = h.chans := rfl
@[simp] theorem Hub.groupMeters_fault (h : Hub) (m : FaultMsg) : (h.fault m).groupMeters = h.groupMeters := rfl
@[simp] theorem Hub.credits_fault (h : Hub) (m : FaultMsg) : (h.fault m).credits = h.credits := rfl
@[simp] theorem Hub.weights_fault (h : Hub) (m : FaultMsg) : (h.fault m).weights = h.weights := rfl
@[simp] theorem Hub.sweepBytes_fault (h : Hub) (m : FaultMsg) : (h.fault m).sweepBytes = h.sweepBytes := rfl
@[simp] theorem Hub.stackSteps_fault (h : Hub) (m : FaultMsg) : (h.fault m).stackSteps = h.stackSteps := rfl
@[simp] theorem Hub.remapJob_fault (h : Hub) (m : FaultMsg) : (h.fault m).remapJob = h.remapJob := rfl
@[simp] theorem Hub.keyDraw_fault (h : Hub) (m : FaultMsg) : (h.fault m).keyDraw = h.keyDraw := rfl
@[simp] theorem Hub.seals_fault (h : Hub) (m : FaultMsg) : (h.fault m).seals = h.seals := rfl
@[simp] theorem Hub.nodeCache_fault (h : Hub) (m : FaultMsg) : (h.fault m).nodeCache = h.nodeCache := rfl
@[simp] theorem Hub.links_fault (h : Hub) (m : FaultMsg) : (h.fault m).links = h.links := rfl
@[simp] theorem Hub.tags_fault (h : Hub) (m : FaultMsg) : (h.fault m).tags = h.tags := rfl
@[simp] theorem Hub.bundles_fault (h : Hub) (m : FaultMsg) : (h.fault m).bundles = h.bundles := rfl
@[simp] theorem Hub.bundlesOut_fault (h : Hub) (m : FaultMsg) : (h.fault m).bundlesOut = h.bundlesOut := rfl
@[simp] theorem Hub.quiesces_fault (h : Hub) (m : FaultMsg) : (h.fault m).quiesces = h.quiesces := rfl
@[simp] theorem Hub.quiescesIn_fault (h : Hub) (m : FaultMsg) : (h.fault m).quiescesIn = h.quiescesIn := rfl
@[simp] theorem Hub.closedPairs_fault (h : Hub) (m : FaultMsg) : (h.fault m).closedPairs = h.closedPairs := rfl
@[simp] theorem Hub.groups_fault (h : Hub) (m : FaultMsg) : (h.fault m).groups = h.groups := rfl
@[simp] theorem Hub.sites_fault (h : Hub) (m : FaultMsg) : (h.fault m).sites = h.sites := rfl
@[simp] theorem Hub.mail_fault (h : Hub) (m : FaultMsg) : (h.fault m).mail = h.mail := rfl
@[simp] theorem Hub.msix_fault (h : Hub) (m : FaultMsg) : (h.fault m).msix = h.msix := rfl
@[simp] theorem Hub.flrs_fault (h : Hub) (m : FaultMsg) : (h.fault m).flrs = h.flrs := rfl
@[simp] theorem Hub.keySlots_fault (h : Hub) (m : FaultMsg) : (h.fault m).keySlots = h.keySlots := rfl
@[simp] theorem Hub.keyJobs_fault (h : Hub) (m : FaultMsg) : (h.fault m).keyJobs = h.keyJobs := rfl
@[simp] theorem Hub.keyOrder_fault (h : Hub) (m : FaultMsg) : (h.fault m).keyOrder = h.keyOrder := rfl
@[simp] theorem Hub.klv_fault (h : Hub) (m : FaultMsg) : (h.fault m).klv = h.klv := rfl
@[simp] theorem Hub.commitJob_fault (h : Hub) (m : FaultMsg) : (h.fault m).commitJob = h.commitJob := rfl
@[simp] theorem Hub.releasing_fault (h : Hub) (m : FaultMsg) : (h.fault m).releasing = h.releasing := rfl
@[simp] theorem Hub.lcsJob_fault (h : Hub) (m : FaultMsg) : (h.fault m).lcsJob = h.lcsJob := rfl
@[simp] theorem Hub.progJob_fault (h : Hub) (m : FaultMsg) : (h.fault m).progJob = h.progJob := rfl
@[simp] theorem Hub.pwrJob_fault (h : Hub) (m : FaultMsg) : (h.fault m).pwrJob = h.pwrJob := rfl
@[simp] theorem Hub.sensors_fault (h : Hub) (m : FaultMsg) : (h.fault m).sensors = h.sensors := rfl
@[simp] theorem Hub.fifos_fault (h : Hub) (m : FaultMsg) : (h.fault m).fifos = h.fifos := rfl
@[simp] theorem Hub.rngFails_fault (h : Hub) (m : FaultMsg) : (h.fault m).rngFails = h.rngFails := rfl
@[simp] theorem Hub.rngBad_fault (h : Hub) (m : FaultMsg) : (h.fault m).rngBad = h.rngBad := rfl
@[simp] theorem Hub.draws_fault (h : Hub) (m : FaultMsg) : (h.fault m).draws = h.draws := rfl
@[simp] theorem Hub.generated_fault (h : Hub) (m : FaultMsg) : (h.fault m).generated = h.generated := rfl
@[simp] theorem Hub.env_fault (h : Hub) (m : FaultMsg) : (h.fault m).env = h.env := rfl
@[simp] theorem Hub.out_fault (h : Hub) (m : FaultMsg) : (h.fault m).out = h.out := rfl

end Sys2Proof.Machine
end

