-- ==== Sys2Proof/WellFormed.lean ====
section
/-! DEFINITION. Which terms of Instr are commands: what the types of the operands leave open and the spec's widths close. A term that
is not well formed still runs; the statements that need a check name it. -/
namespace Sys2Proof

def below (n m : Nat) : Bool := decide (n < m)

/-- A virtual function of a port has an index 0 to 2,047 (R372). -/
def Origin.wf : Origin → Bool
  | .vf _ i => below i 2048
  | .kelvy => true
  | .pf _ => true
  | .tap => true
  | .engine => true

def HostFn.wf : HostFn → Bool
  | .pf _ => true
  | .vf _ i => below i 2048

/-- BAR0 or BAR2 (R373), and at most 4,096 bytes. -/
def HostOp.wf : HostOp → Bool
  | .read b _ n => (decide (b = 0) || decide (b = 2)) && decide (1 ≤ n) && below n 4097
  | .write b _ d _ => (decide (b = 0) || decide (b = 2)) && decide (1 ≤ d.length) && below d.length 4097

/-- Straps of two bits (R37, R38), arrays 0 to 207, copies 0 to 2, host links 0 to 3. -/
def BootEnv.wf (e : BootEnv) : Bool :=
  below e.bootSrc 4 && below e.hostCfg 4 && e.testFail.all (fun a => below a 208) && e.repairFail.all (fun i => below i 8192) &&
  e.stuckCopies.all (fun c => below c 3) && decide (e.hostTrain.length ≤ 4) &&
  decide (e.vfs.length ≤ 4) && e.vfs.all (fun n => below n 2049)

/-- A codeword's block carries 640 bytes of slots (R330). -/
def Codeword.wf : Codeword → Bool
  | .uncorrectable => true
  | .block _ _ d => decide (d.length = 640)

/-- 0 to 8 data beats of 32 bytes (R363). -/
def Packet.wf (p : Packet) : Bool := decide (p.data.length % 32 = 0) && below p.data.length 257

def TapOp.wf : TapOp → Bool
  | .boundary _ => true
  | .regRead a => below a 0x40000000000
  | .regWrite a _ => below a 0x40000000000
  | .kelvyHalt => true
  | .kelvyStep => true
  | .scanDump => true

/-- A tree has at most ten levels (R308, R309); level 15 stands for a MAC line in the node cache. A line has 64 bytes and a MAC 8. -/
def SealOutcome.wf : SealOutcome → Bool
  | .ok => true
  | .lineMac l m _ => decide (l.length = 64) && decide (m.length = 8)
  | .nodeMac l _ b _ => below l 10 && decide (b.length = 64)
  | .dataUncorrected => true
  | .macUncorrected => true
  | .nodeUncorrected l _ => below l 10
  | .cacheDirtyUncorrected l _ => below l 10
  | .cacheCleanUncorrected l _ => below l 16
  | .cacheCorrected l _ => below l 16

/-- What a read of the hub's own finds. -/
def Ecc.wf : Ecc → Bool
  | .umbra out => out.wf
  | _ => true

/-- A command whose operands lie in the ranges the spec gives them. -/
def Instr.wf : Instr → Bool
  | .powerOnReset e => e.wf
  | .warmReset e => e.wf
  | .registerWrite o _ _ _ => o.wf
  | .crossingFifoTransfer _ _ => true
  | .junctionSensorReading _ deg => below deg 256
  | .sliceTeardown o _ => o.wf
  | .sliceHold o _ => o.wf
  | .sliceRelease o _ => o.wf
  | .sliceReset o _ => o.wf
  | .drainComplete _ => true
  | .scrubComplete _ => true
  | .sliceMoveGo o _ _ => o.wf
  | .sliceMoveDone _ _ => true
  | .commitGo o => o.wf
  | .commitCheckOnly o => o.wf
  | .resourceRelease _ => true
  | .nop _ _ => true
  | .loop _ _ => true
  | .br _ _ => true
  | .sheet _ _ => true
  | .end_ _ _ => true
  | .waitu _ _ => true
  | .waitac _ _ => true
  | .waitacResume _ => true
  | .add _ _ => true
  | .sub _ _ => true
  | .and _ _ => true
  | .or _ _ => true
  | .xor _ _ => true
  | .shl _ _ => true
  | .shr _ _ => true
  | .sra _ _ => true
  | .mul _ _ => true
  | .slt _ _ => true
  | .lih _ _ => true
  | .ld8 _ _ => true
  | .st8 _ _ => true
  | .ld4 _ _ => true
  | .st4 _ _ => true
  | .tcfg _ _ => true
  | .tmma _ _ => true
  | .tdrain _ _ => true
  | .taddx _ _ => true
  | .tstat _ _ => true
  | .vfma _ _ => true
  | .vadd _ _ => true
  | .vmul _ _ => true
  | .vmax _ _ => true
  | .vmin _ _ => true
  | .vpack _ _ => true
  | .vunpk _ _ => true
  | .vqnt _ _ => true
  | .vdq _ _ => true
  | .vred _ _ => true
  | .gr _ _ => true
  | .send _ _ => true
  | .recv _ _ => true
  | .fwd _ _ => true
  | .pass _ _ => true
  | .fld _ _ => true
  | .fst _ _ => true
  | .fsta _ _ => true
  | .fatom _ _ => true
  | .unitOperationDone _ _ _ => true
  | .channelWordPass _ _ _ => true
  | .fabricResponse _ => true
  | .cellEccClr o _ => o.wf
  | .selfTestStart _ => true
  | .selfTestRunNow o _ => o.wf
  | .selfTestDone _ _ => true
  | .testDue _ => true
  | .formingVoteTimer _ => true
  | .groupFormTimeout _ => true
  | .beatSend _ => true
  | .beat _ => true
  | .boundaryAct _ => true
  | .sheetCheck _ => true
  | .vote _ => true
  | .voteDeadline _ => true
  | .verdictFix _ => true
  | .beatLostTimeout _ => true
  | .groupTelemetryClr o _ => o.wf
  | .doorbell o _ _ => o.wf
  | .managementDoorbell o _ => o.wf
  | .queueRingWrite o _ _ => o.wf
  | .descriptorTake _ ecc => ecc.wf
  | .copy _ => true
  | .fill _ => true
  | .load _ x => x.ecc.wf
  | .launch _ => true
  | .waitacDesc _ => true
  | .fence _ => true
  | .keyload _ x => x.ecc.wf
  | .moverChunkDone _ => true
  | .moverItemDone _ => true
  | .waitacDescDone _ => true
  | .fenceDone _ => true
  | .kernelEnd _ => true
  | .arrivalCounterWrite o _ _ _ => o.wf
  | .arrivalCounterAdd o _ _ => o.wf
  | .hostRequest f op walk ecc => f.wf && op.wf && below walk.length 6 && ecc.wf
  | .hostAtomicop f _ bar _ _ _ _ walk ecc => f.wf && (decide (bar = 0) || decide (bar = 2)) && below walk.length 6 && ecc.wf
  | .cellWindowAccess _ _ => true
  | .hbmRequestArrive _ => true
  | .channelCommandSlot _ _ ecc => ecc.wf
  | .meterEvaluation avail => decide (avail.length = 768) && avail.all (fun a => below a 257)
  | .translationWalk _ => true
  | .walkTableReadReturn _ _ ecc => ecc.wf
  | .faultRetry o _ _ => o.wf
  | .faultFail o _ _ => o.wf
  | .xlateTimeout _ _ => true
  | .faultRingConsume o _ _ => o.wf
  | .faultRingBaseWrite o _ _ => o.wf
  | .faultRingCtlWrite o _ _ => o.wf
  | .contextCfgWrite o _ _ _ => o.wf
  | .formatSlotWrite o _ _ _ => o.wf
  | .invalidate o _ _ => o.wf
  | .invalidationDone _ => true
  | .atsInvalidation f pasid => f.wf && below pasid 1048576
  | .rowRemap o _ => o.wf
  | .repairCandidateRemap _ _ _ _ => true
  | .stackTempRead _ temp => below temp 256
  | .patrolRead _ line ecc => below line 33554432 && ecc.wf
  | .channelRetrain o _ => (match o with
    | none => true
    | some o => o.wf)
  | .channelRetrainDone _ _ => true
  | .channelRetire o _ => o.wf
  | .channelEccClr o _ => o.wf
  | .trafficGeneratorGo o _ _ => o.wf
  | .trafficGeneratorStop o _ => o.wf
  | .trafficGeneratorPassDone _ failLines firstFail _ => below failLines 25165825 && below firstFail 33554432
  | .sealedRead _ _ out ecc => out.wf && ecc.wf
  | .sealedWrite _ _ out ecc => out.wf && ecc.wf
  | .nodeWriteback _ _ _ _ => true
  | .sweepGo o _ => o.wf
  | .sweepDue _ => true
  | .sweepStart _ => true
  | .sweepStep _ x => x.out.wf && x.ecc.wf
  | .sweepEnd _ => true
  | .umbSweepLate _ => true
  | .blockTx _ => true
  | .blockRx _ cw => cw.wf
  | .idleFrame _ => true
  | .ack _ => true
  | .nak _ => true
  | .credit _ => true
  | .delay _ => true
  | .ackTimer _ => true
  | .creditTimer _ => true
  | .delayMeasureTimer _ => true
  | .write _ _ x => x.ecc.wf
  | .read _ _ x => x.ecc.wf
  | .atomic _ _ x => x.ecc.wf
  | .quiesce _ => true
  | .writeAck _ => true
  | .readRsp _ => true
  | .atomicRsp _ => true
  | .quiesceDone _ => true
  | .eclipse _ => true
  | .transitFrame _ _ => true
  | .responseTimeout _ => true
  | .tagQuarantineEnd _ => true
  | .quiesceTimeout _ => true
  | .linkStall _ _ => true
  | .linkEnable o _ => o.wf
  | .linkBringupDone _ _ _ delayPs => below delayPs 16777216
  | .linkRetrain o _ => o.wf
  | .laneLockLoss _ => true
  | .linkRetrainDone _ _ delayPs => below delayPs 16777216
  | .linkDown o _ => o.wf
  | .linkFecClr o _ => o.wf
  | .linkWake _ => true
  | .siteWrite _ p => p.wf
  | .siteRead _ p => p.wf
  | .siteAtomic _ p => p.wf
  | .notify _ p => p.wf
  | .wwriteAck _ p => p.wf
  | .wreadRsp _ p => p.wf
  | .watomicRsp _ p => p.wf
  | .siteQuiesceDone _ p => p.wf
  | .siteCreditPacket _ p => p.wf
  | .hello _ p => p.wf
  | .siteCreditTimer _ => true
  | .siteWindowTimeout _ _ => true
  | .siteQuiesceTimeout _ _ => true
  | .siteEnable o _ => o.wf
  | .siteRetrain o _ => o.wf
  | .siteDown o _ => o.wf
  | .vfFunctionLevelReset _ index => below index 2048
  | .pfFunctionLevelReset _ => true
  | .sriovConfigWrite _ numVfs _ => below numVfs 2049
  | .hostLinkDown _ => true
  | .msixSend _ _ => true
  | .mailboxTenantSend o _ => o.wf
  | .mailboxTenantPop o _ => o.wf
  | .mailboxManagerSend o _ => o.wf
  | .mailboxManagerPop o _ => o.wf
  | .faultMessage _ e => e.wf
  | .faultQueueConsume o _ => o.wf
  | .faultQueueOvfClr o => o.wf
  | .fatalAck o _ => o.wf
  | .errPinSet o => o.wf
  | .errPinClr o => o.wf
  | .reactionQuery o _ => o.wf
  | .managerEclipse o _ => o.wf
  | .automaticExit _ => true
  | .cellReset _ => true
  | .arrayReset _ => true
  | .fabTimeout _ => true
  | .klvWatchdogKick o _ => o.wf
  | .configParityScrub _ => true
  | .contextReset o _ _ => o.wf
  | .contextResetDone _ => true
  | .checkExpectWrite o _ _ _ => o.wf
  | .checkChannelTake _ => true
  | .appendChannelClr o _ => o.wf
  | .fuseProgram o _ => o.wf
  | .lifecycleTransition o _ => o.wf
  | .debugLock o => o.wf
  | .tapInstruction op e => op.wf && e.wf
  | .wrap o _ _ => o.wf
  | .keyZero o _ _ => o.wf
  | .deliver o _ _ => o.wf
  | .attest o _ _ => o.wf
  | .powerToLit o => o.wf
  | .powerToDim o => o.wf
  | .powerToDark o => o.wf
  | .powerToShade o => o.wf
  | .powerTransitionDone testFail => testFail.all (fun a => below a 208)
  | .kelvyWarmResetRequest o e => o.wf && e.wf
  | .arrayRetire o _ => o.wf
  | .arrayDark o _ => o.wf
  | .arrayLight o _ => o.wf
  | .push o => o.wf
  | .stage o => o.wf
  | .switch o => o.wf
  | .flash o => o.wf
  | .formeFlash o => o.wf
  | .commitDone x => x.ecc.wf
  | .rowRemapDone _ lost => lost.all (fun a => below a 33554432)
  | .imageOperationDone x => x.sees.ecc.wf
  | .fuseProgramDone _ => true
  | .transitionChecksDone _ e => e.wf
  | .keyOperationDone _ => true
  | .hostLinkUp _ width speed => decide (1 ≤ width) && below width 17 && decide (1 ≤ speed) && below speed 7
  | .meterWindow => true
  | .errPinPulseEnd => true
  | .hubFaultExit => true
  | .klvWatchdogExpiry => true
  | .lockstepMismatch => true
  | .rngHealthFail => true
  | .drbgReseed => true
  | .switchQuiescent => true
  | .powerLoss => true

end Sys2Proof
end

