-- ==== Sys2Proof/Tests/Slice0.lean ====
section
/-! SUPPORT. The author's own tests: what WellFormed refuses, words of galley instructions, small steps whose result the spec gives, and
for every statement with hypotheses states that meet them, clause by clause. -/
set_option Elab.async false

namespace Sys2Proof.Tests
open Sys2Proof Sys2Proof.Machine

/-! ## Small states -/

/-- The hub at reset, in service: array 0 in MODE 0. -/
def hub0 : Hub := State.reset.hub.setF (rARR_STAT 0) fARR_STAT_MODE 0

/-- A state around a hub. -/
def st (h : Hub) : State := { State.reset with hub := h }

/-- A cell that runs a galley. -/
def cellAt (is : List GInstr) : Cell :=
  { run := .running, galley := some (1, is.length), mem := mapWriteBytes 0 [] 0x10000 (is.flatMap (fun i => toLE 8 i.code)) }

/-- Cell 5 runs a galley, in a state that `f` changes. -/
def cellHub (is : List GInstr) (f : Cell → Cell := id) : Hub := hub0.setCell 5 (f (cellAt is))

/-- Cell 5 stands at an instruction of its galley and goes on inside it, as a Bool. -/
def standsB (h : Hub) (i : GInstr) : Bool :=
  decide ((h.cell 5).run = .running) && decide ((h.cell 5).wait = .none) && decide (h.arrMode 0 = 0) && !h.cellsStand &&
  decide ((h.cell 5).fetched = some i) && decide ((loopEnd (h.cell 5).pc 4 (h.cell 5).loops).1 < (h.cell 5).count)

theorem stands_of {h : Hub} {i : GInstr} (e : standsB h i = true) : h.standsAt 5 i ∧ h.goesOn 5 := by
  simp only [standsB, Bool.and_eq_true, decide_eq_true_eq, Bool.not_eq_true'] at e
  exact ⟨⟨e.1.1.1.1.1, e.1.1.1.1.2, e.1.1.1.2, e.1.1.2, e.1.2⟩, e.2⟩

/-- A slice of the live forme with a record. -/
def withSlice (h : Hub) (s : Nat) (r : SliceRec) (state : Nat) : Hub :=
  ({ h with forme := { h.forme with slices := mapPut h.forme.slices s r } }).setF (rSLM_SLICE_STATE s) fSLM_SLICE_STATE_STATE state


/-- A hub with an instance of a unit that a fatal fault has stopped. -/
def stop (h : Hub) (unit inst : Nat) : Hub := { h with fcol := { h.fcol with stopped := srcOf unit inst :: h.fcol.stopped } }
/-- Kelvy, and a physical function once firmware runs, send as managers; so does a virtual function to its own slice. -/
theorem kelvyActs (h : Hub) : h.mgrActs .kelvy := ⟨rfl, rfl⟩

/-- Slice 3 has virtual function 0 of port 0, which its host link presents. -/
def vfHub (state : Nat) : Hub :=
  (withSlice (hub0.setF rKLV_BOOT fKLV_BOOT_STAGE 6) 3 {} state).setF (rHOST_LINK_STS 0) fHOST_LINK_STS_NUMVFS 8 |>.setF (rHOST_LINK_STS 0) fHOST_LINK_STS_VF_EN 1

theorem wit_Senders : (vfHub 1).isMgr (.pf 0) = true ∧ (vfHub 1).hostBusy (.pf 0) = false ∧ (vfHub 1).vfOf (.vf 0 0) = some 3 ∧
    (vfHub 1).hostBusy (.vf 0 0) = false ∧
    ({ vfHub 1 with reqs := [(1, { src := .host (.vf 0 0), kind := .write, hostNo := 1 })] } : Hub).hostBusy (.vf 0 0) = true := by decide +kernel

/-! ## The block, its registers -/

theorem wit_StepRunsTheFrontCommand :
    (st hub0).pending = [] ∧ ({ st hub0 with pending := [Instr.errPinPulseEnd] } : State).pending = .errPinPulseEnd :: [] := by decide +kernel

theorem wit_NoStepClearsAFuseBit : Fuses.kept {} State.reset.fuses ∧ ∃ t, step State.reset = .next t := by
  refine ⟨?_, _, rfl⟩
  unfold Fuses.kept FuseRow.kept copiesKept bitsKept
  decide +kernel

theorem wit_GalleyWordsReadBack : GInstr.wf (.alu .add 31 31 31 0xFFFFFFFF) = true ∧ GInstr.wf (.loop 3 31 2047 0xFFFFFFFF) = true := by decide +kernel

theorem wit_GalleyWordsReadOnlyAsEncoded : ginstrOf (GInstr.code (.lih 7 0x1234)) = some (.lih 7 0x1234) := by decide +kernel

theorem wit_BadRegisterAccessesChangeNothing :
    ¬ ((2 = 8 ∧ 0 % 8 = 0) ∨ (2 = 4 ∧ 0 % 4 = 0)) ∧ rMEM_ECC_CFG + 4 ≠ rMEM_ECC_CFG / 8 * 8 ∧ (rMEM_ECC_CFG + 2) % 4 ≠ 0 ∧
    regFind 0x3F000000F00 = none ∧ State.reset.hub.onBus .tap = true ∧
    (State.reset.hub.setF rLCS_DBG fLCS_DBG_LOCK 1).onBus .tap = false := by decide +kernel

theorem wit_RegisterWritesStore : State.reset.hub.isMgr .kelvy = true ∧ State.reset.hub.onBus .kelvy = true := by decide +kernel

/-! ## Slices -/

/-- Slice 3 of the live forme, in a state. -/
def sliceHub (state : Nat) : Hub := withSlice hub0 3 {} state

theorem wit_SliceCommandsDoWhatTheStateAllows :
    (sliceHub 1).isMgr .kelvy = true ∧ (sliceHub 1).active 3 = true ∧ (sliceHub 2).active 3 = true ∧ (sliceHub 3).active 3 = true ∧
    (sliceHub 1).stateOf 3 = slLIVE ∧
    (let h := (sliceHub 2).updRt 3 (fun r => { r with holdWritten := true, saved := some [] });
      h.stateOf 3 = slHELD ∧ h.pwrState ≠ 1 ∧ (h.rt 3).holdWritten = true ∧ (h.rt 3).relReady = false ∧ (h.rt 3).reloadWait = false ∧
      (h.rt 3).saved = some [] ∧
      0 = (h.slD 3).cells.length) ∧
    (sliceHub 3).stateOf 3 = slFAULT ∧ (sliceHub 3).pwrState ≠ 1 ∧ (sliceHub 3).mayRestart 3 = true ∧ (sliceHub 3).eclipsed 3 = false := by
  decide +kernel

theorem wit_CommandsInvalidInTheStateSetBadCmd :
    (sliceHub 4).isMgr .kelvy = true ∧ (sliceHub 4).active 3 = false ∧ (sliceHub 2).stateOf 3 ≠ slLIVE ∧
    (sliceHub 1).stateOf 3 ≠ slHELD ∧ (sliceHub 1).stateOf 3 ≠ slFAULT := by decide +kernel

theorem wit_TwoSliceCommandsInOneWriteAreRefused : 1 < (setBits (3 : Word).toNat 4).length ∧ 1 < (setBits (15 : Word).toNat 4).length ∧
    State.reset.hub.onBus .tap = true := by decide +kernel

theorem wit_SlicesDrainScrubAndLeaveFault :
    ((sliceHub 1).isMgr .kelvy = true ∧ (sliceHub 1).active 3 = true ∧ (sliceHub 1).sl 3 = some {} ∧ (sliceHub 1).items = [] ∧
      (sliceHub 1).reqs = [] ∧ mapGet (sliceHub 1).keyJobs 3 = none) ∧
    ((sliceHub 4).stateOf 3 = slDRAINING ∧ ((sliceHub 4).mendQueues 3).drained 3 = true) ∧
    (let h : Hub := { sliceHub 4 with quiesces := [(1, { slice := 3, hub := 2, peer := 3, why := 0, since := 0 })] };
      h.stateOf 3 = slDRAINING ∧ (h.mendQueues 3).drained 3 = false) ∧
    ((sliceHub 5).stateOf 3 = slSCRUB ∧ (sliceHub 5).halted = false ∧ ((sliceHub 5).setF rUMB_STS fUMB_STS_HALT 1).halted = true) ∧
    ((sliceHub 1).stateOf 3 ≠ slDRAINING ∧ (sliceHub 1).stateOf 3 ≠ slSCRUB) ∧
    (let h := (sliceHub 3).setF (rSLM_FAULT 3) fSLM_FAULT_AUTO 1;
      ({ h with now := 200 * psMs } : Hub).exitReady 3 = true ∧ (h.slD 3).engines = [] ∧ (h.slD 3).queueIds = [] ∧ h.exitReady 3 = false ∧
      h.now < (h.rt 3).faultAt + h.quietPs) := by decide +kernel

/-- Slice 3 holds arrays 1 and 2 whole. -/
def moveHub (state : Nat) : Hub := withSlice hub0 3 { arrays := [1, 2] } state

theorem wit_MoveCopiesBetweenMatchingArrays :
    (let v : Word := setFld (setFld (setFld 0 fSLM_MOVE_SRC_ARRAY 1) fSLM_MOVE_DST_ARRAY 2) fSLM_MOVE_GO 1;
      (moveHub 2).isMgr .kelvy = true ∧ (moveHub 2).stateOf 3 = slHELD ∧ (moveHub 2).flag (rSLM_MOVE 3) fSLM_MOVE_BUSY = false ∧
      ((moveHub 2).slD 3).pattern (vFld v fSLM_MOVE_SRC_ARRAY) ≠ [] ∧
      ((moveHub 2).slD 3).pattern (vFld v fSLM_MOVE_SRC_ARRAY) = ((moveHub 2).slD 3).pattern (vFld v fSLM_MOVE_DST_ARRAY)) ∧
    (moveHub 1).stateOf 3 ≠ slHELD ∧
    (let h := ((moveHub 2).setF (rSLM_MOVE 3) fSLM_MOVE_BUSY 1).updRt 3 (fun r => { r with moving := (1, 2) });
      h.flag (rSLM_MOVE 3) fSLM_MOVE_BUSY = true ∧ (h.rt 3).moveWaits = false ∧ (h.rt 3).moving.1 ≠ (h.rt 3).moving.2 ∧ 7 ∈ (h.slD 3).pattern (h.rt 3).moving.1 ∧
      (let k := h.updRt 3 (fun r => { r with moveWaits := true }); (k.rt 3).moveWaits = true ∧ k.moverMay (some 3) = true ∧ k.halted = false)) := by
  decide +kernel

/-! ## The commit -/

/-- A commit runs. -/
def commitHub (only : Bool) : Hub := { hub0 with commitJob := some only }

theorem wit_CommitsStartOneAtATime :
    hub0.isMgr .kelvy = true ∧ hub0.commitJob = none ∧ hub0.hubUnitStopped = false ∧ hub0.lcsJob = none ∧ hub0.pwrState < 2 ∧
    (commitHub true).commitJob.isSome = true ∧
    (let v : Word := setFld (setFld 0 fSLM_COMMIT_CTL_GO 1) fSLM_COMMIT_CTL_CHECK_ONLY 1;
      vFlag v fSLM_COMMIT_CTL_GO = true ∧ vFlag v fSLM_COMMIT_CTL_CHECK_ONLY = true) := by decide +kernel

theorem wit_CommitsSwitchTablesAndGiveBack_releases :
    (let r : Releasing := { slice := 3, kind := rkCELL, num := 5 };
      let h : Hub := { hub0 with releasing := [r] };
      h.releasing[0]? = some r ∧ h.inUse r = false ∧ ({ h with reqs := [(1, { src := .management, pa := CELL_BASE + 5 * 0x20000, stage := .window })] } : Hub).inUse r = true) ∧
    (let r : Releasing := { slice := 3, kind := rkGRAN, num := 9 };
      let h : Hub := { hub0 with releasing := [r] };
      h.inUse r = false ∧ h.regionOf (9 * GRAN) = none) := by decide +kernel

/-! ## Cells -/

/-- Cell 5 with a register set. -/
def reg1 (i : Nat) (v : Word) (x : Cell) : Cell := x.setR i v

/-- Cell 5 of slice 3 runs a galley, in a state that `f` changes. -/
def ownHub (is : List GInstr) (f : Cell → Cell := id) : Hub := withSlice (cellHub is f) 3 { arrays := [0] } 1

theorem wit_ScalarInstructionsWriteTheirResult :
    (AluOp.add :: [.sub, .and, .or, .xor, .shl, .shr, .sra, .mul, .slt]).all (fun o => standsB (cellHub [.alu o 1 2 3 5, .nop]) (.alu o 1 2 3 5)) = true ∧
    standsB (cellHub [.lih 31 0xFFFFFFFF, .nop]) (.lih 31 0xFFFFFFFF) = true := by decide +kernel

theorem wit_ScalarInstructionsWriteTheirResult_stands : (cellHub [.alu .add 1 2 3 5, .nop]).standsAt (5 : CellId) (.alu .add 1 2 3 5) ∧
    (cellHub [.alu .add 1 2 3 5, .nop]).goesOn (5 : CellId) := stands_of (by decide +kernel)

theorem wit_LocalInstructionsReachScratch :
    [LocalOp.ld8, .st8].all (fun o => standsB (cellHub [.loc o 1 2 16, .nop] (reg1 2 0xFFE8)) (.loc o 1 2 16)) = true ∧
    [LocalOp.ld4, .st4].all (fun o => standsB (cellHub [.loc o 1 2 16, .nop] (reg1 2 0xFFEC)) (.loc o 1 2 16)) = true ∧
    ((0xFFE8 : Word) + BitVec.ofNat 64 16).toNat + 8 ≤ 0x10000 ∧ ((0xFFE8 : Word) + BitVec.ofNat 64 16).toNat % 8 = 0 ∧
    ((0xFFEC : Word) + BitVec.ofNat 64 16).toNat + 4 ≤ 0x10000 ∧ ((0xFFEC : Word) + BitVec.ofNat 64 16).toNat % 4 = 0 ∧
    [LocalOp.ld8, .st8, .ld4, .st4].all (fun o => standsB (cellHub [.loc o 1 2 0xFFFF, .nop]) (.loc o 1 2 0xFFFF)) = true ∧
    ¬ (((0 : Word) + BitVec.ofNat 64 0xFFFF).toNat + 4 ≤ 0x10000) := by decide +kernel

theorem wit_BranchesAndLoopsGoWhereTheyShould :
    standsB (cellHub [.nop, .end_]) .nop = true ∧
    (let b (cond : Nat) (v : Word) : Bool := standsB (cellHub [.br cond 1 1, .nop] (reg1 1 v)) (.br cond 1 1);
      b 0 0 = true ∧ b 1 0 = true ∧ b 2 1 = true ∧ b 3 (-1) = true ∧ b 4 0 = true ∧ b 1 1 = true ∧ b 2 0 = true ∧ b 3 0 = true ∧ b 4 (-1) = true) ∧
    (cellAt [.br 0 1 1, .nop]).count = 2 ∧
    standsB (cellHub [.loop 0 0 1 3, .nop, .nop]) (.loop 0 0 1 3) = true ∧
    standsB (cellHub [.loop 3 1 1 0, .nop, .nop] (reg1 1 0xFFFFFFFF)) (.loop 3 1 1 0) = true ∧
    standsB (cellHub [.loop 0 1 1 0, .nop, .nop]) (.loop 0 1 1 0) = true ∧
    (loopEnd (0 + 1) 4 (cellAt [.loop 0 1 1 0, .nop, .nop]).loops).1 < (cellAt [.loop 0 1 1 0, .nop, .nop]).count ∧
    standsB (cellHub [.loop 0 1 1 0, .nop, .nop] (reg1 1 0x100000000)) (.loop 0 1 1 0) = true ∧
    (let ls : Vector LoopLvl 4 := ((Vector.replicate 4 ({} : LoopLvl)).set 1 { rem := 2, start := 1, last := 3 }).set 2 { rem := 1, start := 2, last := 3 };
      (∀ j : Fin 4, (2 : Fin 4) < j → ls[j].rem = 0 ∨ ls[j].last ≠ 3) ∧ ls[2].rem = 1 ∧ ls[2].last = 3 ∧ 1 < ls[1].rem ∧ ls[1].last = 3 ∧
      (∀ k : Fin 4, ls[k].rem = 0 ∨ ls[k].last ≠ 4) ∧
      (∀ j : Fin 4, (1 : Fin 4) < j → (ls.set 2 { rem := 0, start := 2, last := 3 })[j].rem = 0 ∨ (ls.set 2 { rem := 0, start := 2, last := 3 })[j].last ≠ 3)) := by
  decide +kernel

/-- A unit of cell 5 is busy. -/
def busy (x : Cell) : Cell := x.setUnit .tensor [{ instr := .tcfg 0 0, vals := [] }]

theorem wit_CellsWaitAndCountErrors :
    standsB (cellHub [.sheet, .nop]) .sheet = true ∧ (cellHub [.sheet, .nop]).unitsIdle 5 63 = true ∧
    (cellHub [.sheet, .nop]).cellSheet 5 ≤ ((cellHub [.sheet, .nop]).cell 5).sheet ∧
    (let h := (ownHub [.sheet, .nop]).setF (rQL_GRP_SHEET 0) fQL_GRP_SHEET_SHEET 2;
      standsB h .sheet = true ∧ h.unitsIdle 5 63 = true ∧ (h.cell 5).sheet < h.cellSheet 5) ∧
    standsB (cellHub [.sheet, .nop] busy) .sheet = true ∧ (cellHub [.sheet, .nop] busy).unitsIdle 5 63 = false ∧
    standsB (cellHub [.end_, .nop]) .end_ = true ∧ ((cellHub [.end_, .nop]).cell 5).launch = none ∧
    standsB (cellHub [.end_, .nop] busy) .end_ = true ∧
    standsB (cellHub [.waitu 1, .nop]) (.waitu 1) = true ∧ (cellHub [.waitu 1, .nop]).unitsIdle 5 1 = true ∧
    standsB (cellHub [.waitu 63, .nop] busy) (.waitu 63) = true ∧ (cellHub [.waitu 63, .nop] busy).unitsIdle 5 63 = false ∧
    (let h := ownHub [.waitac 1 2, .nop] (reg1 1 63);
      standsB h (.waitac 1 2) = true ∧ h.acReached ((h.cellOwner 5).getD 0) 63 0 = true) ∧
    (let h := ownHub [.waitac 1 2, .nop] (fun x => reg1 1 63 (reg1 2 1 x));
      standsB h (.waitac 1 2) = true ∧ h.acReached ((h.cellOwner 5).getD 0) 63 1 = false) ∧
    standsB (ownHub [.waitac 1 2, .nop] (reg1 1 64)) (.waitac 1 2) = true ∧
    (let h := ownHub [.waitac 1 2, .nop] (fun x => { x with wait := .counter 7 0 });
      (h.cell 5).run = .running ∧ (h.cell 5).wait = .counter 7 0 ∧ h.cellsStand = false ∧ h.acReached ((h.cellOwner 5).getD 0) 7 0 = true ∧
      h.acReached ((h.cellOwner 5).getD 0) 7 1 = false) ∧
    hub0.isMgr .kelvy = true := by decide +kernel

theorem wit_UnitInstructionsBeginAtOnce :
    standsB (cellHub [.tcfg 1 65535, .nop]) (.tcfg 1 65535) = true ∧ (cellAt [.tcfg 1 65535, .nop]).tensor = [] ∧
    (let i : GInstr := .tmma 3 0 0 0 1 4 5 6 7 1;
      standsB (cellHub [i, .nop] (fun x => reg1 4 0 (reg1 5 0x200 (reg1 6 0x400 (reg1 7 0x600 x))))) i = true ∧
      (tmmaOperands 3 0 0 0x200 0x400 0x600 1).all (fun p => scratchOk p.1 p.2.1 p.2.2) = true) ∧
    standsB (cellHub [.tdrain 6 0 0 1 4, .nop]) (.tdrain 6 0 0 1 4) = true ∧ scratchOk 0 (16 * drainBytes 6) (drainBytes 6) = true ∧
    standsB (cellHub [.taddx 1 4, .nop]) (.taddx 1 4) = true ∧ scratchOk 0 256 16 = true ∧
    standsB (cellHub [.tstat 31, .nop]) (.tstat 31) = true ∧ standsB (cellHub [.tstat 0, .nop]) (.tstat 0) = true ∧
    ([(VecOp.vfma, 1, 2, 3, 4, 0), (.vadd, 1, 2, 3, 0, 0), (.vmul, 1, 2, 3, 0, 0), (.vmax, 1, 2, 3, 0, 0), (.vmin, 1, 2, 3, 0, 0),
      (.vpack, 1, 2, 0, 0, 7), (.vunpk, 1, 2, 0, 0, 8), (.vqnt, 1, 2, 0, 4, 4), (.vdq, 1, 2, 3, 0, 4), (.vred, 1, 2, 0, 0, 0)].all (fun p =>
      let i : GInstr := .vec p.1 p.2.1 p.2.2.1 p.2.2.2.1 p.2.2.2.2.1 2 p.2.2.2.2.2 0;
      standsB (cellHub [i, .nop] (fun x => reg1 1 0x1000 (reg1 2 0x2000 (reg1 3 0x3000 (reg1 4 0x4000 x))))) i &&
      (vecOperands p.1 p.2.2.2.2.2 2 0x1000 0x2000 (if p.2.2.2.1 = 0 then 0 else 0x3000) (if p.2.2.2.2.1 = 0 then 0 else 0x4000)).all
        (fun p => scratchOk p.1 p.2.1 p.2.2))) = true ∧
    (let i : GInstr := .gr 1 0 0 4;
      let f (x : Cell) : Cell := (reg1 4 0x100 x).put 0x100 (toLE 2 0x200 ++ toLE 2 0x300 ++ toLE 2 0 ++ toLE 2 0x400 ++ toLE 2 0x500 ++ toLE 2 1 ++ toLE 2 1 ++ [1, 0]);
      standsB (cellHub [i, .nop] f) i = true ∧ scratchOk 0x100 32 8 = true ∧ gatherOk ((cellHub [i, .nop] f).cell 5) 1 0 0 (((cellHub [i, .nop] f).cell 5).get 0x100 32) = true) := by decide +kernel

/-- A TADDX in the unit of cell 5. -/
def add0 : UOp := { instr := .taddx 0 4, vals := [0] }

/-- Cell 5 stands at TADDX with operations in its tensor unit. -/
def taddxHub (l : List UOp) (a : Word) : Hub := ownHub [.taddx 0 4, .nop] (fun x => (reg1 4 a x).setUnit .tensor l)

theorem wit_UnitsFinishInOrder :
    standsB (taddxHub [add0] 0) (.taddx 0 4) = true ∧ scratchOk 0 256 16 = true ∧
    standsB (taddxHub [add0, add0] 0xFF00) (.taddx 0 4) = true ∧ scratchOk 0xFF00 256 16 = true ∧
    standsB (taddxHub [] 0xFF10) (.taddx 0 4) = true ∧ scratchOk 0xFF10 256 16 = false ∧ scratchOk 8 256 16 = false ∧
    add0.complete = true ∧ (taddxHub [add0] 0).cellsStand = false ∧ ((taddxHub [add0, add0] 0).cell 5).unit .tensor = [add0, add0] ∧
    ((taddxHub [] 0).cell 5).unit .chan = [] ∧ ({ instr := .chan .recv 1 0 4 1, vals := [0] } : UOp).complete = false := by decide +kernel

/-- Cell 5 of slice 3 runs a channel operation, with a word in each of its buffers. -/
def chanHub (i : GInstr) : Hub :=
  ownHub [i, .nop] (fun x => { x with chan := [{ instr := i, vals := [0] }], inbuf := Vector.replicate 4 (some 7) })

theorem wit_ChannelWordsPassOneByOne :
    [(ChanOp.send, 0), (.recv, 0), (.fwd, 1), (.pass, 1)].all (fun p =>
      standsB (ownHub [.chan p.1 0 p.2 4 128, .nop]) (.chan p.1 0 p.2 4 128)) = true ∧
    ((ownHub [.chan .send 0 0 4 128, .nop]).cell 5).chan = [] ∧ ((ownHub [.chan .send 0 0 4 128, .nop]).cell 5).replay = none ∧
    ((ownHub [.chan .send 0 0 4 128, .nop]).cell 5).log.length < 256 ∧ scratchOk 0 (16 * 128) 16 = true ∧
    (let h := chanHub (.chan .recv 1 0 4 1);
      (h.cell 5).run = .running ∧ h.cellsStand = false ∧ (h.cell 5).inbuf[1] = some 7 ∧ (h.cell 5).chan.map (fun o => (o.instr, o.recvd)) = [(.chan .recv 1 0 4 1, 0)]) ∧
    (let h := ownHub [.nop, .nop] (fun x => { x with chan := [{ instr := .chan .recv 1 0 4 1, vals := [0] }] }); (h.cell 5).inbuf[1] = none) ∧
    (let h := chanHub (.chan .send 1 0 4 1);
      (h.neighbour 5 1).isSome = true ∧ ((h.neighbour 5 1).map (fun n => h.accepts n (opposite 1))) = some true) ∧
    (let h := chanHub (.chan .fwd 0 1 4 1);
      (h.cell 5).inbuf[0] = some 7 ∧ ((h.neighbour 5 1).map (fun n => h.accepts n (opposite 1))) = some true) := by decide +kernel

/-- Operation 1 of cell 5 has two answers to come, and request 2 is one of them. -/
def fabHub (k : ReqKind) (left : Nat) (ac : Option Nat) : Hub :=
  let h := ownHub [.nop, .nop]
  { h with
    fabricOps := [(1, { cell := 5, op := .fld, ra := 0, len := 8, left := left, acnum := ac, slice := 3 })]
    reqs := [(2, { src := .cell 5 1 0, slice := 3, kind := k, len := 8, data := toLE 8 9, stage := .done })] }

theorem wit_FabricInstructionsAskAndAreAnswered :
    [(GInstr.fab .fld 1 2 3 0 0 0), .fab .fst 1 2 3 0 0 0, .fab .fsta 1 2 3 0 0 4, .fab .fatom 1 2 0 0 9 0].all (fun i =>
      standsB (ownHub [i, .nop] (fun x => reg1 3 64 (reg1 4 63 x))) i) = true ∧
    fabOperandsOk .fld 0 0 64 0 = true ∧ fabOperandsOk .fst 0 0 65536 0 = true ∧ fabOperandsOk .fsta 0 0 64 63 = true ∧ fabOperandsOk .fatom 0 0 0 0 = true ∧
    fabOperandsOk .fld 0 0 0 0 = false ∧ fabOperandsOk .fsta 0 0 64 64 = false ∧ fabOperandsOk .fatom 4 0 0 0 = false ∧
    [FabOp.fld, .fst, .fsta, .fatom].all (fun o => (ownHub [.nop]).portRoom 5 o) = true ∧ (ownHub [.nop]).cellOwner 5 = some 3 ∧
    (ownHub [.nop]).ctxOn 3 0 = true ∧ (ownHub [.nop]).ctxOn 3 15 = false ∧
    (let h := fabHub .read 2 none; (h.req 2).map (fun q => (q.src, q.stage, q.kind)) = some (.cell 5 1 0, .done, .read) ∧
      (mapGet h.fabricOps 1).map (fun o => o.left) = some 2 ∧ (h.cell 5).run = .running) ∧
    (let h := fabHub .write 1 (some 7); (mapGet h.fabricOps 1).map (fun o => (o.left, o.failed, o.remote)) = some (1, none, false) ∧
      (mapGet h.fabricOps 1).map (fun o => (o.bundle, o.acnum, o.log)) = some (none, some 7, none) ∧ (h.cell 5).wait = .none) := by decide +kernel

/-! ## Schedule groups and the beat -/

/-- Group 7 in a state, with its SCHED record. -/
def grpHub (r : Sched) (state : Nat) (k : GroupRt := {}) : Hub :=
  ({ hub0 with forme := { hub0.forme with scheds := [r] }, groups := [(7, k)] } : Hub).setF (rQL_GRP_STS 7) fQL_GRP_STS_STATE state

def origin7 : Sched := { group := 7, hops := 1, beatLink := 0xFF, sheetNs := 1000, hubs := 1 }
def child7 : Sched := { group := 7, hops := 1, beatLink := 2, sheetNs := 1000, hubs := 2 }

theorem wit_GroupsFormAndEndByVotesAndEclipses :
    (grpHub child7 1).beatSched 7 = some child7 ∧ child7.origin = false ∧ (grpHub child7 1).gState 7 = 1 ∧
    (grpHub origin7 1).beatSched 7 = some origin7 ∧ origin7.origin = true ∧ (grpHub origin7 1).formCount 7 = origin7.hubs ∧
    ((grpHub origin7 1).grp 7).fixed = none ∧ ((grpHub origin7 1).grp 7).pend = none ∧ ((grpHub origin7 1).grp 7).started = false ∧
    (grpHub { origin7 with hubs := 2 } 1).formCount 7 ≠ 2 ∧ ((grpHub origin7 1).grp 7).formRaised = false ∧
    ((grpHub origin7 1 { formRaised := true }).grp 7).formRaised = true ∧
    ({ grpHub origin7 1 with now := 10000000000 } : Hub).now ≥ ((grpHub origin7 1).grp 7).commitAt + 10000000000 ∧
    (grpHub origin7 2).groupStarted 7 = true ∧ (grpHub origin7 1).groupStarted 7 = false ∧ vFld 7 fFCOL_ECL_GROUP = 7 ∧
    (grpHub origin7 2).isMgr .kelvy = true ∧
    (let f := msgFrame opECLIPSE (7 + 3 * 2 ^ 10 + 4 * 2 ^ 32) 0 0;
      ((grpHub origin7 2 { eclSeen := [(3, 4)] }).grp (bits (leAt f 8 8) 9 0)).eclSeen.contains (bits (leAt f 8 8) 18 10, bits (leAt f 8 8) 63 32) = true) ∧
    (grpHub origin7 2).groupSlices 7 = [] ∧ (grpHub origin7 2).gState 7 ≠ 5 := by decide +kernel

/-- Link 2 is up with a frame at the head of virtual channel 2. -/
def rxHub (h : Hub) (f : List Byte) : Hub := (h.updLink 2 (fun k => { k with rx2 := [f] })).setF (rQL_LINK_CTL 2) fQL_LINK_CTL_EN 1

theorem wit_BeatsCarryVerdictsToBoundaries :
    (let k : GroupRt := { fixed := some vADVANCE, started := true };
      (grpHub origin7 2 k).beatSched 7 = some origin7 ∧ ((grpHub origin7 2 k).grp 7).fixed = some 1 ∧ (grpHub origin7 2 k).gState 7 ≠ 5 ∧
      ((grpHub origin7 2 k).grp 7).started = true ∧ k.lastAt + origin7.sheet ≤ 600000 + origin7.lead ∧
      (grpHub origin7 2 k).now + origin7.lead < k.lastAt + origin7.sheet) ∧
    (let f (op : Nat) : List Byte := msgFrame op (beatW0 7 1 5) (beatW1 100000 5) 1;
      (rxHub hub0 (f opBEAT)).rxHead 2 2 = some (f opBEAT) ∧ msgOp (f opBEAT) = opBEAT ∧ msgOp (f opVOTE) = opVOTE ∧ msgOp (f opECLIPSE) = opECLIPSE ∧
      opBEAT ≠ opVOTE ∧ opVOTE ≠ opECLIPSE ∧ opBEAT ≠ opECLIPSE) ∧
    (grpHub child7 2).beatSched 7 = some child7 ∧ child7.beatLink = 2 ∧ (grpHub child7 2).children 7 = [] ∧ (grpHub child7 2).gState 7 = 2 ∧ (grpHub child7 2).stoppedInst uBEAT 7 = false ∧ 100000 ≤ child7.lead ∧ 1 ≤ child7.hops ∧
    (6 < bits (leAt (msgFrame opBEAT (beatW0 7 7 5) 0 1) 8 8) 13 10 ∧ bits (leAt (msgFrame opBEAT (beatW0 7 1 5) 0 0) 24 8) 3 0 = 0) ∧
    (let m : BeatMsg := { verdict := 2, boundary := 5, elapsed := 0, chk := 0, hop := 1, link := 2, actAt := 0 };
      let h := grpHub child7 2 { pend := some m };
      (h.grp 7).pend = some m ∧ h.gState 7 ≠ 5 ∧ h.groupSlices 7 = [] ∧ h.flag rFCOL_CTL fFCOL_CTL_ECL_ON_HANG = false ∧
      h.sheetAfter 7 2 % 2 ^ 32 = 0 ∧ h.gSheet 7 + 1 < 2 ^ 48) ∧
    (let h := grpHub child7 2 {}; h.sheetAfter 7 vSTART % 2 ^ 32 = 0 ∧ h.sheetAfter 7 vRELEASE % 2 ^ 32 = 1 ∧ h.sheetAfter 7 vHANG % 2 ^ 32 = 0) := by
  decide +kernel

theorem wit_HubsVoteAndTheOriginFixesVerdicts_stopped :
    (stop (grpHub origin7 2) uBEAT 7).stoppedInst uBEAT 7 = true := by decide +kernel

theorem wit_HubsVoteAndTheOriginFixesVerdicts :
    (let h := ({ grpHub child7 2 { started := true } with now := 20000 } : Hub).setF (rQL_GRP_BND 7) fQL_GRP_BND_VERDICT vADVANCE;
      (h.grp 7).started = true ∧ (h.grp 7).own = none ∧ verdictChecks (h.fld (rQL_GRP_BND 7) fQL_GRP_BND_VERDICT) = true ∧ h.gState 7 ≠ 5 ∧
      (h.grp 7).lastAt + 20000 ≤ h.now ∧
      (h.grp 7).lastAt + child7.sheet ≤ (1000000 : Nat) + child7.lead + (100 + 400 * h.fld (rQL_GRP_STS 7) fQL_GRP_STS_DEPTH) * 1000) ∧
    (let h := { grpHub child7 2 { started := true } with now := 3000000 };
      (h.grp 7).started = true ∧ (h.grp 7).beatSilent = false ∧ (h.grp 7).pend = none ∧ h.groupStarted 7 = true ∧
      (h.grp 7).lastAt + 2 * child7.sheet + 1000000 ≤ h.now) ∧
    (let k : GroupRt := { started := true, lastVerdict := vADVANCE, own := some { count := 1 } };
      let h := { grpHub origin7 2 k with now := 1000000 };
      h.beatSched 7 = some origin7 ∧ (h.grp 7).fixed = none ∧ (h.grp 7).pend = none ∧ (h.grp 7).combined = some { count := 1 } ∧
      (h.grp 7).lastAt + origin7.sheet ≤ h.now + origin7.lead + 100000 ∧ verdictChecks (h.grp 7).lastVerdict = true ∧ origin7.hubs ≤ 1) ∧
    (({} : GroupRt).ostate = 2 ∧ ({} : GroupRt).consec = 0 ∧ ({ ostate := 3 } : GroupRt).ostate = 3 ∧ ({ ostate := 4 } : GroupRt).ostate = 4) ∧
    (({ relReady := true, count := 2 } : Vote).relReady = true ∧ ({ late := true } : Vote).late = true ∧ ({ fault := true } : Vote).fault = true ∧
      ({ count := 1 } : Vote).count < 2) := by decide +kernel

/-! ## Queues, descriptors and arrival counters -/

/-- Slice 3 holds queue 9, cell array 0, compare channel 4 and the link to slice 6 of hub 2. -/
def qHub (state : Nat) : Hub :=
  withSlice hub0 3 { arrays := [0], queues := [(9, 1)], check := [4], links := [(6, 2)], moverGuar := 1, moverWeight := 1 } state

/-- Queue 9 is enabled, its pointers at some values. -/
def qOn (tail head : Nat) : Hub :=
  (((qHub 1).setF (rFAB_Q_RING 9) fFAB_Q_RING_EN 1).setF (rFAB_Q_PTR 9) fFAB_Q_PTR_TAIL tail).setF (rFAB_Q_PTR 9) fFAB_Q_PTR_HEAD head

/-- Eight words as a descriptor. -/
def mkDesc (w : List Nat) : List Byte := (List.range 8).flatMap (fun i => toLE 8 (w.getD i 0))

/-- One descriptor of queue 9 in the command store, as item 1. -/
def itemHub (w : List Nat) (f : Item → Item := id) : Hub :=
  let l : Leaf := { ctxid := ctxid 3 0, va := 0, pa := 0, size := 30, r := true, w := true, atom := true, d := true }
  let t : Item := { queue := 9, seq := 0, slice := some 3, ctx := 0, gen := 0, desc := mkDesc w, leaves := [l] }
  { qOn 1 1 with items := [(1, f t)] }

/-- Item 1 starts now, as a Bool. -/
def startsB (h : Hub) (op : Nat) : Bool :=
  match h.item 1 with
  | none => false
  | some t => decide (dOpcode t.desc = op) && h.mayStart t && !h.stale t &&
      (decide (t.slice = none) || decide (t.needs = none))

theorem starts_of {h : Hub} {op : Nat} (e : startsB h op = true) : ∃ t, h.startsNow 1 op t := by
  unfold startsB at e
  split at e
  · cases e
  · next t ht =>
    simp only [Bool.and_eq_true, Bool.or_eq_true, decide_eq_true_eq, Bool.not_eq_true'] at e
    exact ⟨t, ht, e.1.1.1, e.1.1.2, e.1.2, e.2⟩

theorem wit_DoorbellsAndRingsFeedQueues :
    (let d (tail : Nat) : Nat := (tail + 2 ^ 32 - (qOn 5 5).fld (rFAB_Q_PTR 9) fFAB_Q_PTR_HEAD) % 2 ^ 32;
      (qOn 5 5).submitted 9 < d 21 ∧ d 21 ≤ (qOn 5 5).qN 9 ∧ d 5 ≤ (qOn 5 5).submitted 9 ∧ (qOn 5 5).qN 9 < d 22 ∧ d 5 ≤ (qOn 5 5).qN 9) ∧
    (qOn 5 5).isMgr .kelvy = true ∧ (qOn 5 5).queueOwner (vFld (setFld 0 fFAB_DOORBELL_QUEUE 9) fFAB_DOORBELL_QUEUE) = some 3 ∧
    (qOn 5 5).active 3 = true ∧ (qOn 5 5).flag (rFAB_Q_RING 9) fFAB_Q_RING_EN = true ∧
    (let h := ((qOn 5 5).setF (rHOST_LINK_STS 0) fHOST_LINK_STS_VF_EN 1).setF (rHOST_LINK_STS 0) fHOST_LINK_STS_NUMVFS 1;
      h.presented (h.slD 3).vfPort (h.slD 3).vfIndex = true ∧ h.stoppedInst uFAB 0 = false ∧ h.active 3 = true ∧ h.flag (rFAB_Q_RING 9) fFAB_Q_RING_EN = true) ∧
    (qHub 4).active 3 = false ∧ (stop (qHub 1) uFAB 0).stoppedInst uFAB 0 = true ∧ (qHub 1).flag (rFAB_Q_RING 9) fFAB_Q_RING_EN = false ∧
    (hub0.setF (rFAB_Q_RING 10) fFAB_Q_RING_EN 1).queueOwner (vFld (setFld 0 fFAB_MDOORBELL_QUEUE 10) fFAB_MDOORBELL_QUEUE) = none ∧
    (let v : Word := setFld (setFld 0 fFAB_Q_RING_LOG2 12) fFAB_Q_RING_EN 1;
      12 < vFld (setFld 0 fFAB_Q_RING_LOG2 13) fFAB_Q_RING_LOG2 ∧ vFld v fFAB_Q_RING_LOG2 ≤ 12 ∧ vFlag v fFAB_Q_RING_EN = true ∧
      (qOn 0 0).changes (rFAB_Q_RING 9) [fFAB_Q_RING_CTX, fFAB_Q_RING_LOG2, fFAB_Q_RING_BASE] v = true ∧
      (qOn 0 0).changes (rFAB_Q_RING 9) [fFAB_Q_RING_CTX, fFAB_Q_RING_LOG2, fFAB_Q_RING_BASE] 0 = false ∧
      vFlag 0 fFAB_Q_RING_EN = false ∧ hub0.queueOwner 10 = none ∧ hub0.flag (rFAB_Q_RING 10) fFAB_Q_RING_EN = false ∧ (hub0.qrt 10).cut.2 = 0 ∧
      0 < ((hub0.setQrt 10 { cut := (4, 2) }).qrt 10).cut.2 ∧ (hub0.setQrt 10 { cut := (4, 2) }).flag (rFAB_Q_RING 10) fFAB_Q_RING_EN = false) := by decide +kernel

theorem wit_DescriptorsAreTakenAndStart :
    (let h := ((hub0.setF (rFAB_Q_RING 10) fFAB_Q_RING_EN 1).setF (rFAB_Q_PTR 10) fFAB_Q_PTR_TAIL 1);
      h.halted = false ∧ h.stoppedInst uFAB 0 = false ∧ h.submitted 10 ≠ 0 ∧ (h.qrt 10).broken = false ∧ (h.qrt 10).cut.2 = 0 ∧
      0 < ((h.setQrt 10 { cut := (4, 2) }).qrt 10).cut.2 ∧ (h.setQrt 10 { cut := (4, 2) }).submitted 10 ≠ 0 ∧
      ((stop h uFAB 0).stoppedInst uFAB 0 = true ∧ (h.setF rUMB_STS fUMB_STS_HALT 1).halted = true) ∧ h.queueOwner 10 = none ∧ h.storeMay none = true) ∧
    (let h := (qOn 1 0).setQrt 9 { cring := [{ ctxid := ctxid 3 0, va := 0, pa := 0, size := 21, r := true, w := true, atom := true, d := true }] };
      h.halted = false ∧ h.stoppedInst uFAB 0 = false ∧ h.submitted 9 ≠ 0 ∧ (h.qrt 9).broken = false ∧ (h.qrt 9).cring.isEmpty = false ∧
      (h.qrt 9).cut.2 = 0 ∧ h.queueOwner 9 = some 3 ∧ h.stateOf 3 ≠ slFAULT ∧
      h.storeMay (some 3) = true ∧ nextAfter (mapGet h.queueRr 3) (h.queuesReady 3) = some 9 ∧
      (h.setF (rSLM_SLICE_STATE 3) fSLM_SLICE_STATE_STATE slFAULT).stateOf 3 = slFAULT ∧ (h.setF (rFAB_Q_PTR 9) fFAB_Q_PTR_HEAD 1).submitted 9 = 0) ∧
    (mkDesc [8]).length = 64 ∧ (qOn 1 0).descOk ((qOn 1 0).queueOwner 9) (mkDesc [8]) = false ∧
    startsB (itemHub [2, 7, 0x1000, 64]) opFILL = true ∧ startsB (itemHub [1, 0, 0x1000, 64]) opCOPY = true ∧
    startsB (itemHub [0x801, 0, 0x1000, 64, 4 * 2 ^ 32]) opCOPY = true ∧ startsB (itemHub [3, 0x1000, 0]) opLOAD = true ∧
    startsB (itemHub [4, 1]) opLAUNCH = true ∧ startsB (itemHub [5, 63, 9]) opWAITAC = true ∧ startsB (itemHub [6]) opFENCE = true ∧
    startsB (itemHub [7, 0x40, 0]) opKEYLOAD = true ∧
    (itemHub [1]).moverMay (some 3) = true ∧ dCheck (mkDesc [1, 0, 0x1000, 64]) = false ∧ dCheck (mkDesc [0x801, 0, 0x1000, 64, 4 * 2 ^ 32]) = true ∧
    (itemHub [4, 1]).kernelCells 3 (dKid (mkDesc [4, 1])) = [] ∧
    (let h := (itemHub [4, 1]).setCell 5 { cellAt [.end_] with run := .idle };
      h.kernelCells 3 (dKid (mkDesc [4, 1])) = [5] ∧ (h.cell 5).busy = false ∧ startsB h opLAUNCH = true) ∧
    (let h := itemHub [6];
      let e : Item := { queue := 9, seq := 2 ^ 32 - 1, slice := some 3, ctx := 0, gen := 0, desc := mkDesc [2] };
      ((h.item 1).map (fun t => ({ h with items := h.items ++ [(2, e)] } : Hub).heldBack t)) = some true) ∧
    (let h := itemHub [6] (fun t => { t with gen := 1 }); ((h.item 1).map (fun t => (h.mayStart t, h.stale t))) = some (true, true)) := by
  decide +kernel

/-- What the statement looks at of item 1. -/
def item1 (h : Hub) (p : Item → Bool) : Bool := ((h.item 1).map p).getD false

theorem wit_DescriptorsEndAsTheirWorkDoes :
    (itemHub [5, 63, 9]).halted = false ∧
    item1 (itemHub [5, 63, 0] (fun t => { t with st := .waiting })) (fun t => decide (t.st = .waiting) && decide (dOpcode t.desc = opWAITAC) &&
      (itemHub []).acReached 3 (dAcnum t.desc) (dTarget t.desc)) = true ∧
    item1 (itemHub [5, 63, 9] (fun t => { t with st := .waiting })) (fun t => !(itemHub []).acReached 3 (dAcnum t.desc) (dTarget t.desc)) = true ∧
    item1 (itemHub [6] (fun t => { t with st := .waiting })) (fun t => decide (dOpcode t.desc = opFENCE) && !(itemHub [6]).earlierOpen t) = true ∧
    (let e : Item := { queue := 9, seq := 2 ^ 32 - 1, slice := some 3, ctx := 0, gen := 0, desc := mkDesc [2] };
      item1 (itemHub [6] (fun t => { t with st := .waiting })) (fun t => ({ itemHub [6] with items := (itemHub [6]).items ++ [(2, e)] } : Hub).earlierOpen t) = true) ∧
    (let h := (itemHub [4, 1] (fun t => { t with st := .running, cells := [5], ended := [5] })).setCell 5 { cellAt [.end_] with run := .idle, launch := some 1 };
      item1 h (fun t => decide (t.st = .running) && decide (dOpcode t.desc = opLAUNCH) && h.storesDone t.cells &&
        t.cells.all t.ended.contains) = true) ∧
    item1 (itemHub [1, 0, 0x1000, 64] (fun t => { t with st := .running })) (fun t => decide (dOpcode t.desc = opCOPY) && decide (t.left = 0) &&
      decide (t.failed = none) && decide (t.pos < dLen t.desc) && !t.writing && !t.taken) = true ∧
    item1 (itemHub [2, 7, 0x1000, 0x20000] (fun t => { t with st := .running })) (fun t => decide (dOpcode t.desc = opFILL) && decide (t.left = 0) &&
      decide (t.pos + t.chunk < dLen t.desc) && decide (t.squash = none) && !(itemHub [2, 7, 0x1000, 0x20000] (fun t => { t with st := .running })).moverOver t.slice) = true ∧
    item1 (itemHub [2, 7, 0x1000, 64] (fun t => { t with st := .running, pos := 64 })) (fun t => decide (dLen t.desc ≤ t.pos) && !t.taken &&
      decide (t.bundle = none)) = true ∧
    (let h := itemHub [0x801, 0, 0x1000, 64, 4 * 2 ^ 32] (fun t => { t with st := .waitChan });
      item1 h (fun t => decide (t.st = .waitChan) && h.chanTurn 3 t && !h.flag (rCKC_EXPn 3 (dCkch t.desc)) fCKC_EXPn_ARM) = true ∧
      item1 h (fun t => !h.stoppedInst uCKC (dCkch t.desc) && (stop h uCKC 4).stoppedInst uCKC (dCkch t.desc)) = true ∧
      item1 h (fun t => (h.setF (rCKC_EXPn 3 4) fCKC_EXPn_ARM 1).flag (rCKC_EXPn 3 (dCkch t.desc)) fCKC_EXPn_ARM) = true) := by
  decide +kernel

theorem wit_CountersReachTheirTarget : hub0.acReached 3 63 0 = true ∧ hub0.acReached 3 63 1 = false ∧
    (hub0.setReg (rFAB_AC_n 3 63) 5).acReached 3 63 (BitVec.ofNat 64 (2 ^ 63 + 6)) = true ∧
    (hub0.setReg (rFAB_AC_n 3 63) 5).acReached 3 63 (BitVec.ofNat 64 (2 ^ 63 + 5)) = false := by decide +kernel

theorem wit_CountersAndChecksAreWritten :
    (qHub 1).isMgr .kelvy = true ∧ (qHub 1).checkOwner 4 = some 3 ∧ (qHub 1).flag (rCKC_RESn 3 4) fCKC_RESn_BUSY = false ∧
    (qHub 1).stoppedInst uCKC 4 = false ∧ (stop (qHub 1) uCKC 4).stoppedInst uCKC 4 = true ∧
    (qHub 1).checkOwner 5 ≠ some 3 ∧ ((qHub 1).setF (rCKC_RESn 3 4) fCKC_RESn_BUSY 1).flag (rCKC_RESn 3 4) fCKC_RESn_BUSY = true := by decide +kernel

/-! ## Host requests and memory -/

/-- Host link 0 is up with one virtual function, which holds slice 3; Kelvy runs. -/
def hostHub : Hub :=
  (((((qHub 1).setF (rHOST_LINK_STS 0) fHOST_LINK_STS_STATE 2).setF (rHOST_LINK_STS 0) fHOST_LINK_STS_VF_EN 1).setF (rHOST_LINK_STS 0)
    fHOST_LINK_STS_NUMVFS 1).setF rKLV_BOOT fKLV_BOOT_STAGE 6).setF (rHOST_APn 3 0) fHOST_APn_EN 1

theorem wit_HostRequestsGoWhereTheirBarLeads :
    hub0.fnThere (.pf 0) = false ∧ hostHub.fnThere (.pf 0) = true ∧ hostHub.fnThere (.vf 0 0) = true ∧ (hostHub.hostWhere (.pf 0) 0 0 .read [] .clean).2 = hostHub ∧ hostHub.reqs = [] ∧ 0xFF8 % 4096 + 8 ≤ 4096 ∧
    (hostHub.hostWhere (.pf 0) 2 (2 ^ 42) .read [] .clean).1 = .refused ∧ (hostHub.hostWhere (.pf 0) 2 (2 ^ 42) .write [] .clean).1 = .refused ∧
    (hostHub.hostWhere (.vf 0 0) 2 0 .read [] .clean).1 = .xlate 3 0 ∧
    (hostHub.hostWhere (.pf 0) 0 0 .read [] .clean).1 = .register 0x3F000000000 ∧
    (readBytes {} { hostHub with nextId := hostHub.nextId + 1 } (fnOrigin (.pf 0)) 0x3F000000000 8).isSome = true ∧
    (hostHub.hostWhere (.pf 0) 0 0xF00 .read [] .clean).1 = .register 0x3F000000F00 ∧
    readBytes {} { hostHub with nextId := hostHub.nextId + 1 } (fnOrigin (.pf 0)) 0x3F000000F00 8 = none ∧
    (hostHub.hostWhere (.pf 0) 2 64 .write [] .clean).1 = .memory 64 0 0 true ∧ hostHub.beatsOnly 64 = false ∧
    (hostHub.hostWhere (.pf 0) 2 64 (.atomic (hostAop .cas) 1 2) [] .clean).1 = .memory 64 0 0 true ∧
    (hostHub.hostWhere (.pf 0) 0 0 (.atomic (hostAop .swap) 1 2) [] .clean).1 = .register 0x3F000000000 ∧
    (writeReg {} { hostHub with nextId := hostHub.nextId + 1 } (fnOrigin (.pf 0)) rMEM_ECC_CFG .w64 7).2.out = .regOk :: hostHub.out ∧
    ¬ (SITE_BASE ≤ 64 % 2 ^ 42 ∧ 64 % 2 ^ 42 < SITE_END) := by decide +kernel

theorem wit_MemoryReadsBackWhatWasWritten : hub0.regionOf 0x103F = none ∧ 0x103F % 64 + 1 ≤ 64 ∧ 0x1000 % 64 + 64 ≤ 64 := by decide +kernel

/-- Channel 0 is active, and slice 3 holds granule 0. -/
def memHub : Hub := (withSlice hub0 3 { ranges := [{ first := 0, count := 1, igrp := 0 }] } 1).setF (rMEM_CH_STS 0) fMEM_CH_STS_STATE chACTIVE

/-- Request 1 of slice 3 to address 0 or to another, in a stage. -/
def memReq (pa : Nat) (stage : ReqStage) (slice : Nat := 3) (mgmt : Bool := false) : Req :=
  { src := .cell 5 1 0, slice := slice, mgmt := mgmt, kind := .read, pa := pa, len := 8, stage := stage }

theorem wit_ControllersServeTheirChannels :
    (let h := { memHub with reqs := [(1, memReq 0 .flight)] };
      h.req 1 = some (memReq 0 .flight) ∧ h.halted = false ∧ h.ownerOk false 3 0 = true ∧ h.decode 0 = some (0, 0) ∧ h.chState 0 ≠ chRETIRED ∧
      h.chState 0 ≠ chABSENT ∧ h.stoppedInst uMEM 0 = false ∧ (stop h uMEM 0).stoppedInst uMEM 0 = true ∧ h.crossing 1 = false ∧
      h.behind 1 (memReq 0 .flight) 0 7 Req.coming = false ∧
      ({ h with reqs := (0, memReq 0 .flight) :: h.reqs } : Hub).behind 1 (memReq 0 .flight) 0 7 Req.coming = true ∧
      ({ h with fifos := [(fifoKey .memory 0 true, { inside := [1] })] } : Hub).crossing 1 = true) ∧
    memHub.ownerOk false 4 0 = false ∧ memHub.ownerOk true 4 0 = false ∧
    (let h : Hub := { memHub with forme := { memHub.forme with igroups := [{ igrp := 0, stride := 2, first := 0, count := 1, chans := [0] }] } };
      h.decode 0 = some (0, 0) ∧ (h.setF (rMEM_CH_STS 0) fMEM_CH_STS_STATE chRETIRED).chState 0 = chRETIRED) ∧
    (memHub.setF (rMEM_VIOL_INFOn 0) fMEM_VIOL_INFOn_VALID 1).flag (rMEM_VIOL_INFOn 0) fMEM_VIOL_INFOn_VALID = true ∧
    hub0.chState 0 ≠ chACTIVE ∧ memHub.pickMaster 0 = none ∧ memHub.sweepWants 0 = false ∧ (memHub.setF rUMB_STS fUMB_STS_HALT 1).halted = true ∧
    (let h (adm : Bool) : Hub := ({ memHub with reqs := [(1, { memReq 0 .queued with admitted := adm })] } : Hub).setChan 0 { queues := [(12, [1])] };
      let h1 (adm : Bool) : Hub := { h adm with credits := [(12, 64)] };
      (h1 true).halted = false ∧ (h1 true).chState 0 = chACTIVE ∧ (h1 true).sweepWants 0 = false ∧ ((h1 true).pickMaster 0).map (·.1) = some 12 ∧
      ((h1 true).heads 0).find? (fun e => e.1 == 12) = some (12, 1, { memReq 0 .queued with admitted := true }) ∧
      ((h1 false).pickMaster 0).map (·.1) = some 12) ∧
    (memReq 0 .queued).kind = .read ∧ ({ memReq 0 .queued with kind := .write } : Req).kind = .write := by decide +kernel

theorem wit_CellWindowsAnswerTheirSlice :
    (let h : Hub := { ownHub [.nop] with reqs := [(1, memReq (CELL_BASE + 5 * 0x20000) .window)] };
      (h.req 1).map (fun q => (q.stage, windowOf (q.pa % 2 ^ 42))) = some (.window, some (5, 0)) ∧ h.halted = false ∧
      h.windowSays false 3 5 0 false = .served ∧ h.windowSays false 4 5 0 false = .refused ∧ h.cellOwner 5 ≠ some 4 ∧
      (h.setF (rARR_STAT 0) fARR_STAT_MODE 1).windowSays false 3 5 0 false = .waits ∧
      (memReq (CELL_BASE + 5 * 0x20000) .window).pickPiece 0 = some 0 ∧
      (memReq (CELL_BASE + 5 * 0x20000) .window).pieces.getD 0 (0, 0) = (0, 8) ∧ (memReq 0 .window).hdr = [] ∧
      h.behind 1 (memReq (CELL_BASE + 5 * 0x20000) .window) 0 7 Req.open_ = false ∧
      ({ h with reqs := (0, memReq (CELL_BASE + 5 * 0x20000) .flight) :: h.reqs } : Hub).behind 1 (memReq (CELL_BASE + 5 * 0x20000) .window) 0 7 Req.open_ = true ∧
      (memReq 0 .window).since + h.fabLimit ≤ h.fabLimit ∧ h.now < (memReq 0 .window).since + h.fabLimit ∧
      (memReq 0 .window).src = .cell 5 1 0 ∧ ({ memReq 0 .window with src := .item 1 0 } : Req).mgmt = false) := by decide +kernel

theorem wit_MetersGiveCreditAndFactors :
    (memHub.forme.slices.map (·.1)).Nodup ∧ (memHub.forme.igroups.map (·.igrp)).Nodup ∧ (∀ e ∈ memHub.forme.slices, e.1 < 4096) ∧
    memHub.stoppedInst uMTR 6 = false ∧ memHub.chState 0 ≠ chABSENT := by decide +kernel

theorem wit_ChannelsAreManaged :
    memHub.isMgr .kelvy = true ∧ memHub.chState 0 = chACTIVE ∧ memHub.chState 0 ≠ chRETIRED ∧ memHub.chState 0 ≠ chABSENT ∧
    (hub0.setF (rMEM_CH_STS 0) fMEM_CH_STS_STATE chACTIVE).forme.slices = [] ∧ ((hub0.setF (rMEM_CH_STS 0) fMEM_CH_STS_STATE chACTIVE).chan 0).queues = [] ∧
    (let h := hub0.setF (rMEM_CH_STS 767) fMEM_CH_STS_STATE chRETRAINING;
      h.chState (767 : ChanId) = chRETRAINING ∧ (h.chan 767).trainFails < 2 ∧ 2 ≤ ((h.updChan 767 (fun x => { x with trainFails := 2 })).chan 767).trainFails) := by
  decide +kernel

/-- A manager, and a hub with channel 3 active. -/
def chHub : Hub := hub0.setF (rMEM_CH_STS 3) fMEM_CH_STS_STATE chACTIVE

theorem wit_HeatAndFaultyRowsAreHandled :
    (hub0.setF (rMEM_STKn 23) fMEM_STKn_PRESENT 1).flag (rMEM_STKn 23) fMEM_STKn_PRESENT = true ∧ hub0.flag (rMEM_STKn 23) fMEM_STKn_PRESENT = false ∧
    hub0.junctionHot = false ∧ mapGetD ({ hub0 with sensors := [(9, 114)] } : Hub).sensors 9 0 < 115 ∧ mapGetD ({ hub0 with sensors := [(9, 100)] } : Hub).sensors 9 0 ≤ 100 ∧
    (chHub.halted = false ∧ chHub.chState 3 = chACTIVE ∧ (chHub.chan 3).lost.contains 7 = false ∧ chHub.isMgr .kelvy = true ∧
      chHub.remapJob = none ∧ (3 : Word).toNat % 1024 < 768 ∧ chHub.chState ((3 : Word).toNat % 1024) = chACTIVE ∧ chHub.patrolDue 3 = true ∧ chHub.stoppedInst uMEM (3 / 32) = false ∧ chHub.bankBusy 3 5 = false ∧
      (chHub.updChan 3 (fun x => { x with patrolAt := some 0 })).patrolDue 3 = false) ∧
    ({ chHub with remapJob := some (3, false) } : Hub).remapJob.isSome = true ∧
    (let r := (1 : Fin 2).val + (63 : RegionId).val * 2 + (65535 : QueueId).val * 128;
      65536 ≤ mapGetD ((chHub.updChan 3 (fun k => { k with rows := [(r, 65536)] })).chan 3).rows r 0) ∧
    (let h := chHub.setF rMEM_ECC_CFG fMEM_ECC_CFG_ROW_CE_THR 3;
      mapGetD (h.chan 3).rows 5 0 < 65536 ∧ mapGetD (h.chan 3).rows 5 0 < h.fld rMEM_ECC_CFG fMEM_ECC_CFG_ROW_CE_THR) ∧
    (List.range 8192).find? (fun i => decide (hub0.fld (rMEM_REMAPi i) fMEM_REMAPi_STATE = 0)) = some 0 ∧ (hub0.chan 3).lost.length ≤ 64 ∧
    (let h := (chHub.setF (rMEM_TG_RANGE 3) fMEM_TG_RANGE_FIRST 25165823).setF (rMEM_TG_RANGE 3) fMEM_TG_RANGE_LINES 1;
      let v : Word := setFld (setFld 0 fMEM_TG_CTL_MODE 2) fMEM_TG_CTL_PATTERN 4;
      h.chState 3 = chACTIVE ∧ h.chanInUse 3 = false ∧ h.flag (rMEM_TG_CTL 3) fMEM_TG_CTL_BUSY = false ∧ vFld v fMEM_TG_CTL_MODE ≠ 3 ∧
      vFld v fMEM_TG_CTL_PATTERN ≤ 4 ∧ 0 < h.fld (rMEM_TG_RANGE 3) fMEM_TG_RANGE_LINES ∧
      h.fld (rMEM_TG_RANGE 3) fMEM_TG_RANGE_FIRST + h.fld (rMEM_TG_RANGE 3) fMEM_TG_RANGE_LINES ≤ 25165824 ∧
      h.fld (rMEM_TG_CTL 3) fMEM_TG_CTL_MODE ≠ 3 ∧ h.fld (rMEM_TG_CTL 3) fMEM_TG_CTL_PATTERN ≤ 4) ∧
    memHub.chanInUse 0 = true ∧
    (let h := (chHub.setF (rMEM_TG_CTL 3) fMEM_TG_CTL_BUSY 1).setF (rMEM_TG_CTL 3) fMEM_TG_CTL_MODE 2;
      h.flag (rMEM_TG_CTL 3) fMEM_TG_CTL_BUSY = true ∧ h.halted = false ∧ h.fld (rMEM_TG_CTL 3) fMEM_TG_CTL_MODE = 2 ∧
      h.flag (rMEM_TG_CTL 3) fMEM_TG_CTL_LOOP = false) := by decide +kernel

/-! ## Translation -/

/-- Slice 3 with granules 0 to 3, a virtual function, and context 2 enabled. -/
def txHub : Hub := withSlice hub0 3 { ctxEn := 4, ranges := [{ first := 0, count := 4, igrp := 0 }], vfPort := 1, vfIndex := 5 } 1

/-- An unanswered fault of slice 3. -/
def fault3 : XFault :=
  { slice := 3, ctxid := ctxid 3 2, reason := rsNOT_VALID, va := 0, access := 0, entry := 0, level := 0, fid := some 8 }

theorem wit_TranslationFaultsAreAnswered :
    txHub.isMgr .kelvy = true ∧
    (let h := { txHub with xfaults := [fault3] };
      h.xfaults.find? (fun x => decide (x.slice = 3) && decide (x.fid = some (vFld (setFld 0 fHTU_FQ_RESP_FAULT_ID 8) fHTU_FQ_RESP_FAULT_ID))) = some fault3 ∧
      (∀ x ∈ h.xfaults, x.slice = 3 → x.fid ≠ some (vFld (setFld 0 fHTU_FQ_RESP_FAULT_ID 9) fHTU_FQ_RESP_FAULT_ID)) ∧
      (∀ x ∈ h.xfaults, x.slice = 3 → x.fid ≠ none) ∧ h.now < fault3.since + h.fqTimeout 3 ∧
      fault3.since + h.fqTimeout 3 ≤ ({ h with now := h.fqTimeout 3 } : Hub).now) ∧
    txHub.fld (rHTU_FQ_CTL 3) fHTU_FQ_CTL_TIMEOUT = 0 ∧ txHub.flag (rHTU_FQ_CTL 3) fHTU_FQ_CTL_EN = false ∧
    (let v : Word := setFld (setFld 0 fHTU_FQ_BASE_LOG2 8) fHTU_FQ_BASE_ADDR 1;
      vFld v fHTU_FQ_BASE_LOG2 ≤ 8 ∧ txHub.inGranules 3 (vFld v fHTU_FQ_BASE_ADDR * 4096) (32 * 2 ^ (vFld v fHTU_FQ_BASE_LOG2 + 4)) = true) ∧
    8 < vFld (setFld 0 fHTU_FQ_BASE_LOG2 9) fHTU_FQ_BASE_LOG2 ∧ (txHub.setF (rHTU_FQ_CTL 3) fHTU_FQ_CTL_EN 1).flag (rHTU_FQ_CTL 3) fHTU_FQ_CTL_EN = true ∧
    10000 < vFld (setFld 0 fHTU_FQ_CTL_TIMEOUT 10001) fHTU_FQ_CTL_TIMEOUT ∧
    (let v : Word := setFld (setFld 0 fHTU_FQ_CTL_TIMEOUT 10000) fHTU_FQ_CTL_EN 1;
      vFld v fHTU_FQ_CTL_TIMEOUT ≤ 10000 ∧ vFlag v fHTU_FQ_CTL_EN = true ∧
      txHub.changes (rHTU_FQ_CTL 3) [fHTU_FQ_CTL_EN, fHTU_FQ_CTL_VECTOR, fHTU_FQ_CTL_TIMEOUT] v = true) ∧
    txHub.isMgr (.vf 1 5) = false ∧
    (let h := ((txHub.setF (rHOST_LINK_STS 2) fHOST_LINK_STS_STATE 2).setF (rHOST_LINK_STS 2) fHOST_LINK_STS_VF_EN 1).setF
        (rHOST_LINK_STS 2) fHOST_LINK_STS_NUMVFS 6;
      h.vfOf (.vf 1 5) = some 3 ∧ h.isMgr (.vf 1 5) = false) := by decide +kernel

/-- A walk of slice 3 with the tables of its context at granule 2; the entries that bring it down a level, to a leaf, and to a fault. -/
def walkHub (started : Bool) (va : Nat) (valid : Nat) : Hub :=
  let h := ((txHub.setF (rHTU_CTX_CFGn 3 2) fHTU_CTX_CFGn_VALID valid).setF (rHTU_CTX_CFGn 3 2) fHTU_CTX_CFGn_LOC 1)
  { h with walks := [(1, { slice := 3, ctx := 2, va := va, kind := .read, who := 0, started := started, lv := 1, table := 0x1000 })] }

theorem wit_WalksDescendToTheirLeaf :
    (let h := walkHub false 0 1;
      (mapGet h.walks 1).map (fun x => (x.started, x.slice)) = some (false, 3) ∧ h.halted = false ∧ h.walkerMay 3 = true ∧
      h.stoppedInst uHTU 0 = false ∧ h.ctxValid (ctxid 3 2) = true ∧ canonOk (h.ctxFmt (ctxid 3 2)) 0 = true ∧ canonOk (h.ctxFmt (ctxid 3 2)) (2 ^ 63) = false) ∧
    (walkHub false 0 0).ctxValid (ctxid 3 2) = false ∧
    ({ walkHub false 0 1 with walks := (List.range 96).map (fun i => (i, { slice := 3, ctx := 2, va := 0, kind := .read, who := 0, started := true })) } :
      Hub).walkerMay 3 = false ∧
    (let h := walkHub true 0 1;
      let f := h.ctxFmt (ctxid 3 2);
      (mapGet h.walks 1).map (fun x => x.started) = some true ∧
      (h.tableRead (ctxid 3 2) 0x1000 0 none .clean).1 = .failed ∧ (h.tableRead (ctxid 3 2) 0x1000 0 (some 0) .clean).1 = .entry 0 ∧
      (let g := (h.setF (rHTU_CTX_CFGn 3 2) fHTU_CTX_CFGn_LOC 0).setF (rMEM_CH_STS 0) fMEM_CH_STS_STATE chRETRAINING;
        (g.tableRead (ctxid 3 2) 0x1000 0 none .clean).1 = .blocked) ∧
      walkEntry f 1 0 = .fault rsNOT_VALID ∧ walkEntry f 1 (0x11 + 5 * 2 ^ 10) = .down 0x5000 ∧
      walkEntry f 1 (0x17 + 512 * 2 ^ 10) = .leaf 0x200000 21 ∧
      (mkLeaf f (ctxid 3 2) 0 0x200000 21 1 (0x17 + 512 * 2 ^ 10)).pa < 2 ^ 51) := by decide +kernel

theorem wit_ContextsAndFormatsAreWrittenAndReset :
    (let v : Word := setFld 0 fHTU_CTX_CFGn_VALID 1;
      txHub.flag (rHTU_CTX_CFGn 3 2) fHTU_CTX_CFGn_VALID = false ∧ vFlag v fHTU_CTX_CFGn_VALID = true ∧ txHub.ctxSetOk 3 2 v = true ∧
      txHub.ctxSetOk 3 15 v = false ∧
      (let h := txHub.setF (rHTU_CTX_CFGn 3 2) fHTU_CTX_CFGn_VALID 1;
        h.flag (rHTU_CTX_CFGn 3 2) fHTU_CTX_CFGn_VALID = true ∧ vFlag 0 fHTU_CTX_CFGn_VALID = false ∧
        h.changes (rHTU_CTX_CFGn 3 2) [fHTU_CTX_CFGn_FMT, fHTU_CTX_CFGn_LOC, fHTU_CTX_CFGn_PASID] 0 = false)) ∧
    (let h := (txHub.setF (rHTU_CTX_CFGn 3 2) fHTU_CTX_CFGn_VALID 1).setF (rHTU_CTX_CFGn 3 2) fHTU_CTX_CFGn_FMT 7; h.fmtInUse 7 = true) ∧
    txHub.fmtInUse 1 = false ∧ txHub.fmtInUse 7 = false ∧
    (let v : Word := 0x80000000000f9384;
      let h := txHub.setReg (rHTU_FMT_POS 7) 0x2c0a070600020100;
      vFlag v fHTU_FMT_CTL_VALID = true ∧ fmtCtlOk v (txHub.reg (rHTU_FMT_POS 7)) = false ∧ fmtCtlOk v (h.reg (rHTU_FMT_POS 7)) = true ∧ h.fmtInUse 7 = false) ∧
    (let w (c : Nat) : Word := setFld (setFld 0 fSLM_CTX_RESET_CTX c) fSLM_CTX_RESET_GO 1;
      txHub.active 3 = true ∧ txHub.flag (rSLM_CTX_RESET 3) fSLM_CTX_RESET_BUSY = false ∧ txHub.ctxOn 3 (vFld (w 2) fSLM_CTX_RESET_CTX) = true ∧
      txHub.ctxOn 3 (vFld (w 3) fSLM_CTX_RESET_CTX) = false ∧ (txHub.setF (rSLM_CTX_RESET 3) fSLM_CTX_RESET_BUSY 1).flag (rSLM_CTX_RESET 3) fSLM_CTX_RESET_BUSY = true) ∧
    (let t : Item := { queue := 9, seq := 0, slice := some 3, ctx := 2, gen := 5, desc := mkDesc [1, 0, 0x1000, 64], st := .running };
      let h := { txHub.updRt 3 (fun r => { r with ctxReset := some 2 }) with items := [(1, t)] };
      (h.rt 3).ctxReset = some 2 ∧ t.isMover = true ∧ t.started = true ∧ t.gen ≠ h.gen (ctxid 3 2) ∧
      (txHub.updRt 3 (fun r => { r with ctxReset := some 2 })).items = [] ∧
      h.ctxCutLeft 3 2 = false ∧
      ((withSlice hub0 3 { ctxEn := 4, queues := [(9, 2)] } 1).setQrt 9 { cut := (4, 1) }).ctxCutLeft 3 2 = true) := by decide +kernel

theorem wit_InvalidationsDropAndDrain :
    (let v (c n : Nat) : Word := setFld (setFld (setFld (setFld 0 fHTU_INV_CTL_GO 1) fHTU_INV_CTL_CTX c) fHTU_INV_CTL_RANGE 1) fHTU_INV_CTL_COUNT n;
      vFlag (v 2 1) fHTU_INV_CTL_GO = true ∧ txHub.flag (rHTU_INV_STS 3) fHTU_INV_STS_BUSY = false ∧
      txHub.ctxOn 3 (vFld (v 2 1) fHTU_INV_CTL_CTX) = true ∧ txHub.ctxOn 3 (vFld (v 0 1) fHTU_INV_CTL_CTX) = false ∧
      vFlag (v 2 0) fHTU_INV_CTL_RANGE = true ∧ vFld (v 2 0) fHTU_INV_CTL_COUNT = 0 ∧ vFld (v 2 1) fHTU_INV_CTL_COUNT ≠ 0) ∧
    (txHub.setF (rHTU_INV_STS 3) fHTU_INV_STS_BUSY 1).flag (rHTU_INV_STS 3) fHTU_INV_STS_BUSY = true ∧
    (let v : Inval := { slice := 3, ctx := 2, range := none, started := true };
      let h := { txHub with invals := [v] };
      h.invals = [v] ∧ v.started = true ∧ v.items = [] ∧ v.reqs = [] ∧ v.irq = false ∧ h.invalLate v = [] ∧ h.invalEnds v = true ∧ ({ v with started := false } : Inval).started = false ∧
      (h.slD 3).queueIds = []) ∧
    (let v : Inval := { slice := 3, ctx := 2, range := none, started := true, reqs := [1] };
      ({ txHub with invals := [v], reqs := [(1, memReq 0 .flight)] } : Hub).invalEnds v = false ∧
      ({ txHub with invals := [v], reqs := [(1, memReq 0 .flight)] } : Hub).invalLate v = []) := by decide +kernel

/-! ## Umbra -/

/-- Sealed region 6, granules 0 and 1, its metadata in granule 2, with a piece of request 1 at address 0. -/
def seal6 : SealedRec := { region := 6, first := 0, count := 2, metaFirst := 2, metaCount := 1, sweepH := 1 }

def sealHub (state : Nat) (k : ReqKind := .read) (rt : SealRt := {}) : Hub :=
  let q : Req := { memReq 0 .sealedGo with kind := k, len := 64, data := zeros 64 }
  let g : IGroup := { igrp := 6, stride := 2, first := 0, count := 4, chans := [0] }
  let h : Hub := { memHub with
    reqs := [(1, q)]
    seals := [(6, rt)]
    forme := { memHub.forme with sealedRegs := [seal6], igroups := [g] } }
  h.setF (rUMB_REG_STS 6) fUMB_REG_STS_STATE state

/-- The sealed line has been written, and its node is held; its node is written back, and dirty again. -/
def fresh6 : SealRt := { cur := { ctrs := [(0, 5)] } }
def dirty6 : SealRt := { cur := { ctrs := [(0, 5), (ctrKey 1 0, 1)], dirty := [(0, 0)] } }

/-- The sealed line's MAC line stands in the node cache. -/
def macHub (state : Nat) : Hub := { sealHub state .read fresh6 with nodeCache := [(6, 0, 15, 0)], reqs := [] }

/-- Of two MACs one differs from any. -/
theorem mac_differs (x : List Byte) : ∃ m ∈ [zeros 8, 1 :: zeros 7], x ≠ m := by
  by_cases e : x = zeros 8
  · exact ⟨_, List.mem_cons_of_mem _ (List.mem_singleton_self _), by subst e; decide⟩
  · exact ⟨_, List.mem_cons_self .., e⟩

theorem wit_SealedAccessesAreVerified_line : ∃ m ∈ [zeros 8, 1 :: zeros 7], (sealHub 1 .read fresh6).lineGood seal6 false 0 0 (.lineMac (zeros 64) m false) = false := by
  obtain ⟨m, hm, e⟩ := mac_differs (((sealHub 1 .read fresh6).side 6 false).lineMac 6 0 (((sealHub 1 .read fresh6).side 6 false).ctr 0 0) (zeros 64))
  refine ⟨m, hm, decide_eq_false ?_⟩
  rw [if_neg (by decide)]
  exact e

theorem wit_SealedAccessesAreVerified_node : ∃ m ∈ [zeros 8, 1 :: zeros 7],
    (sealHub 1 .read dirty6).nodeGood seal6 false 0 0 (.nodeMac 0 0 (zeros 56 ++ m) false) = false := by
  obtain ⟨m, hm, e⟩ := mac_differs (((sealHub 1 .read dirty6).side 6 false).nodeMac 6 0 0 (((sealHub 1 .read dirty6).side 6 false).ctr 1 0) (zeros 56))
  refine ⟨m, hm, decide_eq_false ?_⟩
  rcases List.mem_cons.1 hm with rfl | hm
  · exact e
  · rcases List.mem_singleton.1 hm with rfl
    exact e

/-- The node of the sealed line stands in its bank, with a MAC. -/
def nodeHub (m : List Byte) : Hub :=
  let h := { sealHub 2 .read dirty6 with reqs := [] }
  h.hbmSet (h.nodeAddr seal6 false 0 0) (zeros 56 ++ m)

theorem wit_SweepsMoveRegionsToFreshKeys_node : ∃ m ∈ [zeros 8, 1 :: zeros 7], ∃ a, (nodeHub m).pathSays seal6 false 0 true .ok = .halt a 1 := by
  obtain ⟨m, hm, e⟩ := mac_differs ((dirty6.cur).nodeMac 6 0 0 (dirty6.cur.ctr 1 0) (zeros 56))
  have hb : (nodeHub m).nodeRead seal6 false 0 0 .ok = zeros 56 ++ m ∧ (nodeHub m).pathFetch seal6 false 0 = [0] ∧
      (nodeHub m).side 6 false = dirty6.cur := by
    rcases List.mem_cons.1 hm with rfl | hm
    · decide +kernel
    · rcases List.mem_singleton.1 hm with rfl
      decide +kernel
  have hg : (nodeHub m).nodeGood seal6 false 0 0 .ok = false := by
    unfold Hub.nodeGood
    rw [hb.1, show seal6.region = 6 from rfl, hb.2.2]
    refine decide_eq_false ?_
    rcases List.mem_cons.1 hm with rfl | hm
    · exact e
    · rcases List.mem_singleton.1 hm with rfl
      exact e
  exact ⟨m, hm, (nodeHub m).nodeAddr seal6 false 0 0, by simp [Hub.pathSays, hb.2.1, hg]⟩

theorem wit_SealedAccessesAreVerified :
    (sealHub 1).sealPiece 1 0 = some { q := { memReq 0 .sealedGo with len := 64, data := zeros 64 }, r := seal6, p := 0, off := 0, n := 64, a := 0 } ∧
    ((sealHub 1 .write).sealPiece 1 0).isSome = true ∧ (sealHub 1).lineLost 6 (lineIdx seal6 0) = false ∧
    ((sealHub 1).setF (rUMB_REG_STS 6) fUMB_REG_STS_LOST_ALL 1).lineLost 6 (lineIdx seal6 0) = true ∧
    (stop (sealHub 1) uUMB ((sealHub 1).ctrlOf 0)).stoppedInst uUMB ((sealHub 1).ctrlOf 0) = true ∧
    (sealHub 1 .read fresh6).pathFetch seal6 false 0 = [] ∧ (sealHub 1 .read dirty6).pathFetch seal6 false 0 = [0] ∧
    ((macHub 1).sealSays seal6 false 0 0 true .ok .clean = .pass ∧ (macHub 1).lineGood seal6 false 0 0 .ok = true) ∧
    (sealHub 1 .read fresh6).sealSays seal6 false 0 0 true .dataUncorrected .clean = .dataLost ∧
    (sealHub 1 .read fresh6).pathSays seal6 false 0 true (.lineMac (zeros 64) (zeros 8) false) = .pass ∧
    (sealHub 1 .read dirty6).sealSays seal6 false 0 0 true (.nodeUncorrected 0 0) .clean = .lost 0 0 ∧
    (sealHub 1 .read dirty6).sealedRec 6 = some seal6 ∧ (sealHub 1).halted = false ∧ (sealHub 1 .read dirty6).dirtySide 6 0 0 = some false ∧
    (sealHub 2 .read { nxt := { dirty := [(0, 0)] } }).dirtySide 6 0 0 = some true ∧
    ((sealHub 1 .read dirty6).side 6 false).ctr 1 0 + 1 < 2 ^ 55 ∧ Memory.wf (sealHub 1 .read dirty6) = true ∧
    (∀ n < 64, (sealHub 1 .read dirty6).regionOf ((sealHub 1 .read dirty6).nodeAddr seal6 false 0 0 + n) = none) ∧
    (let h := sealHub 1 .write { cur := { ctrs := [(ctrKey 0 0, 2 ^ 56 - 1)] } };
      2 ^ 56 ≤ (h.side 6 (h.onNewSide 6 (lineIdx seal6 0))).ctr 0 (lineIdx seal6 0) + 1) := by decide +kernel

theorem wit_SweepsMoveRegionsToFreshKeys :
    (sealHub 1).isMgr .kelvy = true ∧ (sealHub 1).sealedRec 6 = some seal6 ∧ (sealHub 1).regState 6 = 1 ∧ (sealHub 1).sealedRec 5 = none ∧
    (sealHub 2).regState 6 ≠ 1 ∧
    (let h := { sealHub 1 with now := psHour };
      h.sweepDueAt seal6 = some psHour ∧ psHour ≤ h.now ∧ (h.seal 6).dueAt = none) ∧
    ({ seal6 with sweepH := 0xFFFF } : SealedRec).sweepH = 0xFFFF ∧
    (let h := (macHub 2).setF (rMEM_CH_STS 0) fMEM_CH_STS_AVAIL 256;
      h.regState 6 = 2 ∧ h.sweepPaused seal6 = false ∧ h.stepBusy seal6 0 = false ∧ h.stoppedInst uUMB (h.ctrlOf 0) = false ∧
      h.lineLost 6 0 = false ∧ h.stepLines seal6 0 = [0] ∧ h.pathSays seal6 false 0 true .ok = .pass ∧
      (∀ j ∈ h.stepLines seal6 0, h.stepSays seal6 0 0 j .ok .clean = .pass)) ∧
    (let h := (sealHub 3).updSeal 6 (fun k => { k with dueAt := some 5, queuedAt := some 7 });
      h.regState 6 = 3 ∧ (h.seal 6).lateRaised = false ∧ (h.seal 6).dueAt = some 5 ∧ (h.seal 6).queuedAt = some 7 ∧ h.now < 5 + psHour) ∧
    (let h := { sealHub 2 with reqs := [] }.setF (rMEM_CH_STS 0) fMEM_CH_STS_AVAIL 256;
      h.regState 6 = 2 ∧ h.halted = false ∧ h.sweepPaused seal6 = false ∧ h.fld (rUMB_REG_SWEEP 6) fUMB_REG_SWEEP_BOUNDARY < sealLines seal6 ∧
      h.stepLines seal6 0 = [] ∧
      sealLines seal6 ≤ (h.setF (rUMB_REG_SWEEP 6) fUMB_REG_SWEEP_BOUNDARY (sealLines seal6)).fld (rUMB_REG_SWEEP 6) fUMB_REG_SWEEP_BOUNDARY ∧
      (h.igOf seal6.first).map (fun g => g.igrp) = some 6 ∧ (h.seal 6).lateRaised = false ∧ h.now < (h.seal 6).startedAt + psHour ∧
      (h.seal 6).startedAt + psHour ≤ ({ h with now := psHour } : Hub).now) ∧
    (let h := sealHub 3;
      let g : IGroup := { igrp := 6, stride := 2, first := 0, count := 4, chans := [0] };
      h.forme.igroups.find? (fun y => y.igrp == 6) = some g ∧ h.nextSweep g = some seal6 ∧ h.halted = false ∧ h.rngBad = false ∧ h.pwrState ≠ 3 ∧
      h.sweepIn g = false) ∧
    (let g : IGroup := { igrp := 6, stride := 2, first := 0, count := 4, chans := [0] };
      let h0 : Hub := sealHub 3;
      let h : Hub := ({ h0 with forme := { h0.forme with sealedRegs := [seal6, { seal6 with region := 7, first := 2, metaFirst := 3 }] } } : Hub).setF
        (rUMB_REG_STS 7) fUMB_REG_STS_STATE 2;
      h.sweepIn g = true ∧ h.nextSweep g = some seal6) := by decide +kernel

/-! ## Quire links -/

/-- Link 2 in a state, its queues as given; this hub is number 1, its peer and its own number are valid. -/
def lkHub (state : Nat) (k : LinkRt := {}) : Hub :=
  ((((({ hub0 with links := [(2, k)] } : Hub).setF (rQL_LINK_STS 2) fQL_LINK_STS_STATE state).setF (rQL_LINK_STS 2) fQL_LINK_STS_PEER_V 1).setF
    rTOP_HUB_ID fTOP_HUB_ID_VALID 1).setF rTOP_HUB_ID fTOP_HUB_ID_HUB_NUM 1).setF (rQL_LINK_CTL 2) fQL_LINK_CTL_EN (b2n (decide (1 < state)))

/-- A WRITE of two slots, and the block that carries it alone. -/
def frame1 : List Byte := thdrFrame 0 { op := 1, dstHub := 1, srcHub := 2, dstSlice := 3, srcSlice := 6, len := 2, addr := 0 } (zeros 64)
def block1 : List Byte := (lkHub 4).sealFrame 2 0 frame1 ++ zeros (640 - frame1.length)

theorem wit_LinksCarryBlocksAndControlFrames_sent :
    (lkHub lkTRAINING).lkState 2 = lkTRAINING ∧ (lkHub lkRETRAINING).lkState 2 = lkRETRAINING ∧ (lkHub 2).halted = false ∧
    (lkHub 4).lkRuns 2 = true ∧ (lkHub 3).lkRuns 2 = true ∧ (lkHub 6).lkRuns 2 = false ∧
    (let h := lkHub 4 { vc0 := [frame1], peerFreed := [100, 100, 100] };
      (h.link 2).resend = none ∧ h.dataBlock 2 = true ∧ (lkHub 4).dataBlock 2 = false ∧ ((lkHub 4).link 2).ctl = []) ∧
    ((lkHub 4 { resend := some 7 }).link 2).resend = some 7 := by decide +kernel

theorem wit_LinksCarryBlocksAndControlFrames_taken :
    (let hdr := blockHdr 0 5 (some 0);
      let hdr0 := blockHdr 0 0 (some 0);
      bits hdr.toNat 1 0 = 0 ∧ bits hdr.toNat 13 2 = 5 ∧
      (0 < (((lkHub 4 { rxSeq := 6 }).link 2).rxSeq + 4096 - 5) % 4096 ∧ (((lkHub 4 { rxSeq := 6 }).link 2).rxSeq + 4096 - 5) % 4096 < 2048) ∧
      2048 ≤ (((lkHub 4).link 2).rxSeq + 4096 - 5) % 4096 ∧ bits hdr0.toNat 13 2 = ((lkHub 4).link 2).rxSeq ∧
      (∀ e ∈ (rxFrames ((lkHub 4).link 2) true 0 0 (block1.take 96)).1, leAt e.2 4 4 = (lkHub 4).linkChk 2 e.1 e.2) ∧
      ((rxFrames ((lkHub 4).link 2) true 0 0 (block1.take 96)).1.map (·.1)) = [0] ∧
      ((rxFrames ((lkHub 4).link 2) true 0 0 frame1).1.find? (fun e => decide (leAt e.2 4 4 ≠ (lkHub 4).linkChk 2 e.1 e.2))).isSome = true) := by
  decide +kernel

theorem wit_LinksCarryBlocksAndControlFrames_control :
    (let h (t : Nat) : Hub := lkHub 4 { rxCtl := [controlFrame t []] };
      [0, 2, 3, 4, 5].all (fun t => decide (((h t).link 2).rxCtl.find? (fun f => frameType f == t) = some (controlFrame t []))) = true) ∧
    ((lkHub 4).link 2).rxCtl = [] ∧ (lkHub 3).lkState 2 = lkUPNONUM ∧ (lkHub 4).lkState 2 = lkUP ∧
    64 ≤ ((lkHub 4 { ackBlocks := 64 }).link 2).ackBlocks ∧ ((lkHub 4).link 2).lastAck + 200 * psNs ≤ ({ lkHub 4 with now := 200000 } : Hub).now ∧
    ((lkHub 4).link 2).ackBlocks < 64 ∧ (lkHub 4).now < ((lkHub 4).link 2).lastAck + 200 * psNs := by decide +kernel

/-- Slice 3, active, has a LINK entry for slice 6 of hub 2 and granule 0; a frame waits at the head of a virtual channel of link 2. -/
def inHub (vc : Nat) (f : List Byte) (state : Nat := 1) (links : List (Nat × Nat) := [(2, 6)]) : Hub :=
  let k : LinkRt := if vc = 0 then { rx0 := [f] } else { rx1 := [f] }
  ((withSlice (lkHub 4 k) 3 { links := links, ranges := [{ first := 0, count := 1, igrp := 0 }] } state)).setF (rMEM_CH_STS 0)
    fMEM_CH_STS_STATE chACTIVE

/-- A request frame of an opcode to slice 3 of hub 1. -/
def reqFr (op : Nat) (addr : Nat := 0) (dst : Nat := 1) : List Byte :=
  thdrFrame 0 { op := op, dstHub := dst, srcHub := 2, dstSlice := 3, srcSlice := 6, len := 2, addr := addr } (if op = 1 then zeros 64 else [])

theorem wit_RequestsOfOtherHubsAreCheckedInOrder :
    ([1, 2, 3].all (fun op => decide ((inHub 0 (reqFr op)).rxHead 2 0 = some (reqFr op)) && decide ((thdrOf (reqFr op)).op = op) &&
      decide ((thdrOf (reqFr op)).dstHub = (inHub 0 (reqFr op)).hubNum) && (inHub 0 (reqFr op)).lkValid 2 && !(inHub 0 (reqFr op)).halted)) = true ∧
    (lkHub 4).sl 3 = none ∧ ((inHub 0 (reqFr 1)).sl 3).isSome = true ∧ (2, 6) ∈ [((2 : Nat), (6 : Nat))] ∧ (2, 6) ∉ [((2 : Nat), (7 : Nat))] ∧
    (inHub 0 (reqFr 1) 4).active 3 = false ∧ (inHub 0 (reqFr 1)).active 3 = true ∧
    linkAddrOk 0 64 = true ∧ linkAddrOk (CELL_BASE + 5 * 0x20000) 8 = true ∧ linkAddrOk (CELL_BASE + 5 * 0x20000 + 0x14000) 8 = false ∧
    (thdrOf (reqFr 1 64)).addr = 64 ∧ (thdrOf (reqFr 1 (CELL_BASE + 0x14000))).addr = CELL_BASE + 0x14000 ∧
    ({ inHub 0 [] with reqs := [(7, { src := .remote 2, kind := .read, hdr := reqFr 2 })] } : Hub).req 7 =
      some { src := .remote 2, kind := .read, hdr := reqFr 2 } ∧
    (inHub 0 (reqFr 4)).pairRefused (thdrOf (reqFr 4)) = none ∧ (inHub 0 (reqFr 4) 1 []).pairRefused (thdrOf (reqFr 4)) = some 3 ∧
    (inHub 0 (reqFr 4) 4).pairRefused (thdrOf (reqFr 4)) = some 4 ∧
    (let f := reqFr 4; (inHub 0 f).rxHead 2 0 = some f ∧ (thdrOf f).op = 4) ∧
    (let f := reqFr 1 0 9;
      let h := ((inHub 0 f).setF (rQL_ROUTEh 9) fQL_ROUTEh_VALID 1).setF (rQL_ROUTEh 9) fQL_ROUTEh_LINK 2;
      (thdrOf f).dstHub ≠ h.hubNum ∧ h.lkValid 2 = true ∧ h.flag (rQL_ROUTEh (thdrOf f).dstHub) fQL_ROUTEh_VALID = true ∧
      h.lkState (h.fld (rQL_ROUTEh (thdrOf f).dstHub) fQL_ROUTEh_LINK) = lkUP ∧
      (inHub 0 f).flag (rQL_ROUTEh (thdrOf f).dstHub) fQL_ROUTEh_VALID = false) ∧
    ((inHub 0 (reqFr 1)).setF (rQL_LINK_STS 2) fQL_LINK_STS_PEER_V 0).lkValid 2 = false ∧
    (let f (last : Bool) (total : Nat) : List Byte := thdrFrame 0 { op := 1, srcHub := 2, ac := true, last := last, len := 2, btotal := total } (zeros 64);
      let b (h : Hub) : Bundle := mapGetD h.bundles (2 * 64) {};
      let mid : Hub := { lkHub 4 with bundles := [(2 * 64, { sum := 64, lastSeen := true, lastHdr := some (f true 128) })] };
      (thdrOf (f true 64)).ac = true ∧ (thdrOf (f true 64)).last = true ∧ (b (lkHub 4)).bad = 0 ∧ (thdrOf (f true 64)).btotal = 64 ∧
      (b (lkHub 4)).sum + 32 * (thdrOf (f true 64)).len = 64 ∧ (b (lkHub 4)).lastHdr = none ∧
      (thdrOf (f false 128)).ac = true ∧ (thdrOf (f false 128)).last = false ∧ (thdrOf (f false 128)).btotal = 128 ∧
      (b mid).lastSeen = true ∧ (b mid).bad = 0 ∧ (b mid).sum + 32 * (thdrOf (f false 128)).len = 128 ∧ (b mid).lastHdr = some (f true 128) ∧
      (b (lkHub 4)).sum + (b (lkHub 4)).bad + 32 * (thdrOf (f false 128)).len ≠ 128) := by decide +kernel

/-- A tag of slice 3 that is outstanding, or rests until a time. -/
def tag9 (free : Option Nat := none) : Tag := { req := none, hub := 2, slice := 3, ctx := 0, gen := 0, since := 0, freeAt := free }

/-- A response frame of an opcode for tag 9. -/
def rspFr (op : Nat) : List Byte := thdrFrame 1 { op := op, dstHub := 1, srcHub := 2, dstSlice := 3, srcSlice := 6, tag := 9 } []

theorem wit_ResponsesAnswerTheirTag :
    ([8, 9, 10, 11].all (fun op => decide ((inHub 1 (rspFr op)).rxHead 2 1 = some (rspFr op)) && decide ((thdrOf (rspFr op)).op = op) &&
      decide ((thdrOf (rspFr op)).dstHub = (inHub 1 (rspFr op)).hubNum))) = true ∧
    (let h := { inHub 1 (rspFr 8) with tags := [(9, tag9)] };
      mapGet h.tags (thdrOf (rspFr 8)).tag = some tag9 ∧ tag9.freeAt = none ∧ (thdrOf (rspFr 8)).gen = h.gen (ctxid tag9.slice tag9.ctx) ∧
      tag9.since + h.respTo ≤ ({ h with now := h.respTo } : Hub).now ∧ h.now < tag9.since + h.respTo) ∧
    (inHub 1 (rspFr 8)).tags = [] ∧ (tag9 (some 5)).freeAt = some 5 ∧
    (let q : Quiesce := { slice := 3, hub := 2, peer := 6, why := 0, since := 0 };
      let h := { inHub 1 (rspFr 11) with quiesces := [(4, q)] };
      h.quiesces.find? (fun e => decide (e.2.slice = (thdrOf (rspFr 11)).dstSlice) && decide (e.2.hub = (thdrOf (rspFr 11)).srcHub) &&
        decide (e.2.peer = (thdrOf (rspFr 11)).srcSlice)) = some (4, q) ∧ (thdrOf (rspFr 11)).status = 0 ∧
      (thdrOf (thdrFrame 1 { op := 11, status := 4 } [])).status = 4 ∧ mapGet h.quiesces 4 = some q ∧ h.now < q.since + 100 * psUs) := by
  decide +kernel

theorem wit_LinksComeUpRetrainAndGoDown :
    (lkHub 1).isMgr .kelvy = true ∧ (lkHub 1).lkState 2 = lkDISABLED ∧ (lkHub 0).lkState 2 = lkABSENT ∧
    (lkHub 1).flag (rQL_LINK_CTL 2) fQL_LINK_CTL_EN = false ∧ (lkHub 1).flag (rQL_LINK_CTL 2) fQL_LINK_CTL_RETRAIN = false ∧
    (lkHub 1).flag (rQL_LINK_CTL 2) fQL_LINK_CTL_DOWN = false ∧ (lkHub 4).flag (rQL_LINK_CTL 2) fQL_LINK_CTL_EN = true ∧
    (lkHub 4).flag (rQL_LINK_CTL 2) fQL_LINK_CTL_DOWN = false ∧ (lkHub 4).flag (rQL_LINK_CTL 2) fQL_LINK_CTL_RETRAIN = false ∧
    (lkHub 2).lkState 2 = lkTRAINING ∧ ((lkHub 2).link 2).bringFails < 2 ∧ 2 ≤ ((lkHub 2 { bringFails := 2 }).link 2).bringFails ∧
    (lkHub 2).now ≤ ((lkHub 2).link 2).enabledAt + 100 * psMs ∧
    ((lkHub 2).link 2).enabledAt + 100 * psMs < ({ lkHub 2 with now := 100 * psMs + 1 } : Hub).now ∧ (lkHub 5).lkState 2 = lkRETRAINING ∧ (lkHub 5).lkValid 2 = true ∧ (lkHub 4).linkTags 2 = [] ∧
    ((lkHub 4 { starved := [none, none, some 0] }).link 2).starved.getD 2 none = some 0 ∧ psMs ≤ ({ lkHub 4 with now := psMs } : Hub).now := by
  decide +kernel

/-! ## Chiplet sites -/

/-- Site 1 is up with 8 engines, engine 2 held by slice 3, which enables context 0. -/
def siteHub (k : SiteRt := {}) (state : Nat := 3) (own : Bool := true) : Hub :=
  let h := withSlice { hub0 with sites := [(1, k)] } 3 { siteEng := if own then [0, 4] else [] } 1
  (h.setF (rSITE_STS 1) fSITE_STS_STATE state).setF (rSITE_STS 1) fSITE_STS_ENGINES 8

/-- A packet of an opcode from engine 2, with its sequence number and check value. -/
def pkt (f : PktF) (data : List Byte) (seq : Nat := 0) : Packet := (siteHub).stampPacket 1 seq (mkPacket f data)

/-- Requests of the four opcodes. -/
def engReq (op : Nat) (ctx : Nat := 0) (seq : Nat := 0) : Packet :=
  let n := if op = 1 ∨ op = 2 then 2 else if op = 3 then 1 else 0
  pkt { op := op, engine := 2, ctx := ctx, len := n } (if op = 1 then zeros 64 else if op = 3 then zeros 32 else []) seq

theorem wit_EngineRequestsPassTheirChecks :
    siteHub.stState 1 = stUP ∧ siteHub.halted = false ∧
    ([1, 2, 3, 4].all (fun op => decide ((pktOf (engReq op)).op = op) && siteHub.siteChkOk 1 (engReq op) && decide (pktSeq (engReq op) = (siteHub.site 1).rxSeq) &&
      requestOk op (engReq op) && !requestOk op { engReq op with w2 := 1 })) = true ∧
    siteHub.siteChkOk 1 { engReq 1 with w3 := 0 } = false ∧
    (let h := siteHub { rxSeq := 6 }; pktSeq (engReq 1 0 5) ≠ (h.site 1).rxSeq ∧ ((h.site 1).rxSeq + 4096 - pktSeq (engReq 1 0 5)) % 4096 < 2048) ∧
    (pktSeq (engReq 1 0 5) ≠ (siteHub.site 1).rxSeq ∧ 2048 ≤ ((siteHub.site 1).rxSeq + 4096 - pktSeq (engReq 1 0 5)) % 4096) ∧
    (siteHub {} 3 false).engineOwner 1 2 = none ∧ siteHub.engineOwner 1 2 = some 3 ∧ siteHub.engineOpen 1 2 = true ∧
    (siteHub { closedEng := [2] }).engineOpen 1 2 = false ∧ siteHub.engineOut 1 2 < 16 ∧
    (let q (i : Nat) : Req := { memReq 0 .flight with src := .site 1 2 i };
      16 ≤ ({ siteHub with reqs := (List.range 16).map (fun i => (i, q i)) } : Hub).engineOut 1 2) ∧
    siteHub.ctxOn 3 0 = true ∧ siteHub.ctxOn 3 1 = false := by decide +kernel

/-- A response of an opcode for tag 9. -/
def rspPkt (op status : Nat) : Packet := pkt { op := op, tag := 9, status := status } (if op = 0x19 then zeros 64 else if op = 0x1A then zeros 32 else [])

theorem wit_SitesAnswerQuiesceAndComeUp_answers :
    (let w : WinReq := { req := some 1, engine := 2, since := 0 };
      let h : Hub := { siteHub { wins := [(9, w)] } with reqs := [(1, { memReq 0 (.siteWin 9) with len := 64 })] };
      ([(0x18, 0), (0x19, 0), (0x1A, 0)].all (fun p => decide ((pktOf (rspPkt p.1 p.2)).op = p.1) && h.siteChkOk 1 (rspPkt p.1 p.2) &&
        decide (pktSeq (rspPkt p.1 p.2) = (h.site 1).rxSeq))) = true ∧
      mapGet (siteHub.site 1).wins (pktOf (rspPkt 0x18 0)).tag = none ∧ mapGet (h.site 1).wins (pktOf (rspPkt 0x19 0)).tag = some w ∧
      (h.req 1).map (fun q => (winFits q (rspPkt 0x19 0), winFits q (rspPkt 0x19 2), winFits q (rspPkt 0x18 0))) = some (true, true, false) ∧
      (pktOf (rspPkt 0x19 2)).status ≠ 0 ∧ w.key = none ∧ ({ w with key := some 3 } : WinReq).key = some 3 ∧
      w.since + h.siteRespTo ≤ ({ h with now := h.siteRespTo } : Hub).now ∧ h.now < w.since + h.siteRespTo) ∧
    (let p := pkt { op := 0x1D, engine := 2 } [];
      let h := siteHub { closing := [(2, 0)] };
      (pktOf p).op = 0x1D ∧ h.siteChkOk 1 p = true ∧ pktSeq p = (h.site 1).rxSeq ∧ mapGet (h.site 1).closing (pktOf p).engine = some 0 ∧
      h.now < 0 + 100 * psUs) := by decide +kernel

theorem wit_SitesAnswerQuiesceAndComeUp_life :
    (let p := pkt { op := 0x1E, addr := 5 } [];
      let nak := pkt { op := 0x1E, addr := 5 + 4096 } [];
      (pktOf p).op = 0x1E ∧ siteHub.siteChkOk 1 p = true ∧ bit p.w1.toNat 12 = false ∧ bit nak.w1.toNat 12 = true ∧
      ((siteHub { replay := [(5, p)] }).site 1).replay.any (fun e => e.1 == bits nak.w1.toNat 11 0) = true ∧ (siteHub.site 1).replay = []) ∧
    (siteHub {} 1).stState 1 ≠ stUP ∧
    (let p := pkt { op := 0x1F, addr := 8 } [];
      (pktOf p).op = 0x1F ∧ (siteHub {} 2).stState 1 = stTRAINING ∧ (siteHub {} 4).stState 1 = stRETRAINING ∧ (siteHub {} 2).siteChkOk 1 p = true ∧
      pktSeq p = ((siteHub {} 2).site 1).rxSeq) ∧
    (let h := (({ hub0 with sites := [(1, {})] } : Hub).setF (rSITE_STS 1) fSITE_STS_STATE stTRAINING);
      h.stState 1 = stTRAINING ∧ h.now ≤ (h.site 1).enabledAt + 10 * psMs ∧ (h.site 1).txq = [] ∧ h.keyOrder = [] ∧ h.reqs = [] ∧ h.forme.slices = [] ∧
      h.items = [] ∧ h.fabricOps = [] ∧ (h.site 1).enabledAt + 10 * psMs < ({ h with now := 11 * psMs } : Hub).now) ∧
    (siteHub {} 1).stState 1 = stDISABLED ∧ (siteHub {} 1).flag (rSITE_CTL 1) fSITE_CTL_DOWN = false ∧
    (let h := siteHub.setF (rSITE_CTL 1) fSITE_CTL_EN 1;
      h.stState 1 = stUP ∧ h.flag (rSITE_CTL 1) fSITE_CTL_EN = true ∧ h.flag (rSITE_CTL 1) fSITE_CTL_DOWN = false ∧
      h.flag (rSITE_CTL 1) fSITE_CTL_RETRAIN = false) := by decide +kernel

/-! ## Host functions, mailboxes and MSI-X -/

theorem wit_MessagesLeaveTowardHosts :
    (let h := { hostHub with msix := [(0, { slots := [(1, 5), (0, 3)] })] };
      (h.msixOf 0).slots = (1, 5) :: [(0, 3)] ∧ (h.msixOf 0).backlog = [] ∧ h.msixRuns 0 = true ∧
      (h.setF (rHOST_LINK_STS 0) fHOST_LINK_STS_STATE 3).msixRuns 0 = false ∧ (stop h uHOST 0).msixRuns 0 = false) ∧
    (let h := { hostHub with msix := [(0, { pendBits := [(1, 5)] })] };
      h.msixRuns 0 = true ∧ (h.msixOf 0).slots = [] ∧ (h.msixOf 0).pendBits[0]? = some (1, 5) ∧ (h.msixOf 0).pendBits[1]? = none) ∧
    hostHub.hostBusy (.vf 0 0) = false ∧ hostHub.hostBusy .kelvy = false ∧
    (hostHub.msixOf 0).slots = [] ∧ hostHub.vfOf (.vf 0 0) = some 3 ∧ hostHub.flag (rMBX_T_CTL 3) fMBX_T_CTL_SEND = false ∧
    hostHub.flag (rMBX_T_CTL 3) fMBX_T_CTL_POP = false ∧ mayQueue (hostHub.mbx 3).toMgr (hostHub.composed (rMBX_T_TXDn 3)) = true ∧
    (let h := hostHub.setReg (rMBX_T_TXDn 3 0) (BitVec.ofNat 64 (57 * 65536)); mayQueue (h.mbx 3).toMgr (h.composed (rMBX_T_TXDn 3)) = false) ∧
    hostHub.isMgr .kelvy = true ∧ hostHub.vfOf .kelvy = none ∧ hostHub.flag (rMBX_M_CTL 3) fMBX_M_CTL_SEND = false ∧
    hostHub.flag (rMBX_M_CTL 3) fMBX_M_CTL_POP = false ∧ mayQueue (hostHub.mbx 3).toTen (hostHub.composed (rMBX_M_TXDn 3)) = true ∧
    (let h := { hostHub with mail := [(3, { toTen := [[], [], [], []] })] }; mayQueue (h.mbx 3).toTen (h.composed (rMBX_M_TXDn 3)) = false) := by
  decide +kernel

theorem wit_FunctionsAreResetAndRemoved :
    hostHub.presented 0 5 = false ∧ hostHub.presented 0 0 = true ∧ hostHub.vfSlice 0 0 = some 3 ∧
    (let h := (hub0.setF (rHOST_LINK_STS 0) fHOST_LINK_STS_VF_EN 1).setF (rHOST_LINK_STS 0) fHOST_LINK_STS_NUMVFS 1;
      h.presented 0 0 = true ∧ h.vfSlice 0 0 = none) ∧
    hub0.linkUsed 0 = true ∧ hub0.forme.slices = [] ∧ hostHub.fld (rHOST_LINK_STS 0) fHOST_LINK_STS_STATE = 2 ∧
    hub0.fld (rHOST_LINK_STS 0) fHOST_LINK_STS_STATE ≠ 2 ∧ hub0.linkUsed 1 = false := by decide +kernel

/-! ## Faults -/

/-- A fault message waits. -/
def msgHub (m : FaultMsg) : Hub := { sliceHub 1 with fcol := { msgs := [m] } }

def msg3 : FaultMsg := { source := srcOf uCELL 0, kind := kADDR, cls := clsContained, slice := some 3 }

/-- The queue of fault records holds 1,024 that are not acknowledged. -/
def fullQueue (h : Hub) : Hub := h.setF rFCOL_Q_PTR fFCOL_Q_PTR_PROD 1024

theorem wit_FaultMessagesAreClassedStoredAndActedOn :
    (msgHub msg3).fcol.msgs[0]? = some msg3 ∧ msg3.cls ≠ clsFatal ∧ msg3.cls < 3 ∧ msg3.slice.isSome = true ∧ (msgHub msg3).holdsKey msg3 msg3.cls = false ∧
    (let h (m : FaultMsg) : Hub := (applyFault {} ((msgHub m).storeFault m).2.2 ((msgHub m).storeFault m).1 ((msgHub m).storeFault m).2.1 {}).2;
      (h msg3).holdsKey msg3 clsContained = true ∧ (h { msg3 with cls := clsCorrected }).holdsKey msg3 clsCorrected = true ∧
      (h { msg3 with slice := none }).holdsKey { msg3 with slice := none } clsContained = true) ∧
    ((msgHub msg3).classed msg3).cls ≠ clsFatal ∧ (msgHub msg3).unacked.length < 1024 ∧
    (fullQueue (msgHub msg3)).unacked.length = 1024 ∧ ((fullQueue (msgHub msg3)).classed { msg3 with cls := clsCorrected }).cls = clsCorrected ∧
    (let h := msgHub msg3;
      ((msgHub msg3).classed { msg3 with cls := clsFatal }).cls = clsFatal ∧
      (h.setF rFCOL_FATAL_STS fFCOL_FATAL_STS_VALID 15).latchSlot = none) ∧
    (msgHub msg3).reactions msg3.source = reIRQ ∧ msg3.source / 1024 ≠ uSITE ∧ (msgHub msg3).stateOf 3 = slLIVE ∧ msg3.kind < 2 ^ 16 ∧
    (msgHub msg3).flag (rSLM_MOVE 3) fSLM_MOVE_BUSY = false := by decide +kernel

theorem wit_CollectorAndWatchdogRegisters :
    (let c := hub0.fld rFCOL_Q_PTR fFCOL_Q_PTR_CONS;
      let d (x : Nat) : Nat := (x + 2 ^ 32 - c) % 2 ^ 32;
      d (vFld 0 fFCOL_Q_PTR_CONS) ≤ d (hub0.fld rFCOL_Q_PTR fFCOL_Q_PTR_PROD) ∧
      d (hub0.fld rFCOL_Q_PTR fFCOL_Q_PTR_PROD) < d (vFld (setFld 0 fFCOL_Q_PTR_CONS 1) fFCOL_Q_PTR_CONS)) ∧
    bit (vFld (setFld 0 fFCOL_FATAL_ACK_ACK 8) fFCOL_FATAL_ACK_ACK) 3 = true ∧ hub0.flag rFCOL_PIN fFCOL_PIN_PULSE = false ∧
    (hub0.setF rFCOL_PIN fFCOL_PIN_PULSE 1).flag rFCOL_PIN fFCOL_PIN_PULSE = true ∧
    ({ hub0 with fcol := { pulseEnd := some 5 } } : Hub).fcol.pulseEnd = some 5 ∧ hub0.now < 5 ∧
    (let h := { (hub0.setF rFCOL_STS fFCOL_STS_HUB_FAULT 1) with now := 3600 * 1000 * psMs }; h.mayLeaveFault = true) ∧ hub0.mayLeaveFault = false ∧
    vFld (setFld 0 fWDG_KLV_PERIOD_MS 60000) fWDG_KLV_PERIOD_MS ≤ 60000 ∧ 60000 < vFld (setFld 0 fWDG_KLV_PERIOD_MS 60001) fWDG_KLV_PERIOD_MS ∧
    (let h := (hub0.setF rWDG_KLV fWDG_KLV_EN 1).setF rKLV_BOOT fKLV_BOOT_STAGE 6;
      h.flag rWDG_KLV fWDG_KLV_EN = true ∧ h.bootStage = 6 ∧ (h.setF rWDG_KLV fWDG_KLV_PERIOD_MS 0).fld rWDG_KLV fWDG_KLV_PERIOD_MS = 0 ∧
      h.klv.kickedAt + h.wdgPeriod < ({ h with now := 2000 * psMs } : Hub).now ∧ h.now ≤ h.klv.kickedAt + h.wdgPeriod ∧ h.bootStage ≠ 0) ∧
    (hub0.setF rWDG_KLV fWDG_KLV_EN 0).flag rWDG_KLV fWDG_KLV_EN = false := by decide +kernel

/-! ## Images -/

/-- A firmware image and a whole forme image with one HUB record, each signed; made outside Lean, with a key chosen so that both factors of
the verification are 1. The hash is that of the second one's key. -/
def fwImg : List Byte := toLE 328 0xff450767000000000000000000000000000000000000000000000000000000000000000000000000000000000000000000000000000000008df0d4aa681e2ee9da87f001d6a455116f8477ee99773fc6dad36b13fc9dc0cd9c2bc434ea53ef53304673a9b2855dff8df0d4aa681e2ee9da87f001d6a455116f8477ee99773fc6dad36b13fc9dc0cd9c2bc434ea53ef53304673a9b2855dff2b4ac8dfe398075b9a7698bb37dac0d26521b439874bd7b7a6f3d3955848871545156813da81086c521616786f01d09716b87bab5001b2d9a05609d6b1cd2286ea460d8213fb8e379b07300cedde6000641ed562b2462be5734fb0d02cebdf00000000014749534600000000000000013f51460d000000000000000000000000000000000000000000000000000000000000000000000000000000400000014800000000000000000302000157464c4b
def formeImg : List Byte := toLE 360 0x8b7c6c9e000000000000000000000000000000000000000000000000000000000000000000000000000000000000000000000000000000004ca1da096b25ee40b5a6dc3c90b7c03071848b1a5cb7174c6dd7ce22e3410dfcdacec2ae96763820df743a2b52bb9b304ca1da096b25ee40b5a6dc3c90b7c03071848b1a5cb7174c6dd7ce22e3410dfcdacec2ae96763820df743a2b52bb9b30d4ea17073c4a66f78ad73efc19678718fc78b06690f87869f8ae389f15756cbd8218940fd41c7f7b1855bb17817789b9833e9a2c805ba44272fc865a998a5525586673621babe220b775733491c419d8c91cf41d7a60347dd01220a75a95c9cc00000001474953461cb5e7d00000000000000000000000000000000000000005000000000000ffff0000002800000001c18fda6e00000000000000000000000000000000000000000000000000000000000000010000016800000000000000000000000000000003030200014d524f46
def formeHash : BitVec 384 := 0xcc4044454e20410301451fcf2d09b290daebcfb89dbd757c287ceb07e9e918ba24c4471d906563c38e30b0bbb00b3078

/-- An image in HBM at an address. -/
def imgHub (a : Nat) (img : List Byte) : Hub := { chHub with hbm := img.zipIdx.map (fun p => (a + p.2, p.1)) }

/-- Fuses with the key hash of OPEN. -/
def hashFuses : Fuses := { hashOpen := Vector.replicate 3 formeHash }

/-- A result without its value. -/
def okB {ε α : Type} : Except ε α → Bool
  | .ok _ => true
  | .error _ => false


/-! ## Arrays, fuses, keys, power, images, resets -/

theorem wit_CellsAndArraysAreResetAndTested :
    (let h := hub0.setCell 5 { run := .inReset };
      let q : Req := { memReq 0 .flight with src := .cell 5 0 0 };
      (h.cell 5).run = .inReset ∧ h.cellBusyOut 5 = false ∧ ({ h with reqs := [(1, q)] } : Hub).cellBusyOut 5 = true ∧
      (h.cell 5).replayable = false ∧ h.items = [] ∧
      ({ (h.cell 5) with wasReset := some kDATAPATH, mark := some {} } : Cell).replayable = true) ∧
    (let h := (withSlice hub0 3 { arrays := [0, 1], fuse := [{ first := 0, rows := 1, cols := 2 }] } 1).setF (rARR_STAT 0) fARR_STAT_MODE 1;
      h.fuseOf 0 = some { first := 0, rows := 1, cols := 2 } ∧ 1 ∈ ({ first := 0, rows := 1, cols := 2 } : FuseGrp).arrays ∧ h.cells = [] ∧ 1 ∉ h.badArrays ∧
      h.arrMode 0 = 1) ∧
    (hub0.cell 5).run ≠ .inReset ∧
    (let h := hub0.setF (rARR_STAT 207) fARR_STAT_MODE 2; h.fld (rARR_STAT 207) fARR_STAT_MODE = 2 ∧ h.forme.slices = [] ∧ h.items = []) ∧
    hub0.fld (rARR_STAT 0) fARR_STAT_MODE ≠ 2 ∧
    (let h := { hub0 with now := 3601 * 1000 * psMs }; h.arrMode 0 = 0 ∧ h.pwrState = 0 ∧ h.halted = false ∧ h.arrIdle 0 (100 * psUs) = true ∧
      3600 < h.testAge 0 ∧ ({ h with now := 3600 * 1000 * psMs } : Hub).testAge 0 ≤ 3600) ∧
    (mapGetD hub0.tests 0 (0, false)).2 = false ∧
    (let h := hub0.setF (rARR_STAT 0) fARR_STAT_MODE 1; h.arrMode 0 = 1 ∧ h.badArrays.contains 0 = false ∧
      h.flag (rARR_CTL 0) fARR_CTL_RETIRE = false ∧ h.cells = [] ∧ h.arraySlices 0 = []) ∧
    (hub0.flag (rARR_TEST 0) fARR_TEST_DUE = false ∧ 82800 < ({ hub0 with now := 82801 * 1000 * psMs } : Hub).testAge 0 ∧
      ({ hub0 with now := 82800 * 1000 * psMs } : Hub).testAge 0 ≤ 82800) := by decide +kernel

theorem wit_CellsAndArraysAreResetAndTested_out (c : Nat) : (hub0.setF (rARR_STAT 207) fARR_STAT_MODE 2).cellBusyOut c = false := rfl

/-- A request for CLOSED in the plain mode, LCX_EN sampled 1. -/
def reqClosed : Word := setFld (setFld 0 fLCS_REQ_TARGET 1) fLCS_REQ_PLAIN 1

/-- Fuses a hub can be closed with. -/
def closeFuses : Fuses := { hashClosed := Vector.replicate 3 formeHash, banks := Vector.replicate 4 (Vector.replicate 3 1) }

theorem wit_FusesAreProgrammedAndTransitionsChecked :
    hub0.progJob = none ∧ ({ hub0 with progJob := some 2 } : Hub).progJob.isSome = true ∧ hub0.lcState = lcOPEN ∧
    (hub0.setF rLCS_STATE fLCS_STATE_STATE 1).lcState ≠ lcOPEN ∧ ({} : Fuses).target hub0 1 = 0 ∧ closeFuses.target hub0 2 ≠ 0 ∧
    hub0.lcsMay .kelvy = true ∧ hub0.lcsJob = none ∧ ({ hub0 with lcsJob := some reqClosed } : Hub).lcsJob.isSome = true ∧
    hub0.lcsRefused {} reqClosed true = some 4 ∧ (hub0.setF rTOP_STRAP fTOP_STRAP_LCX_EN 1).lcsRefused closeFuses reqClosed true = none ∧
    hub0.debugOn = true ∧ (hub0.setF rLCS_DBG fLCS_DBG_LOCK 1).debugOn = false ∧ (readReg {} hub0 .tap rTOP_STRAP).isSome = true := by decide +kernel

/-- Slice 3 holds key slot 9 and runs an operation. -/
def keyHub (op : Nat) (slot : Nat := 9) : Hub :=
  let j : KeyJob := { op := op, ctl := setFld (setFld 0 fKEY_CTL_SLOT slot) fKEY_CTL_KEY_LEN 32, mgmt := true }
  ({ withSlice hub0 3 { keys := [9], siteEng := [0, 4] } 1 with keyJobs := [(3, j)], keyOrder := [3] }).setF (rKEY_STS 3) fKEY_STS_BUSY 1

/-- A key stands in slot 9 for engine 2 of site 1, which slice 3 holds. -/
def deliverHub : Hub :=
  { (withSlice hub0 3 { keys := [9], siteEng := [0, 4] } 1).setF (rSITE_STS 1) fSITE_STS_ENGINES 8 with
    keySlots := [(9, { key := zeros 32, len := 32, site := 1, eng := 2, once := false })], sites := [(1, {})] }

theorem wit_KeyOperationsRunInTheirTurn :
    hub0.pfOrKelvy .kelvy = true ∧ hub0.hostBusy .kelvy = false ∧ hub0.hostBusy (.pf 0) = false ∧ hub0.stoppedInst uKEY 0 = false ∧ (keyHub 1).stoppedInst uKEY 0 = false ∧ hub0.flag (rKEY_STS 3) fKEY_STS_BUSY = false ∧ (keyHub 1).flag (rKEY_STS 3) fKEY_STS_BUSY = true ∧
    hub0.deliverErr 3 0 = some 1 ∧
    deliverHub.deliverErr 3 (setFld (setFld 0 fKEY_CTL_SLOT 9) fKEY_CTL_ENGINE 2) = none ∧
    ([1, 2, 4].all (fun op => (mapGet (keyHub op).keyJobs 3).isSome && (keyHub op).keyTurn 3)) = true ∧
    ({ keyHub 1 with keyOrder := [5, 3] } : Hub).keyTurn 3 = false ∧
    ((keyHub 2).slD 3).keys.contains 9 = true ∧ ((keyHub 2).slD 3).keys.contains 10 = false ∧ hub0.lcState ≠ lcCLOSED ∧
    keyLens.contains 32 = true ∧ engOk 255 = true ∧ hub0.rngBad = false ∧ ({ hub0 with rngBad := true } : Hub).rngBad = true ∧
    2 ≤ ({ hub0 with rngFails := 2 } : Hub).rngFails ∧ hub0.rngFails < 2 ∧ 2 ^ 20 ≤ ({ hub0 with generated := 2 ^ 20 } : Hub).generated ∧
    hub0.generated < 2 ^ 20 := by decide +kernel

theorem wit_PowerStatesAreEnteredWhereAllowed :
    hub0.isMgr .kelvy = true ∧ hub0.pwrJob = none ∧ hub0.pwrState = 0 ∧
    ([1, 2, 3].all (fun t => decide (hub0.pwrRefused t = none))) = true ∧
    (let h := withSlice hub0 3 { parts := [(0, 32)] } 1;
      ([1, 2, 3].map (fun t => h.pwrRefused t)) = [some 1, some 2, some 3] ∧
      h.arrHeld 0 = true) ∧
    (commitHub true).commitJob.isSome = true ∧ ({ hub0 with pwrJob := some 1 } : Hub).pwrJob = some 1 ∧ hub0.rngBad = false ∧
    hub0.arrHeld 0 = false ∧ hub0.arrMode 0 = 0 ∧ (hub0.setF rPWR_STS fPWR_STS_STATE 2).pwrState = 2 := by decide +kernel

/-- Kelvy at a STAGE, with an image operation. -/
def klvHub (stage : Nat) (op : Option Nat) (img : List Byte := fwImg) : Hub :=
  let h := imgHub (2304 * GRAN) img
  ({ h with klv := { h.klv with op := op, imgAddr := 2304 * GRAN, switchAt := some 0 } }).setF rKLV_BOOT fKLV_BOOT_STAGE stage

/-- What is reported of an image that reads well. -/
def good : Nat → Ecc := atLine 0 .clean

theorem wit_ImageOperationsEndWithTheirResult :
    (klvHub 6 none).onBus .kelvy = true ∧ (klvHub 6 none).hostBusy .kelvy = false ∧ (klvHub 6 none).klv.op = none ∧ (klvHub 6 none).bootStage = 6 ∧
    (klvHub 7 none).bootStage = 7 ∧ (klvHub 6 none).flag rKLV_IMG_CTL fKLV_IMG_CTL_STAGED = false ∧
    ((klvHub 6 none).setF rKLV_IMG_CTL fKLV_IMG_CTL_STAGED 1).flag rKLV_IMG_CTL fKLV_IMG_CTL_STAGED = true ∧
    (klvHub 7 (some klPUSH)).klv.op = some klPUSH ∧ (klvHub 6 (some klSTAGE)).klv.op = some klSTAGE ∧
    ((klvHub 6 (some klSTAGE)).setF rUMB_STS fUMB_STS_HALT 1).imgWaits good 0x10 1048576 = true ∧
    (klvHub 6 (some klSTAGE)).imgWaits good 0x10 1048576 = false ∧ (klvHub 6 (some klFORME_FLASH) formeImg).imgWaits good 0x18 2097152 = false ∧
    ((klvHub 6 (some klFORME_FLASH) formeImg).setF rUMB_STS fUMB_STS_HALT 1).imgWaits good 0x18 2097152 = true ∧
    okB (checkFirmware {} hub0.lcState ((klvHub 6 (some klSTAGE) []).imgReader (atLine 0 .uncorrected))) = false ∧
    (klvHub 6 (some klSWITCH)).quiescent = true ∧ (commitHub true).quiescent = false ∧ (klvHub 6 (some klSWITCH)).klv.switchAt = some 0 ∧
    0 + 100 * psMs ≤ ({ commitHub true with now := 100 * psMs } : Hub).now ∧ (commitHub true).now < 0 + 100 * psMs := by decide +kernel

theorem wit_ImageOperationsEndWithTheirResult_firmware : okB (checkFirmware {} lcOPEN ((klvHub 6 (some klSTAGE)).imgReader good)) = true := by decide +kernel

theorem wit_CommitsThatAreRefusedChangeNothingElse :
    (commitHub false).commitJob = some false ∧ (commitHub false).halted = false ∧
    okB ((commitHub false).checkImage {} ((commitHub false).hbmReader ((commitHub false).fld rSLM_IMG_BASE fSLM_IMG_BASE_ADDR) (atLine 0 .uncorrected))) = false ∧
    (commitHub false).imageWaits ((commitHub false).fld rSLM_IMG_BASE fSLM_IMG_BASE_ADDR) (atLine 0 .uncorrected) 0x18 2097152 = false := by
  decide +kernel

/-- A commit of the forme image. -/
def formeHub (only : Bool) : Hub :=
  ({ imgHub (2304 * GRAN) formeImg with commitJob := some only }).setF rSLM_IMG_BASE fSLM_IMG_BASE_ADDR (2304 * GRAN)

theorem wit_CommitsSwitchTablesAndGiveBack : (formeHub false).commitJob = some false ∧ (formeHub true).commitJob = some true ∧
    (formeHub false).halted = false ∧
    (formeHub false).imageWaits ((formeHub false).fld rSLM_IMG_BASE fSLM_IMG_BASE_ADDR) good 0x18 2097152 = false ∧
    ((formeHub false).setF (rMEM_CH_STS 3) fMEM_CH_STS_STATE chRETRAINING).imageWaits (2304 * GRAN) good 0x18 2097152 = true ∧
    ((formeHub false).movedEntries []).1.isSome = true := by decide +kernel

theorem wit_CommitsSwitchTablesAndGiveBack_image :
    okB ((formeHub false).checkImage hashFuses ((formeHub false).hbmReader ((formeHub false).fld rSLM_IMG_BASE fSLM_IMG_BASE_ADDR) good)) = true := by
  decide +kernel

theorem wit_ImageOperationsEndWithTheirResult_forme : (takeImage ((klvHub 6 (some klFORME_FLASH) formeImg).imgReader good) (hashFuses.hashFor lcOPEN)).toOption.any
    (fun i => !i.isPartial) = true ∧ okB (takeImage ((klvHub 6 (some klFORME_FLASH)).imgReader good) (hashFuses.hashFor lcOPEN)) = false := by decide +kernel

theorem wit_ResetsStartTheHubAgain :
    (let e : BootEnv := { bootSrc := 3 }; e.bootSrc % 4 = 3 ∧ e.recovN = true) ∧ hub0.klv.op = none ∧ hub0.progJob = none ∧
    (State.reset.hub.bootStage = 0 ∨ State.reset.hub.bootStage = 8) ∧ (klvHub 6 none).bootStage ≠ 0 ∧ (klvHub 6 none).bootStage ≠ 8 ∧
    ({} : Fuses).pendingRow = none ∧ (let e : BootEnv := { rngOk := false }; e.rngOk = false) ∧
    (klvHub 6 none).hostBusy (.pf 0) = false ∧
    (let k := fifoKey .link 7 true;
      let h := hub0.setFifo k { offered := [1, 2], inside := [3] };
      (h.fifo k).offered = 1 :: [2] ∧ (h.fifo k).inside = 3 :: []) ∧
    (let k := fifoKey .memory 0 true;
      let h := { memHub with reqs := [(1, memReq 0 .flight)] };
      let g (reqs : List (Nat × Req)) : Hub := { memHub with reqs := reqs }.setFifo k { inside := [1] };
      let out (reqs : List (Nat × Req)) : Hub := (g reqs).setFifo k {};
      h.mayCross 0 1 = true ∧ h.mayCross 0 2 = false ∧ ((g []).fifo k).inside = 1 :: [] ∧
      (((out [(1, memReq 0 .flight)]).arrive 1).req 1).map (fun q => decide (q.stage = .flight)) = some false ∧
      (((out [(0, memReq 0 .flight), (1, memReq 0 .flight)]).arrive 1).req 1).map (fun q => decide (q.stage = .flight)) = some true) := by
  decide +kernel

theorem wit_ResetsStartTheHubAgain_room : ((hub0.fifo 7).inside.length < fifoWords) ∧
    fifoWords ≤ ((hub0.setFifo 7 { inside := List.replicate fifoWords 0 }).fifo 7).inside.length := by
  refine ⟨Nat.succ_pos _, Nat.le_of_eq ?_⟩
  show fifoWords = (List.replicate fifoWords 0).length
  simp

/-! ## What WellFormed refuses, one term for each check -/

theorem test_wf_refuses_origins_and_functions :
    Instr.wf (.registerWrite (.vf 0 2048) 0 .w64 0) = false ∧ Instr.wf (.registerWrite (.vf 1 2047) 0 .w64 0) = true ∧
    Instr.wf (.hostRequest (.vf 0 2048) (.read 0 0 8) [] .clean) = false ∧ Instr.wf (.hostRequest (.pf 3) (.read 1 0 8) [] .clean) = false ∧
    Instr.wf (.hostRequest (.pf 3) (.read 2 0 0) [] .clean) = false ∧ Instr.wf (.hostRequest (.pf 3) (.read 2 0 4097) [] .clean) = false ∧
    Instr.wf (.hostRequest (.pf 3) (.read 2 0 4096) [] .clean) = true ∧ Instr.wf (.hostRequest (.pf 3) (.write 1 0 [1] false) [] .clean) = false ∧
    Instr.wf (.hostRequest (.pf 3) (.write 0 0 [] false) [] .clean) = false ∧
    Instr.wf (.hostRequest (.pf 3) (.write 0 0 (List.replicate 4097 1) false) [] .clean) = false ∧
    Instr.wf (.hostRequest (.pf 3) (.read 2 0 8) (List.replicate 6 0) .clean) = false ∧
    Instr.wf (.vfFunctionLevelReset 0 2048) = false ∧ Instr.wf (.sriovConfigWrite 0 2049 true) = false ∧
    Instr.wf (.atsInvalidation (.pf 0) 1048576) = false := by decide +kernel

theorem test_wf_refuses_boot_inputs :
    Instr.wf (.powerOnReset {}) = true ∧ Instr.wf (.powerOnReset { bootSrc := 4 }) = false ∧ Instr.wf (.warmReset { hostCfg := 4 }) = false ∧
    Instr.wf (.powerOnReset { testFail := [208] }) = false ∧ Instr.wf (.powerOnReset { repairFail := [8192] }) = false ∧
    Instr.wf (.powerOnReset { stuckCopies := [3] }) = false ∧ Instr.wf (.powerOnReset { hostTrain := List.replicate 5 (16, 6) }) = false ∧
    Instr.wf (.powerOnReset { vfs := [2049] }) = false ∧ Instr.wf (.powerOnReset { vfs := List.replicate 5 1 }) = false ∧
    Instr.wf (.transitionChecksDone true { bootSrc := 4 }) = false ∧ Instr.wf (.powerTransitionDone [208]) = false ∧
    Instr.wf (.tapInstruction (.regRead 0x40000000000) {}) = false := by decide +kernel

theorem test_wf_refuses_blocks_packets_and_measurements :
    Instr.wf (.blockRx 0 (.block 0 0 (zeros 639))) = false ∧ Instr.wf (.blockRx 0 (.block 0 0 (zeros 640))) = true ∧
    Instr.wf (.siteWrite 0 ⟨0, 0, 0, 0, zeros 31⟩) = false ∧ Instr.wf (.siteWrite 0 ⟨0, 0, 0, 0, zeros 288⟩) = false ∧
    Instr.wf (.siteWrite 0 ⟨0, 0, 0, 0, zeros 256⟩) = true ∧ Instr.wf (.sealedRead 0 0 (.nodeMac 10 0 (zeros 64) false) .clean) = false ∧
    Instr.wf (.sealedRead 0 0 (.nodeMac 9 0 (zeros 64) false) .clean) = true ∧ Instr.wf (.sealedRead 0 0 (.nodeMac 9 0 (zeros 63) false) .clean) = false ∧
    Instr.wf (.sealedWrite 0 0 (.lineMac (zeros 63) (zeros 8) false) .clean) = false ∧
    Instr.wf (.sealedWrite 0 0 (.lineMac (zeros 64) (zeros 9) false) .clean) = false ∧
    Instr.wf (.sweepStep 0 ⟨0, (.nodeUncorrected 10 0), .clean⟩) = false ∧ Instr.wf (.sweepStep 0 ⟨0, (.cacheDirtyUncorrected 10 0), .clean⟩) = false ∧
    Instr.wf (.sweepStep 0 ⟨0, (.cacheCleanUncorrected 16 0), .clean⟩) = false ∧ Instr.wf (.sweepStep 0 ⟨0, (.cacheCorrected 15 0), .clean⟩) = true ∧
    Instr.wf (.commitDone ⟨0, (.umbra (.nodeUncorrected 10 0))⟩) = false ∧ Instr.wf (.hostAtomicop (.pf 0) .swap 1 0 8 0 0 [] .clean) = false ∧
    Instr.wf (.junctionSensorReading 0 256) = false ∧
    Instr.wf (.meterEvaluation (List.replicate 767 0)) = false ∧ Instr.wf (.meterEvaluation (List.replicate 768 257)) = false ∧
    Instr.wf (.stackTempRead 0 256) = false ∧ Instr.wf (.patrolRead 0 33554432 .clean) = false ∧ Instr.wf (.rowRemapDone 0 [33554432]) = false ∧
    Instr.wf (.trafficGeneratorPassDone 0 25165825 0 0) = false ∧ Instr.wf (.trafficGeneratorPassDone 0 0 33554432 0) = false ∧
    Instr.wf (.linkBringupDone 0 true 0 16777216) = false ∧ Instr.wf (.linkRetrainDone 0 true 16777216) = false ∧
    Instr.wf (.hostLinkUp 0 0 6) = false ∧ Instr.wf (.hostLinkUp 0 17 6) = false ∧ Instr.wf (.hostLinkUp 0 16 0) = false ∧
    Instr.wf (.hostLinkUp 0 16 7) = false ∧ Instr.wf (.hostLinkUp 0 16 6) = true := by decide +kernel

/-! ## Galley words, field by field from the tables of R119: the class at bit 60, the operation at bit 56 -/

/-- A galley word of a class, an operation and fields, each at its lowest bit. -/
def word (cls op : Nat) (fs : List (Nat × Nat)) : Nat := cls * 2 ^ 60 + op * 2 ^ 56 + (fs.map (fun f => f.1 * 2 ^ f.2)).sum

theorem test_decode_ctrl :
    ginstrOf (word 0 0 []) = some .nop ∧ ginstrOf (word 0 1 [(3, 54), (31, 49), (2047, 38), (7, 0)]) = some (.loop 3 31 2047 7) ∧
    ginstrOf (word 0 2 [(4, 53), (17, 48), (2046, 0)]) = some (.br 4 17 2046) ∧ ginstrOf (word 0 2 [(5, 53)]) = none ∧
    ginstrOf (word 0 3 []) = some .sheet ∧ ginstrOf (word 0 4 []) = some .end_ ∧ ginstrOf (word 0 5 [(33, 48)]) = some (.waitu 33) ∧
    ginstrOf (word 0 6 [(9, 48), (10, 43)]) = some (.waitac 9 10) ∧ ginstrOf (word 0 7 []) = none ∧ ginstrOf (word 0 3 [(1, 55)]) = none := by
  decide +kernel

theorem test_decode_scalar_and_local :
    ginstrOf (word 1 7 [(30, 51), (29, 46), (28, 41), (0xFFFFFFFF, 0)]) = some (.alu .sra 30 29 28 0xFFFFFFFF) ∧
    ginstrOf (word 1 9 [(1, 51), (2, 46), (3, 41)]) = some (.alu .slt 1 2 3 0) ∧ ginstrOf (word 1 10 [(5, 51), (6, 0)]) = some (.lih 5 6) ∧
    ginstrOf (word 1 10 [(5, 51), (1, 46)]) = none ∧ ginstrOf (word 1 11 []) = none ∧
    ginstrOf (word 2 1 [(4, 51), (5, 46), (0x8000, 0)]) = some (.loc .st8 4 5 0x8000) ∧ ginstrOf (word 2 3 [(4, 51)]) = some (.loc .st4 4 0 0) ∧
    ginstrOf (word 2 4 []) = none := by decide +kernel

theorem test_decode_units :
    ginstrOf (word 3 0 [(1, 49), (0x1FF, 0)]) = some (.tcfg 1 511) ∧
    ginstrOf (word 3 1 [(8, 52), (1, 51), (1, 49), (1, 43), (2, 38), (3, 17)]) = some (.tmma 8 1 0 1 0 1 2 0 0 3) ∧
    ginstrOf (word 3 2 [(9, 52), (1, 48), (31, 43)]) = some (.tdrain 9 0 0 1 31) ∧ ginstrOf (word 3 3 [(1, 49), (6, 43)]) = some (.taddx 1 6) ∧
    ginstrOf (word 3 4 [(7, 51)]) = some (.tstat 7) ∧
    ginstrOf (word 4 0 [(1, 51), (2, 46), (3, 41), (4, 36), (16, 25)]) = some (.vec .vfma 1 2 3 4 16 0 0) ∧
    ginstrOf (word 4 7 [(1, 51), (2, 46), (4, 36), (16, 25), (3, 21), (1, 20)]) = some (.vec .vqnt 1 2 0 4 16 3 1) ∧
    ginstrOf (word 4 9 [(1, 51), (2, 46), (16, 25)]) = some (.vec .vred 1 2 0 0 16 0 0) ∧ ginstrOf (word 4 10 []) = none ∧
    ginstrOf (word 5 0 [(1, 54), (3, 52), (2, 50), (19, 45)]) = some (.gr 1 3 2 19) := by decide +kernel

theorem test_decode_chan_and_fabric :
    ginstrOf (word 6 1 [(3, 54), (20, 47), (5, 36)]) = some (.chan .recv 3 0 20 5) ∧
    ginstrOf (word 6 2 [(3, 54), (1, 52), (20, 47), (5, 36)]) = some (.chan .fwd 3 1 20 5) ∧
    ginstrOf (word 7 1 [(1, 51), (2, 46), (3, 41), (15, 37)]) = some (.fab .fst 1 2 3 15 0 0) ∧
    ginstrOf (word 7 2 [(1, 51), (2, 46), (3, 41), (4, 37), (6, 28)]) = some (.fab .fsta 1 2 3 4 0 6) ∧
    ginstrOf (word 7 3 [(1, 51), (2, 46), (4, 37), (1, 33)]) = some (.fab .fatom 1 2 0 4 1 0) ∧
    ginstrOf (word 7 3 [(1, 51), (2, 46), (3, 41), (1, 33)]) = none ∧ ginstrOf (word 8 0 []) = none := by decide +kernel

/-! ## Single steps -/

/-- What a step leaves, looked at through a function. -/
def after {α : Type} (r : Host.Outcome State Fault Refusal) (f : Hub → α) : Option α := match r with
  | .next t => some (f t.hub)
  | .fault _ => none
  | .refused _ => none

/-- Register 1 of cell 5 after a step on a galley of one instruction, with s2 and s3 at values. -/
def reg1After (c : Instr) (i : GInstr) (a b : Word) : Option Word :=
  after (exec c (st (cellHub [i, .nop] (fun x => (x.setR 2 a).setR 3 b)))) (fun h => (h.cell 5).r 1)

/-- SCALAR (R119, its table): wrap modulo 2^64, shifts by B[5:0], signed comparison, IMM sign-extended. -/
theorem test_scalar_results :
    reg1After (.add 5 .clean) (.alu .add 1 2 3 0xFFFFFFFF) 0 0 = some (-1) ∧
    reg1After (.sub 5 .clean) (.alu .sub 1 2 3 0) 0 1 = some 0xFFFFFFFFFFFFFFFF ∧
    reg1After (.shl 5 .clean) (.alu .shl 1 2 3 0) 1 65 = some 2 ∧ reg1After (.shr 5 .clean) (.alu .shr 1 2 3 0) (-1) 60 = some 15 ∧
    reg1After (.sra 5 .clean) (.alu .sra 1 2 3 0) (-16) 2 = some (-4) ∧ reg1After (.mul 5 .clean) (.alu .mul 1 2 3 0) (2 ^ 33) (2 ^ 31) = some 0 ∧
    reg1After (.slt 5 .clean) (.alu .slt 1 2 3 0) (-1) 0 = some 1 ∧ reg1After (.lih 5 .clean) (.lih 1 9) 0 0 = some 0x900000000 := by decide +kernel

/-- A write to s0 is discarded. -/
theorem test_s0_stays_zero :
    after (exec (.add 5 .clean) (st (cellHub [.alu .add 0 2 3 1, .nop]))) (fun h => ((h.cell 5).r 0, (h.cell 5).pc)) = some (0, 1) := by decide +kernel

/-- ST4 stores RD[31:0] little-endian; the bytes around stay. -/
theorem test_st4_stores_four_bytes :
    after (exec (.st4 5 .clean) (st (cellHub [.loc .st4 2 3 4, .nop] (fun x => (x.setR 2 0x1122334455667788).setR 3 0x10))))
      (fun h => (h.cell 5).get 0x10 12) = some [0, 0, 0, 0, 0x88, 0x77, 0x66, 0x55, 0, 0, 0, 0] := by decide +kernel

/-- R121: an unaligned LD8 stops the cell, whose reset begins (R49), and raises a contained fault of kind ADDR. -/
theorem test_ld8_unaligned_stops :
    after (exec (.ld8 5 .clean) (st (cellHub [.loc .ld8 1 2 4, .nop]))) (fun h => ((h.cell 5).run, (h.cell 5).pc, h.fcol.msgs.map (fun m => (m.kind, m.cls))))
      = some (.inReset, 0, [(kADDR, clsContained)]) := by decide +kernel

/-- A hold of a live slice waits for its group's boundary; a command the state does not allow sets BAD_CMD (R55). -/
theorem test_hold_and_bad_cmd :
    after (exec (.sliceHold .kelvy 3) (st (sliceHub 1))) (fun h => (h.stateOf 3, (h.rt 3).holdWritten)) = some (slLIVE, true) ∧
    after (exec (.sliceHold .kelvy 3) (st (sliceHub 4))) (fun h => (h.stateOf 3, h.flag (rSLM_SLICE_EVT 3) fSLM_SLICE_EVT_BAD_CMD)) = some (4, true) := by
  decide +kernel

/-- R227: reached is true if (VALUE - X) modulo 2^64 is below 2^63; an addition wraps. -/
theorem test_arrival_counter_adds_modulo :
    after (exec (.arrivalCounterAdd .kelvy 0 1) (st hub0)) (fun h => h.out.length) ≠ none ∧ hub0.acReached 3 0 (-1) = true ∧
    hub0.acReached 3 0 (2 ^ 63) = false := by decide +kernel

/-- R127 and R129's products: MXFP4 element 0x7 is 6.0, and 6.0 in FP32 is 0x40C00000. -/
theorem test_fp4_six : r32 (tmElem 0 7) = 0x40C00000 ∧ r32 (tmElem 0 8) = 0x80000000 ∧ r32 (tmElem 0 1) = 0x3F000000 := by decide +kernel

/-- The vector unit's round to nearest even (R138): 1 + 2^-24 is 1; 1 + 3 * 2^-24 is 1 + 2^-22; infinity minus infinity is the NaN. -/
theorem test_fp32_rounds_to_even :
    r32 (fAdd (f32 0x3F800000) (f32 0x33800000)) = 0x3F800000 ∧ r32 (fAdd (f32 0x3F800000) (f32 0x34400000)) = 0x3F800002 ∧
    r32 (fAdd (f32 0x7F800000) (f32 0xFF800000)) = 0x7FC00000 ∧ r32 (fMul (f32 0x00000001) (f32 0x3F800000)) = 0x00000001 := by decide +kernel

/-- CRC-32C of the nine digits, the check value of its standard; SHA-384 of the three letters abc, the example of its standard. -/
theorem test_crc_and_hash :
    crc32c (ascii "123456789") = 0xE3069283 ∧
    beNat (sha384 (ascii "abc")) = 0xcb00753f45a35e8bb5a03d699ac65007272c32ab0eded1631a8b605a43ff5bed8086072ba1e7cc2358baeca134c825a7 := by decide +kernel

/-- AES-256 of the example of its standard. -/
theorem test_aes256 :
    beNat (aes256 ((List.range 32).map (BitVec.ofNat 8)) ((List.range 16).map (fun i => BitVec.ofNat 8 (17 * i)))) =
      0x8ea2b7ca516745bfeafc49904b496089 := by decide +kernel

/-! ## Worked examples of the spec -/

/-- The lane of the MXFP4 example: products that sum to 5.75, scales 0x7E and 0x81, make 11.5 in FP32 and 0xB80_0000 on the window at W = -24. -/
theorem test_worked_beat_sum :
    (let b := beatSum 0 0 ([0x43, 0x02] ++ zeros 6) ([0x41, 0x02] ++ zeros 126) 0 0x7E 0x81;
      r32 (fAdd (f32 0) (bsumVal b)) = 0x41380000 ∧ (exactAdd 0 (-24) b).1 = 0xB800000) := by decide +kernel

/-- The sealed region of the example in the Umbra section: its lines, its tree, and the line of an address. -/
theorem test_worked_sealed_region :
    (let r : SealedRec := { region := 5, first := 334379, count := 512, metaFirst := 352038, metaCount := 218, sweepH := 0 };
      sealLines r = 16777216 ∧ treeLevels r = [2097152, 262144, 32768, 4096, 512, 64, 8] ∧ lineIdx r 0xA345601234 = 72) := by decide +kernel

/-- The check channel example: the seed's bytes, and where CKC_EXP17 of slice 1,000 stands. -/
theorem test_worked_check_seed :
    checkSeed 1000 7 0x5A0080600000 = [0xE8, 0x73, 0, 0, 0, 0x18, 0x20, 0x80] ∧ rCKC_EXPn 1000 17 = 0x3F03E3E8110 := by decide +kernel

end Sys2Proof.Tests
end

section
/-! PROOFS. SLM_SLICE_CTL (R54, R55, R62): a command that the slice's state does not allow, and a write with more than one command bit. -/

namespace Sys2Proof.Machine

/-! ## What a raise leaves alone -/

/-- A vector raised changes the MSI-X state alone. -/
theorem Hub.raiseVec_eq (h : Hub) (k fn vec : Nat) : h.raiseVec k fn vec = { h with msix := (h.raiseVec k fn vec).msix } := by
  unfold Hub.raiseVec
  dsimp only
  split_ifs
  · rfl
  · rfl
  · rfl

/-- The physical function's vector raised changes the MSI-X state alone, whether or not the slice has a record. -/
theorem Hub.raisePfOf_eq (h : Hub) (s vec : Nat) : h.raisePfOf s vec = { h with msix := (h.raisePfOf s vec).msix } := by
  unfold Hub.raisePfOf
  cases h.sl s with
  | none => rfl
  | some r => exact h.raiseVec_eq _ _ _

@[simp] theorem Hub.reg_raisePfOf (h : Hub) (s vec a : Nat) : (h.raisePfOf s vec).reg a = h.reg a := by rw [h.raisePfOf_eq]; rfl

/-! ## BAD_CMD -/

/-- BAD_CMD touches one register and the MSI-X state. -/
theorem Hub.badCmd_eq (h : Hub) (s : Nat) : h.badCmd s = { h with regs := (h.badCmd s).regs, msix := (h.badCmd s).msix } := by
  have he : h.badCmd s = (h.setF (rSLM_SLICE_EVT s) fSLM_SLICE_EVT_BAD_CMD 1).raisePfOf s 0 := rfl
  rw [he, Hub.raisePfOf_eq]
  rfl

theorem Hub.reg_badCmd_same (h : Hub) (s : Nat) :
    (h.badCmd s).reg (rSLM_SLICE_EVT s) = setFld (h.reg (rSLM_SLICE_EVT s)) fSLM_SLICE_EVT_BAD_CMD 1 :=
  (Hub.reg_raisePfOf ..).trans (h.reg_setF_same ..)

theorem Hub.reg_badCmd_ne (h : Hub) (s : Nat) {a : Nat} (ha : a ≠ rSLM_SLICE_EVT s) : (h.badCmd s).reg a = h.reg a :=
  (Hub.reg_raisePfOf ..).trans (h.reg_setF_ne _ _ ha)

theorem Hub.flag_badCmd (h : Hub) (s : Nat) : (h.badCmd s).flag (rSLM_SLICE_EVT s) fSLM_SLICE_EVT_BAD_CMD = true := by
  have hf : (h.badCmd s).fld (rSLM_SLICE_EVT s) fSLM_SLICE_EVT_BAD_CMD = 1 := by
    rw [Hub.fld, Hub.reg_badCmd_same, getFld_setFld_same _ _ _ (by decide)]; rfl
  simp [Hub.flag, hf]

/-! ## The commands in a state that does not allow them (R55) -/

theorem Hub.teardownSlice_of_not_active {h : Hub} {s : Nat} (hs : h.active s = false) : h.teardownSlice s = h.badCmd s := by
  simp [Hub.teardownSlice, hs]

theorem Hub.holdSlice_of_not_live {h : Hub} {s : Nat} (hs : h.stateOf s ≠ slLIVE) : h.holdSlice s = h.badCmd s := if_neg hs

theorem Hub.releaseSlice_of_not_held_fault {h : Hub} {s : Nat} (hh : h.stateOf s ≠ slHELD) (hf : h.stateOf s ≠ slFAULT) :
    h.releaseSlice s = h.badCmd s := (if_neg hh).trans (if_neg hf)

theorem Hub.resetSlice_of_not_fault {h : Hub} {s : Nat} (hs : h.stateOf s ≠ slFAULT) : h.resetSlice s = h.badCmd s := if_neg hs

/-- Each of the four commands that its slice's state does not allow is a write accepted, with BAD_CMD. -/
theorem exec_sliceCommand_of_invalid {s : State} {o : Origin} {sl : SliceId} {c : Instr} (hm : s.hub.mgrActs o)
    (hc : (c = .sliceTeardown o sl ∧ s.hub.active sl = false) ∨ (c = .sliceHold o sl ∧ s.hub.stateOf sl ≠ slLIVE) ∨
      (c = .sliceRelease o sl ∧ s.hub.stateOf sl ≠ slHELD ∧ s.hub.stateOf sl ≠ slFAULT) ∨
      (c = .sliceReset o sl ∧ s.hub.stateOf sl ≠ slFAULT)) :
    exec c s = .next (s.withHub (s.hub.regOk.badCmd sl)) := by
  obtain ⟨hmgr, hbusy⟩ := hm
  rcases hc with ⟨rfl, hs⟩ | ⟨rfl, hs⟩ | ⟨rfl, hh, hf⟩ | ⟨rfl, hs⟩
  · rw [exec_sliceTeardown _ _ _ hbusy, Hub.mgrWrite_of _ _ _ hmgr, Hub.teardownSlice_of_not_active (h := s.hub.regOk) hs]
  · rw [exec_sliceHold _ _ _ hbusy, Hub.mgrWrite_of _ _ _ hmgr, Hub.holdSlice_of_not_live (h := s.hub.regOk) hs]
  · rw [exec_sliceRelease _ _ _ hbusy, Hub.mgrWrite_of _ _ _ hmgr, Hub.releaseSlice_of_not_held_fault (h := s.hub.regOk) hh hf]
  · rw [exec_sliceReset _ _ _ hbusy, Hub.mgrWrite_of _ _ _ hmgr, Hub.resetSlice_of_not_fault (h := s.hub.regOk) hs]

/-- Settles O9: each refused command is BAD_CMD on the hub that accepted the write, whose registers and frame are known. -/
theorem commandsInvalidInTheStateSetBadCmd : Obligations.CommandsInvalidInTheStateSetBadCmd := by
  intro s o sl c hm hc
  refine ⟨_, exec_sliceCommand_of_invalid hm hc, ?frame, Hub.flag_badCmd _ _, Hub.reg_badCmd_same _ _, fun a ha => Hub.reg_badCmd_ne _ _ ha⟩
  case frame => exact congrArg s.withHub (s.hub.regOk.badCmd_eq sl)

/-! ## Where SLM_SLICE_CTL stands in the register map -/

theorem rowFind_cons_of_none {r : RegRow} {a : Nat} (h : rowIdx r a = none) (l : List RegRow) : rowFind (r :: l) a = rowFind l a := by
  simp [rowFind, h]

theorem rowFind_cons_of_some {r : RegRow} {a : Nat} {ix : List Nat} (h : rowIdx r a = some ix) (l : List RegRow) :
    rowFind (r :: l) a = some (r, ix) := by simp [rowFind, h]

theorem rowFind_append (l m : List RegRow) (a : Nat) : rowFind (l ++ m) a = (rowFind l a).or (rowFind m a) := by
  induction l with
  | nil => rfl
  | cons r l ih =>
    cases h : rowIdx r a with
    | none => simpa [rowFind_cons_of_none h] using ih
    | some ix => simp [rowFind_cons_of_some h]

/-- The address `off` bytes into a slice's page is the slice's own register of a per-slice row where `off` is 0, and none of it elsewhere. -/
theorem rowIdx_perSlice {r : RegRow} {a off : Nat} (sl : SliceId) (hd : r.dims = [(4096, 0x1000)]) (ha : a = r.base + (0x1000 * sl + off))
    (ho : off < 0x1000) : rowIdx r a = if off = 0 then some [sl.val] else none := by
  have hdiv : (0x1000 * sl.val + off) / 0x1000 = sl.val := by omega
  have hmod : (0x1000 * sl.val + off) % 0x1000 = off := by omega
  simp only [ha, rowIdx, hd, dimIdx, Nat.le_add_right, Nat.add_sub_cancel_left, hdiv, hmod, sl.isLt, if_true]
  split_ifs <;> rfl

/-- The row of SLM_SLICE_CTL in the register map. -/
def sliceCtlRow : RegRow :=
  { name := .SLM_SLICE_CTL, base := 0x3f006000008, dims := [(4096, 0x1000)],
    flds := [(fSLM_SLICE_CTL_TEARDOWN, .wo), (fSLM_SLICE_CTL_HOLD, .wo), (fSLM_SLICE_CTL_RELEASE, .wo), (fSLM_SLICE_CTL_RESET, .wo)] }

theorem rowFind_top_sliceCtl (sl : Nat) : rowFind regRowsTOP (rSLM_SLICE_CTL sl) = none := by
  have h (b : Nat) (hb : b < 0x3f006000008) : ¬ rSLM_SLICE_CTL sl - b = 0 := by unfold rSLM_SLICE_CTL; omega
  simp [regRowsTOP, rowFind, rowIdx, dimIdx, h]

/-- In block SLM the address misses SLM_SLICE_STATE, 8 bytes before it in the page, and meets SLM_SLICE_CTL. -/
theorem rowFind_slm_sliceCtl (sl : SliceId) : rowFind regRowsSLM (rSLM_SLICE_CTL sl) = some (sliceCtlRow, [sl.val]) :=
  (rowFind_cons_of_none (rowIdx_perSlice sl (off := 8) rfl (by simp only [rSLM_SLICE_CTL]; omega) (by decide)) _).trans
    (rowFind_cons_of_some (rowIdx_perSlice sl (off := 0) rfl (by simp only [rSLM_SLICE_CTL]; omega) (by decide)) _)

theorem regFind_sliceCtl (sl : SliceId) : regFind (rSLM_SLICE_CTL sl) = some (sliceCtlRow, [sl.val]) := by
  unfold regFind regRows
  simp only [List.append_assoc]
  rw [rowFind_append, rowFind_top_sliceCtl, Option.none_or, rowFind_append, rowFind_slm_sliceCtl, Option.some_or]

/-! ## More than one command bit (R62) -/

theorem setBits_congr {n m w : Nat} (h : ∀ i < w, n.testBit i = m.testBit i) : setBits n w = setBits m w :=
  List.filter_congr fun i hi => h i (List.mem_range.mp hi)

/-- A 32-bit write of the low half carries the command bits of the value written. -/
theorem setBits_halfWord_lo (r : RegRow) (old v : Word) : setBits (halfWord r old false v).toNat 4 = setBits v.toNat 4 := by
  refine setBits_congr fun i hi => ?_
  have hmask : (0xffffffff00000000 : Word).getLsbD i = false := by interval_cases i <;> rfl
  have h32 : i < 32 := by omega
  have h64 : i < 64 := by omega
  simp only [halfWord, BitVec.testBit_toNat, Bool.false_eq_true, if_false, BitVec.getLsbD_or, BitVec.getLsbD_and, hmask, Bool.and_false,
    Bool.false_or, BitVec.getLsbD_ofNat, Nat.testBit_mod_two_pow, h32, h64, decide_true, Bool.true_and]

/-- A debug port on the bus is not in BYPASS, nor is any other sender. -/
theorem Hub.not_bypass {h : Hub} {o : Origin} (ht : o = .tap → h.onBus .tap = true) : ¬ (decide (o = .tap) && !h.onBus o) = true := by
  intro hb
  obtain ⟨rfl, hoff⟩ : o = .tap ∧ h.onBus o = false := by simpa using hb
  simp [ht rfl] at hoff

/-- Two commands at once get an error response, from a manager and from any other sender that gets one. -/
theorem Hub.writeSliceCtl_of_two {h : Hub} {o : Origin} {v : Word} (s : Nat) (ht : o = .tap → h.onBus .tap = true)
    (hv : 1 < (setBits v.toNat 4).length) : h.writeSliceCtl o s v = h.regErr := by
  unfold Hub.writeSliceCtl
  cases hm : h.isMgr o with
  | true => rw [Hub.mgrWrite_of _ _ _ hm]; exact if_pos hv
  | false => rw [Hub.mgrWrite_not _ _ _ hm, Hub.turnedAway, if_neg (Hub.not_bypass ht)]

/-- A write to SLM_SLICE_CTL, of either width, whose value sets more than one command bit. -/
theorem writeReg_sliceCtl_of_two (f : Fuses) {h : Hub} {o : Origin} (sl : SliceId) (w : RegWidth) {v : Word}
    (ht : o = .tap → h.onBus .tap = true) (hv : 1 < (setBits v.toNat 4).length) :
    writeReg f h o (rSLM_SLICE_CTL sl) w v = (f, h.regErr) := by
  have hbase : rSLM_SLICE_CTL sl / 8 * 8 = rSLM_SLICE_CTL sl := by unfold rSLM_SLICE_CTL; omega
  have hlow : rSLM_SLICE_CTL sl % 8 = 0 := by unfold rSLM_SLICE_CTL; omega
  unfold writeReg
  rw [if_neg (Hub.not_bypass ht)]
  dsimp only
  rw [hbase, regFind_sliceCtl]
  refine ite_eq_left_iff.mpr fun _ => congrArg (f, ·) (Hub.writeSliceCtl_of_two sl ht ?_)
  cases w with
  | w64 => exact hv
  | w32 => simpa [hlow, setBits_halfWord_lo] using hv

/-- Settles O10: the write finds the row of SLM_SLICE_CTL, or no row its sender reaches; either way it is an error response. -/
theorem twoSliceCommandsInOneWriteAreRefused : Obligations.TwoSliceCommandsInOneWriteAreRefused := by
  intro s o sl w v ht hv hb
  show onRegChip o s (fun f h => writeReg f h o (rSLM_SLICE_CTL sl) w v) = _
  simp [onRegChip, onChip, hb, writeReg_sliceCtl_of_two s.fuses sl w ht hv, State.withHub]

end Sys2Proof.Machine
end

section
/-! PROOFS. A commit that is refused, and a check that passes (R97, R99, R100): what SLM_COMMIT_STS and SLM_COMMIT_DETAIL show, and that
all else stays. -/

namespace Sys2Proof.Machine

/-! ## Vector 3 on the physical functions -/

/-- A vector raised on a port's physical functions changes the MSI-X state alone. -/
theorem Hub.raisePort_eq (h : Hub) (port vec : Nat) : h.raisePort port vec = { h with msix := (h.raisePort port vec).msix } := by
  have hlink (g : Hub) (k : Nat) : (if g.linkUsed k then g.raiseVec k fnPf vec else g) =
      { g with msix := (if g.linkUsed k then g.raiseVec k fnPf vec else g).msix } := by
    split_ifs
    · exact g.raiseVec_eq k fnPf vec
    · rfl
  exact (hlink _ (2 * port + 1)).trans
    (congrArg (fun g : Hub => { g with msix := (h.raisePort port vec).msix }) (hlink h (2 * port)))

/-! ## The end of a commit -/

theorem Hub.flag_of_fld_eq_one {h : Hub} {a : Nat} {f : Fld} (hf : h.fld a f = 1) : h.flag a f = true := by simp [Hub.flag, hf]

/-- The end of a commit changes PHASE and the MSI-X state, and no commit runs after it. -/
theorem Hub.commitOver_eq (h : Hub) :
    h.commitOver = { h with regs := (h.setF rSLM_COMMIT_STS fSLM_COMMIT_STS_PHASE 0).regs, msix := h.commitOver.msix, commitJob := none } :=
  (Hub.raisePort_eq _ 1 3).trans (congrArg (fun g : Hub => { g with msix := h.commitOver.msix }) (Hub.raisePort_eq _ 0 3))

theorem Hub.reg_commitOver (h : Hub) (a : Nat) : h.commitOver.reg a = (h.setF rSLM_COMMIT_STS fSLM_COMMIT_STS_PHASE 0).reg a := by
  rw [h.commitOver_eq]; rfl

theorem Hub.reg_commitOver_ne (h : Hub) {a : Nat} (ha : a ≠ rSLM_COMMIT_STS) : h.commitOver.reg a = h.reg a :=
  (h.reg_commitOver a).trans (h.reg_setF_ne _ _ ha)

theorem Hub.fld_commitOver_phase (h : Hub) : h.commitOver.fld rSLM_COMMIT_STS fSLM_COMMIT_STS_PHASE = 0 :=
  (congrArg (getFld · _) (h.reg_commitOver _)).trans (h.fld_setF_same ..)

/-- A field of SLM_COMMIT_STS above PHASE stays at the end of a commit. -/
theorem Hub.fld_commitOver_above (h : Hub) (f : Fld) (hf : f.lo + f.w ≤ 64 := by decide) (hl : 3 ≤ f.lo := by decide) :
    h.commitOver.fld rSLM_COMMIT_STS f = h.fld rSLM_COMMIT_STS f :=
  (congrArg (getFld · f) (h.reg_commitOver _)).trans (h.fld_setF_disj _ _ f 0 hf (.inl hl))

/-- A hub whose commit showed its outcome in the two registers alone: its end leaves every other register and the rest of the hub. -/
theorem Hub.commitOver_frame {h h1 : Hub} (hrest : h1 = { h with regs := h1.regs })
    (hreg : ∀ a, a ≠ rSLM_COMMIT_STS → a ≠ rSLM_COMMIT_DETAIL → h1.reg a = h.reg a) :
    h1.commitOver = { h with regs := h1.commitOver.regs, msix := h1.commitOver.msix, commitJob := none } ∧
      ∀ a, a ≠ rSLM_COMMIT_STS → a ≠ rSLM_COMMIT_DETAIL → h1.commitOver.reg a = h.reg a := by
  refine ⟨?rest, fun a hs hd => (h1.reg_commitOver_ne hs).trans (hreg a hs hd)⟩
  case rest =>
    have hover : h1.commitOver = { h1 with regs := h1.commitOver.regs, msix := h1.commitOver.msix, commitJob := none } := by
      rw [h1.commitOver_eq]
    exact hover.trans
      (congrArg (fun g : Hub => { g with regs := h1.commitOver.regs, msix := h1.commitOver.msix, commitJob := none }) hrest)

/-! ## A refusal -/

/-- SLM_COMMIT_STS with a refusal shown: its code, its record, and REFUSED. -/
def Hub.showRefused (h : Hub) (e : Refused) : Hub :=
  ((h.setF rSLM_COMMIT_STS fSLM_COMMIT_STS_CODE e.code).setF rSLM_COMMIT_STS fSLM_COMMIT_STS_RECORD (e.record.getD 0xFFFFFFFF)).setF
    rSLM_COMMIT_STS fSLM_COMMIT_STS_REFUSED 1

/-- A refusal shows itself in SLM_COMMIT_STS, and sets the three fields of SLM_COMMIT_DETAIL. -/
theorem Hub.exists_refuseCommit_eq (h : Hub) (e : Refused) : ∃ sl hw aux, h.refuseCommit e =
    (((h.showRefused e).setF rSLM_COMMIT_DETAIL fSLM_COMMIT_DETAIL_SLICE sl).setF rSLM_COMMIT_DETAIL fSLM_COMMIT_DETAIL_HUBWIDE hw).setF
      rSLM_COMMIT_DETAIL fSLM_COMMIT_DETAIL_AUX aux := ⟨_, _, _, rfl⟩

theorem Hub.refuseCommit_eq (h : Hub) (e : Refused) : h.refuseCommit e = { h with regs := (h.refuseCommit e).regs } := rfl

/-- Outside SLM_COMMIT_DETAIL a refusal is what SLM_COMMIT_STS shows of it. -/
theorem Hub.reg_refuseCommit_ne_detail (h : Hub) (e : Refused) {a : Nat} (hd : a ≠ rSLM_COMMIT_DETAIL) :
    (h.refuseCommit e).reg a = (h.showRefused e).reg a := by
  obtain ⟨sl, hw, aux, heq⟩ := h.exists_refuseCommit_eq e
  simp only [heq, Hub.reg_setF_ne _ _ _ hd]

theorem Hub.reg_refuseCommit_ne (h : Hub) (e : Refused) {a : Nat} (hs : a ≠ rSLM_COMMIT_STS) (hd : a ≠ rSLM_COMMIT_DETAIL) :
    (h.refuseCommit e).reg a = h.reg a := by
  simp only [h.reg_refuseCommit_ne_detail e hd, Hub.showRefused, Hub.reg_setF_ne _ _ _ hs]

theorem Hub.fld_refuseCommit_sts (h : Hub) (e : Refused) (f : Fld) :
    (h.refuseCommit e).fld rSLM_COMMIT_STS f = (h.showRefused e).fld rSLM_COMMIT_STS f :=
  congrArg (getFld · f) (h.reg_refuseCommit_ne_detail e (by decide))

theorem Hub.fld_showRefused_code (h : Hub) (e : Refused) :
    (h.showRefused e).fld rSLM_COMMIT_STS fSLM_COMMIT_STS_CODE = e.code % 256 :=
  (Hub.fld_setF_disj ..).trans ((Hub.fld_setF_disj ..).trans (Hub.fld_setF_same ..))

theorem Hub.fld_showRefused_record (h : Hub) (e : Refused) :
    (h.showRefused e).fld rSLM_COMMIT_STS fSLM_COMMIT_STS_RECORD = e.record.getD 0xFFFFFFFF % 2 ^ 32 :=
  (Hub.fld_setF_disj ..).trans (Hub.fld_setF_same ..)

theorem Hub.fld_showRefused_refused (h : Hub) (e : Refused) :
    (h.showRefused e).fld rSLM_COMMIT_STS fSLM_COMMIT_STS_REFUSED = 1 := Hub.fld_setF_same ..

/-! ## A pass -/

theorem Hub.passCommit_eq (h : Hub) : h.passCommit = { h with regs := h.passCommit.regs } := rfl

@[simp] theorem Hub.reg_passCommit_detail (h : Hub) : h.passCommit.reg rSLM_COMMIT_DETAIL = 0 := Hub.reg_setReg_same ..

theorem Hub.reg_passCommit_ne (h : Hub) {a : Nat} (hs : a ≠ rSLM_COMMIT_STS) (hd : a ≠ rSLM_COMMIT_DETAIL) :
    h.passCommit.reg a = h.reg a := by
  simp only [Hub.passCommit, Hub.reg_setReg_ne _ _ hd, Hub.reg_setF_ne _ _ _ hs]

theorem Hub.fld_passCommit_code (h : Hub) : h.passCommit.fld rSLM_COMMIT_STS fSLM_COMMIT_STS_CODE = 0 :=
  (Hub.fld_setReg_ne _ _ _ (by decide)).trans
    ((Hub.fld_setF_disj ..).trans ((Hub.fld_setF_disj ..).trans (Hub.fld_setF_same ..)))

theorem Hub.fld_passCommit_record (h : Hub) : h.passCommit.fld rSLM_COMMIT_STS fSLM_COMMIT_STS_RECORD = 0 :=
  (Hub.fld_setReg_ne _ _ _ (by decide)).trans ((Hub.fld_setF_disj ..).trans (Hub.fld_setF_same ..))

theorem Hub.fld_passCommit_done (h : Hub) : h.passCommit.fld rSLM_COMMIT_STS fSLM_COMMIT_STS_DONE = 1 :=
  (Hub.fld_setReg_ne _ _ _ (by decide)).trans (Hub.fld_setF_same ..)

/-! ## COMMIT_DONE with an image that can be read -/

theorem exec_commitDone (line : Nat) (ecc : Ecc) (s : State) :
    exec (.commitDone ⟨line, ecc⟩) s = .next (s.withHub (s.hub.commitDone s.fuses (atLine line ecc))) := rfl

section
variable {h : Hub} {f : Fuses} {ec : Nat → Ecc} {only : Bool} (hj : h.commitJob = some only) (hh : h.halted = false)
  (hw : h.imageWaits (h.fld rSLM_IMG_BASE fSLM_IMG_BASE_ADDR) ec 0x18 2097152 = false)
include hj hh hw

/-- A commit or a check whose image fails a check ends refused. -/
theorem Hub.commitDone_of_error {e : Refused}
    (hc : h.checkImage f (h.hbmReader (h.fld rSLM_IMG_BASE fSLM_IMG_BASE_ADDR) ec) = .error e) :
    h.commitDone f ec = (h.refuseCommit e).commitOver := by
  simp [Hub.commitDone, hj, hh, hw, hc]

/-- A check whose image passes ends without an effect of the image. -/
theorem Hub.commitDone_of_check_ok {p : Img × Forme} (ho : only = true)
    (hc : h.checkImage f (h.hbmReader (h.fld rSLM_IMG_BASE fSLM_IMG_BASE_ADDR) ec) = .ok p) :
    h.commitDone f ec = h.passCommit.commitOver := by
  simp [Hub.commitDone, hj, hh, hw, hc, ho]

end

/-- Settles O14: the hub ends as refused or as passed, both of which touch the two registers alone, and then its commit is over. -/
theorem commitsThatAreRefusedChangeNothingElse : Obligations.CommitsThatAreRefusedChangeNothingElse := by
  intro s line ecc only hj hh hw
  refine ⟨fun e hc => ?refused, fun p hc ho => ?passed⟩
  case refused =>
    obtain ⟨hrest, hreg⟩ := Hub.commitOver_frame (s.hub.refuseCommit_eq e) (fun _ hs hd => s.hub.reg_refuseCommit_ne e hs hd)
    refine ⟨_, exec_commitDone line ecc s, ?_⟩
    rw [Hub.commitDone_of_error hj hh hw hc]
    refine ⟨congrArg s.withHub hrest, hreg, ?code, ?flag, ?record, Hub.fld_commitOver_phase _⟩
    case code => exact (Hub.fld_commitOver_above ..).trans ((s.hub.fld_refuseCommit_sts e _).trans (s.hub.fld_showRefused_code e))
    case flag =>
      exact Hub.flag_of_fld_eq_one
        ((Hub.fld_commitOver_above ..).trans ((s.hub.fld_refuseCommit_sts e _).trans (s.hub.fld_showRefused_refused e)))
    case record => exact (Hub.fld_commitOver_above ..).trans ((s.hub.fld_refuseCommit_sts e _).trans (s.hub.fld_showRefused_record e))
  case passed =>
    obtain ⟨hrest, hreg⟩ := Hub.commitOver_frame s.hub.passCommit_eq (fun _ hs hd => s.hub.reg_passCommit_ne hs hd)
    refine ⟨_, exec_commitDone line ecc s, ?_⟩
    rw [Hub.commitDone_of_check_ok hj hh hw ho hc]
    refine ⟨congrArg s.withHub hrest, hreg, ?code, ?record, ?flag, ?detail, Hub.fld_commitOver_phase _⟩
    case code => exact (Hub.fld_commitOver_above ..).trans s.hub.fld_passCommit_code
    case record => exact (Hub.fld_commitOver_above ..).trans s.hub.fld_passCommit_record
    case flag => exact Hub.flag_of_fld_eq_one ((Hub.fld_commitOver_above ..).trans s.hub.fld_passCommit_done)
    case detail => exact (Hub.reg_commitOver_ne _ (by decide)).trans s.hub.reg_passCommit_detail

end Sys2Proof.Machine
end

section
/-! PROOFS. When an arrival counter has reached a target (R227). -/

namespace Sys2Proof.Machine

/-- A counter has reached a target when their difference as 64-bit words is below 2^63 (R227). -/
theorem Hub.acReached_iff (h : Hub) (s n : Nat) (t : Word) :
    h.acReached s n t = true ↔ (h.reg (rFAB_AC_n s n) - t).toNat < 2 ^ 63 := decide_eq_true_iff

/-- The difference of two words, as a number: one modulus added to the minuend keeps the natural subtraction from being cut off at 0. -/
theorem Word.toNat_sub_eq_add_modulus_sub (v t : Word) : (v - t).toNat = (v.toNat + 2 ^ 64 - t.toNat) % 2 ^ 64 := by
  rw [BitVec.toNat_sub, Nat.add_comm, Nat.add_sub_assoc t.isLt.le v.toNat]

/-- Settles O30: the model compares the difference of the two words, which is the spec's difference modulo 2^64. -/
theorem countersReachTheirTarget : Obligations.CountersReachTheirTarget := by
  intro h s n t
  rw [Hub.acReached_iff, Word.toNat_sub_eq_add_modulus_sub]

end Sys2Proof.Machine
end

section
/-! PROOFS. The fuses through every operation of the model that reaches them: a bit once set stays set (R439, R444, R449 to R451). -/

namespace Sys2Proof.Machine

/-! ## Bits and copies -/

@[simp] theorem bitsKept.refl {w : Nat} (a : BitVec w) : bitsKept a a := BitVec.and_self

theorem bitsKept.trans {w : Nat} {a b c : BitVec w} (hab : bitsKept a b) (hbc : bitsKept b c) : bitsKept a c := by
  unfold bitsKept at *
  rw [← hab, BitVec.and_assoc, hbc]

@[simp] theorem bitsKept_or {w : Nat} (a b : BitVec w) : bitsKept a (a ||| b) := by
  unfold bitsKept
  ext i hi
  simp only [BitVec.getElem_and, BitVec.getElem_or, Bool.and_or_distrib_left, Bool.and_self, Bool.or_eq_left_iff_imp,
    Bool.and_eq_true]
  exact And.left

@[simp] theorem bitsKept_allOnes {w : Nat} (a : BitVec w) : bitsKept a (BitVec.allOnes w) := BitVec.and_allOnes

@[simp] theorem copiesKept.refl {w : Nat} (v : Vector (BitVec w) 3) : copiesKept v v := fun _ => bitsKept.refl _

theorem copiesKept.trans {w : Nat} {u v x : Vector (BitVec w) 3} (huv : copiesKept u v) (hvx : copiesKept v x) : copiesKept u x :=
  fun i => (huv i).trans (hvx i)

@[simp] theorem copiesKept_progCopy {w : Nat} (v : Vector (BitVec w) 3) (took : Nat → BitVec w) : copiesKept v (progCopy v took) :=
  fun i => by simp [progCopy]

@[simp] theorem copiesKept_replicate_allOnes {w : Nat} (v : Vector (BitVec w) 3) :
    copiesKept v (Vector.replicate 3 (BitVec.allOnes w)) := fun i => by simp

/-! ## Rows and banks -/

@[simp] theorem FuseRow.kept.refl (r : FuseRow) : r.kept r := by simp [FuseRow.kept]

theorem FuseRow.kept.trans {a b c : FuseRow} (hab : a.kept b) (hbc : b.kept c) : a.kept c := by
  obtain ⟨hc, hi, he, hw⟩ := hab
  obtain ⟨hc', hi', he', hw'⟩ := hbc
  exact ⟨hc.trans hc', hi.trans hi', he.trans he', hw.trans hw'⟩

theorem Fuses.kept.refl (f : Fuses) : f.kept f := by simp [Fuses.kept]

theorem Fuses.kept.trans {a b c : Fuses} (hab : a.kept b) (hbc : b.kept c) : a.kept c := by
  obtain ⟨hr, ho, hc, hb⟩ := hab
  obtain ⟨hr', ho', hc', hb'⟩ := hbc
  exact ⟨fun i => (hr i).trans (hr' i), ho.trans ho', hc.trans hc', fun i => (hb i).trans (hb' i)⟩

/-- A vector with one entry replaced: what holds between each old entry and itself, and of the old and the new one, holds throughout. -/
theorem Vector.rel_setIfInBounds {α : Type} {n : Nat} {R : α → α → Prop} (hR : ∀ a, R a a) (v : Vector α n) (k : Nat) {d x : α}
    (hx : R (v.toList.getD k d) x) (i : Fin n) : R v[i] (v.setIfInBounds k x)[i] := by
  simp only [Fin.getElem_fin, Vector.getElem_setIfInBounds]
  split
  next h =>
    subst h
    simpa [List.getD_eq_getElem?_getD] using hx
  next => exact hR _

/-- A row replaced by one that keeps its bits keeps the fuses' bits. -/
theorem Fuses.kept_setRow (f : Fuses) (r : Nat) {x : FuseRow} (hx : (f.row r).kept x) : f.kept (f.setRow r x) :=
  ⟨Vector.rel_setIfInBounds FuseRow.kept.refl f.rows r hx, copiesKept.refl _, copiesKept.refl _, fun _ => copiesKept.refl _⟩

/-- A bank replaced by one that keeps its bits keeps the fuses' bits. -/
theorem Fuses.kept_setBank (f : Fuses) (b : Nat) {x : Vector (BitVec 384) 3}
    (hx : copiesKept (f.banks.toList.getD b (Vector.replicate 3 0)) x) : f.kept { f with banks := f.banks.setIfInBounds b x } :=
  ⟨fun _ => FuseRow.kept.refl _, copiesKept.refl _, copiesKept.refl _, Vector.rel_setIfInBounds copiesKept.refl f.banks b hx⟩

/-! ## Programming (R444) -/

theorem Fuses.kept_progTarget (f : Fuses) (h : Hub) (t : Nat) (took : Nat → BitVec 384) : f.kept (f.progTarget h t took) := by
  unfold Fuses.progTarget
  split
  · simp [Fuses.kept]
  · split
    · simp [Fuses.kept]
    · exact f.kept_setBank _ (copiesKept_progCopy _ _)

theorem kept_progDone (f : Fuses) (h : Hub) (ok : Bool) : f.kept (progDone f h ok).1 := by
  unfold progDone
  dsimp only
  split
  · exact .refl f
  · split_ifs
    · exact .refl f
    · exact .refl f
    · exact .refl f
    · exact f.kept_progTarget ..
    · exact f.kept_progTarget ..

theorem kept_cutProg (f : Fuses) (h : Hub) : f.kept (cutProg f h) := by
  unfold cutProg
  split
  · exact .refl f
  · split_ifs
    · exact .refl f
    · exact f.kept_progTarget ..

/-! ## State rows (R449 to R451) -/

theorem Fuses.kept_markIntent (f : Fuses) (r : Nat) : f.kept (f.markIntent r) :=
  f.kept_setRow r ⟨copiesKept.refl _, bitsKept_allOnes _, bitsKept.refl _, bitsKept.refl _⟩

theorem Fuses.kept_eraseBank (f : Fuses) (r : Nat) : f.kept (f.eraseBank r) := by
  unfold Fuses.eraseBank
  split_ifs
  · exact f.kept_setBank _ (copiesKept_replicate_allOnes _)
  · exact .refl f

/-- The code is programmed over what a copy holds, or the copy is left. -/
theorem FuseRow.kept_completeRow (r : Nat) (stuck : List Nat) (x : FuseRow) : x.kept (completeRow r stuck x) := by
  refine ⟨fun i => ?copy, bitsKept.refl _, bitsKept_allOnes _, bitsKept.refl _⟩
  simp only [completeRow, Fin.getElem_fin, Vector.getElem_ofFn]
  split_ifs
  · exact bitsKept_or _ _
  · exact bitsKept.refl _

theorem kept_resumeRow (f : Fuses) (h : Hub) (stuck : List Nat) : f.kept (resumeRow f h stuck).1 := by
  unfold resumeRow
  split
  · exact .refl f
  next r _ =>
    have hx := FuseRow.kept_completeRow r stuck ((f.eraseBank r).row r)
    dsimp only
    split_ifs
    · exact (f.kept_eraseBank r).trans ((f.eraseBank r).kept_setRow r
        (hx.trans ⟨copiesKept.refl _, bitsKept.refl _, bitsKept.refl _, bitsKept_allOnes _⟩))
    · exact (f.kept_eraseBank r).trans ((f.eraseBank r).kept_setRow r hx)

/-- Step 2 of a start resumes the pending row and programs nothing else. -/
theorem kept_startState (f : Fuses) (h : Hub) (e : BootEnv) : f.kept (startState f h e).1 := kept_resumeRow f h e.stuckCopies

/-! ## Starts and resets -/

theorem kept_powerOn (f : Fuses) (h : Hub) (e : BootEnv) : f.kept (powerOn f h e).1 := by
  unfold powerOn
  extract_lets
  split
  · exact .refl f
  · dsimp only
    split <;> exact kept_startState ..

theorem kept_warmReset (f : Fuses) (h : Hub) (cause source kind : Nat) (e : BootEnv) : f.kept (warmReset f h cause source kind e).1 := by
  unfold warmReset
  split
  · exact .refl f
  · dsimp only
    split <;> exact kept_startState ..

theorem kept_hubReset (f : Fuses) (h : Hub) (cause source kind : Nat) (e : BootEnv) : f.kept (hubReset f h cause source kind e).1 :=
  kept_warmReset ..

theorem kept_transitionDone (f : Fuses) (h : Hub) (intentOk : Bool) (e : BootEnv) : f.kept (transitionDone f h intentOk e).1 := by
  unfold transitionDone
  split
  · exact .refl f
  · split
    · exact .refl f
    · exact (f.kept_markIntent _).trans (kept_warmReset ..)

theorem kept_pwrCtl (f : Fuses) (h : Hub) (o : Origin) (v : Word) (e : BootEnv) : f.kept (pwrCtl f h o v e).1 := by
  unfold pwrCtl
  split
  · exact .refl f
  · split
    · exact .refl f
    · exact kept_warmReset ..

/-! ## Fault messages -/

theorem kept_react (f : Fuses) (h : Hub) (m : FaultMsg) (b : Nat) (e : BootEnv) : f.kept (react f h m b e).1 := by
  unfold react
  extract_lets
  split
  · exact kept_hubReset ..
  · exact .refl f

theorem kept_applyFault (f : Fuses) (h : Hub) (r : FaultRec) (st : Stored) (e : BootEnv) : f.kept (applyFault f h r st e).1 := by
  unfold applyFault
  extract_lets
  split
  · exact .refl f
  · split
    · exact kept_react ..
    · split
      · exact kept_react ..
      · exact kept_hubReset ..

theorem kept_faultMessage (f : Fuses) (h : Hub) (i : Nat) (e : BootEnv) : f.kept (faultMessage f h i e).1 := by
  fun_cases faultMessage f h i e with
  | case1 _ => exact .refl f
  | case2 m _ _ r st h2 _ => exact kept_applyFault f h2 r st e

/-! ## Register writes, the TAP and host requests -/

theorem kept_ite {f : Fuses} {c : Prop} [Decidable c] {a b : Fuses × Hub} (ha : f.kept a.1) (hb : f.kept b.1) :
    f.kept (if c then a else b).1 := by
  split
  · exact ha
  · exact hb

/-- PWR_CTL is the one register whose write reaches the fuses: its WARM may resume a row. -/
theorem eq_pwrCtl_or_fst_writeRow (f : Fuses) (h : Hub) (o : Origin) (n : RegName) (ix : List Nat) (a : Nat) (v : Word) :
    n = .PWR_CTL ∨ (writeRow f h o n ix a v).1 = f := by
  rcases ix with _ | ⟨_, _ | ⟨_, _ | _⟩⟩ <;> cases n with
    | PWR_CTL => exact .inl rfl
    | _ => exact .inr rfl

theorem kept_writeRow (f : Fuses) (h : Hub) (o : Origin) (n : RegName) (ix : List Nat) (a : Nat) (v : Word) :
    f.kept (writeRow f h o n ix a v).1 := by
  rcases eq_pwrCtl_or_fst_writeRow f h o n ix a v with rfl | hf
  · exact kept_pwrCtl ..
  · rw [hf]
    exact .refl f

theorem kept_writeReg (f : Fuses) (h : Hub) (o : Origin) (a : Nat) (w : RegWidth) (v : Word) : f.kept (writeReg f h o a w v).1 := by
  unfold writeReg
  refine kept_ite (.refl f) (kept_ite (.refl f) ?_)
  cases regFind (a / 8 * 8) with
  | none => exact .refl f
  | some r => exact kept_writeRow ..

theorem kept_tapDo (f : Fuses) (h : Hub) (op : TapOp) (e : BootEnv) : f.kept (tapDo f h op e).1 := by
  cases op with
  | boundary drives => exact kept_ite (kept_warmReset ..) (.refl f)
  | regRead a => exact kept_ite (.refl f) (.refl f)
  | regWrite a v => exact kept_writeReg ..
  | kelvyHalt => exact .refl f
  | kelvyStep => exact .refl f
  | scanDump => exact .refl f

theorem kept_hostRegister (f : Fuses) (h : Hub) (fn : HostFn) (q : Req) : f.kept (hostRegister f h fn q).1 := by
  unfold hostRegister
  extract_lets
  split
  · split
    · exact kept_writeReg ..
    · exact .refl f
  · split <;> exact .refl f

theorem kept_foldl {α : Type} {g : Fuses × Hub → α → Fuses × Hub} (hg : ∀ (r : Fuses × Hub) x, r.1.kept (g r x).1)
    (l : List α) : ∀ r : Fuses × Hub, r.1.kept (l.foldl g r).1 := by
  induction l with
  | nil => exact fun r => .refl r.1
  | cons x l ih => exact fun r => (hg r x).trans (ih (g r x))

theorem kept_hostPump (f : Fuses) (h : Hub) : f.kept (hostPump f h).1 := by
  refine kept_foldl (fun r i => ?_) _ (f, h)
  cases r.2.req i with
  | none => exact .refl r.1
  | some q =>
    dsimp only
    cases q.src with
    | host fn => exact kept_ite (kept_ite (kept_hostRegister ..) (.refl r.1)) (.refl r.1)
    | _ => exact .refl r.1

theorem kept_hostIn (f : Fuses) (h : Hub) (fn : HostFn) (op : HostOp) (walk : List Word) (ecc : Ecc) : f.kept (hostIn f h fn op walk ecc).1 := by
  unfold hostIn
  split
  refine kept_ite (.refl f) (kept_ite (.refl f) ?_)
  extract_lets
  split
  · exact .refl f
  · exact .refl f
  · exact .refl f
  · exact kept_hostPump ..
  · exact kept_ite (.refl f) (kept_hostPump ..)

theorem kept_hostAtomic (f : Fuses) (h : Hub) (fn : HostFn) (k : HostAtomic) (bar off size : Nat) (opd cmp : Word) (walk : List Word)
    (ecc : Ecc) : f.kept (hostAtomic f h fn k bar off size opd cmp walk ecc).1 := by
  unfold hostAtomic
  refine kept_ite (.refl f) (kept_ite (.refl f) ?_)
  extract_lets
  split
  · exact .refl f
  · exact .refl f
  · exact .refl f
  · exact .refl f
  · exact kept_ite (.refl f) (kept_hostPump ..)

/-! ## Every command -/

/-- Every command answers a next state, with the queue as it stood and every fuse bit that was set: but for those named here, each
meaning changes the hub alone. -/
theorem exec_next (c : Instr) (s : State) : ∃ t, exec c s = .next t ∧ t.pending = s.pending ∧ s.fuses.kept t.fuses := by
  cases c with
  | powerOnReset e => exact ⟨_, rfl, rfl, (kept_cutProg ..).trans (kept_powerOn ..)⟩
  | warmReset e => exact ⟨_, rfl, rfl, kept_warmReset ..⟩
  | powerLoss => exact ⟨_, rfl, rfl, kept_cutProg ..⟩
  | kelvyWarmResetRequest o e => exact ⟨_, rfl, rfl, kept_ite (.refl _) (kept_pwrCtl ..)⟩
  | registerWrite o a w v => exact ⟨_, rfl, rfl, kept_ite (.refl _) (kept_writeReg ..)⟩
  | tapInstruction op e => exact ⟨_, rfl, rfl, kept_tapDo ..⟩
  | fuseProgramDone ok => exact ⟨_, rfl, rfl, kept_progDone ..⟩
  | transitionChecksDone ok e => exact ⟨_, rfl, rfl, kept_transitionDone ..⟩
  | faultMessage i e => exact ⟨_, rfl, rfl, kept_faultMessage ..⟩
  | hostRequest fn op walk ecc => exact ⟨_, rfl, rfl, kept_hostIn ..⟩
  | hostAtomicop fn k bar off size opd cmp walk ecc => exact ⟨_, rfl, rfl, kept_hostAtomic ..⟩
  | channelRetrain o ch => cases o <;> exact ⟨_, rfl, rfl, .refl _⟩
  | _ => exact ⟨_, rfl, rfl, .refl _⟩

theorem step_of_pending {s : State} {c : Instr} {cs : List Instr} (hp : s.pending = c :: cs) : step s = exec c { s with pending := cs } := by
  simp only [step, hp]

theorem step_of_idle {s : State} (hp : s.pending = []) : step s = onChip s idleTick := by simp only [step, hp]

/-- Settles O1: the two cases of the step are its two equations, and no command touches the queue. -/
theorem stepRunsTheFrontCommand : Obligations.StepRunsTheFrontCommand := by
  refine ⟨⟨fun c cs s => step_of_pending, fun s => step_of_idle⟩, fun c s => ?_⟩
  obtain ⟨t, ht, hp, -⟩ := exec_next c s
  exact ⟨t, ht, hp⟩

/-- A step keeps every fuse bit that is set, whether a command runs or the hub idles. -/
theorem step_kept {s t : State} (h : step s = .next t) : s.fuses.kept t.fuses := by
  cases hp : s.pending with
  | nil =>
    rw [step_of_idle hp] at h
    cases h
    exact kept_hostPump ..
  | cons c cs =>
    rw [step_of_pending hp] at h
    obtain ⟨u, hu, -, hk⟩ := exec_next c { s with pending := cs }
    cases hu.symm.trans h
    exact hk

/-- Settles O2: what the step keeps includes every bit kept so far. -/
theorem noStepClearsAFuseBit : Obligations.NoStepClearsAFuseBit := fun _ _ _ hf h => hf.trans (step_kept h)

end Sys2Proof.Machine
end

section
/-! PROOFS. Galley words (R119, R122, R488): every well-formed instruction is read back from its word, and a word is read only so. -/

namespace Sys2Proof.Machine

/-! ## The classes whose operation field is an operand of the instruction -/

theorem aluCode_lt (op : AluOp) : aluCode op < 16 := by cases op <;> decide
theorem localCode_lt (op : LocalOp) : localCode op < 16 := by cases op <;> decide
theorem vecCode_lt (op : VecOp) : vecCode op < 16 := by cases op <;> decide
theorem chanCode_lt (op : ChanOp) : chanCode op < 16 := by cases op <;> decide
theorem fabCode_lt (op : FabOp) : fabCode op < 16 := by cases op <;> decide

theorem ginstrFields_alu {n : Nat} (op : AluOp) (hc : bits n 63 60 = 1) (ho : bits n 59 56 = aluCode op) :
    ginstrFields n = some (.alu op (bits n 55 51) (bits n 50 46) (bits n 45 41) (bits n 31 0)) := by
  cases op <;> simp only [ginstrFields, hc, ho, aluCode, aluOf, Option.map_some]

theorem ginstrFields_loc {n : Nat} (op : LocalOp) (hc : bits n 63 60 = 2) (ho : bits n 59 56 = localCode op) :
    ginstrFields n = some (.loc op (bits n 55 51) (bits n 50 46) (bits n 15 0)) := by
  cases op <;> simp only [ginstrFields, hc, ho, localCode, localOf, Option.map_some]

theorem ginstrFields_vec {n : Nat} (op : VecOp) (hc : bits n 63 60 = 4) (ho : bits n 59 56 = vecCode op) :
    ginstrFields n = some (.vec op (bits n 55 51) (bits n 50 46) (bits n 45 41) (bits n 40 36) (bits n 35 25) (bits n 24 21)
      (bits n 20 20)) := by
  cases op <;> simp only [ginstrFields, hc, ho, vecCode, vecOf, Option.map_some]

theorem ginstrFields_chan {n : Nat} (op : ChanOp) (hc : bits n 63 60 = 6) (ho : bits n 59 56 = chanCode op) :
    ginstrFields n = some (.chan op (bits n 55 54) (bits n 53 52) (bits n 51 47) (bits n 46 36)) := by
  cases op <;> simp only [ginstrFields, hc, ho, chanCode, chanOf, Option.map_some]

theorem ginstrFields_fab {n : Nat} (op : FabOp) (hc : bits n 63 60 = 7) (ho : bits n 59 56 = fabCode op) :
    ginstrFields n = some (.fab op (bits n 55 51) (bits n 50 46) (bits n 45 41) (bits n 40 37) (bits n 36 33) (bits n 32 28)) := by
  cases op <;> simp only [ginstrFields, hc, ho, fabCode, fabOf, Option.map_some]

/-! ## Reading a word back -/

/-- The fields of a well-formed instruction's word are the instruction's own: each lies in bits that no other field reaches. -/
theorem ginstrFields_code {i : GInstr} (h : i.wf = true) : ginstrFields i.code = some i := by
  generalize hn : i.code = n
  cases i with
  | nop => subst hn; rfl
  | sheet => subst hn; rfl
  | end_ => subst hn; rfl
  | loop lvl creg body count =>
    simp only [GInstr.wf, GInstr.code, Bool.and_eq_true, decide_eq_true_eq] at h hn
    obtain ⟨hc, ho⟩ : bits n 63 60 = 0 ∧ bits n 59 56 = 1 := by simp only [bits]; omega
    simp only [ginstrFields, hc, ho]
    simp only [bits]
    congr <;> omega
  | br cond ra target =>
    simp only [GInstr.wf, GInstr.code, Bool.and_eq_true, decide_eq_true_eq] at h hn
    obtain ⟨hc, ho⟩ : bits n 63 60 = 0 ∧ bits n 59 56 = 2 := by simp only [bits]; omega
    simp only [ginstrFields, hc, ho]
    simp only [bits]
    congr <;> omega
  | waitu units =>
    simp only [GInstr.wf, GInstr.code, decide_eq_true_eq] at h hn
    obtain ⟨hc, ho⟩ : bits n 63 60 = 0 ∧ bits n 59 56 = 5 := by simp only [bits]; omega
    simp only [ginstrFields, hc, ho]
    simp only [bits]
    congr
    omega
  | waitac ra rb =>
    simp only [GInstr.wf, GInstr.code, Bool.and_eq_true, decide_eq_true_eq] at h hn
    obtain ⟨hc, ho⟩ : bits n 63 60 = 0 ∧ bits n 59 56 = 6 := by simp only [bits]; omega
    simp only [ginstrFields, hc, ho]
    simp only [bits]
    congr <;> omega
  | lih rd imm =>
    simp only [GInstr.wf, GInstr.code, Bool.and_eq_true, decide_eq_true_eq] at h hn
    obtain ⟨hc, ho⟩ : bits n 63 60 = 1 ∧ bits n 59 56 = 10 := by simp only [bits]; omega
    simp only [ginstrFields, hc, ho]
    simp only [bits]
    congr <;> omega
  | tcfg set w =>
    simp only [GInstr.wf, GInstr.code, Bool.and_eq_true, decide_eq_true_eq] at h hn
    obtain ⟨hc, ho⟩ : bits n 63 60 = 3 ∧ bits n 59 56 = 0 := by simp only [bits]; omega
    simp only [ginstrFields, hc, ho]
    simp only [bits]
    congr <;> omega
  | tmma fmt exactSum sparse set zr ra rb rc rd nblk =>
    simp only [GInstr.wf, GInstr.code, Bool.and_eq_true, decide_eq_true_eq] at h hn
    obtain ⟨hc, ho⟩ : bits n 63 60 = 3 ∧ bits n 59 56 = 1 := by simp only [bits]; omega
    simp only [ginstrFields, hc, ho]
    simp only [bits]
    congr <;> omega
  | tdrain ofmt sat set zr ra =>
    simp only [GInstr.wf, GInstr.code, Bool.and_eq_true, decide_eq_true_eq] at h hn
    obtain ⟨hc, ho⟩ : bits n 63 60 = 3 ∧ bits n 59 56 = 2 := by simp only [bits]; omega
    simp only [ginstrFields, hc, ho]
    simp only [bits]
    congr <;> omega
  | taddx set ra =>
    simp only [GInstr.wf, GInstr.code, Bool.and_eq_true, decide_eq_true_eq] at h hn
    obtain ⟨hc, ho⟩ : bits n 63 60 = 3 ∧ bits n 59 56 = 3 := by simp only [bits]; omega
    simp only [ginstrFields, hc, ho]
    simp only [bits]
    congr <;> omega
  | tstat rd =>
    simp only [GInstr.wf, GInstr.code, decide_eq_true_eq] at h hn
    obtain ⟨hc, ho⟩ : bits n 63 60 = 3 ∧ bits n 59 56 = 4 := by simp only [bits]; omega
    simp only [ginstrFields, hc, ho]
    simp only [bits]
    congr
    omega
  | gr ifmt red wfmt ra =>
    simp only [GInstr.wf, GInstr.code, Bool.and_eq_true, decide_eq_true_eq] at h hn
    obtain ⟨hc, ho⟩ : bits n 63 60 = 5 ∧ bits n 59 56 = 0 := by simp only [bits]; omega
    simp only [ginstrFields, hc, ho]
    simp only [bits]
    congr <;> omega
  | alu op rd ra rb imm =>
    simp only [GInstr.wf, GInstr.code, Bool.and_eq_true, decide_eq_true_eq] at h hn
    have hop := aluCode_lt op
    rw [ginstrFields_alu op (by simp only [bits]; omega) (by simp only [bits]; omega)]
    simp only [bits]
    congr <;> omega
  | loc op rd ra off =>
    simp only [GInstr.wf, GInstr.code, Bool.and_eq_true, decide_eq_true_eq] at h hn
    have hop := localCode_lt op
    rw [ginstrFields_loc op (by simp only [bits]; omega) (by simp only [bits]; omega)]
    simp only [bits]
    congr <;> omega
  | vec op rd ra rb rc count fmt sat =>
    simp only [GInstr.wf, GInstr.code, Bool.and_eq_true, decide_eq_true_eq] at h hn
    obtain ⟨⟨⟨⟨h, -⟩, -⟩, -⟩, -⟩ := h
    have hop := vecCode_lt op
    rw [ginstrFields_vec op (by simp only [bits]; omega) (by simp only [bits]; omega)]
    simp only [bits]
    congr <;> omega
  | chan op dir dir2 ra count =>
    simp only [GInstr.wf, GInstr.code, Bool.and_eq_true, decide_eq_true_eq] at h hn
    obtain ⟨h, -⟩ := h
    have hop := chanCode_lt op
    rw [ginstrFields_chan op (by simp only [bits]; omega) (by simp only [bits]; omega)]
    simp only [bits]
    congr <;> omega
  | fab op ra rb rc ctx aop rd =>
    simp only [GInstr.wf, GInstr.code, Bool.and_eq_true, decide_eq_true_eq] at h hn
    obtain ⟨h, -⟩ := h
    have hop := fabCode_lt op
    rw [ginstrFields_fab op (by simp only [bits]; omega) (by simp only [bits]; omega)]
    simp only [bits]
    congr <;> omega

/-- Settles O3: the fields are read back, and the instruction they make is well formed and encodes to the word. -/
theorem galleyWordsReadBack : Obligations.GalleyWordsReadBack := by
  intro i h
  simp [ginstrOf, ginstrFields_code h, h]

/-! ## What a word is read as -/

theorem ginstrOf_eq_some_iff {n : Nat} {i : GInstr} : ginstrOf n = some i ↔ i.wf = true ∧ i.code = n := by
  constructor
  · intro h
    unfold ginstrOf at h
    split at h
    next j _ =>
      split at h
      next hj =>
        cases h
        simpa using hj
      next => cases h
    next => cases h
  · rintro ⟨hw, rfl⟩
    exact galleyWordsReadBack i hw

/-- Settles O4: a word is read as an instruction where that instruction is well formed and encodes to it, and so are the samples. -/
theorem galleyWordsReadOnlyAsEncoded : Obligations.GalleyWordsReadOnlyAsEncoded := by
  refine ⟨fun n i h => ginstrOf_eq_some_iff.mp h, ?samples⟩
  case samples => decide

end Sys2Proof.Machine
end

section
/-! PROOFS. Rules that the parts below share: commands of managers and of slices, counting fields, and cells set twice. -/

namespace Sys2Proof.Machine

/-! ## Register commands whose sender may act -/

theorem Hub.mgrActs.isMgr {h : Hub} {o : Origin} (hm : h.mgrActs o) : h.isMgr o = true := hm.1

theorem Hub.mgrActs.notBusy {h : Hub} {o : Origin} (hm : h.mgrActs o) : h.hostBusy o = false := hm.2

/-- A command on a register of the managers, from one that acts. -/
theorem onReg_mgrWrite {s : State} {o : Origin} {f : Hub → Hub} (hm : s.hub.mgrActs o) :
    onReg o s (fun h => h.mgrWrite o f) = .next (s.withHub (f s.hub)) := by
  rw [onReg_of hm.notBusy, Hub.mgrWrite_of _ _ _ hm.isMgr]

/-- A command on a register of a slice's pages, from one that acts. -/
theorem onReg_sliceWrite {s : State} {o : Origin} {sl : Nat} {f : Hub → Hub} (hm : s.hub.sliceActs o sl) :
    onReg o s (fun h => h.sliceWrite o sl f) = .next (s.withHub (f s.hub)) := by
  rw [onReg_of hm.2, Hub.sliceWrite_of _ _ _ _ hm.1]

/-! ## Registers read and counted -/

theorem Hub.reg_congr {h k : Hub} (hr : h.regs = k.regs) (a : Nat) : h.reg a = k.reg a := by simp only [Hub.reg, hr]

theorem Hub.fld_congr {h k : Hub} (hr : h.regs = k.regs) (a : Nat) (f : Fld) : h.fld a f = k.fld a f := by
  simp only [Hub.fld, Hub.reg_congr hr]

/-- A counted field saturates at its width. -/
theorem Hub.fld_count_same (h : Hub) (a : Nat) (f : Fld) (n : Nat) (hf : f.lo + f.w ≤ 64) :
    (h.count a f n).fld a f = min (h.fld a f + n) (2 ^ f.w - 1) := by
  have hp : 0 < 2 ^ f.w := Nat.two_pow_pos _
  rw [Hub.count, Hub.fld_setF_same _ _ _ _ hf, satAdd, Nat.mod_eq_of_lt (by omega)]

/-! ## Cells set twice -/

/-- A running cell set to a running state, and set again, is set once: it does not come to rest between. -/
theorem Hub.setCell_setCell_of_running {h : Hub} {c : Nat} {x : Cell} (y : Cell) (hc : (h.cell c).run = .running)
    (hx : x.run = .running) : (h.setCell c x).setCell c y = h.setCell c y := by
  have hxr : x.atRest = false := by simp only [Cell.atRest, hx]
  have hcr : (h.cell c).atRest = false := by simp only [Cell.atRest, hc]
  have hcells : mapPutD {} (h.setCell c x).cells c y = mapPutD {} h.cells c y := mapPutD_mapPutD _ _ _ _ (Cell.ne_blank_of_running hx)
  unfold Hub.setCell at hcells ⊢
  simp only [hcells, hxr, hcr, Bool.false_and, Bool.false_eq_true, if_false]
  simp only [Hub.cell, mapGetD_mapPutD_same, hxr]

end Sys2Proof.Machine
end

section
/-! PROOFS. The sequencer (R116, R119 to R121, R147, R168, R228, R229): instructions that go on, that branch and that wait. -/

namespace Sys2Proof.Machine

/-! ## Instructions issued where their cell stands at them -/

/-- A meaning that issues: where the check finds nothing, the effect that `pick` gives for the instruction the cell stands at. -/
theorem onHub_issue {s : State} {c : Nat} {i : GInstr} {z : Hazard} {pick : GInstr → Option (Hub → Hub)} {f : Hub → Hub}
    (hs : s.hub.standsAt c i) (hp : pick i = some f) (hz : z = .clean ∨ z = .residue) :
    onHub s (fun h => h.issue c z false pick) = .next (s.withHub (f s.hub)) := by
  have hi : s.hub.issue c z false pick = f s.hub := by
    rw [Hub.issue_of hs hp, Hub.hazard_of (hz.imp id fun h => ⟨h, rfl⟩)]
  rw [← hi]
  rfl

/-- The same for an instruction that changes its own cell alone and goes on. -/
theorem onHub_issue_goOn {s : State} {c : Nat} {i : GInstr} {z : Hazard} {pick : GInstr → Option (Hub → Hub)} {f : Cell → Cell}
    (hs : s.hub.standsAt c i) (hp : pick i = some (fun h => h.goOn c f)) (hz : z = .clean ∨ z = .residue) (hg : s.hub.goesOn c)
    (hl : (f (s.hub.cell c)).loops = (s.hub.cell c).loops) (hk : (f (s.hub.cell c)).galley = (s.hub.cell c).galley) :
    onHub s (fun h => h.issue c z false pick) = .next (s.cellPast c (f (s.hub.cell c))) := by
  rw [onHub_issue hs hp hz, Hub.goOn_of hg hl hk]
  rfl

/-! ## Scalar registers -/

@[simp] theorem Cell.setR_zero (x : Cell) (v : Word) : x.setR 0 v = x := rfl

@[simp] theorem Cell.r_zero (x : Cell) : x.r 0 = 0 := rfl

theorem Cell.setR_of_ne {i : Nat} (x : Cell) (v : Word) (hi : i ≠ 0) : x.setR i v = { x with regs := x.regs.setIfInBounds i v } := if_neg hi

theorem Cell.r_setR_same {i : Nat} (x : Cell) (v : Word) (hi : i < 32) (h0 : i ≠ 0) : (x.setR i v).r i = v := by
  simp [Cell.setR_of_ne x v h0, Cell.r, h0, List.getD_eq_getElem?_getD, hi]

theorem Cell.r_setR_ne {i j : Nat} (x : Cell) (v : Word) (h0 : i ≠ 0) (hj : j ≠ i) : (x.setR i v).r j = x.r j := by
  simp [Cell.setR_of_ne x v h0, Cell.r, List.getD_eq_getElem?_getD, hj.symm]

@[simp] theorem Cell.loops_setR (x : Cell) (i : Nat) (v : Word) : (x.setR i v).loops = x.loops := by
  unfold Cell.setR
  split <;> rfl

@[simp] theorem Cell.galley_setR (x : Cell) (i : Nat) (v : Word) : (x.setR i v).galley = x.galley := by
  unfold Cell.setR
  split <;> rfl

/-! ## SCALAR -/

/-- A scalar operation where its cell stands at it. -/
theorem onHub_alu {s : State} {c rd ra rb imm : Nat} {z : Hazard} {op : AluOp} (hz : z = .clean ∨ z = .residue) (hg : s.hub.goesOn c)
    (hs : s.hub.standsAt c (.alu op rd ra rb imm)) :
    onHub s (fun h => h.alu op c z) =
      .next (s.cellPast c ((s.hub.cell c).setR rd (aluVal op ((s.hub.cell c).r ra) ((s.hub.cell c).r rb + sextImm imm)))) :=
  onHub_issue_goOn (f := fun x => x.setR rd (aluVal op (x.r ra) (x.r rb + sextImm imm))) hs (if_pos rfl) hz hg
    (Cell.loops_setR ..) (Cell.galley_setR ..)

/-- Settles O16: the ten operations are one rule, LIH goes on in the same way, and s0 and the registers read as written. -/
theorem scalarInstructionsWriteTheirResult : Obligations.ScalarInstructionsWriteTheirResult := by
  refine ⟨?issued, fun x v => ⟨x.setR_zero v, x.r_zero⟩, fun x v i j hi h0 => ⟨x.r_setR_same v hi h0, x.r_setR_ne v h0⟩⟩
  rintro s c z rd ra rb imm x a b hz hg rfl rfl rfl
  refine ⟨onHub_alu hz hg, onHub_alu hz hg, onHub_alu hz hg, onHub_alu hz hg, onHub_alu hz hg, onHub_alu hz hg, onHub_alu hz hg,
    onHub_alu hz hg, onHub_alu hz hg, onHub_alu hz hg, fun hs => ?lih⟩
  case lih =>
    exact onHub_issue_goOn (f := fun x => x.setR rd (BitVec.ofNat 64 ((x.r rd).toNat % 2 ^ 32 + imm * 2 ^ 32))) hs rfl hz hg
      (Cell.loops_setR ..) (Cell.galley_setR ..)

/-! ## LOCAL -/

/-- A scratch access of the sequencer where its cell stands at it. -/
theorem onHub_localOp {s : State} {c rd ra off : Nat} {z : Hazard} {op : LocalOp} (hz : z = .clean ∨ z = .residue)
    (hs : s.hub.standsAt c (.loc op rd ra off)) :
    onHub s (fun h => h.localOp op c z) = .next (s.withHub (s.hub.localAt op c rd ra off)) :=
  onHub_issue (f := fun h => h.localAt op c rd ra off) hs (if_pos rfl) hz

theorem scratchOk_iff {a n al : Nat} : scratchOk a n al = true ↔ a + n ≤ 0x10000 ∧ a % al = 0 := by simp [scratchOk]

section
variable {s : State} {c rd ra off : Nat}

/-- A load whose operand is good. -/
theorem Hub.localAt_load {op : LocalOp} (hop : op = .ld8 ∨ op = .ld4) (hg : s.hub.goesOn c)
    (ha : scratchOk ((s.hub.cell c).r ra + BitVec.ofNat 64 off).toNat (localBytes op) (localBytes op) = true) :
    s.withHub (s.hub.localAt op c rd ra off) = s.cellPast c ((s.hub.cell c).setR rd
      (BitVec.ofNat 64 (leNat ((s.hub.cell c).get ((s.hub.cell c).r ra + BitVec.ofNat 64 off).toNat (localBytes op))))) := by
  simp only [Hub.localAt, ha]
  rcases hop with rfl | rfl <;> exact congrArg s.withHub (Hub.goOn_of hg (Cell.loops_setR ..) (Cell.galley_setR ..))

/-- A store whose operand is good. -/
theorem Hub.localAt_store {op : LocalOp} (hop : op = .st8 ∨ op = .st4) (hg : s.hub.goesOn c)
    (ha : scratchOk ((s.hub.cell c).r ra + BitVec.ofNat 64 off).toNat (localBytes op) (localBytes op) = true) :
    s.withHub (s.hub.localAt op c rd ra off) = s.cellPast c ((s.hub.cell c).put ((s.hub.cell c).r ra + BitVec.ofNat 64 off).toNat
      (toLE (localBytes op) ((s.hub.cell c).r rd).toNat)) := by
  simp only [Hub.localAt, ha]
  rcases hop with rfl | rfl <;> exact congrArg s.withHub (Hub.goOn_of hg rfl rfl)

/-- An access whose operand is bad. -/
theorem Hub.localAt_stop {op : LocalOp}
    (ha : ¬ scratchOk ((s.hub.cell c).r ra + BitVec.ofNat 64 off).toNat (localBytes op) (localBytes op) = true) :
    s.withHub (s.hub.localAt op c rd ra off) = s.withHub (s.hub.stopCellS c kADDR) := by
  simp only [Hub.localAt, ha, Bool.not_false, if_true]

end

/-! ## Bytes of a cell's storage -/

/-- A write changes no byte outside what it covers. -/
theorem mapGetD_mapWriteBytes_outside (bs : List Byte) : ∀ (m : SMap Byte) {off a : Nat}, a < off ∨ off + bs.length ≤ a →
    mapGetD (mapWriteBytes 0 m off bs) a 0 = mapGetD m a 0 := by
  induction bs with
  | nil => intros; rfl
  | cons b bs ih =>
    intro m off a ha
    simp only [List.length_cons] at ha
    calc mapGetD (mapWriteBytes 0 (mapPutD 0 m off b) (off + 1) bs) a 0
      _ = mapGetD (mapPutD 0 m off b) a 0 := ih _ (by omega)
      _ = mapGetD m a 0 := mapGetD_mapPutD_ne _ _ _ _ (by omega)

/-- A write puts its bytes where it says. -/
theorem mapGetD_mapWriteBytes_inside (bs : List Byte) : ∀ (m : SMap Byte) (off k : Nat) (hk : k < bs.length),
    mapGetD (mapWriteBytes 0 m off bs) (off + k) 0 = bs[k] := by
  induction bs with
  | nil => intro m off k hk; cases hk
  | cons b bs ih =>
    intro m off k hk
    cases k with
    | zero =>
      calc mapGetD (mapWriteBytes 0 (mapPutD 0 m off b) (off + 1) bs) off 0
        _ = mapGetD (mapPutD 0 m off b) off 0 := mapGetD_mapWriteBytes_outside bs _ (.inl (Nat.lt_succ_self off))
        _ = b := mapGetD_mapPutD_same ..
    | succ k =>
      have hk' : k < bs.length := by simpa using hk
      have hi := ih (mapPutD 0 m off b) (off + 1) k hk'
      rwa [Nat.add_assoc, Nat.add_comm 1 k] at hi

/-- Settles O17: the four accesses by the rules for loads, stores and bad operands, and the bytes of a cell's storage. -/
theorem localInstructionsReachScratch : Obligations.LocalInstructionsReachScratch := by
  refine ⟨?issued, fun x off bs a => ⟨mapGetD_mapWriteBytes_outside bs x.mem, mapGetD_mapWriteBytes_inside bs x.mem off⟩⟩
  rintro s c z rd ra off x a hz hg rfl rfl
  have load (op : LocalOp) (hop : op = .ld8 ∨ op = .ld4) (hs : s.hub.standsAt c (.loc op rd ra off)) (h1 h2) :=
    (onHub_localOp hz hs).trans (congrArg _ (Hub.localAt_load hop hg (scratchOk_iff.mpr ⟨h1, h2⟩)))
  have store (op : LocalOp) (hop : op = .st8 ∨ op = .st4) (hs : s.hub.standsAt c (.loc op rd ra off)) (h1 h2) :=
    (onHub_localOp hz hs).trans (congrArg _ (Hub.localAt_store hop hg (scratchOk_iff.mpr ⟨h1, h2⟩)))
  have stop (op : LocalOp) (hs : s.hub.standsAt c (.loc op rd ra off)) (hb) :=
    (onHub_localOp hz hs).trans (congrArg _ (Hub.localAt_stop (mt scratchOk_iff.mp hb)))
  exact ⟨load .ld8 (.inl rfl), load .ld4 (.inr rfl), store .st8 (.inl rfl), store .st4 (.inr rfl),
    stop .ld8, stop .ld4, stop .st8, stop .st4⟩

/-! ## Where control goes (R119, R120) -/

/-- A cell set inside its galley fetches on. -/
theorem Hub.fetchCheck_setCell {h : Hub} {c : Nat} {x : Cell} (hx : x.pc < x.count) : (h.setCell c x).fetchCheck c = h.setCell c x := by
  unfold Hub.fetchCheck
  rw [Hub.cell_setCell_same, if_neg (Nat.not_le.mpr hx)]

/-- A branch is taken as its condition says. -/
theorem brTaken_iff {cond : Nat} {v : Word} (hc : cond ≤ 4) : brTaken cond v = true ↔
    cond = 0 ∨ (cond = 1 ∧ v = 0) ∨ (cond = 2 ∧ v ≠ 0) ∨ (cond = 3 ∧ v.toInt < 0) ∨ (cond = 4 ∧ 0 ≤ v.toInt) := by
  interval_cases cond <;> simp [brTaken]

/-- A level that is closed or ends elsewhere is passed over. -/
theorem loopEnd_succ_of_not_here {i k : Nat} {ls : Vector LoopLvl 4} (hk : k < 4) (hn : ls[k].rem = 0 ∨ ls[k].last ≠ i) :
    loopEnd i (k + 1) ls = loopEnd i k ls := by
  have hl : ls.toList.getD k {} = ls[k] := by simp [List.getD_eq_getElem?_getD, hk]
  simp only [loopEnd, hl, if_pos hn]

/-- So are all the levels from `m` to below `n`. -/
theorem loopEnd_of_none_between {i m n : Nat} {ls : Vector LoopLvl 4} (hmn : m ≤ n) (hn4 : n ≤ 4)
    (hn : ∀ j : Fin 4, m ≤ j.val → j.val < n → ls[j].rem = 0 ∨ ls[j].last ≠ i) : loopEnd i n ls = loopEnd i m ls := by
  induction n, hmn using Nat.le_induction with
  | base => rfl
  | succ n hmn ih =>
    rw [loopEnd_succ_of_not_here hn4 (hn ⟨n, hn4⟩ hmn (Nat.lt_succ_self n))]
    exact ih (Nat.le_of_succ_le hn4) fun j h1 h2 => hn j h1 (Nat.lt_succ_of_lt h2)

/-- Inside its bounds a vector's guarded update is its update. -/
theorem Vector.setIfInBounds_eq_set {α : Type} {n k : Nat} (v : Vector α n) (x : α) (hk : k < n) :
    v.setIfInBounds k x = v.set k x := by
  ext i hi
  simp only [Vector.getElem_setIfInBounds, Vector.getElem_set]

/-- A level that ends here with runs left starts again. -/
theorem loopEnd_succ_of_runs_left {i k : Nat} {ls : Vector LoopLvl 4} (hk : k < 4) (hr : 1 < ls[k].rem) (hl : ls[k].last = i) :
    loopEnd i (k + 1) ls = (ls[k].start, ls.set k { ls[k] with rem := ls[k].rem - 1 }) := by
  have hg : ls.toList.getD k {} = ls[k] := by simp [List.getD_eq_getElem?_getD, hk]
  have hne : ¬ (ls[k].rem = 0 ∨ ls[k].last ≠ i) := by omega
  simp only [loopEnd, hg, if_neg hne, if_pos hr, Vector.setIfInBounds_eq_set _ _ hk]

/-- A level whose last run ends here closes, and the one outside it is looked at. -/
theorem loopEnd_succ_of_last_run {i k : Nat} {ls : Vector LoopLvl 4} (hk : k < 4) (hr : ls[k].rem = 1) (hl : ls[k].last = i) :
    loopEnd i (k + 1) ls = loopEnd i k (ls.set k { ls[k] with rem := 0 }) := by
  have hg : ls.toList.getD k {} = ls[k] := by simp [List.getD_eq_getElem?_getD, hk]
  have hne : ¬ (ls[k].rem = 0 ∨ ls[k].last ≠ i) := by omega
  have hlt : ¬ 1 < ls[k].rem := by omega
  simp only [loopEnd, hg, if_neg hne, if_neg hlt, Vector.setIfInBounds_eq_set _ _ hk]

/-- Settles O18: NOP and a branch not taken go on, a branch taken and a loop opened move inside the galley, and the end of a body is
looked at from the innermost level outwards. -/
theorem branchesAndLoopsGoWhereTheyShould : Obligations.BranchesAndLoopsGoWhereTheyShould := by
  refine ⟨?branches, ⟨?opens, ?none, ?again⟩, ?closes⟩
  case branches =>
    rintro s c z x hz rfl
    refine ⟨fun hs hg => onHub_issue_goOn (f := id) hs rfl hz hg rfl rfl, fun cond ra target hs hc => ⟨fun ht hlt => ?taken, fun ht hg => ?not⟩⟩
    all_goals rw [← brTaken_iff hc] at ht
    case taken =>
      refine (onHub_issue hs rfl hz).trans ?_
      rw [if_pos ht, Hub.updCell, Hub.fetchCheck_setCell hlt]
      rfl
    case not =>
      refine (onHub_issue hs rfl hz).trans ?_
      rw [if_neg ht, Hub.goOn_of (f := id) hg rfl rfl]
      rfl
  case opens =>
    rintro s c z lvl creg body count n x hz rfl hs hn
    have hexec : exec (.loop c z) s = .next (s.withHub (s.hub.loopAt c lvl creg body count)) :=
      onHub_issue (f := fun h => h.loopAt c lvl creg body count) hs rfl hz
    simp only [Hub.loopAt, Hub.rv, ← hn] at hexec
    refine ⟨fun h0 h1 hlt => ?opened, fun h0 hlt => ?skipped, fun h1 => ?stopped⟩
    case opened =>
      rw [hexec, if_neg (by omega), if_neg (by omega), Hub.updCell, Hub.fetchCheck_setCell hlt]
      rfl
    case skipped =>
      rw [hexec, if_neg (by omega), if_pos h0, Hub.updCell, Hub.fetchCheck_setCell hlt]
      rfl
    case stopped => rw [hexec, if_pos h1]
  case none => exact fun i ls hn => loopEnd_of_none_between (m := 0) (Nat.zero_le 4) le_rfl fun j _ _ => hn j
  case again =>
    intro i ls k hr hl hn
    rw [loopEnd_of_none_between (m := k + 1) k.isLt le_rfl fun j hj _ => hn j hj]
    exact loopEnd_succ_of_runs_left k.isLt hr hl
  case closes =>
    intro i ls k hk hn _ hr hl
    rw [loopEnd_of_none_between (m := k + 1) hk le_rfl fun j hj _ => hn j hj]
    exact loopEnd_succ_of_last_run hk hr hl

/-! ## Waiting (R147, R168, R219, R228) -/

/-- A cell that waits for something else has the same units at work. -/
theorem Hub.unitsIdle_updWait (h : Hub) (c m : Nat) (w : CellWait) :
    (h.updCell c (fun x => { x with wait := w })).unitsIdle c m = h.unitsIdle c m := by
  simp only [Hub.unitsIdle, Hub.updCell, Hub.cell_setCell_same]
  rfl

section
variable {h : Hub} {c : Nat} (hr : (h.cell c).run = .running)
include hr

/-- A running cell that is made to wait, and is then set, is set once. -/
theorem Hub.setCell_updWait (w : CellWait) (y : Cell) : (h.updCell c (fun x => { x with wait := w })).setCell c y = h.setCell c y :=
  Hub.setCell_setCell_of_running y hr hr

/-- What a running cell's wait for units, for SHEET and for END comes to. -/
theorem Hub.settle_of_units {m : Nat} (hw : (h.cell c).wait = .units m) : h.settle c = if h.unitsIdle c m then h.goOn c id else h := by
  simp only [Hub.settle, hr, hw, ne_eq, not_true_eq_false, if_false]

theorem Hub.settle_of_sheet (hw : (h.cell c).wait = .sheet) : h.settle c = if h.unitsIdle c 63 then h.reachSheet c else h := by
  simp only [Hub.settle, hr, hw, ne_eq, not_true_eq_false, if_false]

theorem Hub.settle_of_finish (hw : (h.cell c).wait = .finish) : h.settle c = if h.unitsIdle c 63 then h.reachEnd c else h := by
  simp only [Hub.settle, hr, hw, ne_eq, not_true_eq_false, if_false]

theorem Hub.run_updWait (w : CellWait) : ((h.updCell c (fun x => { x with wait := w })).cell c).run = .running := by
  rw [Hub.updCell, Hub.cell_setCell_same]
  exact hr

omit hr in
theorem Hub.wait_updWait (w : CellWait) : ((h.updCell c (fun x => { x with wait := w })).cell c).wait = w := by
  rw [Hub.updCell, Hub.cell_setCell_same]

/-- A cell that waited and goes on stands where it would have gone without the wait. -/
theorem Hub.goOn_updWait (w : CellWait) (hg : h.goesOn c) : (h.updCell c (fun x => { x with wait := w })).goOn c id =
    h.setCell c { (h.cell c).past (h.cell c).pc with wait := .none } := by
  have hc : (h.updCell c (fun x => { x with wait := w })).cell c = { h.cell c with wait := w } := Hub.cell_setCell_same ..
  have hgo : (h.updCell c (fun x => { x with wait := w })).goesOn c := by
    rw [Hub.goesOn, hc]
    exact hg
  rw [Hub.goOn_of (f := id) hgo rfl rfl, Hub.setCell_updWait hr, hc]
  rfl

/-- A cell that reaches SHEET with the present sheet not past its own waits for the next. -/
theorem Hub.reachSheet_of_le (hs : h.cellSheet c ≤ (h.cell c).sheet) : (h.updCell c (fun x => { x with wait := .sheet })).reachSheet c =
    h.setCell c { (h.cell c).past (h.cell c).pc with run := .atSheet, wait := .none, reachedAt := h.now } := by
  have hc : (h.updCell c (fun x => { x with wait := .sheet })).cell c = { h.cell c with wait := .sheet } := Hub.cell_setCell_same ..
  rw [Hub.reachSheet, hc]
  exact (if_neg (Nat.not_lt.mpr hs)).trans (Hub.setCell_updWait hr _ _)

/-- A late cell starts its next sheet at once. -/
theorem Hub.reachSheet_of_lt (hs : (h.cell c).sheet < h.cellSheet c) (hg : h.goesOn c) :
    (h.updCell c (fun x => { x with wait := .sheet })).reachSheet c =
      h.setCell c (((h.cell c).past (h.cell c).pc).startSheet ((h.cell c).sheet + 1)) := by
  have hc : (h.updCell c (fun x => { x with wait := .sheet })).cell c = { h.cell c with wait := .sheet } := Hub.cell_setCell_same ..
  rw [Hub.reachSheet, hc]
  refine (if_pos hs).trans ?_
  rw [Hub.setCell_updWait hr]
  exact Hub.fetchCheck_setCell hg

/-- A cell that reaches END is idle, and the LAUNCHes that run it note it. -/
theorem Hub.reachEnd_updWait : (h.updCell c (fun x => { x with wait := .finish })).reachEnd c =
    { h.setCell c { h.cell c with run := .idle, wait := .none, reachedAt := h.now } with
      items := h.items.map (fun e => (e.1, e.2.noteEnd c (h.cell c).sheet)) } := by
  have hc : (h.updCell c (fun x => { x with wait := .finish })).cell c = { h.cell c with wait := .finish } := Hub.cell_setCell_same ..
  rw [Hub.reachEnd, hc, Hub.setCell_updWait hr]
  rfl

end

/-! ## The counts of CELL_ECC (R150) -/

/-- CELL_ECC.CLR from a manager zeroes the register. -/
theorem exec_cellEccClr {s : State} {o : Origin} (c : CellId) (hm : s.hub.mgrActs o) :
    exec (.cellEccClr o c) s = .next (s.withHub (s.hub.regOk.setReg (rCELL_ECC (c / 128) (c % 128)) 0)) :=
  onReg_mgrWrite (f := fun h => h.regOk.setReg (rCELL_ECC (c / 128) (c % 128)) 0) hm

/-- A corrected error of a NOP is counted, and the cell goes on. -/
theorem exec_nop_corrected {s : State} {c : CellId} (hs : s.hub.standsAt c .nop) (hg : s.hub.goesOn c) :
    exec (.nop c .corrected) s = .next (s.withHub ((s.hub.eccCount c fCELL_ECC_CORR).setCell c
      { (s.hub.cell c).past (s.hub.cell c).pc with wait := .none })) := by
  have hi : s.hub.issue c .corrected false (fun i => match i with | .nop => some (fun h => h.goOn c id) | _ => none) =
      (s.hub.eccCount c fCELL_ECC_CORR).goOn c id := Hub.issue_of (f := fun h => h.goOn c id) hs rfl
  exact congrArg (fun h => Host.Outcome.next (s.withHub h)) (hi.trans (Hub.goOn_of (f := id) hg rfl rfl))

/-- Settles O19: each waiting instruction is its wait followed by what settles it. -/
theorem cellsWaitAndCountErrors : Obligations.CellsWaitAndCountErrors := by
  refine ⟨?waits, fun s o c hm => ⟨_, exec_cellEccClr c hm, Hub.reg_setReg_same .., fun a ha => Hub.reg_setReg_ne _ _ ha, rfl, rfl⟩, ?corrected⟩
  case corrected =>
    intro s c hs hg
    refine ⟨_, exec_nop_corrected hs hg, ?_, rfl⟩
    exact (Hub.fld_congr (k := s.hub.eccCount c fCELL_ECC_CORR) rfl _ _).trans (s.hub.fld_count_same _ fCELL_ECC_CORR 1 (by decide))
  case waits =>
    rintro s c z x hz rfl
    have running (i) (hs : s.hub.standsAt c i) : (s.hub.cell c).run = .running := hs.1
    have sheet (hs : s.hub.standsAt c .sheet) : exec (.sheet c z) s = .next (s.withHub _) := onHub_issue hs rfl hz
    have finish (hs : s.hub.standsAt c .end_) : exec (.end_ c z) s = .next (s.withHub _) := onHub_issue hs rfl hz
    refine ⟨fun hs hu hl => ?_, fun hs hu hl hg => ?_, fun hs hu => ?_, fun hs hu => ?_, fun hs hu => ?_, fun m hs => ⟨fun hu hg => ?_, fun hu => ?_⟩,
      fun ra rb hs => ⟨fun hn ha hg => ?_, fun hn ha => ?_, fun hn => ?_⟩, fun n t hr hw hp hg ha => ?_, fun n t hw ha => ?_⟩
    · rw [sheet hs, Hub.settle_of_sheet (Hub.run_updWait (running _ hs) _) (Hub.wait_updWait _), Hub.unitsIdle_updWait, if_pos hu, Hub.reachSheet_of_le (running _ hs) hl]
      rfl
    · rw [sheet hs, Hub.settle_of_sheet (Hub.run_updWait (running _ hs) _) (Hub.wait_updWait _), Hub.unitsIdle_updWait, if_pos hu, Hub.reachSheet_of_lt (running _ hs) hl hg]
      rfl
    · rw [sheet hs, Hub.settle_of_sheet (Hub.run_updWait (running _ hs) _) (Hub.wait_updWait _), Hub.unitsIdle_updWait, hu]
      rfl
    · rw [finish hs, Hub.settle_of_finish (Hub.run_updWait (running _ hs) _) (Hub.wait_updWait _), Hub.unitsIdle_updWait, if_pos hu, Hub.reachEnd_updWait (running _ hs)]
    · rw [finish hs, Hub.settle_of_finish (Hub.run_updWait (running _ hs) _) (Hub.wait_updWait _), Hub.unitsIdle_updWait, hu]
      rfl
    · refine (onHub_issue hs rfl hz).trans ?_
      rw [Hub.settle_of_units (Hub.run_updWait (running _ hs) _) (Hub.wait_updWait _), Hub.unitsIdle_updWait, if_pos hu, Hub.goOn_updWait (running _ hs) _ hg]
      rfl
    · refine (onHub_issue hs rfl hz).trans ?_
      rw [Hub.settle_of_units (Hub.run_updWait (running _ hs) _) (Hub.wait_updWait _), Hub.unitsIdle_updWait, hu]
      rfl
    · refine (onHub_issue hs rfl hz).trans ?_
      rw [Hub.waitacAt, Hub.rv, if_neg (by omega), if_pos ha, Hub.goOn_of (f := id) hg rfl rfl]
      rfl
    · refine (onHub_issue hs rfl hz).trans ?_
      rw [Hub.waitacAt, Hub.rv, if_neg (by omega), ha]
      rfl
    · refine (onHub_issue hs rfl hz).trans ?_
      rw [Hub.waitacAt, Hub.rv, if_pos hn]
    · simp only [exec, execWaitacResume, onHub, hw, hr, ha, hp, decide_true, Bool.and_self, Bool.not_false, if_true,
        Hub.goOn_of (f := id) hg rfl rfl]
      rfl
    · simp only [exec, execWaitacResume, onHub, hw, ha, Bool.and_false, Bool.false_and, Bool.false_eq_true, if_false]

end Sys2Proof.Machine
end

section
/-! PROOFS. The units of a cell (R116, R121, R125 to R144, R151): an operation begins at once on an idle unit, queues behind one, and leaves
as it ends. -/

namespace Sys2Proof.Machine

/-! ## Cells that differ in what the sequencer does not look at -/

/-- Two cells whose sequencers stand alike: run state, program counter, loops and galley. -/
def Cell.sameSeq (x y : Cell) : Prop := x.run = y.run ∧ x.pc = y.pc ∧ x.loops = y.loops ∧ x.galley = y.galley

theorem Cell.sameSeq.refl (x : Cell) : x.sameSeq x := ⟨rfl, rfl, rfl, rfl⟩

theorem Cell.sameSeq.trans {x y z : Cell} (hxy : x.sameSeq y) (hyz : y.sameSeq z) : x.sameSeq z := by
  obtain ⟨h1, h2, h3, h4⟩ := hxy
  obtain ⟨k1, k2, k3, k4⟩ := hyz
  exact ⟨h1.trans k1, h2.trans k2, h3.trans k3, h4.trans k4⟩

theorem Cell.sameSeq_foldl {α : Type} {f : Cell → α → Cell} (hf : ∀ x a, (f x a).sameSeq x) (l : List α) : ∀ x, (l.foldl f x).sameSeq x := by
  induction l with
  | nil => exact .refl
  | cons a l ih => exact fun x => (ih (f x a)).trans (hf x a)

theorem Cell.sameSeq_put (x : Cell) (off : Nat) (bs : List Byte) : (x.put off bs).sameSeq x := ⟨rfl, rfl, rfl, rfl⟩

theorem Cell.sameSeq_updAcc (x : Cell) (set : Nat) (f : AccSet → AccSet) : (x.updAcc set f).sameSeq x := ⟨rfl, rfl, rfl, rfl⟩

theorem Cell.sameSeq_setUnit (x : Cell) (u : CellUnit) (l : List UOp) : (x.setUnit u l).sameSeq x := by
  cases u <;> exact ⟨rfl, rfl, rfl, rfl⟩

theorem Cell.sameSeq_setR (x : Cell) (i : Nat) (v : Word) : (x.setR i v).sameSeq x := by
  unfold Cell.setR
  split <;> exact ⟨rfl, rfl, rfl, rfl⟩

theorem Cell.sameSeq_ite {c : Prop} [Decidable c] {x y z : Cell} (hx : x.sameSeq z) (hy : y.sameSeq z) :
    (if c then x else y).sameSeq z := by
  split
  · exact hx
  · exact hy

theorem Cell.sameSeq_vecRun (op : VecOp) (fmt : Nat) (sat : Bool) (count d a b k : Nat) (x : Cell) :
    (vecRun op fmt sat count d a b k x).sameSeq x :=
  Cell.sameSeq_foldl (fun _ _ => Cell.sameSeq_ite (Cell.sameSeq_put ..) ((Cell.sameSeq_put ..).trans (Cell.sameSeq_put ..))) _ x

theorem Cell.sameSeq_gatherRun (ifmt red wfmt : Nat) (l : List Byte) (x : Cell) : (gatherRun ifmt red wfmt l x).sameSeq x := by
  unfold gatherRun
  extract_lets
  refine Cell.sameSeq_foldl ?_ _ x
  exact fun _ _ => ⟨rfl, rfl, rfl, rfl⟩

theorem Cell.get_congr {x y : Cell} (hm : x.mem = y.mem) : x.get = y.get := by
  funext off n
  simp only [Cell.get, hm]

/-- What TMMA accumulates, and whether a gather's descriptor is good, depends on a cell's storage alone. -/
theorem tmmaRun_congr {x y : Cell} (hm : x.mem = y.mem) : tmmaRun x = tmmaRun y := by
  funext fmt exactSum sparse ra rb rc rd nblk zr a
  simp only [tmmaRun, Cell.get, hm]

theorem gatherOk_congr {x y : Cell} (hm : x.mem = y.mem) : gatherOk x = gatherOk y := by
  funext ifmt red wfmt l
  simp only [gatherOk, gptrs, Cell.get, hm]

@[simp] theorem Cell.mem_setUnit (x : Cell) (u : CellUnit) (l : List UOp) : (x.setUnit u l).mem = x.mem := by cases u <;> rfl

/-! ## Operations handed to a unit -/

/-- A meaning that issues an instruction of a unit whose checks find nothing. -/
theorem onHub_issue_clean {s : State} {c : Nat} {i : GInstr} {u : Bool} {pick : GInstr → Option (Hub → Hub)} {f : Hub → Hub}
    (hs : s.hub.standsAt c i) (hp : pick i = some f) : onHub s (fun h => h.issue c .clean u pick) = .next (s.withHub (f s.hub)) := by
  have hi : s.hub.issue c .clean u pick = f s.hub := by rw [Hub.issue_of hs hp, Hub.hazard_of (.inl rfl)]
  rw [← hi]
  rfl

/-- An operation whose effect on its cell is `f`, and which leaves the sequencer where it stands, handed to an idle unit: the unit runs it,
its effect stands, and the sequencer goes on. -/
theorem Hub.toUnit_of_idle {h : Hub} {c : Nat} {u : CellUnit} {o : UOp} {f : Cell → Cell} (hr : (h.cell c).run = .running)
    (hg : h.goesOn c) (hu : (h.cell c).unit u = [])
    (hb : (h.updCell c (fun x => x.setUnit u [o])).beginOp c o = (h.updCell c (fun x => x.setUnit u [o])).updCell c f)
    (hf : ∀ x, (f x).sameSeq x) :
    h.toUnit c u o = h.setCell c { (f ((h.cell c).setUnit u [o])).past (h.cell c).pc with wait := .none } := by
  obtain ⟨hrun, hpc, hloops, hgalley⟩ := (hf ((h.cell c).setUnit u [o])).trans ((h.cell c).sameSeq_setUnit u [o])
  have hset : (h.cell c).setUnit u [o] = (h.updCell c (fun x => x.setUnit u [o])).cell c := (Hub.cell_setCell_same ..).symm
  have hbegun : (h.updCell c (fun x => x.setUnit u [o])).updCell c f = h.setCell c (f ((h.cell c).setUnit u [o])) := by
    rw [Hub.updCell, ← hset]
    exact Hub.setCell_setCell_of_running _ hr (((h.cell c).sameSeq_setUnit u [o]).1.trans hr)
  have hgo : (h.setCell c (f ((h.cell c).setUnit u [o]))).goesOn c := by
    unfold Hub.goesOn Cell.count
    rw [Hub.cell_setCell_same, hpc, hloops, hgalley]
    exact hg
  rw [Hub.toUnit, hu]
  dsimp only
  rw [hb, hbegun, Hub.goOnLive, Hub.cell_setCell_same, hrun, hr, if_neg (by decide), Hub.goOn_of (f := id) hgo rfl rfl,
    Hub.setCell_setCell_of_running _ hr (hrun.trans hr), Hub.cell_setCell_same, hpc]
  rfl

/-- An instruction whose operands are good is handed to its unit. -/
theorem Hub.checked_of_good {h : Hub} {c : Nat} {u : CellUnit} {i : GInstr} {rs : List Nat} {ops : List Nat → List (Nat × Nat × Nat)}
    (hops : (ops (rs.map (h.rv c))).all (fun p => scratchOk p.1 p.2.1 p.2.2) = true) :
    h.checked c u i rs ops = h.toUnit c u { instr := i, vals := rs.map (h.rv c) } := if_pos hops

/-- An instruction whose operands are good, on an idle unit. -/
theorem Hub.checked_of_idle {s : State} {c : Nat} {u : CellUnit} {i : GInstr} {rs : List Nat} {ops : List Nat → List (Nat × Nat × Nat)}
    {f : Cell → Cell} (hs : s.hub.standsAt c i) (hg : s.hub.goesOn c) (hu : (s.hub.cell c).unit u = [])
    (hops : (ops (rs.map (s.hub.rv c))).all (fun p => scratchOk p.1 p.2.1 p.2.2) = true)
    (hb : ∀ h : Hub, h.beginOp c { instr := i, vals := rs.map (s.hub.rv c) } = h.updCell c f) (hf : ∀ x, (f x).sameSeq x) :
    s.withHub (s.hub.checked c u i rs ops) =
      s.cellPast c (f ((s.hub.cell c).setUnit u [{ instr := i, vals := rs.map (s.hub.rv c) }])) := by
  rw [Hub.checked_of_good hops, Hub.toUnit_of_idle hs.1 hg hu (hb _) hf]
  rfl

/-! ## Beginning at once -/

section
variable {s : State} {c : CellId} (hg : s.hub.goesOn c)
include hg

theorem exec_tcfg_of_idle {set w : Nat} (hu : (s.hub.cell c).tensor = []) (hs : s.hub.standsAt c (.tcfg set w)) :
    exec (.tcfg c .clean) s = .next (s.cellPast c
      (((s.hub.cell c).setUnit .tensor [{ instr := .tcfg set w, vals := [] }]).updAcc set (fun a => a.config (signed w 16)))) :=
  (onHub_issue_clean hs rfl).trans (congrArg _ (Hub.checked_of_idle (u := .tensor) (rs := []) hs hg hu rfl (fun _ => rfl)
    fun x => x.sameSeq_updAcc ..))

theorem exec_tmma_of_idle {fmt exactSum sparse set zr ra rb rc rd nblk : Nat} (hu : (s.hub.cell c).tensor = [])
    (hs : s.hub.standsAt c (.tmma fmt exactSum sparse set zr ra rb rc rd nblk))
    (ho : (tmmaOperands fmt sparse (s.hub.rv c ra) (s.hub.rv c rb) (s.hub.rv c rc) (s.hub.rv c rd) nblk).all
      (fun p => scratchOk p.1 p.2.1 p.2.2) = true) :
    exec (.tmma c .clean) s = .next (s.cellPast c (((s.hub.cell c).setUnit .tensor
      [{ instr := .tmma fmt exactSum sparse set zr ra rb rc rd nblk,
         vals := [s.hub.rv c ra, s.hub.rv c rb, s.hub.rv c rc, s.hub.rv c rd] }]).updAcc set
      (tmmaRun (s.hub.cell c) fmt exactSum sparse (s.hub.rv c ra) (s.hub.rv c rb) (s.hub.rv c rc) (s.hub.rv c rd) nblk
        (decide (zr = 1))))) := by
  refine (onHub_issue_clean hs rfl).trans (congrArg _ ?_)
  rw [Hub.checked_of_idle (u := .tensor) (rs := [ra, rb, rc, rd])
    (f := fun x => x.updAcc set (tmmaRun x fmt exactSum sparse (s.hub.rv c ra) (s.hub.rv c rb) (s.hub.rv c rc) (s.hub.rv c rd) nblk
      (decide (zr = 1)))) hs hg hu ho (fun _ => rfl) fun x => x.sameSeq_updAcc ..]
  rw [tmmaRun_congr (Cell.mem_setUnit ..)]
  rfl

theorem exec_tdrain_of_idle {ofmt sat set zr ra : Nat} (hu : (s.hub.cell c).tensor = [])
    (hs : s.hub.standsAt c (.tdrain ofmt sat set zr ra))
    (ho : scratchOk (s.hub.rv c ra) (16 * drainBytes ofmt) (drainBytes ofmt) = true) :
    exec (.tdrain c .clean) s = .next (s.cellPast c ((((s.hub.cell c).setUnit .tensor
      [{ instr := .tdrain ofmt sat set zr ra, vals := [s.hub.rv c ra] }]).put (s.hub.rv c ra)
        (drainRun ofmt (decide (sat = 1)) (decide (zr = 1)) ((s.hub.cell c).acc set)).1).updAcc set
        (fun _ => (drainRun ofmt (decide (sat = 1)) (decide (zr = 1)) ((s.hub.cell c).acc set)).2))) :=
  (onHub_issue_clean hs rfl).trans (congrArg _ (Hub.checked_of_idle (u := .tensor) (rs := [ra])
    (f := fun x => (x.put (s.hub.rv c ra) (drainRun ofmt (decide (sat = 1)) (decide (zr = 1)) (x.acc set)).1).updAcc set
      (fun _ => (drainRun ofmt (decide (sat = 1)) (decide (zr = 1)) (x.acc set)).2)) hs hg hu
    (by simpa using ho) (fun _ => rfl) fun x => (Cell.sameSeq_updAcc ..).trans (x.sameSeq_put ..)))

theorem exec_taddx_of_idle {set ra : Nat} (hu : (s.hub.cell c).tensor = []) (hs : s.hub.standsAt c (.taddx set ra))
    (ho : scratchOk (s.hub.rv c ra) 256 16 = true) :
    exec (.taddx c .clean) s = .next (s.cellPast c (((s.hub.cell c).setUnit .tensor
      [{ instr := .taddx set ra, vals := [s.hub.rv c ra] }]).updAcc set (taddxRun ((s.hub.cell c).get (s.hub.rv c ra) 256)))) :=
  (onHub_issue_clean hs rfl).trans (congrArg _ (Hub.checked_of_idle (u := .tensor) (rs := [ra])
    (f := fun x => x.updAcc set (taddxRun (x.get (s.hub.rv c ra) 256))) hs hg hu
    (by simpa using ho) (fun _ => rfl) fun x => x.sameSeq_updAcc ..))

end

/-- What TSTAT makes of a cell: the flags in RD, and the flags cleared. -/
def Cell.tstat (rd : Nat) (x : Cell) : Cell :=
  { ((x.setR rd (BitVec.ofNat 64 (tstatValue (x.acc 0).flags (x.acc 1).flags x.gstat))).updAcc 0 (fun a => { a with flags := 0 })).updAcc 1
    (fun a => { a with flags := 0 }) with gstat := 0 }

theorem Cell.sameSeq_tstat (rd : Nat) (x : Cell) : (x.tstat rd).sameSeq x :=
  (show (x.tstat rd).sameSeq _ from ⟨rfl, rfl, rfl, rfl⟩).trans (x.sameSeq_setR rd _)

theorem exec_tstat_of_idle {s : State} {c : CellId} {rd : Nat} (hg : s.hub.goesOn c) (hu : (s.hub.cell c).tensor = [])
    (hs : s.hub.standsAt c (.tstat rd)) : exec (.tstat c .clean) s =
      .next (s.cellPast c (((s.hub.cell c).setUnit .tensor [{ instr := .tstat rd, vals := [] }]).tstat rd)) :=
  (onHub_issue_clean hs rfl).trans (congrArg _ (Hub.checked_of_idle (u := .tensor) (rs := []) hs hg hu rfl (fun _ => rfl)
    (Cell.sameSeq_tstat rd)))

theorem Cell.r_tstat (rd : Nat) (x : Cell) : (x.tstat rd).r rd =
    if rd = 0 then 0 else if rd < 32 then BitVec.ofNat 64 (tstatValue (x.acc 0).flags (x.acc 1).flags x.gstat) else 0 := by
  by_cases h0 : rd = 0
  · subst h0
    rfl
  · rw [if_neg h0]
    split
    next hlt => exact Cell.r_setR_same x _ hlt h0
    next hlt =>
      have hle : 32 ≤ rd := Nat.not_lt.mp hlt
      simp [Cell.tstat, Cell.updAcc, Cell.r, h0, List.getD_eq_getElem?_getD, hle]

theorem Cell.flags_tstat (rd : Nat) (x : Cell) : ((x.tstat rd).acc 0).flags = 0 ∧ ((x.tstat rd).acc 1).flags = 0 := by
  simp [Cell.tstat, Cell.acc, Cell.updAcc]

section
variable {s : State} {c : CellId} (hg : s.hub.goesOn c)
include hg

/-- A vector instruction, whichever operation it names. -/
theorem onHub_vecOp_of_idle {op : VecOp} {rd ra rb rc count fmt sat : Nat} (hu : (s.hub.cell c).vector = [])
    (hs : s.hub.standsAt c (.vec op rd ra rb rc count fmt sat))
    (ho : (vecOperands op fmt count (s.hub.rv c rd) (s.hub.rv c ra) (s.hub.rv c rb) (s.hub.rv c rc)).all
      (fun p => scratchOk p.1 p.2.1 p.2.2) = true) :
    onHub s (fun h => h.vecOp op c .clean) = .next (s.cellPast c
      (vecRun op fmt (decide (sat = 1)) count (s.hub.rv c rd) (s.hub.rv c ra) (s.hub.rv c rb) (s.hub.rv c rc)
        ((s.hub.cell c).setUnit .vector
          [{ instr := .vec op rd ra rb rc count fmt sat, vals := [s.hub.rv c rd, s.hub.rv c ra, s.hub.rv c rb, s.hub.rv c rc] }]))) :=
  (onHub_issue_clean hs (if_pos rfl)).trans (congrArg _ (Hub.checked_of_idle (u := .vector) (rs := [rd, ra, rb, rc]) hs hg hu ho
    (fun _ => rfl) fun _ => Cell.sameSeq_vecRun ..))

/-- A gather whose descriptor is good. -/
theorem exec_gr_of_idle {ifmt red wfmt ra : Nat} (hu : (s.hub.cell c).gather = []) (hs : s.hub.standsAt c (.gr ifmt red wfmt ra))
    (ho : scratchOk (s.hub.rv c ra) 32 8 = true)
    (hd : gatherOk (s.hub.cell c) ifmt red wfmt ((s.hub.cell c).get (s.hub.rv c ra) 32) = true) :
    exec (.gr c .clean) s = .next (s.cellPast c (gatherRun ifmt red wfmt ((s.hub.cell c).get (s.hub.rv c ra) 32)
      ((s.hub.cell c).setUnit .gather [{ instr := .gr ifmt red wfmt ra, vals := [s.hub.rv c ra] }]))) := by
  refine (onHub_issue_clean (f := fun h => h.checked c .gather (.gr ifmt red wfmt ra) [ra] fun v => [(v.getD 0 0, 32, 8)]) hs rfl).trans
    (congrArg _ ?_)
  have hops : ((fun v : List Nat => [(v.getD 0 0, 32, 8)]) ([ra].map (s.hub.rv c))).all (fun p => scratchOk p.1 p.2.1 p.2.2) = true := by
    simpa using ho
  have hb : (s.hub.updCell c (fun x => x.setUnit .gather [{ instr := .gr ifmt red wfmt ra, vals := [s.hub.rv c ra] }])).beginOp c
      { instr := .gr ifmt red wfmt ra, vals := [s.hub.rv c ra] } =
      (s.hub.updCell c (fun x => x.setUnit .gather [{ instr := .gr ifmt red wfmt ra, vals := [s.hub.rv c ra] }])).updCell c
        (gatherRun ifmt red wfmt ((s.hub.cell c).get (s.hub.rv c ra) 32)) := by
    have hc := Hub.cell_setCell_same s.hub c ((s.hub.cell c).setUnit .gather [{ instr := .gr ifmt red wfmt ra, vals := [s.hub.rv c ra] }])
    have hget := Cell.get_congr (Cell.mem_setUnit (s.hub.cell c) .gather [{ instr := .gr ifmt red wfmt ra, vals := [s.hub.rv c ra] }])
    simp only [Hub.beginOp, Hub.updCell, hc, List.getD_cons_zero, gatherOk_congr (Cell.mem_setUnit ..), hget, hd, if_true]
  rw [Hub.checked_of_good hops, List.map_singleton, Hub.toUnit_of_idle (u := .gather) hs.1 hg hu hb fun _ => Cell.sameSeq_gatherRun ..]
  rfl

end

/-- Settles O20: each instruction is one of a unit that is idle, whose operands are good and whose effect leaves the sequencer alone. -/
theorem unitInstructionsBeginAtOnce : Obligations.UnitInstructionsBeginAtOnce := by
  refine ⟨?tensor, ?others⟩
  case tensor =>
    rintro s c x rfl hu hg
    refine ⟨fun set w => exec_tcfg_of_idle hg hu, ?_, ?_, ?_, fun rd hs => ?tstat⟩
    · rintro fmt exactSum sparse set zr ra rb rc rd nblk _ _ _ _ hs rfl rfl rfl rfl ho
      exact exec_tmma_of_idle hg hu hs ho
    · rintro ofmt sat set zr ra _ hs rfl ho
      exact exec_tdrain_of_idle hg hu hs ho
    · rintro set ra _ hs rfl ho
      exact exec_taddx_of_idle hg hu hs ho
    case tstat =>
      refine ⟨_, exec_tstat_of_idle hg hu hs, ?_⟩
      have hc : (s.cellPast c (((s.hub.cell c).setUnit .tensor [{ instr := .tstat rd, vals := [] }]).tstat rd)).hub.cell c = _ :=
        Hub.cell_setCell_same ..
      rw [hc]
      exact ⟨Cell.r_tstat .., (Cell.flags_tstat ..).1, (Cell.flags_tstat ..).2, rfl, fun d hd => Hub.cell_setCell_ne _ _ hd⟩
  case others =>
    rintro s c x rfl hg
    refine ⟨?_, ?_⟩
    · rintro op rd ra rb rc count fmt sat _ _ _ _ i hu hs rfl rfl rfl rfl rfl ho
      cases op <;> exact onHub_vecOp_of_idle hg hu hs ho
    · rintro ifmt red wfmt ra _ hu hs rfl ho hd
      exact exec_gr_of_idle hg hu hs ho hd

/-! ## Queueing and ending (R116, R121, R151) -/

/-- Settles O21: TADDX by the unit's queue, its operand and its checks, and the end of an operation by what stands behind it. -/
theorem unitsFinishInOrder : Obligations.UnitsFinishInOrder := by
  refine ⟨?queue, ?finish⟩
  case queue =>
    rintro s c x set ra _ rfl hs rfl
    have hclean : exec (.taddx c .clean) s = .next (s.withHub (s.hub.checked c .tensor (.taddx set ra) [ra] fun v => [(v.getD 0 0, 256, 16)])) :=
      onHub_issue_clean (f := fun h => h.checked c .tensor (.taddx set ra) [ra] fun v => [(v.getD 0 0, 256, 16)]) hs rfl
    have hchecks (z : Hazard) : exec (.taddx c z) s = .next (s.withHub (s.hub.hazard c z true fun h =>
        h.checked c .tensor (.taddx set ra) [ra] fun v => [(v.getD 0 0, 256, 16)])) :=
      congrArg (fun h => Host.Outcome.next (s.withHub h)) (Hub.issue_of hs rfl)
    have hok (ho : scratchOk (s.hub.rv c ra) 256 16 = true) : (s.hub.checked c .tensor (.taddx set ra) [ra] fun v => [(v.getD 0 0, 256, 16)]) =
        s.hub.toUnit c .tensor { instr := .taddx set ra, vals := [s.hub.rv c ra] } := Hub.checked_of_good (by simpa using ho)
    refine ⟨fun p hp ho hg => ?second, fun hl ho => ?third, fun ho => ?bad, hchecks .residue, hchecks .uncorrectable⟩
    case second =>
      have hu : (s.hub.cell c).unit .tensor = [p] := hp
      have hgo : (s.hub.updCell c (fun x => x.setUnit .tensor [p, { instr := .taddx set ra, vals := [s.hub.rv c ra] }])).goesOn c := by
        rw [Hub.goesOn, Hub.updCell, Hub.cell_setCell_same]
        exact hg
      have hrun : ((s.hub.cell c).setUnit .tensor [p, { instr := .taddx set ra, vals := [s.hub.rv c ra] }]).run = .running := hs.1
      rw [hclean, hok ho, Hub.toUnit, hu]
      dsimp only
      rw [Hub.goOn_of (f := id) hgo rfl rfl, Hub.updCell, Hub.setCell_setCell_of_running _ hs.1 hrun, Hub.cell_setCell_same]
      rfl
    case third =>
      rw [hclean, hok ho, Hub.toUnit]
      match hu : (s.hub.cell c).unit .tensor with
      | [] => exact absurd (show 2 ≤ ((s.hub.cell c).unit .tensor).length from hl) (by simp [hu])
      | [_] => exact absurd (show 2 ≤ ((s.hub.cell c).unit .tensor).length from hl) (by simp [hu])
      | _ :: _ :: _ => rfl
    case bad =>
      rw [hclean]
      exact congrArg (fun h => Host.Outcome.next (s.withHub h)) (if_neg (by simpa [Hub.rv] using ho))
  case finish =>
    rintro s c u x o rfl
    have hexec : exec (.unitOperationDone c u .clean) s = .next (s.withHub (s.hub.unitDone c u .clean)) := rfl
    refine ⟨fun hu hd hp => ?_, fun p hu hd hp => ?_, fun hu => ?_, fun l hu hd => ?_⟩
    · simp only [hexec, Hub.unitDone, hu, hd, hp, Bool.not_true, Bool.or_self, Bool.false_eq_true, if_false, Hub.hazard]
    · simp only [hexec, Hub.unitDone, hu, hd, hp, Bool.not_true, Bool.or_self, Bool.false_eq_true, if_false, Hub.hazard]
    · simp only [hexec, Hub.unitDone, hu]
      rfl
    · simp only [hexec, Hub.unitDone, hu, hd, Bool.not_false, Bool.true_or, if_true]
      rfl

end Sys2Proof.Machine
end

section
/-! PROOFS. FABRIC operations (R51, R121, R213, R226, R237, R489; log entries 6, 147): what an instruction sends and what its answers do. -/

namespace Sys2Proof.Machine

/-! ## Issuing -/

/-- A FABRIC instruction where its cell stands at it. -/
theorem onHub_fabOp {s : State} {c : Nat} {z : Hazard} {op : FabOp} {ra rb rc ctx aop rd : Nat} (hz : z = .clean ∨ z = .residue)
    (hs : s.hub.standsAt c (.fab op ra rb rc ctx aop rd)) :
    onHub s (fun h => h.fabOp op c z) = .next (s.withHub (s.hub.fabIssue c op ra rb rc ctx aop rd)) :=
  onHub_issue (f := fun h => h.fabIssue c op ra rb rc ctx aop rd) hs (if_pos rfl) hz

/-- Outside a replay, with room in its log, a cell's next operation gets an entry of its own. -/
theorem Cell.logNext_of_room {x : Cell} (b : Bool) (hr : x.replay = none) (hl : x.log.length < 256) :
    x.logNext b = (none, some x.log.length, { x with log := x.log ++ [{ fabric := b }] }) := by
  have hx : ({ x with log := x.log ++ [{ fabric := b }], replay := none } : Cell) = { x with log := x.log ++ [{ fabric := b }] } := by rw [← hr]
  simp only [Cell.logNext, hr, Option.bind_none, if_neg (Nat.not_le.mpr hl), hx]

section
variable {h : Hub} {c sl ra rb rc ctx aop rd : Nat} {op : FabOp}

theorem Hub.fabIssue_of_bad (ho : fabOperandsOk op (h.rv c ra) (h.rv c rb) (h.rv c rc) (h.rv c rd) = false) :
    h.fabIssue c op ra rb rc ctx aop rd = h.stopCellS c kADDR := by
  simp only [Hub.fabIssue, ho, Bool.not_false, if_true]

/-- With good operands and room at the port, outside a replay: the requests go, or CTX_OFF is raised. -/
theorem Hub.fabIssue_of_good (ho : fabOperandsOk op (h.rv c ra) (h.rv c rb) (h.rv c rc) (h.rv c rd) = true) (hs : h.cellOwner c = some sl)
    (hp : h.portRoom c op = true) (hr : (h.cell c).replay = none) (hl : (h.cell c).log.length < 256) :
    h.fabIssue c op ra rb rc ctx aop rd =
      if h.ctxOn sl ctx then
        ((h.setCell c { h.cell c with log := (h.cell c).log ++ [{ fabric := true }] }).sendOp c sl ctx aop op (h.rv c ra) (h.rv c rb)
          (h.rv c rc) (h.rv c rd) (some (h.cell c).log.length)).goOnLive c
      else
        ((h.setCell c { h.cell c with log := (h.cell c).log ++ [{ fabric := true }] }).fault
          { source := srcOf uHTU 0, kind := kCTX_OFF, cls := clsCorrected, slice := some sl, ctx := some ctx }).goOn c id := by
  simp only [Hub.fabIssue, ho, hs, hp, Cell.logNext_of_room true hr hl, Bool.not_true, Bool.false_eq_true, if_false]
  cases h.ctxOn sl ctx <;> rfl

end

/-! ## Answers -/

/-- A cell that waits for nothing settles where it stands. -/
theorem Hub.settle_of_wait_none {h : Hub} {c : Nat} (hw : (h.cell c).wait = .none) : h.settle c = h := by
  simp only [Hub.settle, hw, ite_self]

section
variable {h : Hub} {r c op off : Nat} {q : Req} {o : FabricOp} (hq : h.req r = some q) (hs : q.src = .cell c op off) (hd : q.stage = .done)
include hq hd

/-- An answer with bad parity. -/
theorem exec_fabricResponse_badParity {s : State} (he : s.hub = h) :
    exec (.fabricResponse ⟨r, false⟩) s = .next (s.withHub (s.hub.parityFail r)) := by
  subst he
  simp only [exec, execFabricResponse, onHub, hq, hd, Option.any_some, beq_self_eq_true, Bool.not_true, Bool.or_self,
    Bool.false_eq_true, if_false]
  rfl

variable (ho : mapGet h.fabricOps op = some o)
include hs ho

/-- Data that is not the operation's last goes into scratch. -/
theorem Hub.response_of_more_data (hr : (h.cell c).run = .running) (hk : q.kind = .read) (hl : 1 < o.left) :
    h.response r = { (h.dropReq r).cellPut c (o.ra + off) q.data with fabricOps := mapPut h.fabricOps op { o with left := o.left - 1 } } := by
  simp only [Hub.response, hq, hs, hd, ho, hr, hk, hl, ne_eq, reduceCtorEq, not_false_eq_true, decide_true, Bool.and_self, Bool.not_true,
    Bool.false_eq_true, if_false, if_true]
  rfl

/-- The last answer of a store at this hub raises its counter. -/
theorem Hub.response_of_last_store {n : Nat} (hk : q.kind = .write) (hl : o.left = 1) (hf : o.failed = none) (hm : o.remote = false)
    (hn : o.acnum = some n) (hlog : o.log = none) (hw : (h.cell c).wait = .none) :
    h.response r = ({ h.dropReq r with fabricOps := mapDel h.fabricOps op } : Hub).addAc o.slice n o.len := by
  have hset : (({ h.dropReq r with fabricOps := mapDel h.fabricOps op } : Hub).addAc o.slice n o.len).settle c =
      ({ h.dropReq r with fabricOps := mapDel h.fabricOps op } : Hub).addAc o.slice n o.len := Hub.settle_of_wait_none hw
  rw [← hset]
  simp only [Hub.response, hq, hs, hd, ho, hk, hl, hf, hm, hn, hlog, Nat.lt_irrefl, Option.isSome_none, Bool.false_eq_true, if_false,
    Hub.logDone, ite_self]
  rfl

end

/-- Settles O23: the four instructions are one rule, and an answer is data with more to come, the last of a store, or a failure. -/
theorem fabricInstructionsAskAndAreAnswered : Obligations.FabricInstructionsAskAndAreAnswered := by
  refine ⟨?asks, ?answers⟩
  case asks =>
    rintro s c z x y op ra rb rc ctx aop rd sl i hz rfl hs hown hi rfl
    have hexec : exec i s =
        .next (s.withHub (s.hub.fabIssue c op ra rb rc ctx aop rd)) := by
      subst hi
      cases op <;> exact onHub_fabOp hz hs
    refine ⟨fun ho hp hr hl => ?_, fun ho => hexec.trans (by rw [Hub.fabIssue_of_bad ho])⟩
    rw [hexec, Hub.fabIssue_of_good ho hown hp hr hl]
    exact ⟨fun hc => by rw [hc]; rfl, fun hc => by rw [hc]; rfl⟩
  case answers =>
    intro s r c op off q o hq hs hd ho hr
    have hexec : exec (.fabricResponse ⟨r, true⟩) s = .next (s.withHub (s.hub.response r)) := rfl
    refine ⟨fun hk hl => ?_, fun n hk hl hf hm _ hn hlog hw => ?_, exec_fabricResponse_badParity hq hd rfl⟩
    · rw [hexec, Hub.response_of_more_data hq hs hd ho hr hk hl]
    · rw [hexec, Hub.response_of_last_store hq hs hd ho hk hl hf hm hn hlog hw]

end Sys2Proof.Machine
end

section
/-! PROOFS. SLM_SLICE_CTL where the slice's state allows the command (R54, R76, R177, R405, R473; log entry 137). -/

namespace Sys2Proof.Machine

section
variable {h : Hub} {s : Nat}

theorem Hub.holdSlice_of_live (hs : h.stateOf s = slLIVE) :
    h.holdSlice s = h.updRt s (fun r => { r with holdWritten := true, relReady := false }) := if_pos hs

/-- A lit slice, or one without cells, is not kept back by the power state (R473). -/
theorem Hub.not_dim_of {h : Hub} {l : List Nat} (hp : h.pwrState ≠ 1 ∨ l = []) : (decide (h.pwrState = 1) && !l.isEmpty) = false := by
  rcases hp with hp | rfl
  · simp [hp]
  · simp

/-- RELEASE of a HELD slice whose HOLD was written: its cells are reloaded, and it is ready if every entry could be read. -/
theorem Hub.releaseSlice_of_held (hs : h.stateOf s = slHELD) (hp : h.pwrState ≠ 1 ∨ (h.slD s).cells = []) (hw : (h.rt s).holdWritten = true)
    (hr : (h.rt s).relReady = false) (hl : (h.rt s).reloadWait = false)
    (hc : ∀ l, (h.rt s).saved = some l → l.length = (h.slD s).cells.length) :
    h.releaseSlice s = (h.reloadCells s).2.updRt s (fun r => { r with relReady := (h.reloadCells s).1, reloadWait := !(h.reloadCells s).1 }) := by
  have hsaved : (match (h.rt s).saved with | some l => decide (l.length ≠ (h.slD s).cells.length) | none => false) = false := by
    cases hv : (h.rt s).saved with
    | none => rfl
    | some l => simp [hc l hv]
  unfold Hub.releaseSlice
  rw [hs]
  simp only [Hub.not_dim_of hp, hw, hr, hl, slHELD, if_true, Bool.not_true, Bool.or_self, Bool.false_eq_true, if_false]
  exact if_neg (ne_true_of_eq_false hsaved)

/-- RELEASE of a faulted slice whose stopped cells can restart. -/
theorem Hub.releaseSlice_of_fault (hs : h.stateOf s = slFAULT) (hp : h.pwrState ≠ 1 ∨ (h.slD s).cells = []) (hm : h.mayRestart s = true)
    (he : h.eclipsed s = false) : h.releaseSlice s = h.leaveFault s := by
  unfold Hub.releaseSlice
  rw [hs]
  simp only [Hub.not_dim_of hp, hm, he, slFAULT, Nat.reduceEqDiff, if_true, Bool.not_true, Bool.or_self, Bool.false_eq_true, if_false]

theorem Hub.resetSlice_of_fault (hs : h.stateOf s = slFAULT) :
    h.resetSlice s = ((((h.resetWork s).toState s slLIVE).recovered s).setF (rSLM_FAULT s) fSLM_FAULT_LOCK 0).openEngines s := if_pos hs

end

/-- Settles O8: each command of a manager is the slice's command on the hub that accepted the write. -/
theorem sliceCommandsDoWhatTheStateAllows : Obligations.SliceCommandsDoWhatTheStateAllows := by
  intro s o sl ⟨hm, hb⟩
  refine ⟨fun ha => ?teardown, fun hs => ?hold, fun hs hp hw hr hl hc => ?release, fun hs hp hr he => ?restart, fun hs => ?reset⟩
  case teardown => rw [exec_sliceTeardown _ _ _ hb, Hub.mgrWrite_of _ _ _ hm]; exact congrArg (Host.Outcome.next <| s.withHub ·) (if_pos ha)
  case hold => rw [exec_sliceHold _ _ _ hb, Hub.mgrWrite_of _ _ _ hm, Hub.holdSlice_of_live (h := s.hub.regOk) hs]
  case release => rw [exec_sliceRelease _ _ _ hb, Hub.mgrWrite_of _ _ _ hm, Hub.releaseSlice_of_held (h := s.hub.regOk) hs hp hw hr hl hc]
  case restart => rw [exec_sliceRelease _ _ _ hb, Hub.mgrWrite_of _ _ _ hm, Hub.releaseSlice_of_fault (h := s.hub.regOk) hs hp hr he]
  case reset => rw [exec_sliceReset _ _ _ hb, Hub.mgrWrite_of _ _ _ hm, Hub.resetSlice_of_fault (h := s.hub.regOk) hs]

end Sys2Proof.Machine
end

section
/-! PROOFS. The register range (R9 to R15, R20): what is refused, what a write stores, and the registers that only managers set up. -/

namespace Sys2Proof.Machine

/-! ## Words stored by fields -/

/-- A place of a word lies in a field. -/
def fldHas (i : Nat) (f : Fld) : Bool := decide (f.lo ≤ i) && decide (i < f.lo + f.w)

theorem getLsbD_fldsMask_foldl (l : List Fld) {i : Nat} (hi : i < 64) : ∀ m : Word,
    (l.foldl (fun m f => m ||| fldMask f) m).getLsbD i = (m.getLsbD i || l.any (fldHas i)) := by
  induction l with
  | nil => intro m; simp
  | cons f l ih => intro m; simp [ih, getLsbD_fldMask f i hi, fldHas, Bool.or_assoc]

/-- The mask of fields has the places of the fields. -/
theorem getLsbD_fldsMask (l : List Fld) {i : Nat} (hi : i < 64) : (fldsMask l).getLsbD i = l.any (fldHas i) := by
  rw [fldsMask, getLsbD_fldsMask_foldl l hi]; simp

/-- What is stored in a register without W1C fields: the value's bits in the RW fields, the register's elsewhere. -/
theorem getLsbD_mixWrite (old v : Word) (rw : List Fld) {i : Nat} (hi : i < 64) :
    (mixWrite old v rw []).getLsbD i = if rw.any (fldHas i) then v.getLsbD i else old.getLsbD i := by
  have hm := getLsbD_fldsMask rw hi
  have h0 : (fldsMask []).getLsbD i = false := by rw [getLsbD_fldsMask [] hi]; rfl
  simp only [mixWrite, BitVec.getLsbD_and, BitVec.getLsbD_or, BitVec.getLsbD_not, hm, h0, hi, decide_true, Bool.true_and, Bool.and_false,
    Bool.not_false, Bool.and_true]
  cases rw.any (fldHas i) <;> simp

/-- Two words that agree in the places of a field have the same field. -/
theorem getFld_congr {v w : Word} {f : Fld} (h : ∀ i < f.w, f.lo + i < 64 → v.getLsbD (f.lo + i) = w.getLsbD (f.lo + i)) :
    getFld v f = getFld w f := by
  refine Nat.eq_of_testBit_eq fun i => ?_
  rw [testBit_getFld, testBit_getFld]
  by_cases hi : i < f.w
  · by_cases h64 : f.lo + i < 64
    · rw [h i hi h64]
    · simp [BitVec.getLsbD_of_ge _ _ (Nat.le_of_not_lt h64)]
  · simp [hi]

/-- A part of an RW field takes the value written. -/
theorem getFld_mixWrite_of_mem (old v : Word) {rw : List Fld} {f g : Fld} (hg : g ∈ rw)
    (hf : g.lo ≤ f.lo ∧ f.lo + f.w ≤ g.lo + g.w) : getFld (mixWrite old v rw []) f = getFld v f := by
  refine getFld_congr fun i hi h64 => ?_
  have hany : rw.any (fldHas (f.lo + i)) = true := List.any_eq_true.mpr ⟨g, hg, by simp only [fldHas, Bool.and_eq_true, decide_eq_true_eq]; omega⟩
  rw [getLsbD_mixWrite _ _ _ h64, if_pos hany]

theorem getLsbD_lowHalf {i : Nat} (hi : i < 64) : ((0xffffffff : Nat) : Word).getLsbD i = decide (i < 32) := by
  rw [show ((0xffffffff : Nat) : Word) = fldMask ⟨0, 32⟩ by decide, getLsbD_fldMask _ i hi]
  simp

theorem getLsbD_highHalf {i : Nat} (hi : i < 64) : (0xffffffff00000000 : Word).getLsbD i = decide (32 ≤ i) := by
  rw [show (0xffffffff00000000 : Word) = fldMask ⟨32, 32⟩ by decide, getLsbD_fldMask _ i hi]
  simp [hi]

/-- A half written, of a register that performs no action: the other half stays. -/
theorem getLsbD_halfWord {r : RegRow} (old v : Word) (hi : Bool) (hr : accMask r .wo ||| accMask r .w1c ||| accMask r .w1s = 0) {i : Nat}
    (h64 : i < 64) : (halfWord r old hi v).getLsbD i =
      if hi then (if i < 32 then old.getLsbD i else v.getLsbD (i - 32)) else (if i < 32 then v.getLsbD i else old.getLsbD i) := by
  have hkeep : (if r.name = .LCS_PROG_DATAn then old else old &&& ~~~(accMask r .wo ||| accMask r .w1c ||| accMask r .w1s)) = old := by
    rw [hr, show ~~~(0 : Word) = BitVec.allOnes 64 by decide, BitVec.and_allOnes, ite_self]
  simp only [halfWord, hkeep]
  cases hi
  · simp only [Bool.false_eq_true, if_false, BitVec.getLsbD_or, BitVec.getLsbD_and, getLsbD_highHalf h64]
    simp only [BitVec.getLsbD_ofNat, h64, decide_true, Bool.true_and, Nat.testBit_mod_two_pow]
    by_cases h32 : i < 32 <;> simp [h32, BitVec.getLsbD, Nat.not_le.mpr, Nat.not_lt.mp]
  · simp only [if_true, BitVec.getLsbD_or, BitVec.getLsbD_and, getLsbD_lowHalf h64]
    simp only [BitVec.getLsbD_shiftLeft, BitVec.getLsbD_ofNat, h64,
      decide_true, Bool.true_and, Nat.testBit_mod_two_pow, show i - 32 < 64 by omega, show i - 32 < 32 by omega]
    by_cases h32 : i < 32 <;> simp [h32, BitVec.getLsbD]

/-! ## Accesses that change nothing -/

theorem Hub.reaches_engine (h : Hub) (a : Nat) : h.reaches .engine a = false := rfl

/-- A register write that acts at all takes effect, or gets an error response, as its row says. -/
theorem exec_registerWrite_of {s : State} {o : Origin} (a : Nat) (w : RegWidth) (v : Word) (hb : s.hub.hostBusy o = false) :
    exec (.registerWrite o a w v) s = .next { s with fuses := (writeReg s.fuses s.hub o a w v).1, hub := (writeReg s.fuses s.hub o a w v).2 } := by
  show onRegChip o s (fun f h => writeReg f h o a w v) = _
  simp only [onRegChip, onChip, hb, Bool.false_eq_true, if_false]

/-- While a posted write of the sender is on its way, nothing happens yet. -/
theorem exec_registerWrite_busy {s : State} {o : Origin} (a : Nat) (w : RegWidth) (v : Word) (hb : s.hub.hostBusy o = true) :
    exec (.registerWrite o a w v) s = .next s := by
  show onRegChip o s (fun f h => writeReg f h o a w v) = _
  simp only [onRegChip, onChip, hb, if_true]

/-- A misaligned write, one to no register, and one of an engine. -/
theorem writeReg_of_bad (f : Fuses) {h : Hub} {o : Origin} {a : Nat} {w : RegWidth} (v : Word) (ht : o = .tap → h.onBus .tap = true)
    (hbad : a % (match w with | .w64 => 8 | .w32 => 4) ≠ 0 ∨ regFind (a / 8 * 8) = none ∨ o = .engine) : writeReg f h o a w v = (f, h.regErr) := by
  unfold writeReg
  rw [if_neg (Hub.not_bypass ht)]
  rcases hbad with hal | hnone | rfl
  · exact if_pos (.inl hal)
  · simp only [hnone, ite_self]
  · exact if_pos (.inr (by simp only [Hub.reaches_engine, Bool.not_false]))

theorem readReg_of_bad (f : Fuses) (h : Hub) {o : Origin} {a : Nat} (hbad : a % 8 ≠ 0 ∨ regFind a = none ∨ o = .engine) :
    readReg f h o a = none := by
  unfold readReg
  rcases hbad with hal | hnone | rfl
  · exact if_pos (.inl hal)
  · simp only [hnone, ite_self]
  · exact if_pos (.inr (by simp only [Hub.reaches_engine, Bool.not_false]))

/-- Settles O6: each access fails at its alignment, at the map, or at its sender. -/
theorem badRegisterAccessesChangeNothing : Obligations.BadRegisterAccessesChangeNothing := by
  refine ⟨fun f h o a n hn => ?bytes, fun s o a w v ht hb hbad => ?write, fun s a w v ht => ?tap, fun f h o a hbad => ?read, fun s o a w v hb => ?busy⟩
  case bytes =>
    unfold readBytes
    split_ifs with h8 h4
    · rw [readReg_of_bad f h (.inl fun hal => hn (.inl ⟨h8, hal⟩))]; rfl
    · exact absurd (.inr h4) hn
    · rfl
  case write => rw [exec_registerWrite_of a w v hb, writeReg_of_bad s.fuses v ht hbad]
  case tap => rw [exec_registerWrite_of a w v rfl]; simp [writeReg, ht]
  case read => exact readReg_of_bad f h (.inr hbad)
  case busy => exact exec_registerWrite_busy a w v hb

/-! ## Stores -/

theorem Hub.reaches_of_isMgr {h : Hub} {o : Origin} (hm : h.isMgr o = true) (a : Nat) : h.reaches o a = true := by
  have hon : h.onBus o = true := Hub.onBus_of_isMgr hm
  cases o with
  | pf k => exact (Bool.and_eq_true _ _).mpr ⟨hon, by rw [hm, Bool.or_true]⟩
  | vf p i => exact absurd hm Bool.false_ne_true
  | _ => exact hon

section
variable {s : State} {o : Origin} (hm : s.hub.mgrActs o) {a : Nat} {r : RegRow} {ix : List Nat}
include hm

/-- A manager's 64-bit write of a register is its row's. -/
theorem exec_registerWrite64 (v : Word) (hal : a % 8 = 0) (hr : regFind a = some (r, ix)) {k : Hub}
    (hw : writeRow s.fuses s.hub o r.name ix a v = (s.fuses, k)) : exec (.registerWrite o a .w64 v) s = .next { s with hub := k } := by
  have hbase : a / 8 * 8 = a := by omega
  have hreg : writeReg s.fuses s.hub o a .w64 v = (s.fuses, k) := by
    unfold writeReg
    rw [if_neg (Hub.not_bypass fun h => h ▸ Hub.onBus_of_isMgr hm.isMgr)]
    simp only [hbase, hr, Hub.reaches_of_isMgr hm.isMgr]
    rw [if_neg (by simp [hal])]
    exact hw
  rw [exec_registerWrite_of a .w64 v hm.notBusy, hreg]

/-- A manager's 32-bit write of a half is its row's, of the word that the half gives. -/
theorem exec_registerWrite32 (v : Word) (hi : Bool) (hal : a % 8 = 0) (hr : regFind a = some (r, ix)) {k : Hub}
    (hw : writeRow s.fuses s.hub o r.name ix a (halfWord r (s.hub.reg a) hi v) = (s.fuses, k)) :
    exec (.registerWrite o (if hi then a + 4 else a) .w32 v) s = .next { s with hub := k } := by
  have hbase : (if hi then a + 4 else a) / 8 * 8 = a := by split <;> omega
  have hhalf : decide ((if hi then a + 4 else a) % 8 = 4) = hi := by cases hi <;> simp <;> omega
  have hreg : writeReg s.fuses s.hub o (if hi then a + 4 else a) .w32 v = (s.fuses, k) := by
    unfold writeReg
    rw [if_neg (Hub.not_bypass fun h => h ▸ Hub.onBus_of_isMgr hm.isMgr)]
    simp only [hbase, hhalf, hr, Hub.reaches_of_isMgr hm.isMgr]
    rw [if_neg (by simp; split <;> omega)]
    exact hw
  rw [exec_registerWrite_of _ .w32 v hm.notBusy, hreg]

end

/-- The row of KLV_IMG_ADDR in the register map. -/
def imgAddrRow : RegRow := { name := .KLV_IMG_ADDR, base := rKLV_IMG_ADDR, dims := [], flds := [(⟨12, 30⟩, .rw)] }

theorem regFind_imgAddr : regFind rKLV_IMG_ADDR = some (imgAddrRow, []) := by decide +kernel

/-- A half of KLV_IMG_ADDR written by a manager: the field ADDR is stored from the word that the half gives. -/
theorem exec_registerWrite_imgAddr {s : State} {o : Origin} (hm : s.hub.mgrActs o) (v : Word) (hi : Bool) :
    exec (.registerWrite o (if hi then rKLV_IMG_ADDR + 4 else rKLV_IMG_ADDR) .w32 v) s =
      .next { s with hub := s.hub.regOk.writeRW rKLV_IMG_ADDR [fKLV_IMG_ADDR_ADDR] [] (halfWord imgAddrRow (s.hub.reg rKLV_IMG_ADDR) hi v) } :=
  exec_registerWrite32 hm v hi (by decide) regFind_imgAddr
    (congrArg (Prod.mk s.fuses) (Hub.bootWrite_of _ _ _ (Hub.onBus_of_isMgr hm.isMgr)))

theorem accMask_imgAddr : accMask imgAddrRow .wo ||| accMask imgAddrRow .w1c ||| accMask imgAddrRow .w1s = 0 := by decide

/-- What a half of KLV_IMG_ADDR written leaves: ADDR's bits in that half are the value's, and all others stay. -/
theorem getLsbD_imgAddr_half (old v : Word) (hi : Bool) {i : Nat} (h64 : i < 64) :
    (mixWrite old (halfWord imgAddrRow old hi v) [fKLV_IMG_ADDR_ADDR] []).getLsbD i =
      if 12 ≤ i ∧ i < 42 then
        if hi then (if i < 32 then old.getLsbD i else v.getLsbD (i - 32)) else (if i < 32 then v.getLsbD i else old.getLsbD i)
      else old.getLsbD i := by
  rw [getLsbD_mixWrite _ _ _ h64, getLsbD_halfWord _ _ _ accMask_imgAddr h64]
  simp [fldHas, fKLV_IMG_ADDR_ADDR]

/-- What a register holds after a write that only stores, on the hub that accepted it. -/
theorem Hub.reg_regOk_writeRW_same (h : Hub) (a : Nat) (rw w1c : List Fld) (v : Word) :
    (h.regOk.writeRW a rw w1c v).reg a = mixWrite (h.reg a) v rw w1c := Hub.reg_setReg_same ..

/-- Settles O7: the three registers are found in the map; what each write stores is the fields of the word it gives. -/
theorem registerWritesStore : Obligations.RegisterWritesStore := by
  refine ⟨⟨fun s o v hm => ⟨?store, ?field⟩, fun s o v hm => ?ignored⟩, fun s o v hm => ⟨?low, ?high⟩⟩
  case store =>
    exact exec_registerWrite64 hm (r := { name := .MEM_ECC_CFG, base := rMEM_ECC_CFG, dims := [], flds := [(⟨0, 8⟩, .rw), (⟨8, 1⟩, .rw)], reset := 0x108 })
      (ix := []) v (by decide) (by decide +kernel) (congrArg (Prod.mk s.fuses) (Hub.mgrWrite_of _ _ _ hm.isMgr))
  case field =>
    rw [Hub.fld_setReg_same, getFld_mixWrite_of_mem _ v (g := ⟨0, 8⟩) (List.mem_cons_self ..) (by decide)]
    exact congrArg (· % 2 ^ 8) (Nat.div_one _)
  case ignored =>
    refine exec_registerWrite64 hm (r := { name := .TOP_STRAP, base := rTOP_STRAP, dims := [], flds := [(⟨0, 2⟩, .ro), (⟨2, 2⟩, .ro), (⟨4, 1⟩, .ro),
      (⟨5, 1⟩, .ro), (⟨6, 1⟩, .ro), (⟨7, 1⟩, .ro), (⟨8, 1⟩, .ro), (⟨9, 1⟩, .ro)] }) (ix := []) v (by decide) (by decide +kernel) ?_
    cases o with
    | vf p i => exact absurd hm.isMgr Bool.false_ne_true
    | _ => rfl
  case low =>
    refine ⟨_, exec_registerWrite_imgAddr hm v false, ?_, ?_, fun a ha => Hub.reg_setReg_ne _ _ ha⟩
    all_goals rw [Hub.reg_regOk_writeRW_same]
    · exact getFld_congr (f := ⟨32, 32⟩) fun i hi h64 => by rw [getLsbD_imgAddr_half _ _ _ h64]; simp
    · refine getFld_congr (f := ⟨12, 20⟩) fun i hi h64 => ?_
      have hlow : 12 + i < 32 := by simp only at hi; omega
      have h42 : 12 + i < 42 := by omega
      rw [getLsbD_imgAddr_half _ _ _ h64]; simp [hlow, h42]
  case high =>
    refine ⟨_, exec_registerWrite_imgAddr hm v true, ?_, ?_, fun a ha => Hub.reg_setReg_ne _ _ ha⟩
    all_goals rw [Hub.reg_regOk_writeRW_same]
    · refine getFld_congr (f := ⟨0, 32⟩) fun i hi h64 => ?_
      have hlow : i < 32 := by simp only at hi; omega
      rw [Nat.zero_add] at h64 ⊢
      rw [getLsbD_imgAddr_half _ _ _ h64]; simp [hlow]
    · refine Nat.eq_of_testBit_eq fun i => ?_
      simp only [bits, Nat.testBit_mod_two_pow, Nat.testBit_div_two_pow, pow_zero, Nat.div_one]
      by_cases hi : i < 10
      · have h64 : i + 32 < 64 := by omega
        have h := getLsbD_imgAddr_half (s.hub.reg rKLV_IMG_ADDR) v true h64
        simp only [BitVec.getLsbD] at h
        simp [h, hi]
      · simp [hi]

/-! ## GO and CHECK_ONLY -/

section
variable {h : Hub} {o : Origin} {v : Word} (hm : h.isMgr o = true)
include hm

/-- A commit starts where none runs and the hub's unit has not stopped; a GO also where no lifecycle transition runs and the hub is lit. -/
theorem Hub.writeCommitCtl_of_start (hx : vFlag v fSLM_COMMIT_CTL_GO = !vFlag v fSLM_COMMIT_CTL_CHECK_ONLY) (hj : h.commitJob = none)
    (hu : h.hubUnitStopped = false) (hgo : vFlag v fSLM_COMMIT_CTL_GO = true → h.lcsJob = none ∧ h.pwrState < 2) :
    h.writeCommitCtl o v = ({ h.regOk with commitJob := some (vFlag v fSLM_COMMIT_CTL_CHECK_ONLY) } : Hub).setF rSLM_COMMIT_STS fSLM_COMMIT_STS_PHASE 1 := by
  rw [Hub.writeCommitCtl, Hub.mgrWrite_of _ _ _ hm]
  cases hc : vFlag v fSLM_COMMIT_CTL_CHECK_ONLY with
  | true => simp [hx, hc, hj, hu]
  | false =>
    obtain ⟨hl, hp⟩ := hgo (by rw [hx, hc]; rfl)
    simp [hx, hc, hj, hu, hl, Nat.not_le.mpr hp]

/-- A command while a commit runs, or both at once, is refused. -/
theorem Hub.writeCommitCtl_of_refused (hx : vFlag v fSLM_COMMIT_CTL_GO = true ∨ vFlag v fSLM_COMMIT_CTL_CHECK_ONLY = true)
    (hj : h.commitJob.isSome = true ∨ (vFlag v fSLM_COMMIT_CTL_GO = true ∧ vFlag v fSLM_COMMIT_CTL_CHECK_ONLY = true)) :
    h.writeCommitCtl o v = h.regErr := by
  rw [Hub.writeCommitCtl, Hub.mgrWrite_of _ _ _ hm]
  dsimp only
  rw [if_neg (by rcases hx with hx | hx <;> simp [hx]), if_pos (by rcases hj with hj | ⟨hg, hc⟩ <;> simp [*])]

end

theorem exec_commitGo {s : State} {o : Origin} (hb : s.hub.hostBusy o = false) :
    exec (.commitGo o) s = .next (s.withHub (s.hub.writeCommitCtl o (setFld 0 fSLM_COMMIT_CTL_GO 1))) :=
  onReg_of (f := fun h => h.writeCommitCtl o (setFld 0 fSLM_COMMIT_CTL_GO 1)) hb

theorem exec_commitCheckOnly {s : State} {o : Origin} (hb : s.hub.hostBusy o = false) :
    exec (.commitCheckOnly o) s = .next (s.withHub (s.hub.writeCommitCtl o (setFld 0 fSLM_COMMIT_CTL_CHECK_ONLY 1))) :=
  onReg_of (f := fun h => h.writeCommitCtl o (setFld 0 fSLM_COMMIT_CTL_CHECK_ONLY 1)) hb

/-- Settles O13: the two commands are one write, and one register shows that the commit runs. -/
theorem commitsStartOneAtATime : Obligations.CommitsStartOneAtATime := by
  refine ⟨fun s o hm hj hu => ⟨fun hl hp => ?go, ?check⟩, fun s o hm hj => ⟨?goAgain, ?checkAgain⟩, fun h o v hm hg hc => ?both⟩
  case go =>
    rw [exec_commitGo hm.notBusy, Hub.writeCommitCtl_of_start hm.isMgr (by decide) hj hu fun _ => ⟨hl, hp⟩]
    exact ⟨_, rfl, rfl, Hub.fld_setF_same _ _ _ _ (by decide), rfl, fun a ha => Hub.reg_setF_ne _ _ _ ha⟩
  case check =>
    rw [exec_commitCheckOnly hm.notBusy, Hub.writeCommitCtl_of_start hm.isMgr (by decide) hj hu fun h => absurd h (by decide)]
    exact ⟨_, rfl, rfl, Hub.fld_setF_same _ _ _ _ (by decide), rfl, fun a ha => Hub.reg_setF_ne _ _ _ ha⟩
  case goAgain =>
    rw [exec_commitGo hm.notBusy, Hub.writeCommitCtl_of_refused hm.isMgr (.inl (by decide)) (.inl hj)]
  case checkAgain =>
    rw [exec_commitCheckOnly hm.notBusy, Hub.writeCommitCtl_of_refused hm.isMgr (.inr (by decide)) (.inl hj)]
  case both => exact Hub.writeCommitCtl_of_refused hm (.inl hg) (.inr ⟨hg, hc⟩)

/-! ## Arrival counters -/

theorem exec_arrivalCounterWrite {s : State} {o : Origin} {sl : SliceId} (n : Fin 64) (v : Word) (hm : s.hub.sliceActs o sl) :
    exec (.arrivalCounterWrite o sl n v) s = .next (s.withHub (s.hub.regOk.setReg (rFAB_AC_n sl n) v)) := onReg_sliceWrite hm

theorem exec_arrivalCounterAdd {s : State} {o : Origin} {sl : SliceId} (v : Word) (hm : s.hub.sliceActs o sl) :
    exec (.arrivalCounterAdd o sl v) s = .next (s.withHub (s.hub.regOk.addAc sl (vFld v fFAB_AC_ADD_NUM) (vFld v fFAB_AC_ADD_BYTES))) :=
  onReg_sliceWrite hm

/-- A field as wide as its register is the register. -/
theorem setFld_whole (v : Word) (x : Nat) : setFld v ⟨0, 64⟩ x = BitVec.ofNat 64 x := by
  refine BitVec.eq_of_getLsbD_eq fun i hi => ?_
  rw [getLsbD_setFld _ _ _ _ hi, BitVec.getLsbD_ofNat]
  simp [hi]

/-- A counter that is raised: modulo 2^64. -/
theorem Hub.reg_addAc_same (h : Hub) (s n bytes : Nat) : (h.addAc s n bytes).reg (rFAB_AC_n s n) = h.reg (rFAB_AC_n s n) + BitVec.ofNat 64 bytes := by
  have hfld : h.fld (rFAB_AC_n s n) fFAB_AC_n_COUNT = (h.reg (rFAB_AC_n s n)).toNat := by
    simp [Hub.fld, getFld, fFAB_AC_n_COUNT, Nat.mod_eq_of_lt (h.reg (rFAB_AC_n s n)).isLt]
  rw [Hub.addAc, Hub.bump, Hub.reg_setF_same, hfld]
  exact (setFld_whole _ _).trans (by rw [BitVec.ofNat_add, BitVec.ofNat_toNat, BitVec.setWidth_eq])

theorem Hub.reg_addAc_ne (h : Hub) (s n bytes : Nat) {a : Nat} (ha : a ≠ rFAB_AC_n s n) : (h.addAc s n bytes).reg a = h.reg a :=
  Hub.reg_setF_ne _ _ _ ha

/-! ## Check channels -/

theorem exec_checkExpectWrite {s : State} {o : Origin} {sl : SliceId} (n : Fin 224) (v : Word) (hm : s.hub.sliceActs o sl) :
    exec (.checkExpectWrite o sl n v) s = .next (s.withHub
      (if !s.hub.ckcHeld sl n || s.hub.flag (rCKC_RESn sl n) fCKC_RESn_BUSY || s.hub.stoppedInst uCKC n then s.hub.regErr
       else s.hub.regOk.writeRW (rCKC_EXPn sl n) [fCKC_EXPn_EXPECT, fCKC_EXPn_SEQ, fCKC_EXPn_ARM] [] v)) := onReg_sliceWrite hm

theorem exec_appendChannelClr {s : State} {o : Origin} (k : Fin 32) (hm : s.hub.mgrActs o) :
    exec (.appendChannelClr o k) s = .next (s.withHub
      ((s.hub.regOk.setF (rCKC_APPk k) fCKC_APPk_FAIL 0).setF (rCKC_APPk k) fCKC_APPk_LAST_SEQ 0)) := onReg_mgrWrite hm

/-- Settles O31: each write is one register set, or one register's fields. -/
theorem countersAndChecksAreWritten : Obligations.CountersAndChecksAreWritten := by
  refine ⟨fun s o sl v hm => ⟨fun n => ?set, ?add⟩, fun s o sl n v hm => ⟨fun ho hb hs => ?expect, fun hbad => ?refused⟩, fun s o k hm => ?clear⟩
  case set => exact ⟨_, exec_arrivalCounterWrite n v hm, Hub.reg_setReg_same .., rfl, fun a ha => Hub.reg_setReg_ne _ _ ha⟩
  case add => exact ⟨_, exec_arrivalCounterAdd v hm, Hub.reg_addAc_same s.hub.regOk .., rfl, fun a ha => Hub.reg_addAc_ne _ _ _ _ ha⟩
  case expect =>
    have hheld : s.hub.ckcHeld sl n = true := decide_eq_true ho
    rw [exec_checkExpectWrite n v hm, hheld, hb, hs]
    have hfld (f : Fld) (hf : f ∈ [fCKC_EXPn_EXPECT, fCKC_EXPn_SEQ, fCKC_EXPn_ARM]) :
        (s.hub.regOk.writeRW (rCKC_EXPn sl n) [fCKC_EXPn_EXPECT, fCKC_EXPn_SEQ, fCKC_EXPn_ARM] [] v).fld (rCKC_EXPn sl n) f = vFld v f := by
      rw [Hub.fld, Hub.reg_regOk_writeRW_same, getFld_mixWrite_of_mem _ v hf ⟨Nat.le_refl _, Nat.le_refl _⟩]; rfl
    exact ⟨_, rfl, hfld _ (by decide), hfld _ (by decide), hfld _ (by decide), rfl, fun a ha => Hub.reg_setReg_ne _ _ ha⟩
  case refused =>
    rw [exec_checkExpectWrite n v hm, if_pos]
    rcases hbad with ho | hb | hs
    · simp [Hub.ckcHeld, ho]
    · simp [hb]
    · simp [hs]
  case clear =>
    refine ⟨_, exec_appendChannelClr k hm, (Hub.fld_setF_disj _ _ _ _ _ (by decide) (by decide)).trans (Hub.fld_setF_same _ _ _ _ (by decide)), Hub.fld_setF_same _ _ _ _ (by decide), ?num, rfl, fun a ha => ?frame⟩
    case num => exact (Hub.fld_setF_disj _ _ _ _ _ (by decide) (by decide)).trans (Hub.fld_setF_disj _ _ _ _ _ (by decide) (by decide))
    case frame => exact (Hub.reg_setF_ne _ _ _ ha).trans (Hub.reg_setF_ne _ _ _ ha)

/-! ## Power-on -/

/-- Settles O5: the registers by their rows' power-on values, the rest by the reset state's definition. -/
theorem powerOnLeaves : Obligations.PowerOnLeaves := by
  refine ⟨?revisions, ?version, Memory.wf_reset, rfl, rfl, rfl, ?states, fun n w => ?word⟩
  case revisions => decide +kernel
  case version => decide +kernel
  case states => decide +kernel
  case word => rfl

end Sys2Proof.Machine
end

section
/-! PROOFS. Kelvy's watchdog and a host function with a posted write under way (R417, R222; log entry 157). -/

namespace Sys2Proof.Machine

/-- A hub that holds one request: a posted write of host link 0's physical function. -/
def postedWriteHub : Hub := { reqs := [(0, { src := .host (.pf 0), kind := .write })] }

/-- A register command of a function whose posted write is on its way waits: nothing happens yet, not even the error response. -/
theorem exec_klvWatchdogKick_busy {s : State} {o : Origin} (v : Word) (hb : s.hub.hostBusy o = true) :
    exec (.klvWatchdogKick o v) s = .next s := onReg_busy (f := fun h => h.writeWdgKlv o (setFld v fWDG_KLV_KICK 1)) hb

/-- Refutes O54: its clause that a physical function's kick gets an error response has no premise that the function's posted writes are done.
While one is on its way the kick waits, and no response is given. -/
theorem not_collectorAndWatchdogRegisters : ¬ Obligations.CollectorAndWatchdogRegisters := by
  intro h
  obtain ⟨-, -, hpf, -⟩ := h.2 { State.reset with hub := postedWriteHub } 0
  have hwait := (exec_klvWatchdogKick_busy (s := { State.reset with hub := postedWriteHub }) (o := .pf 0) 0 (by decide)).symm.trans (hpf 0)
  have hout : postedWriteHub.out = postedWriteHub.regErr.out := congrArg (fun s => s.hub.out) (Host.Outcome.next.inj hwait)
  exact absurd hout (by decide)

end Sys2Proof.Machine
end

section
/-! PROOFS. HBM that is not sealed (R73, R298): bytes of a line written and read back. -/

namespace Sys2Proof.Machine

/-! ## Bytes put into the map -/

/-- A byte put reads back, where what a missing byte reads as is the fill. -/
theorem mapGetD_putByte_same {fill : Option Byte} (m : SMap Byte) (a : Nat) (b : Byte) {d : Byte} (hd : ∀ x, fill = some x → d = x) :
    mapGetD (putByte fill m a b) a d = b := by
  unfold putByte
  split
  case isTrue hf => simp [mapGetD, hd b hf]
  case isFalse => simp

theorem mapGetD_putByte_ne (fill : Option Byte) (m : SMap Byte) {a c : Nat} (b d : Byte) (hc : c ≠ a) :
    mapGetD (putByte fill m a b) c d = mapGetD m c d := by
  unfold putByte
  split
  · simp [mapGetD, mapGet_mapDel_ne m hc]
  · exact mapGetD_mapPut_ne m b d hc

theorem mapGetD_putBytes_outside (fill : Option Byte) (bs : List Byte) (d : Byte) :
    ∀ (m : SMap Byte) (a c : Nat), c < a ∨ a + bs.length ≤ c → mapGetD (putBytes fill m a bs) c d = mapGetD m c d := by
  induction bs with
  | nil => intro m a c _; rfl
  | cons b bs ih =>
    intro m a c hc
    rw [List.length_cons] at hc
    have hne : c ≠ a := by omega
    have hout : c < a + 1 ∨ a + 1 + bs.length ≤ c := by omega
    exact (ih _ _ _ hout).trans (mapGetD_putByte_ne fill m b d hne)

theorem mapGetD_putBytes_inside {fill : Option Byte} (bs : List Byte) {d : Byte} (hd : ∀ x, fill = some x → d = x) :
    ∀ (m : SMap Byte) (a k : Nat) (hk : k < bs.length), mapGetD (putBytes fill m a bs) (a + k) d = bs[k] := by
  induction bs with
  | nil => intro m a k hk; exact absurd hk (Nat.not_lt_zero k)
  | cons b bs ih =>
    intro m a k hk
    cases k with
    | zero => exact (mapGetD_putBytes_outside fill bs d _ _ _ (.inl (Nat.lt_succ_self a))).trans (mapGetD_putByte_same m a b hd)
    | succ k =>
      rw [← Nat.add_assoc, Nat.add_right_comm]
      exact ih _ _ k (Nat.lt_of_succ_lt_succ hk)

/-! ## The lost-line list -/

/-- LOST of a channel shares no bits with what a region's counters are chosen by. -/
theorem Hub.onNewSide_setF_lost (h : Hub) (ch x r i : Nat) : (h.setF (rMEM_CH_ECC ch) fMEM_CH_ECC_LOST x).onNewSide r i = h.onNewSide r i := by
  have hsts : (h.setF (rMEM_CH_ECC ch) fMEM_CH_ECC_LOST x).fld (rUMB_REG_STS r) fUMB_REG_STS_STATE = h.fld (rUMB_REG_STS r) fUMB_REG_STS_STATE := by
    by_cases ha : rUMB_REG_STS r = rMEM_CH_ECC ch
    · rw [ha]; exact Hub.fld_setF_disj _ _ _ _ _ (by decide) (by decide)
    · exact Hub.fld_setF_ne _ _ _ _ ha
  have hsweep : (h.setF (rMEM_CH_ECC ch) fMEM_CH_ECC_LOST x).fld (rUMB_REG_SWEEP r) fUMB_REG_SWEEP_BOUNDARY =
      h.fld (rUMB_REG_SWEEP r) fUMB_REG_SWEEP_BOUNDARY := Hub.fld_setF_ne _ _ _ _ (by unfold rUMB_REG_SWEEP rMEM_CH_ECC; omega)
  rw [Hub.onNewSide, hsts, hsweep]; rfl

theorem Hub.hbmByte_unlose (h : Hub) (ch off b : Nat) : (h.unlose ch off).hbmByte b = h.hbmByte b := by
  unfold Hub.unlose
  split
  · have hctr (k : Hub) (x a : Nat) (r : SealedRec) : (k.setF (rMEM_CH_ECC ch) fMEM_CH_ECC_LOST x).lineCtr r a = k.lineCtr r a := by
      simp only [Hub.lineCtr, Hub.onNewSide_setF_lost]
      rfl
    unfold Hub.hbmByte
    simp only [hctr]
    rfl
  · rfl

theorem Hub.hbmByte_unloseAt (h : Hub) (a b : Nat) : (h.unloseAt a).hbmByte b = h.hbmByte b := by
  unfold Hub.unloseAt
  split
  · exact h.hbmByte_unlose _ _ b
  · rfl

/-! ## A line written -/

theorem Hub.hbmPutLine_of_plain {h : Hub} (w : Payer) {a : Nat} (bs : List Byte) (hr : h.regionOf a = none) :
    h.hbmPutLine w a bs = (h.hbmSet a bs).unloseAt a := by
  unfold Hub.hbmPutLine
  rw [hr]

/-- Settles O33: a plain line's bytes go into the map, and its entry out of the lost-line list. -/
theorem memoryReadsBackWhatWasWritten : Obligations.MemoryReadsBackWhatWasWritten := by
  intro h w a bs hr hl
  rw [Hub.hbmPutLine_of_plain w bs hr]
  refine ⟨fun k hk => ?inside, fun b hb => ?outside, ?lost⟩
  case inside =>
    have hgran : (a + k) / GRAN = a / GRAN := by unfold GRAN; omega
    have hreg : (h.hbmSet a bs).regionOf (a + k) = none := (h.regionOf_granule hgran).trans hr
    rw [Hub.hbmByte_unloseAt, Hub.hbmByte, hreg]
    refine mapGetD_putBytes_inside bs (fun x hx => ?_) _ a k hk
    rw [show (h.hbmSet a bs).hbmFill (a + k) = some x from (h.hbmFill_granule hgran).trans hx]; rfl
  case outside =>
    rw [Hub.hbmByte_unloseAt, Hub.hbmByte, Hub.hbmByte]
    have hv := mapGetD_putBytes_outside (h.hbmFill a) bs ((h.hbmFill b).getD (Config.hbmNoise h.keyDraw b)) h.hbm a b hb
    exact congrArg (fun v => match h.regionOf b with | some r => if h.lineCtr r b = 0 then 0 else v | none => v) hv
  case lost => rw [(Hub.sameMem_unloseAt _ a).1]; rfl

end Sys2Proof.Machine
end

section
/-! PROOFS. Groups: forming, eclipses and telemetry (R156, R157, R351, R352, R418 to R420). -/

namespace Sys2Proof.Machine

/-! ## A group's record -/

@[simp] theorem Hub.grp_setGrp (h : Hub) (g : Nat) (x : GroupRt) : (h.setGrp g x).grp g = x := mapGetD_mapPutD_same _ _ _ _

@[simp] theorem Hub.grp_updGrp (h : Hub) (g : Nat) (f : GroupRt → GroupRt) : (h.updGrp g f).grp g = f (h.grp g) := h.grp_setGrp g _

/-! ## Forming -/

section
variable {s : State} {g : GroupId} {r : Sched} (hr : s.hub.beatSched g = some r) (hg : s.hub.gState g = 1)
include hr hg

/-- A forming hub that is no origin votes. -/
theorem exec_formingVoteTimer_of_child (ho : r.origin = false) :
    exec (.formingVoteTimer g) s = .next (s.withHub (s.hub.sendVote g r { count := s.hub.formCount g } true)) := by
  simp only [exec, execFormingVoteTimer, onHub, hr, hg, ho, Bool.false_eq_true, ne_eq, not_true, if_false]
  rfl

/-- The origin of a forming group looks at its total. -/
theorem exec_formingVoteTimer_of_origin (ho : r.origin = true) :
    exec (.formingVoteTimer g) s = .next (s.withHub (s.hub.tryStart g r)) := by
  simp only [exec, execFormingVoteTimer, onHub, hr, hg, ho, ne_eq, not_true, if_false, if_true]
  rfl

end

section
variable {h : Hub} {g : Nat} {r : Sched}

/-- The total is reached: START is fixed. -/
theorem Hub.tryStart_of_total (ho : r.origin = true) (hg : h.gState g = 1) (hc : h.formCount g = r.hubs) (hf : (h.grp g).fixed = none)
    (hp : (h.grp g).pend = none) (hs : (h.grp g).started = false) :
    h.tryStart g r = h.updGrp g (fun k => { k with fixed := some vSTART, lastVerdict := vSTART, ostate := 2, consec := 0, holdPending := false }) := by
  simp [Hub.tryStart, ho, hg, hc, hf, hp, hs]

theorem Hub.tryStart_of_short (hc : h.formCount g ≠ r.hubs) : h.tryStart g r = h := by simp [Hub.tryStart, hc]

end

/-- GROUP_FORM is raised once. -/
theorem exec_groupFormTimeout_of_due {s : State} {g : GroupId} (hg : s.hub.gState g = 1) (hf : (s.hub.grp g).formRaised = false)
    (hd : (s.hub.grp g).commitAt + 10 * psMs ≤ s.hub.now) : exec (.groupFormTimeout g) s =
      .next (s.withHub ((s.hub.updGrp g (fun k => { k with formRaised := true })).beatNote g kGROUP_FORM)) := by
  simp only [exec, execGroupFormTimeout, onHub, hg, hf, hd, decide_true, Bool.not_false, Bool.and_self, if_true]
  rfl

theorem exec_groupFormTimeout_of_raised {s : State} {g : GroupId} (hf : (s.hub.grp g).formRaised = true) :
    exec (.groupFormTimeout g) s = .next s := by
  simp only [exec, execGroupFormTimeout, onHub, hf, Bool.not_true, Bool.and_false, Bool.false_and, Bool.false_eq_true, if_false]

/-! ## Eclipses -/

/-- A manager's eclipse: of a started group it is raised, of any other it is refused. -/
theorem exec_managerEclipse {s : State} {o : Origin} (v : Word) (hm : s.hub.mgrActs o) :
    exec (.managerEclipse o v) s = .next (s.withHub
      (if s.hub.groupStarted (vFld v fFCOL_ECL_GROUP) then
        (s.hub.regOk.writeRW rFCOL_ECL [fFCOL_ECL_GROUP] [] (setFld v fFCOL_ECL_GO 1)).raiseEclipse (vFld v fFCOL_ECL_GROUP) 1
      else s.hub.regErr)) := by
  have hgroup : vFld (setFld v fFCOL_ECL_GO 1) fFCOL_ECL_GROUP = vFld v fFCOL_ECL_GROUP :=
    getFld_setFld_disj _ _ _ _ (by decide) (.inr (by decide))
  have hgo : vFlag (setFld v fFCOL_ECL_GO 1) fFCOL_ECL_GO = true := by rw [vFlag, getFld_setFld_same _ _ _ (by decide)]; rfl
  refine (onReg_of (f := fun h => h.writeEcl o (setFld v fFCOL_ECL_GO 1)) hm.notBusy).trans ?_
  rw [Hub.writeEcl, Hub.mgrWrite_of _ _ _ hm.isMgr]
  simp only [hgroup, hgo, if_true]

/-- An eclipse that was seen is not acted on again. -/
theorem Hub.takeEclipse_of_seen {h : Hub} (l : Nat) {f : List Byte}
    (hs : (h.grp (bits (leAt f 8 8) 9 0)).eclSeen.contains (bits (leAt f 8 8) 18 10, bits (leAt f 8 8) 63 32) = true) :
    h.takeEclipse l f = h := if_pos (.inr hs)

/-- The end of a group with no slice on this hub. -/
theorem Hub.endGroup_of_no_slices {h : Hub} {g : Nat} (src : Nat) (hs : h.groupSlices g = []) (hg : h.gState g ≠ 5) :
    h.endGroup g src = (h.setGState g 5).updGrp g (fun k => { k with pend := none, fixed := none }) := by
  have hact : ((h.setGState g 5).updGrp g (fun k => { k with pend := none, fixed := none })).groupActive g = [] := by
    rw [Hub.groupActive, show ((h.setGState g 5).updGrp g (fun k => { k with pend := none, fixed := none })).groupSlices g = [] from hs]
    rfl
  rw [Hub.endGroup, if_neg hg]
  dsimp only
  rw [hact]; rfl

/-! ## Telemetry -/

/-- A field whose mask is put in is all ones. -/
theorem getFld_or_fldMask_same (v : Word) (f : Fld) (hf : f.lo + f.w ≤ 64) : getFld (v ||| fldMask f) f = 2 ^ f.w - 1 := by
  refine Nat.eq_of_testBit_eq fun i => ?_
  rw [testBit_getFld, Nat.testBit_two_pow_sub_one]
  by_cases hi : i < f.w
  · have h64 : f.lo + i < 64 := by omega
    simp only [BitVec.getLsbD_or, getLsbD_fldMask f _ h64]
    simp [hi]
  · simp [hi]

/-- A field's mask put in leaves the other fields. -/
theorem getFld_or_fldMask_disj (v : Word) {f g : Fld} (hd : f.lo + f.w ≤ g.lo ∨ g.lo + g.w ≤ f.lo) : getFld (v ||| fldMask f) g = getFld v g := by
  refine getFld_congr fun i hi h64 => ?_
  have hout : (fldMask f).getLsbD (g.lo + i) = false := by
    rw [getLsbD_fldMask f _ h64, Bool.and_eq_false_iff, decide_eq_false_iff_not, decide_eq_false_iff_not]
    omega
  rw [BitVec.getLsbD_or, hout, Bool.or_false]

/-- The telemetry zeroed; SLIP_THR keeps its value. -/
def Hub.clearTelemetry (h : Hub) (g : Nat) : Hub :=
  ((((h.setF (rQL_GRP_SLIP g) fQL_GRP_SLIP_SLIPS 0).setF (rQL_GRP_SLIP g) fQL_GRP_SLIP_HELD 0).setF (rQL_GRP_TIME g) fQL_GRP_TIME_LATE_ARR 0).setF
    (rQL_GRP_SLACK g) fQL_GRP_SLACK_SLACK_MIN 0xFFFF).setF (rQL_GRP_SLACK g) fQL_GRP_SLACK_LATE_V 0

theorem exec_groupTelemetryClr {s : State} {o : Origin} {g : GroupId} (hm : s.hub.mgrActs o) :
    exec (.groupTelemetryClr o g) s = .next (s.withHub ((s.hub.regOk.writeRW (rQL_GRP_CTL g) [fQL_GRP_CTL_SLIP_THR] []
      (s.hub.reg (rQL_GRP_CTL g) ||| fldMask fQL_GRP_CTL_CLR)).clearTelemetry g)) := by
  have hclr : vFlag (s.hub.reg (rQL_GRP_CTL g) ||| fldMask fQL_GRP_CTL_CLR) fQL_GRP_CTL_CLR = true := by
    rw [vFlag, getFld_or_fldMask_same _ _ (by decide)]; rfl
  refine (onReg_of (f := fun h => h.writeGrpCtl o g ((h.reg (rQL_GRP_CTL g)) ||| fldMask fQL_GRP_CTL_CLR)) hm.notBusy).trans ?_
  rw [Hub.writeGrpCtl, Hub.mgrWrite_of _ _ _ hm.isMgr]
  simp only [hclr, if_true]
  rfl

section
variable (h : Hub) (g : Nat)

theorem Hub.fld_clearTelemetry_slips : (h.clearTelemetry g).fld (rQL_GRP_SLIP g) fQL_GRP_SLIP_SLIPS = 0 :=
  (Hub.fld_setF_ne _ _ _ _ (by unfold rQL_GRP_SLIP rQL_GRP_SLACK; omega)).trans <|
    (Hub.fld_setF_ne _ _ _ _ (by unfold rQL_GRP_SLIP rQL_GRP_SLACK; omega)).trans <|
      (Hub.fld_setF_ne _ _ _ _ (by unfold rQL_GRP_SLIP rQL_GRP_TIME; omega)).trans <| (Hub.fld_setF_disj _ _ _ _ _ (by decide) (by decide)).trans (Hub.fld_setF_same _ _ _ _ (by decide))

theorem Hub.fld_clearTelemetry_held : (h.clearTelemetry g).fld (rQL_GRP_SLIP g) fQL_GRP_SLIP_HELD = 0 :=
  (Hub.fld_setF_ne _ _ _ _ (by unfold rQL_GRP_SLIP rQL_GRP_SLACK; omega)).trans <|
    (Hub.fld_setF_ne _ _ _ _ (by unfold rQL_GRP_SLIP rQL_GRP_SLACK; omega)).trans <|
      (Hub.fld_setF_ne _ _ _ _ (by unfold rQL_GRP_SLIP rQL_GRP_TIME; omega)).trans (Hub.fld_setF_same _ _ _ _ (by decide))

theorem Hub.fld_clearTelemetry_consec : (h.clearTelemetry g).fld (rQL_GRP_SLIP g) fQL_GRP_SLIP_CONSEC = h.fld (rQL_GRP_SLIP g) fQL_GRP_SLIP_CONSEC :=
  (Hub.fld_setF_ne _ _ _ _ (by unfold rQL_GRP_SLIP rQL_GRP_SLACK; omega)).trans <|
    (Hub.fld_setF_ne _ _ _ _ (by unfold rQL_GRP_SLIP rQL_GRP_SLACK; omega)).trans <|
      (Hub.fld_setF_ne _ _ _ _ (by unfold rQL_GRP_SLIP rQL_GRP_TIME; omega)).trans <| (Hub.fld_setF_disj _ _ _ _ _ (by decide) (by decide)).trans (Hub.fld_setF_disj _ _ _ _ _ (by decide) (by decide))

theorem Hub.fld_clearTelemetry_lateArr : (h.clearTelemetry g).fld (rQL_GRP_TIME g) fQL_GRP_TIME_LATE_ARR = 0 :=
  (Hub.fld_setF_ne _ _ _ _ (by unfold rQL_GRP_TIME rQL_GRP_SLACK; omega)).trans <|
    (Hub.fld_setF_ne _ _ _ _ (by unfold rQL_GRP_TIME rQL_GRP_SLACK; omega)).trans (Hub.fld_setF_same _ _ _ _ (by decide))

theorem Hub.fld_clearTelemetry_slackMin : (h.clearTelemetry g).fld (rQL_GRP_SLACK g) fQL_GRP_SLACK_SLACK_MIN = 0xFFFF :=
  (Hub.fld_setF_disj _ _ _ _ _ (by decide) (by decide)).trans (Hub.fld_setF_same _ _ _ _ (by decide))

/-- A register that holds no telemetry stays. -/
theorem Hub.reg_clearTelemetry_ne {a : Nat} (h1 : a ≠ rQL_GRP_SLIP g) (h2 : a ≠ rQL_GRP_TIME g) (h3 : a ≠ rQL_GRP_SLACK g) :
    (h.clearTelemetry g).reg a = h.reg a := by
  simp only [Hub.clearTelemetry, Hub.reg_setF_ne _ _ _ h1, Hub.reg_setF_ne _ _ _ h2, Hub.reg_setF_ne _ _ _ h3]

end

/-- Settles O24: each clause is the rule of its command on a forming, a started or an ended group. -/
theorem groupsFormAndEndByVotesAndEclipses : Obligations.GroupsFormAndEndByVotesAndEclipses := by
  refine ⟨fun s g r hr hg => ⟨exec_formingVoteTimer_of_child hr hg, fun ho hc hf hp hs => ?start, fun ho hc => ?short, fun hf hd => ?late,
    exec_groupFormTimeout_of_raised⟩, fun s o v hm _ => ⟨fun hs => ?raised, fun hs => ?refused⟩, fun s o g hm => ?clear,
    fun h l f hs => Hub.takeEclipse_of_seen l hs, fun h g src hs hg => ?ended⟩
  case start =>
    refine ⟨_, exec_formingVoteTimer_of_origin hr hg ho, ?_⟩
    rw [Hub.tryStart_of_total ho hg hc hf hp hs]
    exact ⟨congrArg GroupRt.fixed (Hub.grp_updGrp ..), rfl, rfl⟩
  case short => rw [exec_formingVoteTimer_of_origin hr hg ho, Hub.tryStart_of_short hc]; rfl
  case late =>
    have hgrp (f : GroupRt → GroupRt) (kind : Nat) : ((s.hub.updGrp g f).beatNote g kind).grp g = f (s.hub.grp g) := Hub.grp_updGrp ..
    exact ⟨_, exec_groupFormTimeout_of_due hg hf hd, congrArg GroupRt.formRaised (hgrp _ _), hg, rfl⟩
  case raised => exact ⟨_, by rw [exec_managerEclipse v hm, if_pos hs], rfl⟩
  case refused => rw [exec_managerEclipse v hm, if_neg (ne_true_of_eq_false hs)]
  case clear =>
    have hstore (a : Nat) (f : Fld) (ha : a ≠ rQL_GRP_CTL g) : (s.hub.regOk.writeRW (rQL_GRP_CTL g) [fQL_GRP_CTL_SLIP_THR] []
        (s.hub.reg (rQL_GRP_CTL g) ||| fldMask fQL_GRP_CTL_CLR)).fld a f = s.hub.fld a f := Hub.fld_setReg_ne _ _ _ ha
    refine ⟨_, exec_groupTelemetryClr hm, Hub.fld_clearTelemetry_slips .., Hub.fld_clearTelemetry_held .., Hub.fld_clearTelemetry_lateArr ..,
      Hub.fld_clearTelemetry_slackMin .., (Hub.fld_clearTelemetry_consec ..).trans (hstore _ _ ?_), ?state, ?threshold, rfl⟩
    · unfold rQL_GRP_SLIP rQL_GRP_CTL; omega
    case state =>
      refine (congrArg (getFld · _) (Hub.reg_clearTelemetry_ne _ _ ?_ ?_ ?_)).trans (hstore _ _ ?_)
      all_goals simp only [rQL_GRP_STS, rQL_GRP_SLIP, rQL_GRP_TIME, rQL_GRP_SLACK, rQL_GRP_CTL]; omega
    case threshold =>
      refine (congrArg (getFld · _) ((Hub.reg_clearTelemetry_ne _ _ ?_ ?_ ?_).trans (Hub.reg_regOk_writeRW_same ..))).trans ?_
      rotate_left 3
      · rw [getFld_mixWrite_of_mem _ _ (List.mem_singleton_self _) (by decide)]
        exact getFld_or_fldMask_disj _ (.inr (by decide))
      all_goals simp only [rQL_GRP_SLIP, rQL_GRP_TIME, rQL_GRP_SLACK, rQL_GRP_CTL]; omega
  case ended =>
    rw [Hub.endGroup_of_no_slices src hs hg]
    exact ⟨(Hub.fld_congr (k := h.setGState g 5) rfl _ _).trans (Hub.fld_setF_same _ _ _ _ (by decide)), congrArg GroupRt.pend (Hub.grp_updGrp ..)⟩

end Sys2Proof.Machine
end

section
/-! PROOFS. Beat messages and boundaries (R158, R160, R163, R167, R172, R174), and a group whose source a fatal fault has stopped (R390). -/

namespace Sys2Proof.Machine

/-! ## Little-endian words of a message -/

theorem leNat_toLE (n : Nat) : ∀ v, leNat (toLE n v) = v % 256 ^ n := by
  induction n with
  | zero => intro v; simp [toLE, leNat, Nat.mod_one]
  | succ n ih =>
    intro v
    rw [toLE, leNat, ih, BitVec.toNat_ofNat, pow_succ' 256 n]
    exact Nat.mod_mul.symm

/-- A word between a front of `i` bytes and a rest. -/
theorem leAt_append {l m k : List Byte} {i n : Nat} (hl : l.length = i) (hm : m.length = n) : leAt (l ++ (m ++ k)) i n = leNat m := by
  subst hl hm
  simp [leAt, sub]

theorem leAt_msgFrame_w0 (op w0 w1 w2 : Nat) (h : w0 < 2 ^ 64) : leAt (msgFrame op w0 w1 w2) 8 8 = w0 := by
  rw [msgFrame, List.append_assoc, List.append_assoc, leAt_append (length_toLE _ _) (length_toLE _ _), leNat_toLE]
  exact Nat.mod_eq_of_lt h

theorem leAt_msgFrame_w1 (op w0 w1 w2 : Nat) (h : w1 < 2 ^ 64) : leAt (msgFrame op w0 w1 w2) 16 8 = w1 := by
  rw [msgFrame, List.append_assoc, leAt_append (by simp) (length_toLE _ _), leNat_toLE]
  exact Nat.mod_eq_of_lt h

theorem leAt_msgFrame_w2 (op w0 w1 w2 : Nat) (h : w2 < 2 ^ 64) : leAt (msgFrame op w0 w1 w2) 24 8 = w2 := by
  rw [msgFrame, ← List.append_nil (toLE 8 w2), leAt_append (by simp) (length_toLE _ _), leNat_toLE]
  exact Nat.mod_eq_of_lt h

/-- What a beat message's words say, read back. -/
theorem bits_beatW0 {g v n : Nat} (hg : g < 1024) (hv : v ≤ 6) (hn : n < 2 ^ 48) : beatW0 g v n < 2 ^ 64 ∧ bits (beatW0 g v n) 9 0 = g ∧
    bits (beatW0 g v n) 13 10 = v ∧ bits (beatW0 g v n) 15 14 = 0 ∧ bits (beatW0 g v n) 63 16 = n := by
  have h0 : beatW0 g v n = g + v * 1024 + n * 65536 := by unfold beatW0; omega
  rw [h0]
  refine ⟨by omega, ?_, ?_, ?_, ?_⟩ <;> simp only [bits, Nat.reduceAdd, Nat.reduceSub, Nat.reducePow] <;> omega

theorem bits_beatW1 {e chk : Nat} (he : e < 2 ^ 32) (hc : chk < 2 ^ 32) : beatW1 e chk < 2 ^ 64 ∧ bits (beatW1 e chk) 31 0 = e ∧
    bits (beatW1 e chk) 63 32 = chk := by
  have h1 : beatW1 e chk = e + chk * 4294967296 := by unfold beatW1; omega
  rw [h1]
  refine ⟨by omega, ?_, ?_⟩ <;> simp only [bits, Nat.reduceAdd, Nat.reduceSub, Nat.reducePow] <;> omega

/-! ## Sending and taking a beat -/

/-- The origin's verdict goes out once the boundary is no further off than the lead. -/
theorem Hub.beatSend_of_due {h : Hub} {g v : Nat} {r : Sched} (hf : (h.grp g).fixed = some v) (ho : r.origin = true) (hg : h.gState g ≠ 5)
    (hs : (h.grp g).started = true) (hd : (h.grp g).lastAt + r.sheet ≤ h.now + r.lead) : h.beatSend g r =
      (h.updGrp g (fun k => { k with
        fixed := none
        pend := some { verdict := v, boundary := h.gBoundary g + 1, elapsed := 0, chk := h.sheetAfter g v % 2 ^ 32, hop := 0, link := 31,
                       actAt := (h.grp g).lastAt + r.sheet } })).sendBeat g v (h.gBoundary g + 1) 0 (h.sheetAfter g v % 2 ^ 32) 1 := by
  simp only [Hub.beatSend, hf, ho, hg, hs, Nat.not_lt.mpr hd, decide_false, Bool.not_true, Bool.and_false, Bool.or_self, Bool.false_eq_true,
    if_false, if_true]

theorem Hub.beatSend_of_early {h : Hub} {g : Nat} {r : Sched} (hs : (h.grp g).started = true) (hd : h.now + r.lead < (h.grp g).lastAt + r.sheet) :
    h.beatSend g r = h := by
  cases hf : (h.grp g).fixed with
  | none => simp only [Hub.beatSend, hf]
  | some v => simp only [Hub.beatSend, hf, hs, hd, decide_true, Bool.and_self, Bool.or_true, if_true]

theorem exec_beatSend {s : State} {g : GroupId} {r : Sched} (hr : s.hub.beatSched g = some r) :
    exec (.beatSend g) s = .next (s.withHub (s.hub.beatSend g r)) := by
  simp only [exec, execBeatSend, onHub, hr]
  rfl

section
variable {s : State} {l : LinkId} {f : List Byte} (hf : s.hub.rxHead l 2 = some f)
include hf

theorem exec_beat : exec (.beat l) s = .next (s.withHub
    (if msgOp f = opBEAT then (s.hub.rxPop l 2).takeBeat l ((s.hub.link l).arrivedAt.headD s.hub.now) f else s.hub)) := by
  simp only [exec, execBeat, onHub, hf]; rfl

theorem exec_vote : exec (.vote l) s = .next (s.withHub (if msgOp f = opVOTE then (s.hub.rxPop l 2).takeVote l f else s.hub)) := by
  simp only [exec, execVote, onHub, hf]; rfl

theorem exec_eclipse : exec (.eclipse l) s = .next (s.withHub (if msgOp f = opECLIPSE then (s.hub.rxPop l 2).takeEclipse l f else s.hub)) := by
  simp only [exec, execEclipse, onHub, hf]; rfl

end

/-- A fold of steps that leave a view of the hub leaves it. -/
theorem Hub.foldl_same {α β : Type} (p : Hub → β) {f : Hub → α → Hub} (hf : ∀ h x, p (f h x) = p h) (l : List α) :
    ∀ h : Hub, p (l.foldl f h) = p h := by
  induction l with
  | nil => intro h; rfl
  | cons x l ih => intro h; exact (ih _).trans (hf h x)

/-- A message sent leaves the groups. -/
theorem Hub.grp_sendBeat (h : Hub) (g v n e chk hop k : Nat) : (h.sendBeat g v n e chk hop).grp k = h.grp k := by
  refine Hub.foldl_same (fun h => h.grp k) ?_ (h.children g) h
  exact fun _ _ => rfl

/-- A register set leaves the groups. -/
@[simp] theorem Hub.grp_setF (h : Hub) (a : Nat) (f : Fld) (x g : Nat) : (h.setF a f x).grp g = h.grp g := rfl

/-- A beat message that is not kept changes nothing. -/
theorem Hub.takeBeat_of_reserved (h : Hub) (l arrived : Nat) {f : List Byte}
    (hf : 6 < bits (leAt f 8 8) 13 10 ∨ bits (leAt f 8 8) 15 14 ≠ 0 ∨ bits (leAt f 24 8) 3 0 = 0) : h.takeBeat l arrived f = h := by
  cases hr : h.beatSched (bits (leAt f 8 8) 9 0) with
  | none => simp only [Hub.takeBeat, hr]
  | some r => simp only [Hub.takeBeat, hr]; exact if_pos (by rcases hf with h | h | h <;> simp [h])

/-- A beat message from the parent that arrives in time is kept until the boundary it announces. -/
theorem Hub.grp_takeBeat {h : Hub} {l arrived g v n e hop chk : Nat} {r : Sched} (hg : g < 1024) (hr : h.beatSched g = some r) (hl : r.beatLink = l)
    (hv : v ≤ 6) (hn : n < 2 ^ 48) (he : e ≤ r.lead) (he32 : e < 2 ^ 32) (hc : chk < 2 ^ 32) (h0 : 0 < hop) (hh : hop ≤ r.hops) (h16 : hop < 16)
    (h5 : h.gState g ≠ 5) (hz : h.gState g ≠ 0) :
    ((h.takeBeat l arrived (msgFrame opBEAT (beatW0 g v n) (beatW1 e chk) hop)).grp g).pend =
      some { verdict := v, boundary := n, elapsed := e, chk := chk, hop := hop, link := l, actAt := arrived + r.lead - e } := by
  obtain ⟨hw0, hbg, hbv, hbr, hbn⟩ := bits_beatW0 hg hv hn
  obtain ⟨hw1, hbe, hbc⟩ := bits_beatW1 he32 hc
  have hbh : bits hop 3 0 = hop := by simp only [bits]; omega
  have hbz : bits hop 63 4 = 0 := by simp only [bits]; omega
  unfold Hub.takeBeat
  simp only [leAt_msgFrame_w0 _ _ _ _ hw0, leAt_msgFrame_w1 _ _ _ _ hw1, leAt_msgFrame_w2 _ _ _ hop (by omega), hbg, hbv, hbr, hbn, hbe, hbc, hbh,
    hbz, hr]
  have hkeep : ¬ ((decide (6 < v) || decide (0 ≠ 0) || decide (0 ≠ 0) || decide (hop = 0) || decide (r.hops < hop) || decide (r.beatLink ≠ l) ||
      decide (h.gState g = 5) || decide (h.gState g = 0)) = true) := by
    simp [hl, h5, hz, Nat.not_lt.mpr hv, Nat.not_lt.mpr hh, Nat.pos_iff_ne_zero.mp h0]
  rw [if_neg hkeep, Hub.grp_sendBeat]
  simp only [Nat.not_lt.mpr he, decide_false, Bool.false_eq_true, if_false]
  rw [Hub.grp_setF, Hub.grp_updGrp]

/-! ## What a boundary does -/

/-- The registers that a boundary shows its message in. -/
def Hub.showBoundary (h : Hub) (g : Nat) (m : BeatMsg) (cur cons : Nat) : Hub :=
  ((((((h.setReg (rQL_GRP_BND g) 0).setF (rQL_GRP_BND g) fQL_GRP_BND_BOUNDARY m.boundary).setF (rQL_GRP_BND g) fQL_GRP_BND_VERDICT m.verdict).setF
    (rQL_GRP_SHEET g) fQL_GRP_SHEET_SHEET cur).setGState g (stateAfter m.verdict)).setF (rQL_GRP_STS g) fQL_GRP_STS_DEPTH m.hop).setF
    (rQL_GRP_SLIP g) fQL_GRP_SLIP_CONSEC cons

/-- The count that a verdict raises: slips of a cancelled boundary, held boundaries of the hold. -/
def Hub.countVerdict (h : Hub) (g v : Nat) : Hub :=
  if v = vSLIP ∨ v = vHANG then h.countSlip g
  else if v = vHOLD ∨ v = vHELD ∨ v = vRELEASE then h.count (rQL_GRP_SLIP g) fQL_GRP_SLIP_HELD 1 else h

/-- The group's record after a boundary. -/
def GroupRt.atBoundary (k : GroupRt) (m : BeatMsg) (cur : Nat) (slack : Option Nat) : GroupRt :=
  { k with
    pend := none, started := true, lastAt := m.actAt, own := none, sent := false, votes := [],
    chkSheet := if verdictStarts m.verdict then cur - 1 else cur, slack := slack, saveDone := k.saveDone && decide (m.verdict = vHELD) }

/-- What a boundary settles of a group besides its registers, and what it leaves of the hub. -/
def Hub.beatView (h : Hub) (g : Nat) : Option BeatMsg × Bool × Nat × SMap Byte × SMap Cell × Forme :=
  ((h.grp g).pend, (h.grp g).started, (h.grp g).lastAt, h.hbm, h.cells, h.forme)

section
variable (h : Hub) (g v : Nat)

/-- A change of a group's record that leaves its message, its start and its last boundary. -/
theorem Hub.beatView_updGrp {f : GroupRt → GroupRt} (hf : ∀ k, (f k).pend = k.pend ∧ (f k).started = k.started ∧ (f k).lastAt = k.lastAt) :
    (h.updGrp g f).beatView g = h.beatView g := by
  obtain ⟨hp, hs, hl⟩ := hf (h.grp g)
  unfold Hub.beatView
  rw [Hub.grp_updGrp, hp, hs, hl]
  rfl

/-- A verdict for a group with no slice here leaves the registers and the view. -/
theorem Hub.applyVerdict_of_no_slices (cur : Nat) (late : List Nat) (hs : h.groupActive g = []) :
    (h.applyVerdict g v cur late).regs = h.regs ∧ (h.applyVerdict g v cur late).beatView g = h.beatView g := by
  unfold Hub.applyVerdict
  rw [hs]
  simp only [List.foldl_nil]
  split_ifs
  case neg => exact ⟨rfl, Hub.beatView_updGrp _ _ fun _ => ⟨rfl, rfl, rfl⟩⟩
  all_goals exact ⟨rfl, rfl⟩

/-- A slip counted: SLIPS by one, and nothing of the view. -/
theorem Hub.countSlip_same : (h.countSlip g).regs = (h.count (rQL_GRP_SLIP g) fQL_GRP_SLIP_SLIPS 1).regs ∧
    (h.countSlip g).beatView g = h.beatView g := by
  unfold Hub.countSlip
  extract_lets ts thr h1 quiet
  have hview : h1.beatView g = h.beatView g := Hub.beatView_updGrp _ _ fun _ => ⟨rfl, rfl, rfl⟩
  split
  · exact ⟨rfl, (Hub.beatView_updGrp h1 g (f := fun k => { k with slipRaisedAt := some h.now }) fun _ => ⟨rfl, rfl, rfl⟩).trans hview⟩
  · exact ⟨rfl, hview⟩

theorem Hub.beatView_countVerdict : (h.countVerdict g v).beatView g = h.beatView g := by
  unfold Hub.countVerdict
  split_ifs
  · exact (h.countSlip_same g).2
  · rfl
  · rfl

/-- A verdict counted changes the one register of slips and held boundaries. -/
theorem Hub.reg_countVerdict_ne {a : Nat} (ha : a ≠ rQL_GRP_SLIP g) : (h.countVerdict g v).reg a = h.reg a := by
  unfold Hub.countVerdict
  split_ifs
  · exact (Hub.reg_congr (h.countSlip_same g).1 a).trans (Hub.reg_setF_ne _ _ _ ha)
  · exact Hub.reg_setF_ne _ _ _ ha
  · rfl

theorem Hub.fld_countVerdict_slips : (h.countVerdict g v).fld (rQL_GRP_SLIP g) fQL_GRP_SLIP_SLIPS = if v = vSLIP ∨ v = vHANG then
    min (h.fld (rQL_GRP_SLIP g) fQL_GRP_SLIP_SLIPS + 1) (2 ^ fQL_GRP_SLIP_SLIPS.w - 1) else h.fld (rQL_GRP_SLIP g) fQL_GRP_SLIP_SLIPS := by
  unfold Hub.countVerdict
  split_ifs
  · exact (Hub.fld_congr (h.countSlip_same g).1 _ _).trans (Hub.fld_count_same _ _ _ _ (by decide))
  · exact Hub.fld_setF_disj _ _ _ _ _ (by decide) (by decide)
  · rfl

theorem Hub.fld_countVerdict_held (hx : ¬ ((v = vSLIP ∨ v = vHANG) ∧ (v = vHOLD ∨ v = vHELD ∨ v = vRELEASE))) :
    (h.countVerdict g v).fld (rQL_GRP_SLIP g) fQL_GRP_SLIP_HELD = if v = vHOLD ∨ v = vHELD ∨ v = vRELEASE then
      min (h.fld (rQL_GRP_SLIP g) fQL_GRP_SLIP_HELD + 1) (2 ^ fQL_GRP_SLIP_HELD.w - 1) else h.fld (rQL_GRP_SLIP g) fQL_GRP_SLIP_HELD := by
  unfold Hub.countVerdict
  by_cases hs : v = vSLIP ∨ v = vHANG
  · rw [if_pos hs, if_neg fun hh => hx ⟨hs, hh⟩]
    exact (Hub.fld_congr (h.countSlip_same g).1 _ _).trans (Hub.fld_setF_disj _ _ _ _ _ (by decide) (by decide))
  · rw [if_neg hs]
    split_ifs
    · exact Hub.fld_count_same _ _ _ _ (by decide)
    · rfl

end

/-- The verdicts that cancel a boundary are not those of a hold. -/
theorem not_slip_and_held (v : Nat) : ¬ ((v = vSLIP ∨ v = vHANG) ∧ (v = vHOLD ∨ v = vHELD ∨ v = vRELEASE)) := by
  unfold vSLIP vHANG vHOLD vHELD vRELEASE
  omega

section
variable (h : Hub) (g : Nat) (m : BeatMsg) (cur cons : Nat)

theorem Hub.gBoundary_showBoundary (hb : m.boundary < 2 ^ 48) : (h.showBoundary g m cur cons).gBoundary g = m.boundary := by
  have hne (a : Nat) (f : Fld) (x : Nat) (k : Hub) (ha : rQL_GRP_BND g ≠ a) : (k.setF a f x).fld (rQL_GRP_BND g) fQL_GRP_BND_BOUNDARY =
      k.fld (rQL_GRP_BND g) fQL_GRP_BND_BOUNDARY := Hub.fld_setF_ne _ _ _ _ ha
  unfold Hub.gBoundary Hub.showBoundary Hub.setGState
  rw [hne _ _ _ _ (by unfold rQL_GRP_BND rQL_GRP_SLIP; omega), hne _ _ _ _ (by unfold rQL_GRP_BND rQL_GRP_STS; omega),
    hne _ _ _ _ (by unfold rQL_GRP_BND rQL_GRP_STS; omega), hne _ _ _ _ (by unfold rQL_GRP_BND rQL_GRP_SHEET; omega)]
  exact (Hub.fld_setF_disj _ _ _ _ _ (by decide) (by decide)).trans ((Hub.fld_setF_same _ _ _ _ (by decide)).trans (Nat.mod_eq_of_lt hb))

theorem Hub.verdict_showBoundary (hv : m.verdict ≤ 6) : (h.showBoundary g m cur cons).fld (rQL_GRP_BND g) fQL_GRP_BND_VERDICT = m.verdict := by
  have hne (a : Nat) (f : Fld) (x : Nat) (k : Hub) (ha : rQL_GRP_BND g ≠ a) : (k.setF a f x).fld (rQL_GRP_BND g) fQL_GRP_BND_VERDICT =
      k.fld (rQL_GRP_BND g) fQL_GRP_BND_VERDICT := Hub.fld_setF_ne _ _ _ _ ha
  unfold Hub.showBoundary Hub.setGState
  rw [hne _ _ _ _ (by unfold rQL_GRP_BND rQL_GRP_SLIP; omega), hne _ _ _ _ (by unfold rQL_GRP_BND rQL_GRP_STS; omega),
    hne _ _ _ _ (by unfold rQL_GRP_BND rQL_GRP_STS; omega), hne _ _ _ _ (by unfold rQL_GRP_BND rQL_GRP_SHEET; omega)]
  exact (Hub.fld_setF_same _ _ _ _ (by decide)).trans (Nat.mod_eq_of_lt (Nat.lt_of_le_of_lt hv (by decide)))

theorem Hub.gSheet_showBoundary (hc : cur < 2 ^ 48) : (h.showBoundary g m cur cons).gSheet g = cur := by
  have hne (a : Nat) (f : Fld) (x : Nat) (k : Hub) (ha : rQL_GRP_SHEET g ≠ a) : (k.setF a f x).fld (rQL_GRP_SHEET g) fQL_GRP_SHEET_SHEET =
      k.fld (rQL_GRP_SHEET g) fQL_GRP_SHEET_SHEET := Hub.fld_setF_ne _ _ _ _ ha
  unfold Hub.gSheet Hub.showBoundary Hub.setGState
  rw [hne _ _ _ _ (by unfold rQL_GRP_SHEET rQL_GRP_SLIP; omega), hne _ _ _ _ (by unfold rQL_GRP_SHEET rQL_GRP_STS; omega),
    hne _ _ _ _ (by unfold rQL_GRP_SHEET rQL_GRP_STS; omega)]
  exact (Hub.fld_setF_same _ _ _ _ (by decide)).trans (Nat.mod_eq_of_lt hc)

theorem Hub.gState_showBoundary : (h.showBoundary g m cur cons).gState g = stateAfter m.verdict := by
  have hlt : stateAfter m.verdict < 2 ^ 3 := by unfold stateAfter; split_ifs <;> decide
  unfold Hub.gState Hub.showBoundary Hub.setGState
  rw [Hub.fld_setF_ne _ _ _ _ (by unfold rQL_GRP_STS rQL_GRP_SLIP; omega)]
  exact (Hub.fld_setF_disj _ _ _ _ _ (by decide) (by decide)).trans ((Hub.fld_setF_same _ _ _ _ (by decide)).trans (Nat.mod_eq_of_lt hlt))

/-- What a boundary shows leaves the counts of slips and held boundaries. -/
theorem Hub.fld_showBoundary_slip (f : Fld) (hf : f.lo + f.w ≤ 64)
    (hd : fQL_GRP_SLIP_CONSEC.lo + fQL_GRP_SLIP_CONSEC.w ≤ f.lo ∨ f.lo + f.w ≤ fQL_GRP_SLIP_CONSEC.lo) :
    (h.showBoundary g m cur cons).fld (rQL_GRP_SLIP g) f = h.fld (rQL_GRP_SLIP g) f := by
  have hne (a : Nat) (e : Fld) (x : Nat) (k : Hub) (ha : rQL_GRP_SLIP g ≠ a) : (k.setF a e x).fld (rQL_GRP_SLIP g) f =
      k.fld (rQL_GRP_SLIP g) f := Hub.fld_setF_ne _ _ _ _ ha
  unfold Hub.showBoundary Hub.setGState
  rw [Hub.fld_setF_disj _ _ _ _ _ hf hd, hne _ _ _ _ (by unfold rQL_GRP_SLIP rQL_GRP_STS; omega),
    hne _ _ _ _ (by unfold rQL_GRP_SLIP rQL_GRP_STS; omega), hne _ _ _ _ (by unfold rQL_GRP_SLIP rQL_GRP_SHEET; omega),
    hne _ _ _ _ (by unfold rQL_GRP_SLIP rQL_GRP_BND; omega), hne _ _ _ _ (by unfold rQL_GRP_SLIP rQL_GRP_BND; omega)]
  exact Hub.fld_setReg_ne _ _ _ (by unfold rQL_GRP_SLIP rQL_GRP_BND; omega)

end

/-- The boundary of a group with no slice here, whose check agrees and whose hang raises no eclipse. -/
theorem Hub.boundaryAct_of_no_slices {h : Hub} {g : Nat} {m : BeatMsg} (hp : (h.grp g).pend = some m) (ha : m.actAt ≤ h.now) (h5 : h.gState g ≠ 5)
    (hst : h.stoppedInst uBEAT g = false) (he : h.flag rFCOL_CTL fFCOL_CTL_ECL_ON_HANG = false)
    (hc : h.sheetAfter g m.verdict % 2 ^ 32 = m.chk) : ∃ slack cons, h.boundaryAct g =
      (((h.updGrp g (·.atBoundary m (h.sheetAfter g m.verdict) slack)).showBoundary g m (h.sheetAfter g m.verdict) cons).countVerdict g
        m.verdict).applyVerdict g m.verdict (h.sheetAfter g m.verdict) (h.grp g).lateCells := by
  refine ⟨h.lastReach g m.actAt, consecAfter m.verdict (h.fld (rQL_GRP_BND g) fQL_GRP_BND_VERDICT) (h.gState g)
    (h.fld (rQL_GRP_SLIP g) fQL_GRP_SLIP_CONSEC), ?_⟩
  have hgo : ¬ (h.now < m.actAt ∨ h.gState g = 5 ∨ h.stoppedInst uBEAT g = true) := by
    rw [hst]; simp [Nat.not_lt.mpr ha, h5]
  unfold Hub.boundaryAct
  simp only [hp, if_neg hgo, hc, ne_eq, not_true, decide_false, Bool.false_eq_true, if_false, he, and_false]
  rfl

/-- The sheet after a boundary, by its verdict. -/
theorem Hub.sheetAfter_eq (h : Hub) (g v : Nat) : h.sheetAfter g v =
    if v = vSTART then 0 else if v = vADVANCE ∨ v = vRELEASE then h.gSheet g + 1 else h.gSheet g := by
  unfold Hub.sheetAfter
  by_cases h0 : v = vSTART
  · rw [if_pos h0, if_pos h0]
  · rw [if_neg h0, if_neg h0]
    simp [verdictStarts, h0]

theorem Hub.groupActive_of_no_slices {h k : Hub} {g : Nat} (hf : k.forme = h.forme) (hs : h.groupSlices g = []) : k.groupActive g = [] := by
  have hk : k.groupSlices g = [] := by rw [Hub.groupSlices, hf]; exact hs
  rw [Hub.groupActive, hk]; rfl

/-- The hub that a verdict of no slices leaves: the registers of the count, and the view of the boundary. -/
theorem Hub.applyVerdict_countVerdict {h b : Hub} {g : Nat} (v cur : Nat) (late : List Nat) (hs : h.groupSlices g = []) {x : Option BeatMsg × Bool × Nat}
    (hb : b.beatView g = (x.1, x.2.1, x.2.2, h.hbm, h.cells, h.forme)) :
    ((b.countVerdict g v).applyVerdict g v cur late).regs = (b.countVerdict g v).regs ∧
      ((b.countVerdict g v).applyVerdict g v cur late).beatView g = (x.1, x.2.1, x.2.2, h.hbm, h.cells, h.forme) := by
  have hview := (b.beatView_countVerdict g v).trans hb
  have hforme : (b.countVerdict g v).forme = h.forme := by simp only [Hub.beatView, Prod.mk.injEq] at hview; exact hview.2.2.2.2.2
  obtain ⟨hregs, hsame⟩ := Hub.applyVerdict_of_no_slices _ g v cur late (Hub.groupActive_of_no_slices hforme hs)
  exact ⟨hregs, hsame.trans hview⟩

/-- Settles O25: what the origin sends, what a message says, and what a boundary shows and counts. -/
theorem beatsCarryVerdictsToBoundaries : Obligations.BeatsCarryVerdictsToBoundaries := by
  refine ⟨fun s g r v hr ho hf h5 hs => ⟨fun hd => ?send, fun hd => ?wait⟩, ⟨fun s l f hf => ?taken, ?kept, fun h l arrived f hf => ?reserved⟩,
    fun s g m hp ha h5 hst hv hs he hc hsheet hb => ?boundary⟩
  case send => rw [exec_beatSend hr, Hub.beatSend_of_due hf ho h5 hs hd]
  case wait => exact (exec_beatSend hr).trans (by rw [Hub.beatSend_of_early hs hd]; rfl)
  case taken =>
    exact ⟨fun ho => (exec_beat hf).trans (by rw [if_pos ho]), fun ho => (exec_vote hf).trans (by rw [if_pos ho]),
      fun ho => (exec_eclipse hf).trans (by rw [if_pos ho]), fun ho => (exec_beat hf).trans (by rw [if_neg ho]; rfl),
      fun ho => (exec_vote hf).trans (by rw [if_neg ho]; rfl), fun ho => (exec_eclipse hf).trans (by rw [if_neg ho]; rfl)⟩
  case kept =>
    intro h l arrived g v n e hop chk r hg hr hl _ hv hn he he32 hc h0 hh h16 h5 hz
    exact Hub.grp_takeBeat hg hr hl hv hn he he32 hc h0 hh h16 h5 hz
  case reserved => exact h.takeBeat_of_reserved l arrived hf
  case boundary =>
    obtain ⟨slack, cons, hact⟩ := Hub.boundaryAct_of_no_slices hp ha h5 hst he hc
    have hcur : s.hub.sheetAfter g m.verdict < 2 ^ 48 := by rw [Hub.sheetAfter_eq]; split_ifs <;> omega
    obtain ⟨k, hk⟩ : ∃ k, k = s.hub.updGrp g (·.atBoundary m (s.hub.sheetAfter g m.verdict) slack) := ⟨_, rfl⟩
    obtain ⟨b, hbk⟩ : ∃ b, b = k.showBoundary g m (s.hub.sheetAfter g m.verdict) cons := ⟨_, rfl⟩
    have hkregs : k.regs = s.hub.regs := by rw [hk]; rfl
    have hview : b.beatView g = (none, true, m.actAt, s.hub.hbm, s.hub.cells, s.hub.forme) := by
      have hsame : b.beatView g = k.beatView g := by rw [hbk]; rfl
      rw [hsame, hk, Hub.beatView, Hub.grp_updGrp]; rfl
    obtain ⟨hregs, hafter⟩ := Hub.applyVerdict_countVerdict m.verdict (s.hub.sheetAfter g m.verdict) (s.hub.grp g).lateCells hs
      (x := (none, true, m.actAt)) hview
    simp only [Hub.beatView, Prod.mk.injEq] at hafter
    obtain ⟨hpend, hstarted, hlast, hhbm, hcells, -⟩ := hafter
    have hfld (a : Nat) (f : Fld) (hne : a ≠ rQL_GRP_SLIP g) : ((b.countVerdict g m.verdict).applyVerdict g m.verdict (s.hub.sheetAfter g m.verdict)
        (s.hub.grp g).lateCells).fld a f = b.fld a f :=
      (Hub.fld_congr hregs a f).trans (congrArg (getFld · f) (b.reg_countVerdict_ne g m.verdict hne))
    have hexec : exec (.boundaryAct g) s = .next (s.withHub ((b.countVerdict g m.verdict).applyVerdict g m.verdict
        (s.hub.sheetAfter g m.verdict) (s.hub.grp g).lateCells)) := by
      rw [hbk, hk, ← hact]; rfl
    refine ⟨_, hexec, hpend, hstarted, hlast, ?number, ?verdict, ?sheet, ?state, ?slips, ?held, hhbm, hcells⟩
    case number =>
      refine (hfld _ _ (by unfold rQL_GRP_BND rQL_GRP_SLIP; omega)).trans ?_
      rw [hbk]; exact Hub.gBoundary_showBoundary _ _ _ _ _ hb
    case verdict =>
      refine (hfld _ _ (by unfold rQL_GRP_BND rQL_GRP_SLIP; omega)).trans ?_
      rw [hbk]; exact Hub.verdict_showBoundary _ _ _ _ _ hv
    case sheet =>
      refine (hfld _ _ (by unfold rQL_GRP_SHEET rQL_GRP_SLIP; omega)).trans ?_
      rw [← Hub.sheetAfter_eq, hbk]; exact Hub.gSheet_showBoundary _ _ _ _ _ hcur
    case state =>
      refine (hfld _ _ (by unfold rQL_GRP_STS rQL_GRP_SLIP; omega)).trans ?_
      rw [hbk]; exact Hub.gState_showBoundary _ _ _ _ _
    case slips =>
      refine (Hub.fld_congr hregs _ _).trans ?_
      rw [Hub.fld_countVerdict_slips, hbk, Hub.fld_showBoundary_slip _ _ _ _ _ fQL_GRP_SLIP_SLIPS (by decide) (by decide), Hub.fld_congr hkregs]
    case held =>
      refine (Hub.fld_congr hregs _ _).trans ?_
      rw [Hub.fld_countVerdict_held _ _ _ (not_slip_and_held _), hbk, Hub.fld_showBoundary_slip _ _ _ _ _ fQL_GRP_SLIP_HELD (by decide) (by decide), Hub.fld_congr hkregs]

/-! ## A stopped source -/

/-- A hub 10 ms after its start, whose group 0 is forming and whose source for that group a fatal fault has stopped. -/
def stoppedGroupHub : Hub :=
  ({ now := 10 * psMs, fcol := { stopped := [srcOf uBEAT 0] } } : Hub).setF (rQL_GRP_STS 0) fQL_GRP_STS_STATE 1

/-- Refutes O26: GROUP_FORM_TIMEOUT does not look at whether the group's source is stopped. A group still forming 10 ms after its commit
raises GROUP_FORM all the same, while the last clause says that it does nothing. -/
theorem not_hubsVoteAndTheOriginFixesVerdicts : ¬ Obligations.HubsVoteAndTheOriginFixesVerdicts := by
  intro h
  obtain ⟨-, hform, -⟩ := h.2.2 { State.reset with hub := stoppedGroupHub } 0 (by decide)
  have hraise := exec_groupFormTimeout_of_due (s := { State.reset with hub := stoppedGroupHub }) (g := 0) (Hub.fld_setF_same _ _ _ _ (by decide)) (by decide) (by decide)
  have hmsgs : (stoppedGroupHub.beatNote 0 kGROUP_FORM).fcol.msgs.length = stoppedGroupHub.fcol.msgs.length :=
    congrArg (fun s => s.hub.fcol.msgs.length) (Host.Outcome.next.inj (hraise.symm.trans hform))
  exact absurd hmsgs (by decide)

end Sys2Proof.Machine
end

section
/-! PROOFS. Doorbells and the rings of queues (R184, R187, R208, R272; log entry 142). -/

namespace Sys2Proof.Machine

/-! ## What a doorbell does to its queue -/

/-- A fault message is queued as it is, but for its generation. -/
theorem Hub.exists_msgs_fault (h : Hub) (m : FaultMsg) : ∃ g, (h.fault m).fcol.msgs = h.fcol.msgs ++ [{ m with gen := g }] := ⟨_, rfl⟩

theorem queue_regs_ne (q : Nat) : rFAB_Q_PTR q ≠ rFAB_Q_STS q ∧ rFAB_Q_RING q ≠ rFAB_Q_PTR q ∧ rFAB_Q_RING q ≠ rFAB_Q_STS q := by
  unfold rFAB_Q_PTR rFAB_Q_STS rFAB_Q_RING
  omega

section
variable {h : Hub} {q tail : Nat} (so : Option Nat)

/-- TAIL ahead of what is submitted and within the ring is taken. -/
theorem Hub.ring_of_ahead (hs : h.submitted q < (tail + 2 ^ 32 - h.fld (rFAB_Q_PTR q) fFAB_Q_PTR_HEAD) % 2 ^ 32)
    (hn : (tail + 2 ^ 32 - h.fld (rFAB_Q_PTR q) fFAB_Q_PTR_HEAD) % 2 ^ 32 ≤ h.qN q) :
    h.ring q so tail = h.regOk.setF (rFAB_Q_PTR q) fFAB_Q_PTR_TAIL tail :=
  (if_neg (Nat.not_lt.mpr hn)).trans (if_neg (Nat.not_le.mpr hs))

/-- TAIL behind is ignored. -/
theorem Hub.ring_of_behind (hs : (tail + 2 ^ 32 - h.fld (rFAB_Q_PTR q) fFAB_Q_PTR_HEAD) % 2 ^ 32 ≤ h.submitted q)
    (hn : (tail + 2 ^ 32 - h.fld (rFAB_Q_PTR q) fFAB_Q_PTR_HEAD) % 2 ^ 32 ≤ h.qN q) : h.ring q so tail = h.regOk :=
  (if_neg (Nat.not_lt.mpr hn)).trans (if_pos hs)

/-- TAIL beyond the ring is reported. -/
theorem Hub.ring_of_beyond (hn : h.qN q < (tail + 2 ^ 32 - h.fld (rFAB_Q_PTR q) fFAB_Q_PTR_HEAD) % 2 ^ 32) : h.ring q so tail =
    (h.regOk.setF (rFAB_Q_STS q) fFAB_Q_STS_ERR_DB 1).fault { source := srcOf uFAB 0, kind := kDOORBELL, cls := clsCorrected, slice := so } :=
  if_pos hn

end

/-- A TAIL that is set. -/
theorem Hub.setTail_facts (h : Hub) (q : Nat) {tail : Nat} (ht : tail < 2 ^ 32) :
    (h.setF (rFAB_Q_PTR q) fFAB_Q_PTR_TAIL tail).fld (rFAB_Q_PTR q) fFAB_Q_PTR_TAIL = tail ∧
      (h.setF (rFAB_Q_PTR q) fFAB_Q_PTR_TAIL tail).fld (rFAB_Q_PTR q) fFAB_Q_PTR_HEAD = h.fld (rFAB_Q_PTR q) fFAB_Q_PTR_HEAD ∧
      (h.setF (rFAB_Q_PTR q) fFAB_Q_PTR_TAIL tail).submitted q = (tail + 2 ^ 32 - h.fld (rFAB_Q_PTR q) fFAB_Q_PTR_HEAD) % 2 ^ 32 := by
  have htail : (h.setF (rFAB_Q_PTR q) fFAB_Q_PTR_TAIL tail).fld (rFAB_Q_PTR q) fFAB_Q_PTR_TAIL = tail :=
    (Hub.fld_setF_same _ _ _ _ (by decide)).trans (Nat.mod_eq_of_lt ht)
  have hhead : (h.setF (rFAB_Q_PTR q) fFAB_Q_PTR_TAIL tail).fld (rFAB_Q_PTR q) fFAB_Q_PTR_HEAD = h.fld (rFAB_Q_PTR q) fFAB_Q_PTR_HEAD :=
    Hub.fld_setF_disj _ _ _ _ _ (by decide) (by decide)
  exact ⟨htail, hhead, by rw [Hub.submitted, htail, hhead]⟩

/-- ERR_DB set leaves the queue's pointers. -/
theorem Hub.submitted_setErrDb (h : Hub) (q x : Nat) : (h.setF (rFAB_Q_STS q) fFAB_Q_STS_ERR_DB x).submitted q = h.submitted q := by
  have hne := (queue_regs_ne q).1
  rw [Hub.submitted, Hub.fld_setF_ne _ _ _ _ hne, Hub.fld_setF_ne _ _ _ _ hne, Hub.submitted]

/-! ## The doorbell writes -/

/-- The host link whose physical function rings a management queue. -/
def ringer (o : Origin) : Option Nat := match o with
  | .pf k => some k.val
  | _ => none

section
variable {s : State} {o : Origin} {v : Word}

theorem exec_doorbell {sl : SliceId} (hm : s.hub.sliceActs o sl) : exec (.doorbell o sl v) s = .next (s.withHub
    (if decide (s.hub.queueOwner (vFld v fFAB_DOORBELL_QUEUE) ≠ some sl.val) || !s.hub.active sl ||
        !s.hub.flag (rFAB_Q_RING (vFld v fFAB_DOORBELL_QUEUE)) fFAB_Q_RING_EN ||
        !s.hub.presented (s.hub.slD sl).vfPort (s.hub.slD sl).vfIndex || s.hub.stoppedInst uFAB 0 then s.hub.regErr
     else s.hub.ring (vFld v fFAB_DOORBELL_QUEUE) (some sl.val) (vFld v fFAB_DOORBELL_TAIL))) := onReg_sliceWrite hm

theorem exec_managementDoorbell (hm : s.hub.mgrActs o) : exec (.managementDoorbell o v) s = .next (s.withHub
    (if (s.hub.queueOwner (vFld v fFAB_MDOORBELL_QUEUE)).isSome || !s.hub.flag (rFAB_Q_RING (vFld v fFAB_MDOORBELL_QUEUE)) fFAB_Q_RING_EN ||
        s.hub.stoppedInst uFAB 0 then s.hub.regErr
     else ({ s.hub with queues := mapPut s.hub.queues (vFld v fFAB_MDOORBELL_QUEUE) { s.hub.qrt (vFld v fFAB_MDOORBELL_QUEUE) with
        rungBy := ringer o } } : Hub).ring (vFld v fFAB_MDOORBELL_QUEUE) none (vFld v fFAB_MDOORBELL_TAIL))) :=
  onReg_mgrWrite hm

/-! ## Rings -/

/-- Without a completion ring no record is written. -/
theorem Hub.flushRecords_of_no_ring {h : Hub} {q : Nat} (hc : (h.qrt q).cring = []) : h.flushRecords q = h :=
  if_pos (by rw [hc]; exact Bool.or_true _)

theorem Hub.reg_regOk (h : Hub) (a : Nat) : h.regOk.reg a = h.reg a := rfl

theorem Hub.fld_regOk (h : Hub) (a : Nat) (f : Fld) : h.regOk.fld a f = h.fld a f := rfl

/-- FAB_Q_RING stored by a write that enables its queue, whose pointers and CDONE are cleared. -/
def Hub.storeRing (h : Hub) (q : Nat) (v : Word) : Hub :=
  (((h.writeRW (rFAB_Q_RING q) (fFAB_Q_RING_EN :: qRingRest) [] v).setReg (rFAB_Q_PTR q) 0).setF (rFAB_Q_STS q) fFAB_Q_STS_CDONE 0).regOk

theorem Hub.fld_storeRing_ring (h : Hub) (q : Nat) (v : Word) {f : Fld} (hf : f ∈ fFAB_Q_RING_EN :: qRingRest) :
    (h.storeRing q v).fld (rFAB_Q_RING q) f = vFld v f := by
  obtain ⟨-, hrp, hrs⟩ := queue_regs_ne q
  have hring : (h.storeRing q v).fld (rFAB_Q_RING q) f = getFld (mixWrite (h.reg (rFAB_Q_RING q)) v (fFAB_Q_RING_EN :: qRingRest) []) f :=
    (Hub.fld_regOk _ _ _).trans ((Hub.fld_setF_ne _ _ _ _ hrs).trans ((Hub.fld_setReg_ne _ _ _ hrp).trans (Hub.fld_setReg_same ..)))
  rw [hring, getFld_mixWrite_of_mem _ v hf ⟨Nat.le_refl _, Nat.le_refl _⟩]; rfl

theorem Hub.reg_storeRing_ptr (h : Hub) (q : Nat) (v : Word) : (h.storeRing q v).reg (rFAB_Q_PTR q) = 0 :=
  (Hub.reg_regOk _ _).trans ((Hub.reg_setF_ne _ _ _ (queue_regs_ne q).1).trans (Hub.reg_setReg_same ..))

theorem Hub.fld_storeRing_cdone (h : Hub) (q : Nat) (v : Word) : (h.storeRing q v).fld (rFAB_Q_STS q) fFAB_Q_STS_CDONE = 0 :=
  (Hub.fld_regOk _ _ _).trans (Hub.fld_setF_same _ _ _ _ (by decide))

theorem Hub.reg_storeRing_ne (h : Hub) (q : Nat) (v : Word) {a : Nat} (h1 : a ≠ rFAB_Q_RING q) (h2 : a ≠ rFAB_Q_PTR q) (h3 : a ≠ rFAB_Q_STS q) :
    (h.storeRing q v).reg a = h.reg a :=
  (Hub.reg_regOk _ _).trans ((Hub.reg_setF_ne _ _ _ h3).trans ((Hub.reg_setReg_ne _ _ h2).trans (Hub.reg_setReg_ne _ _ h1)))

theorem exec_queueRingWrite {q : QueueId} (hm : s.hub.mgrActs o) :
    exec (.queueRingWrite o q v) s = .next (s.withHub (s.hub.writeQRing o q v)) := onReg_of (f := fun h => h.writeQRing o q v) hm.notBusy

end

section
variable {h : Hub} {o : Origin} {q : Nat} {v : Word} (hm : h.isMgr o = true)
include hm

theorem Hub.writeQRing_of_bad (hb : (h.flag (rFAB_Q_RING q) fFAB_Q_RING_EN = true ∧ h.changes (rFAB_Q_RING q) qRingRest v = true) ∨
    12 < vFld v fFAB_Q_RING_LOG2) : h.writeQRing o q v = h.regErr := by
  rw [Hub.writeQRing, Hub.mgrWrite_of _ _ _ hm]
  exact if_pos (by rcases hb with ⟨he, hc⟩ | hl <;> simp [*])

variable (hl : vFld v fFAB_Q_RING_LOG2 ≤ 12)
include hl

/-- EN cleared stops the queue. -/
theorem Hub.writeQRing_of_stop (he : h.flag (rFAB_Q_RING q) fFAB_Q_RING_EN = true) (hv : vFlag v fFAB_Q_RING_EN = false)
    (hc : h.changes (rFAB_Q_RING q) qRingRest v = false) : h.writeQRing o q v =
      ((h.setF (rFAB_Q_RING q) fFAB_Q_RING_EN 0).setQrt q { h.qrt q with stopping := true }).stopQueue q := by
  rw [Hub.writeQRing, Hub.mgrWrite_of _ _ _ hm]
  simp only [he, hv, hc, Nat.not_lt.mpr hl, Bool.true_and, decide_false, Bool.or_self, Bool.false_eq_true, if_false, if_true]
  rfl

/-- Descriptors that the last disabling ended are still to be taken. -/
theorem Hub.writeQRing_of_cut (he : h.flag (rFAB_Q_RING q) fFAB_Q_RING_EN = false) (hv : vFlag v fFAB_Q_RING_EN = true)
    (hc : 0 < (h.qrt q).cut.2) : h.writeQRing o q v = h := by
  rw [Hub.writeQRing, Hub.mgrWrite_of _ _ _ hm]
  simp only [he, hv, hc, Nat.not_lt.mpr hl, Bool.false_and, decide_false, decide_true, Bool.or_self, Bool.and_self, Bool.false_eq_true,
    if_false, if_true]

/-- A management queue enabled: its ring stored, its pointers and CDONE zero. -/
theorem Hub.writeQRing_of_enable (he : h.flag (rFAB_Q_RING q) fFAB_Q_RING_EN = false) (hv : vFlag v fFAB_Q_RING_EN = true)
    (ho : h.queueOwner q = none) (hc : (h.qrt q).cut.2 = 0) : ∃ qs, h.writeQRing o q v = ({ h with queues := qs } : Hub).storeRing q v := by
  have hrings : (h.writeRW (rFAB_Q_RING q) (fFAB_Q_RING_EN :: qRingRest) [] v).queueRings q =
      (.rings [] [], h.writeRW (rFAB_Q_RING q) (fFAB_Q_RING_EN :: qRingRest) [] v) := by
    unfold Hub.queueRings
    rw [show (h.writeRW (rFAB_Q_RING q) (fFAB_Q_RING_EN :: qRingRest) [] v).queueOwner q = none from ho]
  refine ⟨mapPutD {} h.queues q { h.qrt q with ring := [], cring := [], broken := false }, ?_⟩
  rw [Hub.writeQRing, Hub.mgrWrite_of _ _ _ hm]
  simp only [he, hv, hc, ho, hrings, Nat.not_lt.mpr hl, Nat.lt_irrefl, Bool.false_and, Bool.true_and, decide_false, Bool.or_self, Bool.not_true,
    Bool.false_eq_true, if_false]
  exact congrArg Hub.regOk (Hub.flushRecords_of_no_ring (congrArg QRt.cring (mapGetD_mapPutD_same _ _ _ _)))

end

/-- Settles O27: a doorbell is one of three cases of its queue, a ring write one of five of its register. -/
theorem doorbellsAndRingsFeedQueues : Obligations.DoorbellsAndRingsFeedQueues := by
  refine ⟨⟨fun h q tail so _ ht => ⟨fun hs hn => ?ahead, fun hs hn => Hub.ring_of_behind so hs hn, fun hn => ?beyond⟩,
    fun s o sl v hm => ⟨fun ho ha he hp hu => ?taken, fun hbad => ?refused⟩, fun s o v hm => ⟨fun ho he hu => ?mgmt, fun hbad => ?mgmtRefused⟩⟩,
    fun s o q v hm => ⟨fun hl => ?long, fun he hc => ?changed, fun he hv hl ho hc => ?enable, fun he hv hl hc => ?cut, fun he hv hl hc => ?stop⟩⟩
  case ahead =>
    obtain ⟨htail, hhead, hsub⟩ := h.regOk.setTail_facts q ht
    rw [Hub.ring_of_ahead so hs hn]
    exact ⟨htail, hsub, hhead, rfl, fun a ha => Hub.reg_setF_ne _ _ _ ha⟩
  case beyond =>
    rw [Hub.ring_of_beyond so hn]
    refine ⟨?_, h.regOk.submitted_setErrDb q 1, ?_⟩
    · exact Hub.flag_of_fld_eq_one ((Hub.fld_congr (k := h.regOk.setF (rFAB_Q_STS q) fFAB_Q_STS_ERR_DB 1) rfl _ _).trans (Hub.fld_setF_same _ _ _ _ (by decide)))
    · obtain ⟨g, hg⟩ := (h.regOk.setF (rFAB_Q_STS q) fFAB_Q_STS_ERR_DB 1).exists_msgs_fault
        { source := srcOf uFAB 0, kind := kDOORBELL, cls := clsCorrected, slice := so }
      rw [hg, List.map_append]
      rfl
  case taken => rw [exec_doorbell hm, if_neg (by simp [ho, ha, he, hp, hu])]
  case refused =>
    rw [exec_doorbell hm, if_pos]
    rcases hbad with h | h | h | h | h <;> simp [h]
  case mgmt => exact ⟨_, by rw [exec_managementDoorbell hm, if_neg (by simp [ho, he, hu])]⟩
  case mgmtRefused =>
    rw [exec_managementDoorbell hm, if_pos]
    rcases hbad with h | h | h
    · simp [Option.isSome_iff_ne_none.mpr h]
    · simp [h]
    · simp [h]
  case long => rw [exec_queueRingWrite hm, Hub.writeQRing_of_bad hm.isMgr (.inr hl)]
  case changed => rw [exec_queueRingWrite hm, Hub.writeQRing_of_bad hm.isMgr (.inl ⟨he, hc⟩)]
  case cut => exact (exec_queueRingWrite hm).trans (by rw [Hub.writeQRing_of_cut hm.isMgr hl he hv hc]; rfl)
  case stop => rw [exec_queueRingWrite hm, Hub.writeQRing_of_stop hm.isMgr hl he hv hc]
  case enable =>
    obtain ⟨qs, hq⟩ := Hub.writeQRing_of_enable hm.isMgr hl he hv ho hc
    obtain ⟨k, hk⟩ : ∃ k : Hub, k = { s.hub with queues := qs } := ⟨_, rfl⟩
    rw [← hk] at hq
    have hframe : (k.storeRing q v).hbm = s.hub.hbm ∧ (k.storeRing q v).items = s.hub.items ∧ ∀ a, k.reg a = s.hub.reg a := by
      rw [hk]; exact ⟨rfl, rfl, fun _ => rfl⟩
    obtain ⟨hhbm, hitems, hregs⟩ := hframe
    refine ⟨s.withHub (k.storeRing q v), (exec_queueRingWrite hm).trans (by rw [hq]), ?_, k.fld_storeRing_ring q v (by decide),
      k.fld_storeRing_ring q v (by decide), k.reg_storeRing_ptr q v, k.fld_storeRing_cdone q v, hhbm, hitems,
      fun a h1 h2 h3 => (k.reg_storeRing_ne q v h1 h2 h3).trans (hregs a)⟩
    exact Hub.flag_of_fld_eq_one ((k.fld_storeRing_ring q v (by decide)).trans (of_decide_eq_true hv))

end Sys2Proof.Machine
end

section
/-! PROOFS. Descriptors: how a queue takes its next one, when one starts, and when it ends (R188 to R191, R196 to R204, R208, R432). -/

namespace Sys2Proof.Machine

/-- A command whose effect on the hub is known. -/
theorem exec_of_hub {c : Instr} {s : State} {k k' : Hub} (he : exec c s = .next (s.withHub k)) (hk : k = k') : exec c s = .next (s.withHub k') :=
  hk ▸ he

/-- A command that leaves the hub leaves the state. -/
theorem exec_of_hub_same {c : Instr} {s : State} {k : Hub} (he : exec c s = .next (s.withHub k)) (hk : k = s.hub) : exec c s = .next s :=
  exec_of_hub he hk

/-! ## Taking -/

section
variable {h : Hub} {q : Nat} (ecc : Ecc)

theorem Hub.takeNext_of_stopped (hs : h.halted = true ∨ h.stoppedInst uFAB 0 = true) : h.takeNext q ecc = h :=
  if_pos (by rcases hs with hs | hs <;> simp [hs])

/-- A queue whose rings are translated is ready. -/
theorem Hub.readyQueue_of_rings (hb : (h.qrt q).broken = false) (ho : h.queueOwner q = none ∨ (h.qrt q).cring.isEmpty = false) :
    h.readyQueue q = h := by
  unfold Hub.readyQueue
  cases hq : h.queueOwner q with
  | none => rfl
  | some s =>
    have hc : (h.qrt q).cring.isEmpty = false := by simpa [hq] using ho
    simp only [hb, hc, Bool.false_eq_true, if_false, ite_self]

variable (hh : h.halted = false) (hu : h.stoppedInst uFAB 0 = false) (hb : (h.qrt q).broken = false)
  (ho : h.queueOwner q = none ∨ (h.qrt q).cring.isEmpty = false)
include hh hu hb ho

theorem Hub.takeNext_of_nothing (hs : h.submitted q = 0) : h.takeNext q ecc = h := by
  simp only [Hub.takeNext, hh, hu, Hub.readyQueue_of_rings hb ho, hs, Bool.or_self, Bool.false_eq_true, if_false, decide_true, if_true]

theorem Hub.takeNext_of_cut (hs : h.submitted q ≠ 0) (hc : 0 < (h.qrt q).cut.2) : h.takeNext q ecc = h.takeCut q ecc := by
  simp only [Hub.takeNext, hh, hu, Hub.readyQueue_of_rings hb ho, hs, hc, Bool.or_self, Bool.false_eq_true, if_false, decide_false, if_true]

/-- Nothing cut: the next descriptor is taken where it is the queue's turn and the command store has room. -/
theorem Hub.takeNext_of_turn (hs : h.submitted q ≠ 0) (hc : (h.qrt q).cut.2 = 0) : h.takeNext q ecc =
    if !h.takeTurn q || !h.storeMay (h.queueOwner q) then h
    else ({ h with queueRr := mapPut h.queueRr ((h.queueOwner q).getD 4096) q } : Hub).takeDesc q ecc none := by
  simp only [Hub.takeNext, hh, hu, Hub.readyQueue_of_rings hb ho, hs, hc, Nat.lt_irrefl, Bool.or_self, Bool.false_eq_true, if_false, decide_false]

end

theorem Hub.takeTurn_of_mgmt {h : Hub} {q : Nat} (hb : (h.qrt q).broken = false) (ho : h.queueOwner q = none) : h.takeTurn q = true := by
  unfold Hub.takeTurn
  rw [hb, ho]; rfl

theorem Hub.takeTurn_of_slice {h : Hub} {q sl : Nat} (hb : (h.qrt q).broken = false) (ho : h.queueOwner q = some sl) (hf : h.stateOf sl ≠ slFAULT)
    (hn : nextAfter (mapGet h.queueRr sl) (h.queuesReady sl) = some q) : h.takeTurn q = true := by
  have hf3 : ¬ h.stateOf sl = 3 := hf
  simp [Hub.takeTurn, hb, ho, hn, hf3]

theorem Hub.takeTurn_of_fault {h : Hub} {q sl : Nat} (ho : h.queueOwner q = some sl) (hf : h.stateOf sl = slFAULT) : h.takeTurn q = false := by
  have hf3 : h.stateOf sl = 3 := hf
  simp [Hub.takeTurn, ho, hf3]

theorem exec_descriptorTake (q : QueueId) (ecc : Ecc) (s : State) :
    exec (.descriptorTake q ecc) s = .next (s.withHub (s.hub.takeNext q ecc)) := rfl

/-- The hub with a descriptor's bytes in the command store, its queue's HEAD moved past it. -/
def Hub.enterItem (h : Hub) (q : Nat) (d : List Byte) : Hub :=
  ({ h with draws := h.draws + 1, nextId := h.nextId + 1 }.setF (rFAB_Q_PTR q) fFAB_Q_PTR_HEAD (h.fld (rFAB_Q_PTR q) fFAB_Q_PTR_HEAD + 1)).setItem h.nextId
    { queue := q, seq := h.fld (rFAB_Q_PTR q) fFAB_Q_PTR_HEAD, slice := h.queueOwner q, ctx := dCtx d, desc := d,
      gen := match h.queueOwner q with
        | some s => h.gen (ctxid s (dCtx d))
        | none => 0 }

theorem Hub.enterDesc_of_bad {h : Hub} {q : Nat} {d : List Byte} (hd : h.descOk (h.queueOwner q) d = false) :
    h.enterDesc q (.data d) none = (h.enterItem q d).endItem h.nextId stBAD_DESC 0 := by
  simp only [Hub.enterDesc, hd, Bool.not_false, if_true]
  rfl

/-! ## Starting -/

section
variable {h : Hub} {i op : Nat} {t : Item}

/-- A descriptor that nothing holds back starts. -/
theorem Hub.startItem_of_now (go : Item → Hub) (hs : h.startsNow i op t) : h.startItem i op go = go t := by
  obtain ⟨hi, hop, hmay, hstale, hneeds⟩ := hs
  have hn : (t.slice.isSome && t.needs.isSome) = false := by rcases hneeds with h | h <;> simp [h]
  simp only [Hub.startItem, hi, hop, hmay, hstale, hn, ne_eq, not_true, decide_false, Bool.not_true, Bool.or_self, Bool.false_eq_true, if_false]

theorem Hub.startsNow.item_eq (hs : h.startsNow i op t) : h.item i = some t := hs.1

theorem Hub.startsNow.not_parked (hs : h.startsNow i op t) : t.st ≠ .parked := by
  obtain ⟨-, -, hmay, -, -⟩ := hs
  intro hp
  simp [Hub.mayStart, hp] at hmay

/-- A mover item that starts where its slice may take a mover. -/
theorem Hub.startMover_of_now (hs : h.startsNow i op t) (hm : h.moverMay t.slice = true) : h.startMover i op =
    if dCheck t.desc then ({ h with nextId := h.nextId + 1 } : Hub).setItem i { t with startNo := h.nextId, st := .waitChan }
    else ({ h with nextId := h.nextId + 1 } : Hub).startChunk i { t with startNo := h.nextId } := by
  unfold Hub.startMover
  simp only [hs.item_eq, hm, hs.not_parked, Hub.startItem_of_now _ hs, Bool.not_true, decide_false, Bool.false_and, Bool.false_eq_true, if_false]

/-- A LAUNCH whose kernel is loaded on cells that are free arms them. -/
theorem Hub.runLaunch_of_free {sl : Nat} (hs : t.slice = some sl) (hk : h.kernelCells sl (dKid t.desc) ≠ [])
    (hf : (h.kernelCells sl (dKid t.desc)).any (fun c => (h.cell c).busy) = false) : h.runLaunch i t =
      (h.kernelCells sl (dKid t.desc)).foldl (fun h c => h.updCell c (fun x => { x with armed := some i }))
        (h.setItem i { t with st := .armed, cells := h.kernelCells sl (dKid t.desc), ended := [] }) := by
  simp only [Hub.runLaunch, hs, hk, hf, Bool.false_eq_true, if_false]

theorem Hub.runLaunch_of_no_kernel {sl : Nat} (hs : t.slice = some sl) (hk : h.kernelCells sl (dKid t.desc) = []) :
    h.runLaunch i t = h.endItem i stNO_KERNEL 0 := by
  simp only [Hub.runLaunch, hs, hk, if_true]

/-- One that may not start stays. -/
theorem Hub.startItem_of_held (go : Item → Hub) (hi : h.item i = some t) (hm : h.mayStart t = false) : h.startItem i op go = h := by
  simp only [Hub.startItem, hi, hm, Bool.not_false, Bool.or_true, if_true]

theorem Hub.mayStart_of_heldBack (hb : h.heldBack t = true) : h.mayStart t = false := by simp [Hub.mayStart, hb]

/-- One whose tag is old ends SQUASHED. -/
theorem Hub.startItem_of_stale (go : Item → Hub) (hi : h.item i = some t) (hop : dOpcode t.desc = op) (hm : h.mayStart t = true)
    (hs : h.stale t = true) : h.startItem i op go = h.failItem i stSQUASHED := by
  simp only [Hub.startItem, hi, hop, hm, hs, ne_eq, not_true, decide_false, Bool.not_true, Bool.or_self, Bool.false_eq_true, if_false, if_true]

end

/-- Settles O28: what a queue takes is read off its state, and each kind of descriptor starts by one rule. -/
theorem descriptorsAreTakenAndStart : Obligations.DescriptorsAreTakenAndStart := by
  refine ⟨⟨fun s q ecc => ⟨fun hs => ?stopped, fun hh hu hb ho => ⟨fun hn hs hc hm => ?mgmt, fun sl hsl hs hc hf hm hn => ?slice, fun hs hc => ?cut,
    fun hs => ?nothing, fun hc hm => ?full⟩⟩, fun h q d hd => ?bad⟩, fun s i line t ecc => ⟨fun hs hc hm => ?fill, fun hs hc hm => ?copy,
    fun hs hc hm => ?check, fun hs => ?load, fun sl hs hsl hk hf => ?launch, fun sl hs hsl hk => ?noKernel, fun hs => ?waitac, fun hs => ?fence,
    fun hs => ?keyload, fun hi hop hb => ?held, fun hi hop hm hs => ?stale⟩⟩
  case stopped => exact exec_of_hub_same (exec_descriptorTake q ecc s) (Hub.takeNext_of_stopped ecc hs)
  case mgmt => rw [exec_descriptorTake, Hub.takeNext_of_turn ecc hh hu hb ho hs hc, hn, hm, Hub.takeTurn_of_mgmt hb hn]; rfl
  case slice => rw [exec_descriptorTake, Hub.takeNext_of_turn ecc hh hu hb ho hs hc, hsl, hm, Hub.takeTurn_of_slice hb hsl hf hn]; rfl
  case cut => exact exec_of_hub (exec_descriptorTake q ecc s) (Hub.takeNext_of_cut ecc hh hu hb ho hs hc)
  case nothing => exact exec_of_hub_same (exec_descriptorTake q ecc s) (Hub.takeNext_of_nothing ecc hh hu hb ho hs)
  case full =>
    refine exec_of_hub_same (exec_descriptorTake q ecc s) ?_
    by_cases hs : s.hub.submitted q = 0
    · exact Hub.takeNext_of_nothing ecc hh hu hb ho hs
    · refine (Hub.takeNext_of_turn ecc hh hu hb ho hs hc).trans (if_pos ?_)
      rcases hm with hm | ⟨sl, hsl, hf⟩
      · rw [hm]; exact Bool.or_true _
      · rw [Hub.takeTurn_of_fault hsl hf]; rfl
  case bad =>
    refine ⟨h.enterItem q d, Hub.enterDesc_of_bad hd, ?_, ?_⟩
    · exact congrArg (Option.map Item.desc) (mapGet_mapPut_same _ _ _)
    · exact (Hub.fld_congr (k := ({ h with draws := h.draws + 1, nextId := h.nextId + 1 } : Hub).setF (rFAB_Q_PTR q) fFAB_Q_PTR_HEAD
        (h.fld (rFAB_Q_PTR q) fFAB_Q_PTR_HEAD + 1)) rfl _ _).trans (Hub.fld_setF_same _ _ _ _ (by decide))
  case fill => exact exec_of_hub (k := s.hub.startMover i opFILL) rfl ((Hub.startMover_of_now hs hm).trans (if_neg (ne_true_of_eq_false hc)))
  case copy => exact exec_of_hub (k := s.hub.startMover i opCOPY) rfl ((Hub.startMover_of_now hs hm).trans (if_neg (ne_true_of_eq_false hc)))
  case check => exact exec_of_hub (k := s.hub.startMover i opCOPY) rfl ((Hub.startMover_of_now hs hm).trans (if_pos hc))
  case load => exact exec_of_hub (k := s.hub.startItem i opLOAD (fun t => s.hub.runLoad i line ecc t)) rfl (Hub.startItem_of_now _ hs)
  case launch => exact exec_of_hub (k := s.hub.startItem i opLAUNCH (fun t => s.hub.runLaunch i t)) rfl ((Hub.startItem_of_now _ hs).trans (Hub.runLaunch_of_free hsl hk hf))
  case noKernel => exact exec_of_hub (k := s.hub.startItem i opLAUNCH (fun t => s.hub.runLaunch i t)) rfl ((Hub.startItem_of_now _ hs).trans (Hub.runLaunch_of_no_kernel hsl hk))
  case waitac => exact exec_of_hub (k := s.hub.startItem i opWAITAC (fun t => s.hub.setItem i { t with st := .waiting })) rfl (Hub.startItem_of_now _ hs)
  case fence => exact exec_of_hub (k := s.hub.startItem i opFENCE (fun t => s.hub.setItem i { t with st := .waiting })) rfl (Hub.startItem_of_now _ hs)
  case keyload => exact exec_of_hub (k := s.hub.startItem i opKEYLOAD (fun t => s.hub.runKeyload i line ecc t)) rfl (Hub.startItem_of_now _ hs)
  case held => exact exec_of_hub_same (k := s.hub.startItem i opFENCE (fun t => s.hub.setItem i { t with st := .waiting })) rfl (Hub.startItem_of_held _ hi (Hub.mayStart_of_heldBack hb))
  case stale => exact exec_of_hub (k := s.hub.startItem i opFENCE (fun t => s.hub.setItem i { t with st := .waiting })) rfl (Hub.startItem_of_stale _ hi hop hm hs)

/-! ## Ending -/

section
variable {h : Hub} {i sl : Nat} {t : Item} (hi : h.item i = some t) (hh : h.halted = false)
include hi hh

/-- A WAITAC that waits ends once its counter has reached TARGET. -/
theorem Hub.waitacDone_of_waiting (hs : t.slice = some sl) (hst : t.st = .waiting) (hop : dOpcode t.desc = opWAITAC) : h.waitacDone i =
    if h.acReached sl (dAcnum t.desc) (dTarget t.desc) then h.endItem i stDONE 0 else h := by
  have hop5 : dOpcode t.desc = 5 := hop
  simp only [Hub.waitacDone, hi, hs, hst, hop5, hh, decide_true, Bool.true_and, Bool.not_false, Bool.and_true]

/-- A FENCE that waits ends once no earlier descriptor of its queue is open. -/
theorem Hub.fenceDone_of_waiting (hst : t.st = .waiting) (hop : dOpcode t.desc = opFENCE) : h.fenceDone i =
    if h.earlierOpen t then h else h.endItem i stDONE 0 := by
  have hop6 : dOpcode t.desc = 6 := hop
  simp only [Hub.fenceDone, hi, hst, hop6, hh, decide_true, Bool.true_and, Bool.not_false, Bool.and_true]
  cases h.earlierOpen t <;> rfl

/-- The end of a COPY's reads, of an item outside a check stream, begins its writes. -/
theorem Hub.chunkDone_of_read (hst : t.st = .running) (hop : dOpcode t.desc = opCOPY) (hl : t.left = 0) (hf : t.failed = none)
    (hp : t.pos < dLen t.desc) (hw : t.writing = false) (ht : t.taken = false) :
    h.chunkDone i = h.issueRuns i t true (dDst t.desc + t.pos) t.chunk t.buf := by
  have hop1 : dOpcode t.desc = 1 := hop
  have hm : t.isMover = true := by rw [Item.isMover, hop1]; rfl
  have hcrc : (if t.taken then crcRun t.crc t.buf else t.crc) = t.crc := if_neg (ne_true_of_eq_false ht)
  unfold Hub.chunkDone
  rw [hi]
  dsimp only
  rw [if_neg (by simp [hh, hst, hm, hl, hf, hp]), if_pos (by simp [hop1, hw]), hcrc]

/-- The end of a FILL's writes, with more to fill and its mover its own, begins the next chunk. -/
theorem Hub.chunkDone_of_write (hst : t.st = .running) (hop : dOpcode t.desc = opFILL) (hl : t.left = 0) (hf : t.failed = none)
    (hp : t.pos + t.chunk < dLen t.desc) (hq : t.squash = none) (ho : h.moverOver t.slice = false) : h.chunkDone i =
      h.startChunk i { t with pos := t.pos + t.chunk, granules := (t.pos + t.chunk) / 64, writing := false, buf := [] } := by
  have hop2 : dOpcode t.desc = 2 := hop
  have hm : t.isMover = true := by rw [Item.isMover, hop2]; rfl
  have hp0 : t.pos < dLen t.desc := by omega
  simp only [Hub.chunkDone, hi, hh, hst, hm, hl, hf, hop2, hq, ho, Nat.not_le.mpr hp, Nat.not_le.mpr hp0, ne_eq, not_true, decide_false,
    Bool.not_true, Option.isSome_none, Bool.or_self, Bool.false_eq_true, Nat.reduceEqDiff, Bool.false_and, or_self, if_false]

/-- A FILL whose writes are all answered ends DONE, its counter raised. -/
theorem Hub.itemDone_of_fill (hs : t.slice = some sl) (hst : t.st = .running) (hop : dOpcode t.desc = opFILL) (hl : t.left = 0)
    (hf : t.failed = none) (hp : dLen t.desc ≤ t.pos) (ht : t.taken = false) (hb : t.bundle = none) : h.itemDone i =
      (if dAc t.desc then h.addAc sl (dAcnum t.desc) (dLen t.desc) else h).endItem i stDONE t.granules := by
  have hop2 : dOpcode t.desc = 2 := hop
  have hm : t.isMover = true := by rw [Item.isMover, hop2]; rfl
  have hfree : h.freeItemBundle t = h := by simp only [Hub.freeItemBundle, hb]
  simp only [Hub.itemDone, hi, hh, hs, hst, hm, hl, hf, hp, ht, hb, hfree, ne_eq, not_true, decide_false, decide_true, Bool.not_true, Bool.true_or,
    Bool.or_self, Bool.and_true, Bool.false_eq_true, if_false, if_true]

/-- A COPY whose channel's turn it is takes it, or ends CHECK on one that is unarmed or stopped. -/
theorem Hub.takeChannel_of_turn (hs : t.slice = some sl) (hst : t.st = .waitChan) (hc : h.chanTurn sl t = true) : h.takeChannel i =
    if !h.flag (rCKC_EXPn sl (dCkch t.desc)) fCKC_EXPn_ARM || h.stoppedInst uCKC (dCkch t.desc) then h.endItem i stCHECK 0
    else (h.setF (rCKC_RESn sl (dCkch t.desc)) fCKC_RESn_BUSY 1).startChunk i
      { t with taken := true, crc := crcRun crcInit (checkSeed sl (h.fld (rCKC_EXPn sl (dCkch t.desc)) fCKC_EXPn_SEQ) (dSrc t.desc)) } := by
  simp only [Hub.takeChannel, hi, hs, hst, hc, hh, ne_eq, not_true, decide_false, Bool.not_true, Bool.or_self, Bool.false_eq_true, if_false]

end

/-- A kernel whose cells have all reached END, their stores visible, ends. -/
theorem Hub.kernelEnd_of_ended {h : Hub} {i : Nat} {t : Item} (hi : h.item i = some t) (hst : t.st = .running) (hop : dOpcode t.desc = opLAUNCH)
    (hd : h.storesDone t.cells = true) (he : t.cells.all t.ended.contains = true) : h.kernelEnd i =
      (t.cells.foldl (fun h c => h.updCell c (fun x => { x with launch := if x.launch = some i then none else x.launch })) h).endItem i stDONE
        (min (t.lastSheet + 1 - t.firstSheet) (2 ^ 32 - 1)) := by
  have hop4 : dOpcode t.desc = 4 := hop
  simp only [Hub.kernelEnd, hi, hst, hop4, hd, he, decide_true, Bool.and_self, if_true]

/-- Settles O29: each command's end is read off its item. -/
theorem descriptorsEndAsTheirWorkDoes : Obligations.DescriptorsEndAsTheirWorkDoes := by
  intro s i sl t hi hs hh
  refine ⟨fun hst hop => ⟨fun hr => ?waitac, fun hr => ?waitacWaits⟩, fun hst hop => ⟨fun hr => ?fence, fun hr => ?fenceWaits⟩,
    fun hst hop hd he => ?kernel, fun hst hop hl hf hp hw ht => ?read, fun hst hop hl hf hp hq ho => ?write,
    fun hst hop hl hf hp ht hb => ?item, fun hst hc hbad => ?noChannel, fun hst hc ha hu => ?channel⟩
  case waitac => exact exec_of_hub (k := s.hub.waitacDone i) rfl ((Hub.waitacDone_of_waiting hi hh hs hst hop).trans (if_pos hr))
  case waitacWaits =>
    exact exec_of_hub_same (k := s.hub.waitacDone i) rfl ((Hub.waitacDone_of_waiting hi hh hs hst hop).trans (if_neg (ne_true_of_eq_false hr)))
  case fence => exact exec_of_hub (k := s.hub.fenceDone i) rfl ((Hub.fenceDone_of_waiting hi hh hst hop).trans (if_neg (ne_true_of_eq_false hr)))
  case fenceWaits => exact exec_of_hub_same (k := s.hub.fenceDone i) rfl ((Hub.fenceDone_of_waiting hi hh hst hop).trans (if_pos hr))
  case kernel => exact exec_of_hub (k := s.hub.kernelEnd i) rfl (Hub.kernelEnd_of_ended hi hst hop hd he)
  case read => exact exec_of_hub (k := s.hub.chunkDone i) rfl (Hub.chunkDone_of_read hi hh hst hop hl hf hp hw ht)
  case write => exact exec_of_hub (k := s.hub.chunkDone i) rfl (Hub.chunkDone_of_write hi hh hst hop hl hf hp hq ho)
  case item => exact exec_of_hub (k := s.hub.itemDone i) rfl (Hub.itemDone_of_fill hi hh hs hst hop hl hf hp ht hb)
  case noChannel =>
    refine exec_of_hub (k := s.hub.takeChannel i) rfl ((Hub.takeChannel_of_turn hi hh hs hst hc).trans (if_pos ?_))
    rcases hbad with h | h <;> simp [h]
  case channel =>
    refine exec_of_hub (k := s.hub.takeChannel i) rfl ((Hub.takeChannel_of_turn hi hh hs hst hc).trans (if_neg ?_))
    simp [ha, hu]

end Sys2Proof.Machine
end

section
/-! PROOFS. Requests of host functions (R221, R222, R238, R254, R256, R373; log entries 52, 137). -/

namespace Sys2Proof.Machine

theorem exec_hostRequest (fn : HostFn) (op : HostOp) (walk : List Word) (ecc : Ecc) (s : State) : exec (.hostRequest fn op walk ecc) s =
    .next { s with fuses := (hostIn s.fuses s.hub fn op walk ecc).1, hub := (hostIn s.fuses s.hub fn op walk ecc).2 } := rfl

theorem exec_hostAtomicop (fn : HostFn) (k : HostAtomic) (bar off size : Nat) (opd cmp : Word) (walk : List Word) (ecc : Ecc) (s : State) :
    exec (.hostAtomicop fn k bar off size opd cmp walk ecc) s =
      .next { s with fuses := (hostAtomic s.fuses s.hub fn k bar off size opd cmp walk ecc).1,
                     hub := (hostAtomic s.fuses s.hub fn k bar off size opd cmp walk ecc).2 } := rfl

/-! ## A register access with nothing before it -/

/-- The one request there is goes on at once. -/
theorem hostPump_register (f : Fuses) {h : Hub} {q : Req} {fn : HostFn} (hr : h.reqs = []) (hs : q.src = .host fn) (hst : q.stage = .held)
    (hb : q.bar0 = true) : hostPump f (h.newReq q).2 = hostRegister f { h with nextId := h.nextId + 1 } fn q := by
  have hreqs : (h.newReq q).2.reqs = [(h.nextId, q)] := by simp [Hub.newReq, hr, mapPut]
  have hreq : (h.newReq q).2.req h.nextId = some q := by simp [Hub.req, hreqs, mapGet]
  have hturn : (h.newReq q).2.hostTurn h.nextId q = true := by simp [Hub.hostTurn, hreqs]
  have hdrop : (h.newReq q).2.dropReq h.nextId = { h with nextId := h.nextId + 1 } := by
    simp only [Hub.dropReq, hreqs, mapDel]
    simp [Hub.newReq, hr]
  unfold hostPump
  rw [hreqs]
  simp only [List.map_cons, List.map_nil, List.foldl_cons, List.foldl_nil, hreq, hs, hst, hturn, hb, hdrop, decide_true, Bool.and_self, if_true]

/-- A register read performed. -/
theorem hostRegister_of_read (f : Fuses) (h : Hub) (fn : HostFn) {q : Req} (hk : q.kind = .read) : hostRegister f h fn q =
    (f, match readBytes f h (fnOrigin fn) q.pa q.len with
      | some d => h.emit (.hostDone fn d)
      | none => h.emit (.hostUR fn)) := by
  simp only [hostRegister, hk]
  cases readBytes f h (fnOrigin fn) q.pa q.len <;> rfl

/-- A register write that is accepted is that write. -/
theorem hostRegister_of_write (f : Fuses) {h : Hub} (fn : HostFn) {q : Req} (hk : q.kind = .write) (hl : q.len = 8 ∨ q.len = 4)
    (ho : (writeReg f h (fnOrigin fn) q.pa (if q.len = 8 then .w64 else .w32) (BitVec.ofNat 64 (leNat q.data))).2.out = .regOk :: h.out) :
    hostRegister f h fn q = writeReg f h (fnOrigin fn) q.pa (if q.len = 8 then .w64 else .w32) (BitVec.ofNat 64 (leNat q.data)) := by
  have hout : ((.regOk :: h.out).take ((.regOk :: h.out).length - h.out.length)).contains Output.regError = false := by simp
  simp only [hostRegister, hk, hl, if_true, ho, hout, Bool.false_eq_true, if_false]

/-! ## HOST_REQUEST -/

/-- A host function's access as a request, before it is known where it leads. -/
def hostReq (fn : HostFn) (rk : ReqKind) (len : Nat) (data : List Byte) (relaxed : Bool) : Req :=
  { src := .host fn, kind := rk, len := len, data := data, relaxed := relaxed, cls := 3 }

section
variable {f : Fuses} {h : Hub} {fn : HostFn} {walk : List Word} {ecc : Ecc}

theorem hostIn_of_absent (op : HostOp) (ht : h.fnThere fn = false) : hostIn f h fn op walk ecc = (f, h) := by
  cases op <;> simp only [hostIn, ht, Bool.not_false, if_true]

/-- An access that PCIe carries goes where its BAR leads. -/
theorem hostIn_of_there {op : HostOp} {bar off len : Nat} {data : List Byte} {relaxed : Bool} {rk : ReqKind} (ht : h.fnThere fn = true)
    (hop : (op = .read bar off len ∧ data = [] ∧ relaxed = false ∧ rk = .read) ∨ (op = .write bar off data relaxed ∧ len = data.length ∧ rk = .write))
    (h0 : 0 < len) (hl : off % 4096 + len ≤ 4096) : hostIn f h fn op walk ecc =
      match h.hostWhere fn bar off rk walk ecc with
      | (.blocked, h) => (f, h)
      | (.refused, h) => (f, h.hostErr fn (isWrite rk))
      | (.xlate s c, h) => (f, (h.hostErr fn (isWrite rk)).fault
          { source := srcOf uHTU 0, kind := kXLATE, cls := clsCorrected, slice := some s, ctx := some c })
      | (.register a, h) => hostPump f (h.newReq { hostReq fn rk len data relaxed with pa := a, stage := .held, bar0 := true, hostNo := h.nextId + 1 }).2
      | (.memory pa s c m, h) =>
        if h.beatsOnly pa && (decide (len % 64 ≠ 0) || decide (pa % 64 ≠ 0)) then (f, h.hostErr fn (isWrite rk))
        else hostPump f (h.enterHost
          { hostReq fn rk len data relaxed with pa := pa, slice := s, ctx := c, mgmt := m, gen := if m then 0 else h.gen (ctxid s c) }) := by
  have hlen : ¬ (len = 0 ∨ 4096 < off % 4096 + len) := by omega
  rcases hop with ⟨rfl, rfl, rfl, rfl⟩ | ⟨rfl, rfl, rfl⟩
  all_goals
    simp only [hostIn, ht, hlen, Bool.not_true, Bool.false_eq_true, if_false]
    rfl

end

/-! ## HOST_ATOMICOP -/

section
variable (f : Fuses) {h k : Hub} {fn : HostFn} {a : HostAtomic} {bar off size : Nat} {opd cmp : Word} {walk : List Word} {ecc : Ecc}
  (ht : h.fnThere fn = true)
include ht

theorem hostAtomic_of_bad (hb : size ≠ 8 ∨ off % 8 ≠ 0) : hostAtomic f h fn a bar off size opd cmp walk ecc = (f, h.emit (.hostUR fn)) := by
  simp only [hostAtomic, ht, hb, Bool.not_true, Bool.false_eq_true, if_false, if_true]
  rfl

variable (hs : size = 8) (ho : off % 8 = 0)
include hs ho

theorem hostAtomic_of_register {r : Nat} (hw : h.hostWhere fn bar off (.atomic (hostAop a) opd cmp) walk ecc = (.register r, k)) :
    hostAtomic f h fn a bar off size opd cmp walk ecc = (f, k.emit (.hostUR fn)) := by
  simp only [hostAtomic, ht, hs, ho, hw, Bool.not_true, Bool.false_eq_true, ne_eq, not_true, or_self, if_false]
  rfl

theorem hostAtomic_of_memory {pa sl c : Nat} {m : Bool} (hw : h.hostWhere fn bar off (.atomic (hostAop a) opd cmp) walk ecc = (.memory pa sl c m, k))
    (hp : ¬ (SITE_BASE ≤ pa % 2 ^ 42 ∧ pa % 2 ^ 42 < SITE_END)) : hostAtomic f h fn a bar off size opd cmp walk ecc = hostPump f (k.newReq
      { src := .host fn, kind := .atomic (hostAop a) opd cmp, len := 8, cls := 3,
        pa := pa, slice := sl, ctx := c, mgmt := m, stage := .held, gen := if m then 0 else k.gen (ctxid sl c),
        hostNo := k.nextId + 1 }).2 := by
  have hsite : ¬ ((decide (SITE_BASE ≤ pa % 2 ^ 42) && decide (pa % 2 ^ 42 < SITE_END)) = true) := by
    simpa only [Bool.and_eq_true, decide_eq_true_eq] using hp
  simp only [hostAtomic, ht, hs, ho, hw, hsite, Bool.not_true, Bool.false_eq_true, ne_eq, not_true, or_self, if_false]

end

/-- Settles O32: an access goes where its BAR leads; with nothing before it a register access is performed at once. -/
theorem hostRequestsGoWhereTheirBarLeads : Obligations.HostRequestsGoWhereTheirBarLeads := by
  refine ⟨fun s fn walk ecc h => ⟨fun ht op => ?absent, fun ht bar off len h0 hl => ?read, fun ht bar off bs relaxed pa sl c m h0 hl => ?write⟩,
    fun s fn k bar off size opd cmp walk ecc h ht => ⟨fun hb => ?bad, fun a hs ho hw => ?register, fun pa sl c m hs ho hw hp => ?memory,
      fun hk => hk ▸ rfl, fun hk => hk ▸ rfl⟩⟩
  case absent => rw [exec_hostRequest, hostIn_of_absent op ht]
  case read =>
    have hin := hostIn_of_there (f := s.fuses) (walk := walk) (ecc := ecc) ht (.inl ⟨rfl, rfl, rfl, rfl⟩) h0 hl (op := .read bar off len)
    have hdone (a : Nat) (hr : h.reqs = []) (hw : s.hub.hostWhere fn bar off .read walk ecc = (.register a, h)) :
        hostIn s.fuses s.hub fn (.read bar off len) walk ecc = hostRegister s.fuses { h with nextId := h.nextId + 1 } fn
          { hostReq fn .read len [] false with pa := a, stage := .held, bar0 := true, hostNo := h.nextId + 1 } := by
      rw [hin, hw]
      exact hostPump_register s.fuses hr rfl rfl rfl
    refine ⟨fun hw => ?_, fun sl c hw => ?_, fun hw => ?_, fun a d hr hw hd => ?_, fun a hr hw hd => ?_⟩
    · rw [exec_hostRequest, hin, hw]; rfl
    · rw [exec_hostRequest, hin, hw]; rfl
    · rw [exec_hostRequest, hin, hw]; rfl
    · rw [exec_hostRequest, hdone a hr hw, hostRegister_of_read _ _ _ rfl]
      simp only [hostReq, hd]
      rfl
    · rw [exec_hostRequest, hdone a hr hw, hostRegister_of_read _ _ _ rfl]
      simp only [hostReq, hd]
      rfl
  case write =>
    have hin := hostIn_of_there (f := s.fuses) (walk := walk) (ecc := ecc) ht (.inr ⟨rfl, rfl, rfl⟩) h0 hl (op := .write bar off bs relaxed)
    refine ⟨fun hw => ?_, fun a hr hw h84 hout => ?_, fun hw hb => ?_⟩
    · rw [exec_hostRequest, hin, hw]; rfl
    · refine ⟨_, exec_hostRequest _ _ _ _ _, ?_⟩
      rw [hin, hw]
      exact (hostPump_register s.fuses hr rfl rfl rfl).trans (hostRegister_of_write s.fuses fn rfl h84 hout)
    · refine ⟨_, exec_hostRequest _ _ _ _ _, ?_⟩
      rw [hin, hw]
      exact if_neg (by rw [hb]; exact Bool.false_ne_true)
  case bad => rw [exec_hostAtomicop, hostAtomic_of_bad s.fuses ht hb]; rfl
  case register => rw [exec_hostAtomicop, hostAtomic_of_register s.fuses ht hs ho hw]; rfl
  case memory => exact ⟨_, exec_hostAtomicop _ _ _ _ _ _ _ _ _ _, by rw [hostAtomic_of_memory s.fuses ht hs ho hw hp]⟩

end Sys2Proof.Machine
end

section
/-! PROOFS. Requests at their memory controller and at cell windows (R215, R224, R264, R265, R283, R416; log entry 7). -/

namespace Sys2Proof.Machine

/-! ## Arriving at a controller -/

theorem exec_hbmRequestArrive (i : Nat) (ok : Bool) (s : State) : exec (.hbmRequestArrive ⟨i, ok⟩) s = .next (s.withHub (s.hub.reachMem i ok)) := rfl

section
variable {h : Hub} {i : Nat} {q : Req} (hq : h.req i = some q) (hst : q.stage = .flight) (hh : h.halted = false)
include hq

theorem Hub.reachMem_of_crossing (ok : Bool) (hc : h.crossing i = true) : h.reachMem i ok = h := by
  simp only [Hub.reachMem, hq, hc, true_or, or_true, if_true]

/-- Behind an earlier request of its source a request does not arrive. -/
theorem Hub.arrive_of_behind (hb : h.behind i q 0 (q.len - 1) Req.coming = true) : h.arrive i = h := by
  simp only [Hub.arrive, hq, hb, or_true, if_true]

include hst hh

/-- A request in flight that stands in no crossing FIFO arrives, or fails its parity. -/
theorem Hub.reachMem_of_flight (ok : Bool) (hc : h.crossing i = false) : h.reachMem i ok = if ok then h.arrive i else h.parityFail i := by
  simp only [Hub.reachMem, hq, hst, hh, hc, ne_eq, not_true, Bool.false_eq_true, or_self, if_false]

variable (hb : h.behind i q 0 (q.len - 1) Req.coming = false)
include hb

theorem Hub.arrive_of_not_owner (ho : h.ownerOk q.mgmt q.slice (q.pa % 2 ^ 42 / GRAN) = false) : h.arrive i =
    (h.violation (h.ctrlOf (q.pa % 2 ^ 42)) (q.pa % 2 ^ 42) q.mgmt (decide (q.hdr ≠ [])) (ctxid q.slice q.ctx)).failAtMem i q fsACCESS kACCESS := by
  simp only [Hub.arrive, hq, hst, hh, hb, ho, ne_eq, not_true, Bool.false_eq_true, or_self, if_false, Bool.not_false, if_true]

/-- A request that the owner map allows meets its channel. -/
theorem Hub.arrive_of_owner {ch off : Nat} (ho : h.ownerOk q.mgmt q.slice (q.pa % 2 ^ 42 / GRAN) = true) (hd : h.decode (q.pa % 2 ^ 42) = some (ch, off)) :
    h.arrive i = if h.chState ch = chRETIRED ∨ h.chState ch = chABSENT ∨ h.stoppedInst uMEM (ch / 32) = true then
        h.failAtMem i q fsMEMORY kMEM_CHANNEL
      else (h.setReq i { q with stage := .queued }).setChan ch
        { h.chan ch with queues := mapPut (h.chan ch).queues q.master (mapGetD (h.chan ch).queues q.master [] ++ [i]) } := by
  simp only [Hub.arrive, hq, hst, hh, hb, ho, hd, ne_eq, not_true, Bool.false_eq_true, or_self, if_false, Bool.not_true]

end

/-- A controller that holds a violation keeps its address. -/
theorem Hub.reg_violation_of_valid {h : Hub} {ctrl : Nat} (a cid : Nat) (mgmt remote : Bool)
    (hv : h.flag (rMEM_VIOL_INFOn ctrl) fMEM_VIOL_INFOn_VALID = true) :
    (h.violation ctrl a mgmt remote cid).reg (rMEM_VIOL_ADDRn ctrl) = h.reg (rMEM_VIOL_ADDRn ctrl) := by
  have hval : h.violation ctrl a mgmt remote cid = h.count (rMEM_VIOL_INFOn ctrl) fMEM_VIOL_INFOn_COUNT 1 := if_pos hv
  rw [hval]
  exact Hub.reg_setF_ne _ _ _ (by unfold rMEM_VIOL_ADDRn rMEM_VIOL_INFOn; omega)

/-! ## A channel's slot -/

theorem exec_channelCommandSlot (ch : ChanId) (n : Nat) (ecc : Ecc) (s : State) :
    exec (.channelCommandSlot ch n ecc) s = .next (s.withHub (s.hub.commandSlot ch n ecc)) := rfl

section
variable {h : Hub} {ch : Nat} (n : Nat) (ecc : Ecc)

theorem Hub.commandSlot_of_none (hn : h.halted = true ∨ h.chState ch ≠ chACTIVE ∨ h.sweepWants ch = true ∨ h.pickMaster ch = none) :
    h.commandSlot ch n ecc = h := by
  unfold Hub.commandSlot
  split
  · rfl
  · next hgo =>
    obtain ⟨hh, hc, hs⟩ : h.halted = false ∧ h.chState ch = chACTIVE ∧ h.sweepWants ch = false := by simpa using hgo
    have hp : h.pickMaster ch = none := by simpa [hh, hc, hs] using hn
    rw [hp]

/-- The head request of the master picked is served a piece; it is admitted where it was not. -/
theorem Hub.commandSlot_of_pick {k i : Nat} {paid : Bool} {ds : SMap Int} {q : Req} (hh : h.halted = false) (hc : h.chState ch = chACTIVE)
    (hs : h.sweepWants ch = false) (hp : h.pickMaster ch = some (k, paid, ds)) (hf : (h.heads ch).find? (fun e => e.1 == k) = some (k, i, q)) :
    h.commandSlot ch n ecc = if q.admitted then h.servePiece ch i q n ecc
      else (((h.updChan ch (fun x => { x with rr := k, deficits := ds })).charge ch k paid).setReq i
        { q with admitted := true, since := h.now }).servePiece ch i { q with admitted := true, since := h.now } n ecc := by
  simp only [Hub.commandSlot, hh, hc, hs, hp, hf, ne_eq, not_true, Bool.false_eq_true, or_self, if_false]

end

theorem Hub.applyPiece_of_read {h : Hub} {q : Req} (off m : Nat) (hk : q.kind = .read) : h.applyPiece q off m =
    ({ q with data := patch (if q.data = [] then zeros q.len else q.data) off (h.hbmGet (q.pa % 2 ^ 42 + off) m) }, h) := by
  unfold Hub.applyPiece
  rw [hk]

theorem Hub.applyPiece_of_write {h : Hub} {q : Req} (off m : Nat) (hk : q.kind = .write) :
    h.applyPiece q off m = (q, h.hbmPutLine q.payer (q.pa % 2 ^ 42 + off) (sub q.data off m)) := by
  unfold Hub.applyPiece
  rw [hk]

/-- Settles O34: a request's arrival and a channel's slot, each by the case that its state selects. -/
theorem controllersServeTheirChannels : Obligations.ControllersServeTheirChannels := by
  refine ⟨fun s i q hq hst hh => ⟨fun hw => ?waits, fun hc => ?parity, fun hc hb => ⟨fun ho => ?refused, fun ch off ho hd => ⟨fun hbad => ?gone, fun h1 h2 h3 => ?queued⟩⟩,
    fun h ctrl a cid mgmt remote hv => Hub.reg_violation_of_valid a cid mgmt remote hv⟩,
    fun s ch n ecc => ⟨fun hn => ?none, fun k paid ds i q hh hc hs hp hf => ⟨fun ha => ?admitted, fun ha => ?admits⟩⟩,
    fun h q off m hk => Hub.applyPiece_of_read off m hk, fun h q off m hk => Hub.applyPiece_of_write off m hk⟩
  case waits =>
    refine exec_of_hub_same (exec_hbmRequestArrive i true s) ?_
    cases hc : s.hub.crossing i with
    | true => exact Hub.reachMem_of_crossing hq true hc
    | false =>
      have hb : s.hub.behind i q 0 (q.len - 1) Req.coming = true := by simpa [hc] using hw
      exact (Hub.reachMem_of_flight hq hst hh true hc).trans (Hub.arrive_of_behind hq hb)
  case parity => exact exec_of_hub (exec_hbmRequestArrive i false s) (Hub.reachMem_of_flight hq hst hh false hc)
  case refused =>
    exact exec_of_hub (exec_hbmRequestArrive i true s) ((Hub.reachMem_of_flight hq hst hh true hc).trans (Hub.arrive_of_not_owner hq hst hh hb ho))
  case gone =>
    exact exec_of_hub (exec_hbmRequestArrive i true s)
      ((Hub.reachMem_of_flight hq hst hh true hc).trans ((Hub.arrive_of_owner hq hst hh hb ho hd).trans (if_pos hbad)))
  case queued =>
    exact exec_of_hub (exec_hbmRequestArrive i true s)
      ((Hub.reachMem_of_flight hq hst hh true hc).trans ((Hub.arrive_of_owner hq hst hh hb ho hd).trans (if_neg (by simp [h1, h2, h3]))))
  case none => exact exec_of_hub_same (exec_channelCommandSlot ch n ecc s) (Hub.commandSlot_of_none n ecc hn)
  case admitted => exact exec_of_hub (exec_channelCommandSlot ch n ecc s) ((Hub.commandSlot_of_pick n ecc hh hc hs hp hf).trans (if_pos ha))
  case admits =>
    exact exec_of_hub (exec_channelCommandSlot ch n ecc s) ((Hub.commandSlot_of_pick n ecc hh hc hs hp hf).trans (if_neg (ne_true_of_eq_false ha)))

/-! ## Cell windows -/

theorem exec_cellWindowAccess (i g : Nat) (z : Hazard) (s : State) :
    exec (.cellWindowAccess i ⟨g, z⟩) s = .next (s.withHub (s.hub.windowAccess i g z)) := rfl

section
variable {h : Hub} {i g : Nat} {q : Req} {c off : Nat} (hq : h.req i = some q) (hst : q.stage = .window)
  (hw : windowOf (q.pa % 2 ^ 42) = some (c, off)) (hh : h.halted = false)
include hq hst hw hh

theorem Hub.windowAccess_of_waits (z : Hazard) (hs : h.windowSays q.mgmt q.slice c off (isWrite q.kind) = .waits) : h.windowAccess i g z = h := by
  simp only [Hub.windowAccess, hq, hst, hw, hh, hs, Bool.false_eq_true, if_false]

theorem Hub.windowAccess_of_refused (z : Hazard) (hs : h.windowSays q.mgmt q.slice c off (isWrite q.kind) = .refused) :
    h.windowAccess i g z = h.failAtArr i q c := by
  simp only [Hub.windowAccess, hq, hst, hw, hh, hs, Bool.false_eq_true, if_false]

/-- A window that serves takes the piece picked, behind what its source sent there before. -/
theorem Hub.windowAccess_of_served {p o n : Nat} (hs : h.windowSays q.mgmt q.slice c off (isWrite q.kind) = .served) (hp : q.pickPiece g = some p)
    (hn : q.pieces.getD p (0, 0) = (o, n)) : h.windowAccess i g .clean =
      if h.behind i q o (o + n - 1) Req.open_ then h else h.windowPiece i q c off p := by
  simp only [Hub.windowAccess, hq, hst, hw, hh, hs, hp, hn, Bool.false_eq_true, if_false, Option.getD_some, reduceCtorEq]

end

/-- A window refuses a slice that does not hold its cell. -/
theorem Hub.windowSays_of_other {h : Hub} {c sl : Nat} (off : Nat) (writes : Bool) (ho : h.cellOwner c ≠ some sl) :
    h.windowSays false sl c off writes = .refused := by
  have hw : h.windowOk false sl c = false := by
    unfold Hub.windowOk
    cases hc : h.cellOwner c with
    | none => rfl
    | some o => simpa using fun he : o = sl => ho (he ▸ hc)
  simp only [Hub.windowSays, hw, Bool.not_false, Bool.true_or, if_true]

/-- What becomes of a request at a window that is past the watchdog's limit. -/
def Hub.windowLate (h : Hub) (i : Nat) (q : Req) : Hub :=
  let h1 := ((h.leaveQueue i q).failReq i fsTIMEOUT kFAB_TO uFAB 0).count rWDG_STS fWDG_STS_FAB_EXPIRED 1
  match q.src with
  | .item _ _ => if q.mgmt then h1 else h1.faultR uFAB 0 kFAB_TO clsContained q.slice q.ctx (q.pa % 2 ^ 42) 0
  | _ => h1

section
variable {h : Hub} {i : Nat} {q : Req} (hq : h.req i = some q)
include hq

theorem Hub.fabTimeout_of_early (hd : h.now < q.since + h.fabLimit) : h.fabTimeout i = h := by
  simp only [Hub.fabTimeout, hq, hd, decide_true, Bool.or_true, if_true]

/-- A request at a window past the watchdog's limit fails; a descriptor's also raises the contained fault. -/
theorem Hub.fabTimeout_of_window (hst : q.stage = .window) (hr : q.hdr = []) (hd : q.since + h.fabLimit ≤ h.now) :
    h.fabTimeout i = h.windowLate i q := by
  simp only [Hub.fabTimeout, hq, hst, hr, Nat.not_lt.mpr hd, decide_false, decide_true, Bool.and_self, Bool.not_true, Bool.or_self, Bool.false_eq_true,
    if_false]
  cases hsrc : q.src <;> simp only [Hub.windowLate, hsrc]

end

/-- Settles O35: a window says how it answers, and FAB_TO looks at when the request passed its meter. -/
theorem cellWindowsAnswerTheirSlice : Obligations.CellWindowsAnswerTheirSlice := by
  intro s i g q c off hq hst hw hh
  refine ⟨fun hs p o n hp hn => ⟨fun hb => ?served, fun hb => ?behind⟩, fun hs z => ?waits, fun hs z => ?refused, fun ho hm => ?other,
    fun hr hd hsrc => ?timeout, fun j o hr hd hsrc hm => ?item, fun hd => ?early⟩
  case served =>
    exact exec_of_hub (exec_cellWindowAccess i g .clean s)
      ((Hub.windowAccess_of_served hq hst hw hh hs hp hn).trans (if_neg (ne_true_of_eq_false hb)))
  case behind => exact exec_of_hub_same (exec_cellWindowAccess i g .clean s) ((Hub.windowAccess_of_served hq hst hw hh hs hp hn).trans (if_pos hb))
  case waits => exact exec_of_hub_same (exec_cellWindowAccess i g z s) (Hub.windowAccess_of_waits hq hst hw hh z hs)
  case refused => exact exec_of_hub (exec_cellWindowAccess i g z s) (Hub.windowAccess_of_refused hq hst hw hh z hs)
  case other => rw [hm]; exact Hub.windowSays_of_other off _ ho
  case timeout =>
    refine exec_of_hub (k := s.hub.fabTimeout i) rfl ((Hub.fabTimeout_of_window hq hst hr hd).trans ?_)
    cases hq' : q.src with
    | item j o => exact absurd hq' (hsrc j o)
    | _ => simp only [Hub.windowLate, hq']
  case item =>
    refine exec_of_hub (k := s.hub.fabTimeout i) rfl ((Hub.fabTimeout_of_window hq hst hr hd).trans ?_)
    simp only [Hub.windowLate, hsrc, hm, Bool.false_eq_true, if_false]
  case early => exact exec_of_hub_same (k := s.hub.fabTimeout i) rfl (Hub.fabTimeout_of_early hq hd)

end Sys2Proof.Machine
end

section
/-! PROOFS. Meters (R282, R288, R289) and channels (R294, R300, R301). -/

namespace Sys2Proof.Machine

/-! ## Credits and weights of a window -/

/-- Values put in one after another: a key whose entries agree holds their value. -/
theorem mapGetD_foldl_mapPutD {k v : Nat} (l : List (Nat × Nat)) (hu : ∀ e ∈ l, e.1 = k → e.2 = v) :
    ∀ c : SMap Nat, (k, v) ∈ l ∨ mapGetD c k 0 = v → mapGetD (l.foldl (fun c e => mapPutD 0 c e.1 e.2) c) k 0 = v := by
  induction l with
  | nil => intro c hc; simpa using hc
  | cons e l ih =>
    intro c hc
    refine ih (fun x hx => hu x (List.mem_cons_of_mem _ hx)) _ ?_
    by_cases he : e.1 = k
    · right
      rw [← he, mapGetD_mapPutD_same, hu e (List.mem_cons_self ..) he]
    · rcases hc with hm | hv
      · left
        exact (List.mem_cons.mp hm).resolve_left fun hx => he (by rw [← hx])
      · right
        rw [mapGetD_mapPutD_ne _ _ _ _ (Ne.symm he), hv]

/-- The credits of a window, by key: a group's number and a master's. -/
def Hub.windowCredits (h : Hub) : List (Nat × Nat) :=
  h.masters.flatMap (fun e => (h.forme.igroups.filter (fun g => !h.stoppedInst uMTR g.igrp)).map (fun g =>
    (g.igrp * 16384 + e.1, h.windowCredit e.2.1 g.igrp e.2.2)))

/-- The weights of the masters, by key. -/
def Hub.masterWeights (h : Hub) : List (Nat × Nat) := h.masters.map (fun e => (e.1, (e.2.1.meters.getD e.2.2 {}).weight))

theorem exec_meterWindow (s : State) : exec .meterWindow s = .next (s.withHub { s.hub with
    credits := s.hub.windowCredits.foldl (fun c e => mapPutD 0 c e.1 e.2) [],
    weights := s.hub.masterWeights.foldl (fun c e => mapPutD 0 c e.1 e.2) [],
    sweepBytes := [] }) := by
  have hw : s.hub.masterWeights.foldl (fun c e => mapPutD 0 c e.1 e.2) [] =
      s.hub.masters.foldl (fun c e => mapPutD 0 c e.1 (e.2.1.meters.getD e.2.2 {}).weight) [] := by rw [Hub.masterWeights, List.foldl_map]
  rw [hw]
  rfl

theorem Hub.mem_masters {h : Hub} {x : Nat × SliceRec × Nat} : x ∈ h.masters ↔ ∃ e ∈ h.forme.slices, ∃ m, m < 4 ∧ x = (e.1 * 4 + m, e.2, m) := by
  simp only [Hub.masters, List.mem_flatMap, List.mem_map, List.mem_range]
  constructor
  · rintro ⟨e, he, m, hm, rfl⟩; exact ⟨e, he, m, hm, rfl⟩
  · rintro ⟨e, he, m, hm, rfl⟩; exact ⟨e, he, m, hm, rfl⟩

section
variable {h : Hub} (hn : (h.forme.slices.map (·.1)).Nodup)
include hn

/-- A master's key names its slice and its class. -/
theorem Hub.masters_inj {x y : Nat × SliceRec × Nat} (hx : x ∈ h.masters) (hy : y ∈ h.masters) (hk : x.1 = y.1) : x = y := by
  obtain ⟨e, he, m, hm, rfl⟩ := Hub.mem_masters.mp hx
  obtain ⟨e', he', m', hm', rfl⟩ := Hub.mem_masters.mp hy
  obtain ⟨h1, h2⟩ : e.1 = e'.1 ∧ m = m' := by simp only at hk; omega
  rw [h2, List.inj_on_of_nodup_map hn he he' h1]

theorem Hub.masterWeight_eq {e : Nat × SliceRec} (he : e ∈ h.forme.slices) {m : Nat} (hm : m < 4) :
    mapGetD (h.masterWeights.foldl (fun c e => mapPutD 0 c e.1 e.2) []) (e.1 * 4 + m) 0 = (e.2.meters.getD m {}).weight := by
  have hx : (e.1 * 4 + m, e.2, m) ∈ h.masters := Hub.mem_masters.mpr ⟨e, he, m, hm, rfl⟩
  refine mapGetD_foldl_mapPutD _ (fun y hy hk => ?_) [] (.inl (List.mem_map.mpr ⟨_, hx, rfl⟩))
  obtain ⟨x, hxm, rfl⟩ := List.mem_map.mp hy
  rw [Hub.masters_inj hn hxm hx hk]

theorem Hub.windowCredits_eq (hs : ∀ e ∈ h.forme.slices, e.1 < 4096) {e : Nat × SliceRec} (he : e ∈ h.forme.slices) {m : Nat} (hm : m < 4)
    {g : IGroup} (hg : g ∈ h.forme.igroups) (hst : h.stoppedInst uMTR g.igrp = false) :
    mapGetD (h.windowCredits.foldl (fun c e => mapPutD 0 c e.1 e.2) []) (g.igrp * 16384 + (e.1 * 4 + m)) 0 = h.windowCredit e.2 g.igrp m := by
  have hx : (e.1 * 4 + m, e.2, m) ∈ h.masters := Hub.mem_masters.mpr ⟨e, he, m, hm, rfl⟩
  have hkey {x : Nat × SliceRec × Nat} (hxm : x ∈ h.masters) : x.1 < 16384 := by
    obtain ⟨e, he, m, hm, rfl⟩ := Hub.mem_masters.mp hxm
    have := hs e he
    simp only; omega
  refine mapGetD_foldl_mapPutD _ (fun y hy hk => ?_) [] (.inl ?_)
  · obtain ⟨x, hxm, hy⟩ := List.mem_flatMap.mp hy
    obtain ⟨g', -, rfl⟩ := List.mem_map.mp hy
    have h1 := hkey hxm
    have h2 := hkey hx
    obtain ⟨hgi, hxk⟩ : g'.igrp = g.igrp ∧ x.1 = e.1 * 4 + m := by simp only at hk h2; omega
    rw [hgi, Hub.masters_inj hn hxm hx hxk]
  · exact List.mem_flatMap.mpr ⟨_, hx, List.mem_map.mpr ⟨g, List.mem_filter.mpr ⟨hg, by rw [hst]; rfl⟩, rfl⟩⟩

end

/-! ## AVAIL taken -/

/-- A channel's AVAIL taken from its report. -/
def Hub.takeAvail (avail : List Nat) (h : Hub) (c : Nat) : Hub :=
  if h.chState c = chABSENT then h else h.setF (rMEM_CH_STS c) fMEM_CH_STS_AVAIL (min 256 (avail.getD c 256))

theorem rMEM_CH_STS_inj {c d : Nat} (h : c ≠ d) : rMEM_CH_STS c ≠ rMEM_CH_STS d := by
  unfold rMEM_CH_STS
  omega

section
variable (avail : List Nat) (h : Hub) (c d : Nat)

theorem Hub.takeAvail_eq : h.takeAvail avail c = { h with regs := (h.takeAvail avail c).regs } := by
  unfold Hub.takeAvail
  split_ifs <;> rfl

theorem Hub.chState_takeAvail : (h.takeAvail avail c).chState d = h.chState d := by
  unfold Hub.takeAvail
  split_ifs
  · rfl
  · by_cases hd : d = c
    · subst hd; exact Hub.fld_setF_disj _ _ _ _ _ (by decide) (by decide)
    · exact Hub.fld_setF_ne _ _ _ _ (rMEM_CH_STS_inj hd)

theorem Hub.avail_takeAvail : (h.takeAvail avail c).fld (rMEM_CH_STS d) fMEM_CH_STS_AVAIL =
    if d = c ∧ h.chState d ≠ chABSENT then min 256 (avail.getD d 256) else h.fld (rMEM_CH_STS d) fMEM_CH_STS_AVAIL := by
  unfold Hub.takeAvail
  by_cases hd : d = c
  · subst hd
    by_cases ha : h.chState d = chABSENT
    · simp [ha]
    · rw [if_neg ha, if_pos ⟨rfl, ha⟩]
      exact (Hub.fld_setF_same _ _ _ _ (by decide)).trans (Nat.mod_eq_of_lt (Nat.lt_of_le_of_lt (Nat.min_le_left _ _) (by decide)))
  · rw [if_neg (c := d = c ∧ h.chState d ≠ chABSENT) fun hx => hd hx.1]
    split
    · rfl
    · exact Hub.fld_setF_ne _ _ _ _ (rMEM_CH_STS_inj hd)

end

/-- Every channel of a list reports: registers alone change, and a channel of it that is not absent shows its report. -/
theorem Hub.foldl_takeAvail (avail : List Nat) (l : List Nat) : ∀ h : Hub,
    l.foldl (Hub.takeAvail avail) h = { h with regs := (l.foldl (Hub.takeAvail avail) h).regs } ∧
    ∀ d, h.chState d ≠ chABSENT → (d ∈ l ∨ h.fld (rMEM_CH_STS d) fMEM_CH_STS_AVAIL = min 256 (avail.getD d 256)) →
      (l.foldl (Hub.takeAvail avail) h).fld (rMEM_CH_STS d) fMEM_CH_STS_AVAIL = min 256 (avail.getD d 256) := by
  induction l with
  | nil => intro h; exact ⟨rfl, fun d _ hd => by simpa using hd⟩
  | cons c l ih =>
    intro h
    obtain ⟨hregs, hav⟩ := ih (h.takeAvail avail c)
    refine ⟨hregs.trans ?_, fun d ha hd => ?_⟩
    · rw [List.foldl_cons, h.takeAvail_eq avail c]
    · refine hav d (by rw [Hub.chState_takeAvail]; exact ha) ?_
      rw [Hub.avail_takeAvail]
      by_cases hc : d = c
      · right; rw [if_pos ⟨hc, ha⟩]
      · rw [if_neg fun hx => hc hx.1]
        exact hd.imp_left fun hm => (List.mem_cons.mp hm).resolve_left hc

theorem exec_meterEvaluation (avail : List Nat) (s : State) : exec (.meterEvaluation avail) s = .next (s.withHub
    ((((List.range 768).foldl (Hub.takeAvail avail) s.hub).forme.igroups.foldl (fun h g => h.evalGroup g)
      ((List.range 768).foldl (Hub.takeAvail avail) s.hub)).updateScales)) := by
  have hf : Hub.takeAvail avail = fun h c => if h.chState c = chABSENT then h else h.setF (rMEM_CH_STS c) fMEM_CH_STS_AVAIL (min 256 (avail.getD c 256)) := rfl
  generalize hr : List.range 768 = r
  rw [hf, ← hr]
  simp only [exec, execMeterEvaluation, onHub, State.withHub]

/-- Settles O36: a key of the maps names a group and a master; AVAIL is taken before any factor is computed. -/
theorem metersGiveCreditAndFactors : Obligations.MetersGiveCreditAndFactors := by
  refine ⟨fun s => ⟨_, exec_meterWindow s, rfl, fun hn _ hs e he m hm => ⟨Hub.masterWeight_eq hn he hm, fun g hg hst => Hub.windowCredits_eq hn hs he hm hg hst⟩⟩,
    fun s avail => ?evaluation⟩
  case evaluation =>
    obtain ⟨hregs, hav⟩ := Hub.foldl_takeAvail avail (List.range 768) s.hub
    exact ⟨_, _, exec_meterEvaluation avail s, rfl, hregs, fun ch ha => hav ch ha (.inl (List.mem_range.mpr ch.isLt))⟩

/-! ## A channel's retraining, retirement and error counts -/

section
variable {h : Hub} {ch : Nat}

/-- A retraining that starts. -/
def Hub.startRetrain (h : Hub) (ch : Nat) : Hub :=
  (h.setF (rMEM_CH_STS ch) fMEM_CH_STS_STATE chRETRAINING).count (rMEM_CH_STS ch) fMEM_CH_STS_RETRAINS 1

theorem Hub.retrainChan_of_active (ha : h.chState ch = chACTIVE) : h.retrainChan ch = h.startRetrain ch := if_pos ha

theorem Hub.chState_startRetrain : (h.startRetrain ch).chState ch = chRETRAINING := (Hub.fld_setF_disj _ _ _ _ _ (by decide) (by decide)).trans (Hub.fld_setF_same _ _ _ _ (by decide))

theorem Hub.retrains_startRetrain : (h.startRetrain ch).fld (rMEM_CH_STS ch) fMEM_CH_STS_RETRAINS =
    min (h.fld (rMEM_CH_STS ch) fMEM_CH_STS_RETRAINS + 1) 65535 := by
  rw [Hub.startRetrain, Hub.fld_count_same _ _ fMEM_CH_STS_RETRAINS _ (by decide)]
  exact congrArg (fun n => min (n + 1) 65535) (Hub.fld_setF_disj _ _ _ _ _ (by decide) (by decide))

theorem Hub.reg_startRetrain_ne {a : Nat} (ha : a ≠ rMEM_CH_STS ch) : (h.startRetrain ch).reg a = h.reg a :=
  (Hub.reg_setF_ne _ _ _ ha).trans (Hub.reg_setF_ne _ _ _ ha)

theorem Hub.ite_flashPut_eq (h : Hub) (c : Prop) [Decidable c] (a n : Nat) (b : List Byte) :
    (if c then h else h.flashPut a n b) = { h with flash := (if c then h else h.flashPut a n b).flash } := by
  split <;> rfl

/-- The service record rewritten changes the flash alone. -/
theorem Hub.syncService_eq (h : Hub) : h.syncService = { h with flash := h.syncService.flash } := by
  unfold Hub.syncService
  generalize h.svcEntries = es
  generalize h.svcBest = b
  by_cases hst : h.fld rKLV_BOOT fKLV_BOOT_STAGE = 6
  · rw [if_neg (not_not_intro hst)]
    cases b with
    | none => exact Hub.ite_flashPut_eq ..
    | some b => exact Hub.ite_flashPut_eq ..
  · rw [if_pos hst]

/-- A channel retired with no slice committed and no request waiting on it. -/
theorem Hub.retireChan_of_idle (hr : h.chState ch ≠ chRETIRED) (ha : h.chState ch ≠ chABSENT) (hs : h.forme.slices = [])
    (hq : (h.chan ch).queues = []) : h.retireChan ch =
      (((h.setF (rMEM_CH_STS ch) fMEM_CH_STS_STATE chRETIRED).setF (rMEM_CH_STS ch) fMEM_CH_STS_AVAIL 0).updChan ch
        (fun x => { x with queues := [] })).syncService := by
  unfold Hub.retireChan
  rw [if_neg (by simp [hr, ha])]
  dsimp only
  rw [hs, hq]
  rfl

end

theorem exec_channelRetrain_of_write {s : State} {o : Origin} {ch : ChanId} (hm : s.hub.mgrActs o) :
    exec (.channelRetrain (some o) ch) s = .next (s.withHub (s.hub.regOk.retrainChan ch)) :=
  onReg_mgrWrite (f := fun h => if vFlag (setFld 0 fMEM_CH_CTL_RETRAIN 1) fMEM_CH_CTL_RETIRE then h.regOk.retireChan ch
    else if vFlag (setFld 0 fMEM_CH_CTL_RETRAIN 1) fMEM_CH_CTL_RETRAIN then h.regOk.retrainChan ch else h.regOk) hm

theorem exec_channelRetire {s : State} {o : Origin} {ch : ChanId} (hm : s.hub.mgrActs o) :
    exec (.channelRetire o ch) s = .next (s.withHub (s.hub.regOk.retireChan ch)) :=
  onReg_mgrWrite (f := fun h => if vFlag (setFld 0 fMEM_CH_CTL_RETIRE 1) fMEM_CH_CTL_RETIRE then h.regOk.retireChan ch
    else if vFlag (setFld 0 fMEM_CH_CTL_RETIRE 1) fMEM_CH_CTL_RETRAIN then h.regOk.retrainChan ch else h.regOk) hm

theorem exec_channelEccClr {s : State} {o : Origin} {ch : ChanId} (hm : s.hub.mgrActs o) : exec (.channelEccClr o ch) s =
    .next (s.withHub ((s.hub.regOk.setF (rMEM_CH_ECC ch) fMEM_CH_ECC_CORR 0).setF (rMEM_CH_ECC ch) fMEM_CH_ECC_UNCORR 0)) :=
  onReg_mgrWrite (f := fun h => if vFlag (setFld 0 fMEM_CH_ECC_CLR 1) fMEM_CH_ECC_CLR then
    (h.regOk.setF (rMEM_CH_ECC ch) fMEM_CH_ECC_CORR 0).setF (rMEM_CH_ECC ch) fMEM_CH_ECC_UNCORR 0 else h.regOk) hm

/-- The end of a retraining. -/
theorem exec_channelRetrainDone {s : State} {ch : ChanId} (ok : Bool) (hs : s.hub.chState ch = chRETRAINING) :
    exec (.channelRetrainDone ch ok) s = .next (s.withHub
      (if ok then (s.hub.setF (rMEM_CH_STS ch) fMEM_CH_STS_STATE chACTIVE).updChan ch (fun x => { x with trainFails := 0 })
       else if 2 ≤ (s.hub.chan ch).trainFails then s.hub.retireChan ch
       else (s.hub.updChan ch (fun x => { x with trainFails := x.trainFails + 1 })).count (rMEM_CH_STS ch) fMEM_CH_STS_RETRAINS 1)) := by
  simp only [exec, execChannelRetrainDone, onHub, hs, ne_eq, not_true, if_false]
  rfl

@[simp] theorem Hub.chan_updChan (h : Hub) (c : Nat) (f : ChanRt → ChanRt) : (h.updChan c f).chan c = f (h.chan c) := mapGetD_mapPutD_same _ _ _ _

/-- Settles O37: each command changes the channel's one register, and a retirement at rest nothing more than its list and the flash. -/
theorem channelsAreManaged : Obligations.ChannelsAreManaged := by
  refine ⟨fun s o ch hm => ⟨fun ha => ?retrain, fun hr ha => ?retire, ?clear⟩, fun s ch => ⟨fun ha => ?own, fun ha => ?idle⟩,
    fun s ch hs => ⟨?trained, fun hf => ?again, fun hf => ?third⟩⟩
  case retrain =>
    obtain ⟨k, hk⟩ : ∃ k, k = s.hub.regOk := ⟨_, rfl⟩
    have hfld (r : Nat) (f : Fld) : k.fld r f = s.hub.fld r f := hk ▸ Hub.fld_regOk _ _ _
    have hreg (r : Nat) : k.reg r = s.hub.reg r := hk ▸ rfl
    have hstate : k.chState ch = chACTIVE := (hfld _ _).trans ha
    have hexec := exec_channelRetrain_of_write (ch := ch) hm
    rw [← hk, Hub.retrainChan_of_active hstate] at hexec
    exact ⟨_, hexec, Hub.chState_startRetrain, Hub.retrains_startRetrain.trans (by rw [hfld]), by rw [hk]; rfl,
      fun a hne => (Hub.reg_startRetrain_ne hne).trans (hreg a)⟩
  case retire =>
    refine ⟨_, exec_channelRetire hm, rfl, fun hs hq => ?_⟩
    have hgone := Hub.retireChan_of_idle (h := s.hub.regOk) hr ha hs hq
    obtain ⟨k, hk⟩ : ∃ k, k = (s.hub.regOk.setF (rMEM_CH_STS ch) fMEM_CH_STS_STATE chRETIRED).setF (rMEM_CH_STS ch) fMEM_CH_STS_AVAIL 0 := ⟨_, rfl⟩
    rw [← hk, Hub.syncService_eq] at hgone
    have hregs : (s.hub.regOk.retireChan ch).regs = k.regs := by rw [hgone]; rfl
    have hhbm : (s.hub.regOk.retireChan ch).hbm = k.hbm := by rw [hgone]; rfl
    refine ⟨(Hub.fld_congr hregs _ _).trans ?_, (Hub.fld_congr hregs _ _).trans ?_, hhbm.trans ?_, fun a hne => (Hub.reg_congr hregs a).trans ?_⟩
    · rw [hk]; exact (Hub.fld_setF_disj _ _ _ _ _ (by decide) (by decide)).trans (Hub.fld_setF_same _ _ _ _ (by decide))
    · rw [hk]; exact Hub.fld_setF_same _ _ _ _ (by decide)
    · rw [hk]; rfl
    · rw [hk]; exact (Hub.reg_setF_ne _ _ _ hne).trans (Hub.reg_setF_ne _ _ _ hne)
  case clear =>
    exact ⟨_, exec_channelEccClr hm, (Hub.fld_setF_disj _ _ _ _ _ (by decide) (by decide)).trans (Hub.fld_setF_same _ _ _ _ (by decide)), Hub.fld_setF_same _ _ _ _ (by decide),
      (Hub.fld_setF_disj _ _ _ _ _ (by decide) (by decide)).trans (Hub.fld_setF_disj _ _ _ _ _ (by decide) (by decide)), rfl, fun a hne => (Hub.reg_setF_ne _ _ _ hne).trans (Hub.reg_setF_ne _ _ _ hne)⟩
  case own =>
    exact ⟨_, exec_of_hub (k := s.hub.retrainChan ch) rfl (Hub.retrainChan_of_active ha), Hub.chState_startRetrain, Hub.retrains_startRetrain,
      fun a hne => Hub.reg_startRetrain_ne hne⟩
  case idle => exact exec_of_hub_same (k := s.hub.retrainChan ch) rfl (if_neg ha)
  case trained =>
    refine ⟨_, (exec_channelRetrainDone true hs).trans (by rw [if_pos rfl]), ?_, ?_, fun a hne => Hub.reg_setF_ne _ _ _ hne⟩
    · exact (Hub.fld_congr (k := s.hub.setF (rMEM_CH_STS ch) fMEM_CH_STS_STATE chACTIVE) rfl _ _).trans (Hub.fld_setF_same _ _ _ _ (by decide))
    · exact congrArg ChanRt.trainFails (Hub.chan_updChan ..)
  case again =>
    refine ⟨_, (exec_channelRetrainDone false hs).trans (by rw [if_neg Bool.false_ne_true, if_neg (Nat.not_le.mpr hf)]), ?_, ?_⟩
    · exact (Hub.fld_setF_disj _ _ _ _ _ (by decide) (by decide)).trans hs
    · exact congrArg ChanRt.trainFails (Hub.chan_updChan s.hub ch (fun x => { x with trainFails := x.trainFails + 1 }))
  case third => exact ⟨_, (exec_channelRetrainDone false hs).trans (by rw [if_neg Bool.false_ne_true, if_pos hf]), rfl⟩

end Sys2Proof.Machine
end

section
/-! PROOFS. Walks (R247 to R249), contexts and format slots (R244 to R246), context resets (R414, R424). -/

namespace Sys2Proof.Machine

/-! ## Walks -/

/-- What a walk does with what its table's entry reads as. -/
def Hub.walkRead (h : Hub) (w : Nat) (x : Walk) : TableSays × Hub → Hub
  | (.blocked, h1) => h.orHalted h1
  | (.failed, h1) => h1.walkFault w x rsWALK_READ 0 0
  | (.entry e, h1) =>
    match walkEntry (h.ctxFmt (ctxid x.slice x.ctx)) x.lv e with
    | .fault r => h1.walkFault w x r e x.lv
    | .down t => { (h1.fillWalk (ctxid x.slice x.ctx) x.va (x.lv - 1) t) with walks := mapPut h1.walks w { x with table := t, lv := x.lv - 1 } }
    | .leaf p sz => h1.walkLeaf w x (mkLeaf (h.ctxFmt (ctxid x.slice x.ctx)) (ctxid x.slice x.ctx) x.va p sz x.lv e)

section
variable {h : Hub} {w : Nat} {x : Walk} (hx : mapGet h.walks w = some x)
include hx

theorem Hub.startWalk_of_not_may (hm : h.walkerMay x.slice = false) : h.startWalk w = h := by
  simp only [Hub.startWalk, hx, hm]
  exact if_pos (by simp)

theorem Hub.startWalk_of_off (hs : x.started = false) (hm : h.walkerMay x.slice = true) (hv : h.ctxValid (ctxid x.slice x.ctx) = false) :
    h.startWalk w = h.walkFault w x rsOFF 0 0 := by
  simp only [Hub.startWalk, hx, hs, hm, hv]
  rfl

theorem Hub.startWalk_of_nonCanon (hs : x.started = false) (hm : h.walkerMay x.slice = true) (hv : h.ctxValid (ctxid x.slice x.ctx) = true)
    (hc : canonOk (h.ctxFmt (ctxid x.slice x.ctx)) x.va = false) : h.startWalk w = h.walkFault w x rsNON_CANON 0 0 := by
  simp only [Hub.startWalk, hx, hs, hm, hv, hc]
  rfl

theorem Hub.startWalk_of_ok (hs : x.started = false) (hm : h.walkerMay x.slice = true) (hv : h.ctxValid (ctxid x.slice x.ctx) = true)
    (hc : canonOk (h.ctxFmt (ctxid x.slice x.ctx)) x.va = true) : h.startWalk w =
      (let y : Walk := { x with started := true, table := (h.walkStart (ctxid x.slice x.ctx) x.va).1, lv := (h.walkStart (ctxid x.slice x.ctx) x.va).2 }
       { h with walks := mapPut h.walks w y, walkRound := h.roundAfter x.slice }) := by
  unfold Hub.startWalk
  rw [hx]
  dsimp only
  rw [if_neg (by simp [hs, hm]), if_neg (by simp [hv]), if_neg (by simp [hc])]

theorem Hub.walkReturn_of_not_started (hs : x.started = false) (host : Option Word) (ecc : Ecc) : h.walkReturn w host ecc = h := by
  simp only [Hub.walkReturn, hx, hs]
  rfl

theorem Hub.walkReturn_of_off (hs : x.started = true) (hv : h.ctxValid (ctxid x.slice x.ctx) = false) (host : Option Word) (ecc : Ecc) :
    h.walkReturn w host ecc = h.walkFault w x rsOFF 0 0 := by
  simp only [Hub.walkReturn, hx, hs, hv]
  rfl

/-- An entry that comes back, or does not, for a walk under way. -/
theorem Hub.walkReturn_of_read (hs : x.started = true) (hv : h.ctxValid (ctxid x.slice x.ctx) = true) {host : Option Word} {ecc : Ecc} {h1 : Hub}
    {v : TableSays} (hr : h.tableRead (ctxid x.slice x.ctx) (entryAddr (h.ctxFmt (ctxid x.slice x.ctx)) x.table x.lv x.va)
      (if x.who = 3 then 1 else x.who) host ecc = (v, h1)) : h.walkReturn w host ecc =
      h.walkRead w x (v, h1) := by
  unfold Hub.walkReturn
  rw [hx]
  dsimp only
  rw [if_neg (by simp [hs]), if_neg (by simp [hv]), hr]
  cases v <;> rfl

end

/-- Settles O40: a walk starts, faults or descends by the leading checks of R247 to R249. -/
theorem walksDescendToTheirLeaf : Obligations.WalksDescendToTheirLeaf := by
  intro s w x hx hhalt hstop cid
  have hon : (!s.hub.halted && !s.hub.stoppedInst uHTU 0) = true := by rw [hhalt, hstop]; rfl
  have hwalk {k : Hub} (hk : s.hub.startWalk w = k) : exec (.translationWalk w) s = .next (s.withHub k) :=
    exec_of_hub (k := guardHub (!s.hub.halted && !s.hub.stoppedInst uHTU 0) (fun h => h.startWalk w) s.hub) rfl ((if_pos hon).trans hk)
  have hback {host : Option Word} {ecc : Ecc} {k : Hub} (hk : s.hub.walkReturn w host ecc = k) :
      exec (.walkTableReadReturn w host ecc) s = .next (s.withHub k) :=
    exec_of_hub (k := guardHub (!s.hub.halted && !s.hub.stoppedInst uHTU 0) (fun h => h.walkReturn w host ecc) s.hub) rfl ((if_pos hon).trans hk)
  refine ⟨fun hs hm => ⟨fun hv hc => hwalk (Hub.startWalk_of_ok hx hs hm hv hc), fun hv => hwalk (Hub.startWalk_of_off hx hs hm hv),
      fun hv hc => hwalk (Hub.startWalk_of_nonCanon hx hs hm hv hc)⟩,
    fun hm => hwalk (Hub.startWalk_of_not_may hx hm), fun hs host ecc => hback (Hub.walkReturn_of_not_started hx hs host ecc),
    fun hs hv host ecc => hback (Hub.walkReturn_of_off hx hs hv host ecc), fun hs hv host ecc h v hr => ?_⟩
  have hread := Hub.walkReturn_of_read hx hs hv hr
  refine ⟨fun he => ?_, fun he => ?_, fun e r he hw => ?_, fun e d he hw => ?_, fun e p sz he hw => ?_⟩
  · exact hback (hread.trans (by rw [he, Hub.walkRead]))
  · exact hback (hread.trans (by rw [he, Hub.walkRead]))
  · exact hback (hread.trans (by rw [he, Hub.walkRead, hw]))
  · exact hback (hread.trans (by rw [he, Hub.walkRead, hw]))
  · exact hback (hread.trans (by rw [he, Hub.walkRead, hw]))

/-! ## Contexts -/

theorem getFld_ne_zero_of_vFlag {v : Word} {f : Fld} (hv : vFlag v f = true) : getFld v f ≠ 0 := by
  have h1 : getFld v f = 1 := of_decide_eq_true hv
  omega

section
variable {s : State} {o : Origin} {sl : SliceId} {n : Fin 16} {v : Word} (hm : s.hub.mgrActs o)
include hm

theorem exec_contextCfgWrite : exec (.contextCfgWrite o sl n v) s = .next (s.withHub
    (if s.hub.flag (rHTU_CTX_CFGn sl n) fHTU_CTX_CFGn_VALID then
      if vFlag v fHTU_CTX_CFGn_VALID || s.hub.changes (rHTU_CTX_CFGn sl n) [fHTU_CTX_CFGn_FMT, fHTU_CTX_CFGn_LOC, fHTU_CTX_CFGn_PASID] v then s.hub.regErr
      else (s.hub.regOk.setF (rHTU_CTX_CFGn sl n) fHTU_CTX_CFGn_VALID 0).queueInval
        { slice := sl, ctx := n, range := none, irq := s.hub.flag (rHTU_INV_CTL sl) fHTU_INV_CTL_IRQ,
          vector := s.hub.fld (rHTU_INV_CTL sl) fHTU_INV_CTL_VECTOR }
    else if vFlag v fHTU_CTX_CFGn_VALID && !s.hub.ctxSetOk sl n v then s.hub.regErr
    else s.hub.regOk.writeRW (rHTU_CTX_CFGn sl n) [fHTU_CTX_CFGn_VALID, fHTU_CTX_CFGn_FMT, fHTU_CTX_CFGn_LOC, fHTU_CTX_CFGn_PASID] [] v)) := by
  simp only [exec, execContextCfgWrite, onReg_of hm.notBusy, Hub.writeCtxCfg, Hub.mgrWrite_of _ _ _ hm.isMgr]

theorem exec_formatSlotWrite {f : Fin 8} {r : Fin 5} : exec (.formatSlotWrite o f r v) s = .next (s.withHub
    (if s.hub.fmtInUse f then s.hub.regErr
     else if f.val < 2 then s.hub.regOk
     else if decide (r.val = 0) && vFlag v fHTU_FMT_CTL_VALID && !fmtCtlOk v (s.hub.reg (rHTU_FMT_POS f)) then s.hub.regErr
     else s.hub.regOk.writeRW (fmtReg f r) (fmtFields r) [] v)) := by
  simp only [exec, execFormatSlotWrite, onReg_of hm.notBusy, Hub.writeFmt, Hub.mgrWrite_of _ _ _ hm.isMgr]

/-- A context reset asked for. -/
theorem exec_contextReset {w : Word} (hw : w = setFld v fSLM_CTX_RESET_GO 1) : exec (.contextReset o sl v) s = .next (s.withHub
    (if !s.hub.active sl || s.hub.flag (rSLM_CTX_RESET sl) fSLM_CTX_RESET_BUSY || !s.hub.ctxOn sl (vFld w fSLM_CTX_RESET_CTX) then s.hub.regErr
     else (((s.hub.regOk.writeRW (rSLM_CTX_RESET sl) [] [fSLM_CTX_RESET_DONE] w).setF (rSLM_CTX_RESET sl) fSLM_CTX_RESET_BUSY 1).updRt sl
        (fun x => { x with ctxReset := some (vFld w fSLM_CTX_RESET_CTX) })).resetContext sl (vFld w fSLM_CTX_RESET_CTX))) := by
  have hgo : vFlag w fSLM_CTX_RESET_GO = true := by simp [hw, vFlag, getFld_setFld_same, fSLM_CTX_RESET_GO]
  simp only [exec, execContextReset, onReg_of hm.notBusy, Hub.writeCtxReset, Hub.mgrWrite_of _ _ _ hm.isMgr, ← hw, hgo]
  rfl

end

/-- A slice's running mover items of context `c` are all of the context's present tag. -/
theorem Hub.no_cut_mover {h : Hub} {sl : SliceId} {c : Nat} (hall : ∀ e ∈ h.items, e.2.slice = some sl.val → e.2.ctx = c → e.2.isMover = true →
    e.2.started = true → e.2.gen = h.gen (ctxid sl c)) : h.items.any (fun e => decide (e.2.slice = some sl.val) && decide (e.2.ctx = c) && e.2.isMover &&
      e.2.started && decide (e.2.gen ≠ h.gen (ctxid sl c))) = false := by
  refine Bool.eq_false_iff.mpr fun hany => ?_
  obtain ⟨e, he, hcut⟩ := List.any_eq_true.mp hany
  simp only [Bool.and_eq_true, decide_eq_true_eq] at hcut
  obtain ⟨⟨⟨⟨hs, hc⟩, hmv⟩, hst⟩, hne⟩ := hcut
  exact hne (hall e he hs hc hmv hst)

theorem exec_contextResetDone {s : State} {sl : SliceId} {c : Nat} (hr : (s.hub.rt sl).ctxReset = some c) :
    exec (.contextResetDone sl) s = .next (s.withHub
      (if s.hub.items.any (fun e => decide (e.2.slice = some sl.val) && decide (e.2.ctx = c) && e.2.isMover && e.2.started &&
          decide (e.2.gen ≠ s.hub.gen (ctxid sl c))) || s.hub.ctxCutLeft sl c then s.hub
       else ((s.hub.updRt sl (fun x => { x with ctxReset := none })).setF (rSLM_CTX_RESET sl) fSLM_CTX_RESET_BUSY 0).setF (rSLM_CTX_RESET sl)
        fSLM_CTX_RESET_DONE 1)) := by
  simp only [exec, execContextResetDone, onHub, hr]
  rfl

/-- Settles O41: a write is taken or refused by the leading checks of its register; a context reset ends once nothing of it is left. -/
theorem contextsAndFormatsAreWrittenAndReset : Obligations.ContextsAndFormatsAreWrittenAndReset := by
  refine ⟨⟨fun s o sl n v hm => ⟨fun hoff hon hok => ?set, fun hoff hon hok => ?refused, fun hval hon => ?valid, fun hval hclr hch => ?clear⟩,
      fun s o f r v hm => ⟨fun hu => ?inUse, fun hu hf => ?fixed, fun hu hf hr hv hok => ?badForm, fun hu hf hr hok => ?form⟩⟩,
    fun s o sl v hm => ⟨fun ha hb hc => ?begin, fun hno => ?notBegun⟩, fun h cid => ⟨mapGetD_mapPutD_same .., fun d hd => mapGetD_mapPutD_ne _ _ _ _ hd⟩,
    fun s sl c hr => ⟨fun hq hall => ?ends, fun e he hs hc hmv hst hg => ?cutLeft, fun hq => ?queueLeft⟩⟩
  case set =>
    refine ⟨_, (exec_contextCfgWrite hm).trans (by rw [hoff, if_neg Bool.false_ne_true, hok, if_neg (by simp)]), ?_, ?_, ?_, rfl, fun a ha => Hub.reg_setReg_ne _ _ ha⟩
    · exact (congrArg (fun x => decide (getFld x fHTU_CTX_CFGn_VALID ≠ 0)) (Hub.reg_regOk_writeRW_same ..)).trans
        ((congrArg (fun x => decide (x ≠ 0)) (getFld_mixWrite_of_mem _ _ (g := fHTU_CTX_CFGn_VALID) (by simp) (by decide))).trans (decide_eq_true (getFld_ne_zero_of_vFlag hon)))
    · exact (congrArg (getFld · fHTU_CTX_CFGn_FMT) (Hub.reg_regOk_writeRW_same ..)).trans (getFld_mixWrite_of_mem _ _ (g := fHTU_CTX_CFGn_FMT) (by simp) (by decide))
    · exact (congrArg (getFld · fHTU_CTX_CFGn_PASID) (Hub.reg_regOk_writeRW_same ..)).trans (getFld_mixWrite_of_mem _ _ (g := fHTU_CTX_CFGn_PASID) (by simp) (by decide))
  case refused => exact (exec_contextCfgWrite hm).trans (by rw [hoff, if_neg Bool.false_ne_true, hon, hok, if_pos (by simp)])
  case valid => exact (exec_contextCfgWrite hm).trans (by rw [hval, if_pos rfl, hon, if_pos (by simp)])
  case clear => exact (exec_contextCfgWrite hm).trans (by rw [hval, if_pos rfl, hclr, hch, if_neg (by simp)])
  case inUse => exact (exec_formatSlotWrite hm).trans (by rw [if_pos hu])
  case fixed => exact (exec_formatSlotWrite hm).trans (by rw [if_neg (by simp [hu]), if_pos hf])
  case badForm =>
    exact (exec_formatSlotWrite hm).trans (by rw [if_neg (by simp [hu]), if_neg (Nat.not_lt.mpr hf), if_pos (by simp [hr, hv, hok])])
  case form =>
    obtain rfl : r = 0 := Fin.ext hr
    refine ⟨_, (exec_formatSlotWrite hm).trans (by rw [if_neg (by simp [hu]), if_neg (Nat.not_lt.mpr hf), if_neg (by simp [hok])]), ?_, ?_, rfl,
      fun a ha => Hub.reg_setReg_ne _ _ ha⟩
    · exact (congrArg (getFld · fHTU_FMT_CTL_LEVELS) (Hub.reg_regOk_writeRW_same ..)).trans
        (getFld_mixWrite_of_mem _ _ (rw := fmtFields 0) (g := fHTU_FMT_CTL_LEVELS) (by simp [fmtFields]) (by decide))
    · exact (congrArg (getFld · fHTU_FMT_CTL_VALID) (Hub.reg_regOk_writeRW_same ..)).trans
        (getFld_mixWrite_of_mem _ _ (rw := fmtFields 0) (g := fHTU_FMT_CTL_VALID) (by simp [fmtFields]) (by decide))
  case begin => exact (exec_contextReset hm rfl).trans (by rw [ha, hb, hc, if_neg (by simp)])
  case notBegun =>
    refine exec_of_hub (exec_contextReset hm rfl) (if_pos ?_)
    rcases hno with ha | hb | hc
    · simp [ha]
    · simp [hb]
    · simp [hc]
  case ends =>
    refine ⟨_, (exec_contextResetDone hr).trans (by rw [Hub.no_cut_mover hall, hq, if_neg (by simp)]), ?_, ?_, ?_, rfl, fun a ha => ?_⟩
    · exact congrArg SliceRt.ctxReset (mapGetD_mapPutD_same ({} : SliceRt) s.hub.slices sl.val _)
    · exact (congrArg (fun x => decide (x ≠ 0)) (Hub.fld_setF_disj _ _ _ _ _ (by decide) (by decide))).trans (Hub.flag_setF_same _ _ _ _ (by decide))
    · exact Hub.flag_setF_same _ _ _ _ (by decide)
    · exact (Hub.reg_setF_ne _ _ _ ha).trans (Hub.reg_setF_ne _ _ _ ha)
  case cutLeft =>
    refine exec_of_hub_same (exec_contextResetDone hr) (if_pos ?_)
    exact Bool.or_eq_true_iff.mpr (.inl (List.any_eq_true.mpr ⟨e, he, by simp [hs, hc, hmv, hst, hg]⟩))
  case queueLeft => exact exec_of_hub_same (exec_contextResetDone hr) (if_pos (by simp [hq]))

end Sys2Proof.Machine
end

section
/-! PROOFS. Invalidations (R269, R270, R273, R350). -/

namespace Sys2Proof.Machine

theorem exec_invalidate {s : State} {o : Origin} {sl : SliceId} {v : Word} (hm : s.hub.sliceActs o sl) (hgo : vFlag v fHTU_INV_CTL_GO = true) :
    exec (.invalidate o sl v) s = .next (s.withHub
      (if s.hub.flag (rHTU_INV_STS sl) fHTU_INV_STS_BUSY || !s.hub.ctxOn sl (vFld v fHTU_INV_CTL_CTX) ||
          (vFlag v fHTU_INV_CTL_RANGE && decide (vFld v fHTU_INV_CTL_COUNT = 0)) then s.hub.regErr
       else (s.hub.regOk.writeRW (rHTU_INV_CTL sl)
          [fHTU_INV_CTL_CTX, fHTU_INV_CTL_RANGE, fHTU_INV_CTL_IRQ, fHTU_INV_CTL_VECTOR, fHTU_INV_CTL_COUNT] [] v).queueInval
        { slice := sl, ctx := vFld v fHTU_INV_CTL_CTX,
          range := if vFlag v fHTU_INV_CTL_RANGE then some (s.hub.fld (rHTU_INV_VA sl) fHTU_INV_VA_VA * GRAN, vFld v fHTU_INV_CTL_COUNT) else none,
          irq := vFlag v fHTU_INV_CTL_IRQ, vector := vFld v fHTU_INV_CTL_VECTOR })) := by
  simp only [exec, execInvalidate, onReg_of hm.2, Hub.writeInvCtl, Hub.sliceWrite_of _ _ _ _ hm.1, hgo]
  rfl

theorem Hub.flag_of_fld_eq_zero {h : Hub} {a : Nat} {f : Fld} (hf : h.fld a f = 0) : h.flag a f = false := by simp [Hub.flag, hf]

/-! ## What an invalidation drops -/

theorem Hub.cache_updItem (h : Hub) (i : Nat) (f : Item → Item) : (h.updItem i f).cache = h.cache := by
  unfold Hub.updItem
  split <;> rfl

theorem Hub.cache_sendQuiesce (h : Hub) (s hub peer why : Nat) : (h.sendQuiesce s hub peer why).cache = h.cache := by
  unfold Hub.sendQuiesce
  dsimp only
  split <;> rfl

theorem Hub.cache_updItems (l : List Nat) (f : Item → Item) (h : Hub) : (l.foldl (fun (h : Hub) i => h.updItem i f) h).cache = h.cache :=
  Hub.foldl_same Hub.cache (fun (h : Hub) (i : Nat) => h.cache_updItem i f) l h

theorem Hub.cache_sendQuiesces (l : List (Nat × Nat)) (s why : Nat) (h : Hub) :
    (l.foldl (fun (h : Hub) (p : Nat × Nat) => h.sendQuiesce s p.1 p.2 why) h).cache = h.cache :=
  Hub.foldl_same Hub.cache (fun (h : Hub) (p : Nat × Nat) => h.cache_sendQuiesce s p.1 p.2 why) l h

/-- The rings of a slice that use the context of an invalidation. -/
theorem Hub.no_ring_of_ctx {h : Hub} {v : Inval} (hq : ∀ q ∈ (h.slD v.slice).queueIds, h.flag (rFAB_Q_RING q) fFAB_Q_RING_EN = false ∨ h.qCtx q ≠ v.ctx) :
    ((h.slD v.slice).queueIds).filter (fun q => h.flag (rFAB_Q_RING q) fFAB_Q_RING_EN && decide (h.qCtx q = v.ctx)) = [] := by
  refine List.filter_eq_nil_iff.mpr fun q hm => ?_
  rcases hq q hm with he | hc
  · simp [he]
  · simp [hc]

/-- With no ring of the context, the leaves its range covers are dropped, and no other. -/
theorem Hub.cache_startInval {h : Hub} {v : Inval} (hq : ∀ q ∈ (h.slD v.slice).queueIds, h.flag (rFAB_Q_RING q) fFAB_Q_RING_EN = false ∨ h.qCtx q ≠ v.ctx) :
    (h.startInval v).cache = h.cache.filter (fun l => !(decide (l.ctxid = ctxid v.slice v.ctx) && invCovers v.range l)) := by
  unfold Hub.startInval
  extract_lets cid ws h1 mine mark h2 run qs h3 w
  have hqs : qs = [] := Hub.no_ring_of_ctx hq
  have h3eq : h3 = h2 := congrArg (fun l : List Nat => l.foldl Hub.retranslateQueue h2) hqs
  clear_value h3
  rw [h3eq]
  exact (Hub.cache_sendQuiesces ..).trans (Hub.cache_updItems mine mark h1)

/-! ## Its end -/

theorem Hub.failLate_of_none {h : Hub} {sl : Nat} {v : Inval} (hl : h.invalLate v = []) : h.failLate sl v = h := if_pos hl

section
variable {h : Hub} {sl : Nat} {v : Inval} (hl : h.invals = [v]) (hs : v.slice = sl)
include hl hs

theorem Hub.find?_inval : h.invals.find? (fun x => x.slice == sl) = some v := by simp [hl, hs]

theorem Hub.endInval_of_not_started (hst : v.started = false) : h.endInval sl = h := by
  simp only [Hub.endInval, Hub.find?_inval hl hs, hst]
  rfl

variable (hst : v.started = true) (hlate : h.invalLate v = [])
include hst hlate

theorem Hub.endInval_of_waits (he : h.invalEnds v = false) : h.endInval sl = h := by
  simp only [Hub.endInval, Hub.find?_inval hl hs, hst, Hub.failLate_of_none hlate, he]
  rfl

/-- The last invalidation of a slice, and the only one of the hub, ends. -/
theorem Hub.endInval_of_last (he : h.invalEnds v = true) (hi : v.irq = false) : h.endInval sl =
    ((({ h with invals := [] } : Hub).count (rHTU_INV_STS sl) fHTU_INV_STS_FAILED v.failed).setF (rHTU_INV_STS sl) fHTU_INV_STS_BUSY 0).setF
      (rHTU_INV_STS sl) fHTU_INV_STS_DONE 1 := by
  have hnil : h.invals.erase v = [] := by simp [hl]
  have hnone : ((({ h with invals := [] } : Hub).count (rHTU_INV_STS sl) fHTU_INV_STS_FAILED v.failed).invals.any (fun x => x.slice == sl)) = false := rfl
  simp only [Hub.endInval, Hub.find?_inval hl hs, hst, Hub.failLate_of_none hlate, he, hi, hnil, hnone]
  rfl

end

/-! ## A host's own invalidation -/

theorem Hub.mem_walkCache_atsInval (h : Hub) (port : Fin 2) (idx pasid : Nat) (e : WalkEnt) : e ∈ (h.atsInval (.vf port idx) pasid).walkCache ↔
    e ∈ h.walkCache ∧ ∀ sl, h.vfSlice port idx = some sl → e.ctxid / 16 = sl → h.ctxLoc e.ctxid = true →
      h.fld (h.ctxCfg e.ctxid) fHTU_CTX_CFGn_PASID ≠ pasid := by
  cases hv : h.vfSlice port idx with
  | none =>
    have hsame : (h.atsInval (.vf port idx) pasid).walkCache = h.walkCache := by simp only [Hub.atsInval, hv]; rfl
    simp [hsame]
  | some sl =>
    have hdrop : (h.atsInval (.vf port idx) pasid).walkCache = h.walkCache.filter (fun e => !(decide (e.ctxid / 16 = sl) && h.ctxLoc e.ctxid &&
        decide (h.fld (h.ctxCfg e.ctxid) fHTU_CTX_CFGn_PASID = pasid))) := by simp only [Hub.atsInval, hv]; rfl
    rw [hdrop, List.mem_filter]
    refine and_congr_right fun _ => ⟨fun hk sl' hsl he hloc hp => ?_, fun hall => ?_⟩
    · obtain rfl : sl = sl' := Option.some.inj hsl
      simp [he, hloc, hp] at hk
    · simpa [imp_iff_not_or, or_assoc] using hall sl rfl

theorem Hub.atsInval_eq (h : Hub) (port : Fin 2) (idx pasid : Nat) : h.atsInval (.vf port idx) pasid =
    { h with walkCache := (h.atsInval (.vf port idx) pasid).walkCache, out := .atsDone (.vf port idx) :: h.out } := by
  unfold Hub.atsInval
  dsimp only
  split <;> rfl

/-- Settles O42: the write is taken or refused by R269; what starts drops the leaves of its range; its end waits for what it noted. -/
theorem invalidationsDropAndDrain : Obligations.InvalidationsDropAndDrain := by
  refine ⟨fun s o sl v hm hgo => ⟨fun hno => ?refused, fun hb hc hr => ?taken⟩, fun h v l hq => ?drops,
    fun s sl v hl hs => ⟨fun hst hlate he hi => ?ends, fun hw => ?waits⟩,
    fun s port idx pasid => ⟨s.withHub (s.hub.atsInval (.vf port idx) pasid), rfl, ?host, Hub.mem_walkCache_atsInval s.hub port idx pasid⟩⟩
  case refused =>
    refine exec_of_hub (exec_invalidate hm hgo) (if_pos ?_)
    rcases hno with hb | hc | ⟨hr, hn⟩
    · simp [hb]
    · simp [hc]
    · simp [hr, hn]
  case taken =>
    refine exec_of_hub (exec_invalidate hm hgo) (if_neg ?_)
    simpa [hb, hc] using hr
  case drops => simp [Hub.cache_startInval hq, imp_iff_not_or]
  case ends =>
    obtain ⟨k, hk⟩ : ∃ k : Hub, k = ({ s.hub with invals := [] } : Hub).count (rHTU_INV_STS sl) fHTU_INV_STS_FAILED v.failed := ⟨_, rfl⟩
    have hend := Hub.endInval_of_last hl hs hst hlate he hi
    rw [← hk] at hend
    refine ⟨_, exec_of_hub (k := s.hub.endInval sl) rfl hend, ?_, ?_, Hub.flag_setF_same _ _ fHTU_INV_STS_DONE _ (by decide), ?_, fun a ha => ?_⟩
    · rw [hk]; rfl
    · exact Hub.flag_of_fld_eq_zero ((Hub.fld_setF_disj _ _ fHTU_INV_STS_DONE fHTU_INV_STS_BUSY _ (by decide) (by decide)).trans (Hub.fld_setF_same _ _ fHTU_INV_STS_BUSY _ (by decide)))
    · rw [hk]; rfl
    · rw [hk]; exact (Hub.reg_setF_ne _ _ _ ha).trans ((Hub.reg_setF_ne _ _ _ ha).trans (Hub.reg_setF_ne _ _ _ ha))
  case waits =>
    refine exec_of_hub_same (k := s.hub.endInval sl) rfl ?_
    cases hst : v.started with
    | false => exact Hub.endInval_of_not_started hl hs hst
    | true =>
      rcases hw with hn | ⟨hlate, he⟩
      · exact absurd hst (by simp [hn])
      · exact Hub.endInval_of_waits hl hs hst hlate he
  case host => exact congrArg s.withHub (Hub.atsInval_eq ..)

end Sys2Proof.Machine
end

section
/-! PROOFS. Sealed accesses (R312, R313, R316 to R321). -/

namespace Sys2Proof.Machine

/-! ## What a piece comes to -/

/-- How a piece whose instance works and whose line can be verified is served. -/
theorem Hub.sealServe_of_found {h : Hub} {i : Nat} {x : SealPiece} {out : SealOutcome} {ecc : Ecc}
    (hu : (h.lineLost x.r.region (lineIdx x.r x.a) || h.stoppedInst uUMB (h.ctrlOf x.a)) = false) :
    let k := lineIdx x.r x.a
    let new := h.onNewSide x.r.region k
    let e := h.eccOf (h.chanAt x.a).1 (h.chanAt x.a).2 ecc
    let reads := readsLine x.q.kind x.n && decide ((h.side x.r.region new).ctr 0 k ≠ 0)
    let o := (h.ncReport x.r new k reads out).1
    let h1 := (h.ncReport x.r new k reads out).2
    let found := h1.sealSays x.r new k x.a reads o e
    (found = .pass → h.sealServe i x out ecc = (h1.sealTaken x.r new k x.a reads o).sealApply i x new reads e) ∧
    (∀ b kind, found = .halt b kind → h.sealServe i x out ecc = h1.halt b kind x.r.region) ∧
    (found = .dataLost → h.sealServe i x out ecc =
      (h1.countUE (h.chanAt x.a).1 (h.chanAt x.a).2).failAtUmb i x.q x.a fsMEMORY kMEM_UE uMEM) ∧
    ∀ lv j, found = .lost lv j → h.sealServe i x out ecc = (h1.loseNode x.r new o lv j).failAtUmb i x.q x.a fsLOST kUMB_LOST uUMB := by
  intro k new e reads o h1 found
  have hserve : h.sealServe i x out ecc = match found with
      | .pass => (h1.sealTaken x.r new k x.a reads o).sealApply i x new reads e
      | .halt b kind => h1.halt b kind x.r.region
      | .dataLost => (h1.countUE (h.chanAt x.a).1 (h.chanAt x.a).2).failAtUmb i x.q x.a fsMEMORY kMEM_UE uMEM
      | .lost lv j => (h1.loseNode x.r new o lv j).failAtUmb i x.q x.a fsLOST kUMB_LOST uUMB := if_neg (by simp [hu])
  refine ⟨fun hf => ?_, fun b kind hf => ?_, fun hf => ?_, fun lv j hf => ?_⟩
  all_goals rw [hserve, hf]

theorem exec_sealedRead {s : State} {i g : Nat} {x : SealPiece} {out : SealOutcome} {ecc : Ecc} (hx : s.hub.sealPiece i g = some x)
    (hk : isWrite x.q.kind = false) : exec (.sealedRead i g out ecc) s = .next (s.withHub (s.hub.sealServe i x out ecc)) := by
  simp only [exec, execSealedRead, onHub, hx, hk]
  rfl

theorem exec_sealedWrite {s : State} {i g : Nat} {x : SealPiece} {out : SealOutcome} {ecc : Ecc} (hx : s.hub.sealPiece i g = some x)
    (hk : isWrite x.q.kind = true) : exec (.sealedWrite i g out ecc) s = .next (s.withHub (s.hub.sealServe i x out ecc)) := by
  simp only [exec, execSealedWrite, onHub, hx, hk]
  rfl

/-! ## What a path and a line say -/

section
variable {h : Hub} {r : SealedRec} {new : Bool} {i a : Nat} {reads : Bool}

/-- Where every fetched node verifies, the path does. -/
theorem Hub.pathSays_of_good (hg : ∀ lv ∈ h.pathFetch r new i, h.nodeGood r new lv (i / 8 ^ (lv + 1)) .ok = true) :
    h.pathSays r new i reads .ok = .pass := by
  have hnone : (h.pathFetch r new i).reverse.findSome? (fun lv => if h.nodeGood r new lv (i / 8 ^ (lv + 1)) .ok then none
      else some (SealSays.halt (h.nodeAddr r new lv (i / 8 ^ (lv + 1))) 1)) = none :=
    List.findSome?_eq_none_iff.mpr fun lv hlv => if_pos (hg lv (List.mem_reverse.mp hlv))
  exact congrArg (·.getD SealSays.pass) hnone

/-- The nodes fetched rise from the leaf. -/
theorem Hub.pathFetch_sorted (h : Hub) (r : SealedRec) (new : Bool) (i : Nat) : (h.pathFetch r new i).Pairwise (· < ·) :=
  (List.Pairwise.sublist (List.takeWhile_sublist _) List.pairwise_lt_range).filter _

/-- The first to fail, from the root down, is what a search of rising levels finds. -/
theorem findSome?_reverse_of_top {α : Type} {f : Nat → Option α} {v : Nat} {b : α} (hf : f v = some b) :
    ∀ l : List Nat, l.Pairwise (· < ·) → v ∈ l → (∀ n ∈ l, v < n → f n = none) → l.reverse.findSome? f = some b := by
  intro l
  induction l with
  | nil => intro _ hv _; exact absurd hv List.not_mem_nil
  | cons n l ih =>
    intro hs hv hn
    obtain ⟨hlt, hl⟩ := List.pairwise_cons.mp hs
    rw [List.reverse_cons, List.findSome?_append]
    rcases List.mem_cons.mp hv with rfl | hv
    · have hrest : l.reverse.findSome? f = none := List.findSome?_eq_none_iff.mpr fun n hm =>
        hn n (List.mem_cons_of_mem _ (List.mem_reverse.mp hm)) (hlt n (List.mem_reverse.mp hm))
      simp [hrest, hf]
    · rw [ih hl hv fun n hm => hn n (List.mem_cons_of_mem _ hm)]
      rfl

/-- The topmost node that does not verify halts the hub. -/
theorem Hub.pathSays_of_nodeMac {lv : Nat} {bytes : List Byte} (hlv : lv ∈ h.pathFetch r new i)
    (hup : ∀ l ∈ h.pathFetch r new i, lv < l → h.nodeGood r new l (i / 8 ^ (l + 1)) (.nodeMac lv (i / 8 ^ (lv + 1)) bytes false) = true)
    (hbad : h.nodeGood r new lv (i / 8 ^ (lv + 1)) (.nodeMac lv (i / 8 ^ (lv + 1)) bytes false) = false) :
    h.pathSays r new i reads (.nodeMac lv (i / 8 ^ (lv + 1)) bytes false) = .halt (h.nodeAddr r new lv (i / 8 ^ (lv + 1))) 1 := by
  have hfind := findSome?_reverse_of_top (f := fun l => if h.nodeGood r new l (i / 8 ^ (l + 1)) (.nodeMac lv (i / 8 ^ (lv + 1)) bytes false) then none
      else some (SealSays.halt (h.nodeAddr r new l (i / 8 ^ (l + 1))) 1)) (if_neg (by simp [hbad])) _ (h.pathFetch_sorted r new i) hlv
      (fun l hl hlt => if_pos (hup l hl hlt))
  exact congrArg (·.getD SealSays.pass) hfind

end

/-! ## The halt -/

/-- The halt's register, before the fault is raised. -/
def Hub.haltRegs (h : Hub) (a kind region : Nat) : Hub :=
  ((((h.setF rUMB_STS fUMB_STS_HALT 1).setReg rUMB_HALT_ADDR 0).setF rUMB_HALT_ADDR fUMB_HALT_ADDR_ADDR a).setF
    rUMB_HALT_ADDR fUMB_HALT_ADDR_KIND kind |>.setF rUMB_HALT_ADDR fUMB_HALT_ADDR_REGION region |>.setF
    rUMB_HALT_ADDR fUMB_HALT_ADDR_VALID 1)

section
variable (h : Hub) (a kind region : Nat)

theorem Hub.regs_halt : (h.halt a kind region).regs = (h.haltRegs a kind region).regs := rfl

theorem Hub.halted_halt : (h.halt a kind region).halted = true := by
  refine Hub.flag_of_fld_eq_one ((Hub.fld_congr (Hub.regs_halt ..) _ _).trans ?_)
  have hne : rUMB_STS ≠ rUMB_HALT_ADDR := by decide
  rw [Hub.haltRegs, Hub.fld_setF_ne _ _ _ _ hne, Hub.fld_setF_ne _ _ _ _ hne, Hub.fld_setF_ne _ _ _ _ hne, Hub.fld_setF_ne _ _ _ _ hne,
    Hub.fld_setReg_ne _ _ _ hne, Hub.fld_setF_same _ _ _ _ (by decide)]
  rfl

theorem Hub.haltAddr_halt (ha : a < 2 ^ 42) : (h.halt a kind region).fld rUMB_HALT_ADDR fUMB_HALT_ADDR_ADDR = a := by
  rw [Hub.fld_congr (Hub.regs_halt ..), Hub.haltRegs, Hub.fld_setF_disj _ _ _ _ _ (by decide) (by decide),
    Hub.fld_setF_disj _ _ _ _ _ (by decide) (by decide), Hub.fld_setF_disj _ _ _ _ _ (by decide) (by decide), Hub.fld_setF_same _ _ _ _ (by decide)]
  exact Nat.mod_eq_of_lt ha

theorem Hub.haltKind_halt (hk : kind < 4) : (h.halt a kind region).fld rUMB_HALT_ADDR fUMB_HALT_ADDR_KIND = kind := by
  rw [Hub.fld_congr (Hub.regs_halt ..), Hub.haltRegs, Hub.fld_setF_disj _ _ _ _ _ (by decide) (by decide),
    Hub.fld_setF_disj _ _ _ _ _ (by decide) (by decide), Hub.fld_setF_same _ _ _ _ (by decide)]
  exact Nat.mod_eq_of_lt hk

theorem Hub.haltRegion_halt (hr : region < 64) : (h.halt a kind region).fld rUMB_HALT_ADDR fUMB_HALT_ADDR_REGION = region := by
  rw [Hub.fld_congr (Hub.regs_halt ..), Hub.haltRegs, Hub.fld_setF_disj _ _ _ _ _ (by decide) (by decide), Hub.fld_setF_same _ _ _ _ (by decide)]
  exact Nat.mod_eq_of_lt hr

end

/-! ## A node written back -/

theorem Hub.side_setSide (h : Hub) (r : Nat) (new : Bool) (x : SealSide) : (h.setSide r new x).side r new = x := by
  have hseal : (h.setSide r new x).seal r = (if new then { h.seal r with nxt := x } else { h.seal r with cur := x }) := mapGetD_mapPutD_same ..
  cases new <;> simp [Hub.side, hseal]

/-- A charge changes counters and credits alone. -/
theorem Hub.charge_eq (h : Hub) (ch key : Nat) (paid : Bool) :
    h.charge ch key paid = { h with regs := (h.charge ch key paid).regs, credits := (h.charge ch key paid).credits } := by
  unfold Hub.charge
  dsimp only
  split
  · rfl
  · split
    · split <;> rfl
    · rfl

theorem Hub.metaTraffic_eq (h : Hub) (w : Payer) (a : Nat) :
    h.metaTraffic w a = { h with regs := (h.metaTraffic w a).regs, credits := (h.metaTraffic w a).credits } := by
  unfold Hub.metaTraffic
  dsimp only
  split
  · rename_i k ch off _ _
    rw [Hub.chargeTo, Hub.charge_eq]
    rfl
  · rfl

theorem Hub.seals_metaTraffic (h : Hub) (w : Payer) (a : Nat) : (h.metaTraffic w a).seals = h.seals := by rw [Hub.metaTraffic_eq]

/-- A byte that no region holds reads as before. -/
theorem Hub.hbmByte_metaTraffic {h : Hub} {b : Nat} (hr : h.regionOf b = none) (w : Payer) (a : Nat) : (h.metaTraffic w a).hbmByte b = h.hbmByte b := by
  obtain ⟨k, hk⟩ : ∃ k, k = h.metaTraffic w a := ⟨_, rfl⟩
  have hmem : k.sameMem h := hk ▸ h.sameMem_metaTraffic w a
  have hdraw : k.keyDraw = h.keyDraw := by rw [hk, Hub.metaTraffic_eq]
  rw [← hk]
  unfold Hub.hbmByte
  rw [hmem.regionOf, hr, hmem.1, hmem.fill, hdraw]

theorem mapGet_putByte_ne (fill : Option Byte) (m : SMap Byte) {a c : Nat} (b : Byte) (hc : c ≠ a) : mapGet (putByte fill m a b) c = mapGet m c := by
  unfold putByte
  split
  · exact mapGet_mapDel_ne m hc
  · exact mapGet_mapPut_ne m b hc

theorem mapGet_putBytes_outside (fill : Option Byte) (bs : List Byte) :
    ∀ (m : SMap Byte) (a c : Nat), c < a ∨ a + bs.length ≤ c → mapGet (putBytes fill m a bs) c = mapGet m c := by
  induction bs with
  | nil => intro m a c _; rfl
  | cons b bs ih =>
    intro m a c hc
    rw [List.length_cons] at hc
    exact (ih _ _ _ (by omega)).trans (mapGet_putByte_ne fill m b (by omega))

/-- Bytes put into a line that no region holds read back, as their first bytes. -/
theorem Hub.hbmGet_hbmSet {h : Hub} {a n : Nat} {bs : List Byte} (hl : a % 64 = 0) (hn : n ≤ bs.length) (h64 : n ≤ 64)
    (hr : ∀ i < n, h.regionOf (a + i) = none) : (h.hbmSet a bs).hbmGet a n = bs.take n := by
  refine List.ext_getElem (by simp [Hub.hbmGet, hn]) fun i hi1 hi2 => ?_
  have hi : i < n := by simpa [Hub.hbmGet] using hi1
  have hreg : (h.hbmSet a bs).regionOf (a + i) = none := hr i hi
  have hfill : (h.hbmSet a bs).hbmFill (a + i) = h.hbmFill a := h.hbmFill_granule (by unfold GRAN; omega)
  have hbyte : (h.hbmSet a bs).hbmByte (a + i) = bs[i] := by
    unfold Hub.hbmByte
    rw [hreg, hfill]
    exact mapGetD_putBytes_inside bs (fun x hx => by rw [hx]; rfl) h.hbm a i (by omega)
  simpa [Hub.hbmGet] using hbyte

/-- What a node written back leaves on its side: the counter above it one up. -/
def SealSide.bumped (x : SealSide) (levels lv j : Nat) : SealSide :=
  let d := x.dirty.filter (fun e => e != (lv, j))
  { (x.setCtr (lv + 1) j (x.ctr (lv + 1) j + 1)) with
    dirty := if lv + 1 < levels ∧ ¬ d.contains (lv + 1, j / 8) then d ++ [(lv + 1, j / 8)] else d }

theorem SealSide.ctr_bumped (x : SealSide) (levels lv j : Nat) : (x.bumped levels lv j).ctr (lv + 1) j = x.ctr (lv + 1) j + 1 :=
  mapGetD_mapPutD_same 0 x.ctrs (ctrKey (lv + 1) j) (x.ctr (lv + 1) j + 1)

section
variable {h : Hub} {r : SealedRec} {new : Bool} {lv j : Nat} (hc : (h.side r.region new).ctr (lv + 1) j + 1 < 2 ^ 55)
include hc

theorem Hub.writeBackNode_of_low (w : Payer) : h.writeBackNode w r new lv j =
    ((h.setSide r.region new ((h.side r.region new).bumped (treeLevels r).length lv j)).hbmSet (h.nodeAddr r new lv j)
      ((h.side r.region new).nodeBytes lv j ++ (h.side r.region new).nodeMac r.region lv j ((h.side r.region new).ctr (lv + 1) j + 1)
        ((h.side r.region new).nodeBytes lv j))).metaTraffic w (h.nodeAddr r new lv j) := by
  unfold Hub.writeBackNode
  dsimp only
  rw [if_neg (by omega), if_neg (by omega)]
  rfl

theorem Hub.ctr_writeBackNode (w : Payer) :
    ((h.writeBackNode w r new lv j).side r.region new).ctr (lv + 1) j = (h.side r.region new).ctr (lv + 1) j + 1 := by
  rw [Hub.writeBackNode_of_low hc]
  have hside (k : Hub) : (k.metaTraffic w (h.nodeAddr r new lv j)).side r.region new = k.side r.region new := by
    simp only [Hub.side, Hub.seal, Hub.seals_metaTraffic]
  rw [hside]
  exact (congrArg (SealSide.ctr · (lv + 1) j) (Hub.side_setSide ..)).trans (SealSide.ctr_bumped ..)

theorem Hub.hbmGet_writeBackNode (w : Payer) (hr : ∀ n < 64, h.regionOf (h.nodeAddr r new lv j + n) = none) :
    (h.writeBackNode w r new lv j).hbmGet (h.nodeAddr r new lv j) 56 = (h.side r.region new).nodeBytes lv j := by
  rw [Hub.writeBackNode_of_low hc]
  obtain ⟨k, hk⟩ : ∃ k, k = (h.setSide r.region new ((h.side r.region new).bumped (treeLevels r).length lv j)).hbmSet (h.nodeAddr r new lv j)
      ((h.side r.region new).nodeBytes lv j ++ (h.side r.region new).nodeMac r.region lv j ((h.side r.region new).ctr (lv + 1) j + 1)
        ((h.side r.region new).nodeBytes lv j)) := ⟨_, rfl⟩
  have hplain : ∀ i < 56, k.regionOf (h.nodeAddr r new lv j + i) = none := fun i hi => hk ▸ hr i (by omega)
  calc _ = k.hbmGet (h.nodeAddr r new lv j) 56 := by
        rw [← hk]
        exact List.map_congr_left fun i hi => Hub.hbmByte_metaTraffic (hplain i (List.mem_range.mp hi)) w _
    _ = ((h.side r.region new).nodeBytes lv j ++ _).take 56 := by
        rw [hk]
        exact Hub.hbmGet_hbmSet (h.nodeAddr_line r new lv j) (by simp [length_nodeBytes]) (by decide) fun i hi => hr i (by omega)
    _ = (h.side r.region new).nodeBytes lv j := List.take_left' (length_nodeBytes ..)

theorem Hub.hbm_writeBackNode (w : Payer) {b : Nat} (hb : b < h.nodeAddr r new lv j ∨ h.nodeAddr r new lv j + 64 ≤ b) :
    mapGet (h.writeBackNode w r new lv j).hbm b = mapGet h.hbm b := by
  rw [Hub.writeBackNode_of_low hc, (Hub.sameMem_metaTraffic _ w _).1]
  refine mapGet_putBytes_outside _ _ _ _ _ ?_
  have hmac : ((h.side r.region new).nodeMac r.region lv j ((h.side r.region new).ctr (lv + 1) j + 1) ((h.side r.region new).nodeBytes lv j)).length ≤ 8 :=
    length_gmac64 ..
  rw [List.length_append, length_nodeBytes]
  omega

end

theorem exec_nodeWriteback {s : State} {r : RegionId} {x : SealedRec} {lv j : Nat} {new : Bool} (hx : s.hub.sealedRec r = some x)
    (hh : s.hub.halted = false) (hd : s.hub.dirtySide x.region lv j = some new) (ok : Bool) : exec (.nodeWriteback r lv j ok) s = .next (s.withHub
      (if ok then (s.hub.ncDrop x new lv j).writeBack { cls := if new then 12 else 11 } x new lv j
       else s.hub.loseNode x new (.cacheDirtyUncorrected lv j) lv j)) := by
  simp only [exec, execNodeWriteback, onHub, hx, hh, Hub.nodeOut, hd]
  rfl

/-- Settles O43: a piece goes by what it is found to be; a path by its topmost bad node; a node by its bytes and the counter above it. -/
theorem sealedAccessesAreVerified : Obligations.SealedAccessesAreVerified := by
  refine ⟨fun s i g x out ecc hx => ?piece, fun h r new i a reads e => ⟨fun hg => ?good, fun line mac hp hr he hbad => ?lineMac, fun lv bytes hlv hup hbad => ?nodeMac⟩,
    fun h a kind region ha hr hk => ⟨Hub.halted_halt .., Hub.haltAddr_halt _ _ _ _ ha, Hub.haltKind_halt _ _ _ _ hk, Hub.haltRegion_halt _ _ _ _ hr, rfl, ?raised⟩,
    fun s r x lv j new hx hh hd => ⟨exec_nodeWriteback hx hh hd true, exec_nodeWriteback hx hh hd false⟩,
    fun h w r new lv j hc _ hr => ⟨Hub.ctr_writeBackNode hc w, Hub.hbmGet_writeBackNode hc w hr, fun b hb => Hub.hbm_writeBackNode hc w hb⟩,
    fun h w r a hc => if_pos hc⟩
  case piece =>
    intro k new e reads served umb o h1 found
    have hserved {m : Hub} (hm : s.hub.sealServe i x out ecc = m) : served m := ⟨fun hk => hm ▸ exec_sealedRead hx hk, fun hk => hm ▸ exec_sealedWrite hx hk⟩
    refine ⟨fun hu => hserved (if_pos hu), fun hu => ?_⟩
    obtain ⟨hpass, hhalt, hdata, hlost⟩ := Hub.sealServe_of_found (i := i) (out := out) (ecc := ecc) hu
    exact ⟨fun hf => hserved (hpass hf), fun b kind hf => hserved (hhalt b kind hf), fun hf => hserved (hdata hf), fun lv j hf => hserved (hlost lv j hf)⟩
  case good =>
    have hpath (b : Bool) : h.pathSays r new i b .ok = .pass := Hub.pathSays_of_good hg
    refine ⟨hpath reads, fun hr => ?_, fun hr he => ?_, fun hr he hline => ?_⟩
    · simp [Hub.sealSays, hpath, hr]
    · simp [Hub.sealSays, hpath, hr, he]
    · simp [Hub.sealSays, hpath, hr, he, hline]
  case lineMac =>
    subst hr
    simp [Hub.sealSays, hp, he, hbad]
  case nodeMac => simp only [Hub.sealSays, Hub.pathSays_of_nodeMac hlv hup hbad]
  case raised => exact ⟨_, List.mem_append_right _ (List.mem_singleton_self _), rfl, rfl, rfl, rfl⟩

end Sys2Proof.Machine
end

section
/-! PROOFS. Sweeps (R322 to R327, R331). -/

namespace Sys2Proof.Machine

/-! ## Asking for a sweep -/

/-- The region of a record that stands under its number. -/
theorem Hub.region_of_sealedRec {h : Hub} {r : Nat} {x : SealedRec} (hx : h.sealedRec r = some x) : x.region = r := by
  simpa using List.find?_some hx

theorem Hub.seal_updSeal (h : Hub) (r : Nat) (f : SealRt → SealRt) : (h.updSeal r f).seal r = f (h.seal r) := mapGetD_mapPutD_same ..

section
variable {h : Hub} {r : Nat} (hr : h.regState r = 1)
include hr

/-- A ready region is queued. -/
theorem Hub.queueSweep_of_ready : h.queueSweep r =
    (h.setF (rUMB_REG_STS r) fUMB_REG_STS_STATE 3).updSeal r (fun k => { k with queuedAt := some h.now, lateRaised := false }) := if_pos hr

theorem Hub.regState_queueSweep : (h.queueSweep r).regState r = 3 := by
  rw [Hub.queueSweep_of_ready hr]
  exact (Hub.fld_congr (k := h.setF (rUMB_REG_STS r) fUMB_REG_STS_STATE 3) rfl _ _).trans (Hub.fld_setF_same _ _ _ _ (by decide))

theorem Hub.seal_queueSweep : (h.queueSweep r).seal r = { h.seal r with queuedAt := some h.now, lateRaised := false } := by
  rw [Hub.queueSweep_of_ready hr]
  exact Hub.seal_updSeal ..

theorem Hub.reg_queueSweep {a : Nat} (ha : a ≠ rUMB_REG_STS r) : (h.queueSweep r).reg a = h.reg a := by
  rw [Hub.queueSweep_of_ready hr]
  exact (Hub.reg_congr (k := h.setF (rUMB_REG_STS r) fUMB_REG_STS_STATE 3) rfl a).trans (Hub.reg_setF_ne _ _ _ ha)

theorem Hub.hbm_queueSweep : (h.queueSweep r).hbm = h.hbm := by
  rw [Hub.queueSweep_of_ready hr]
  rfl

end

theorem exec_sweepGo {s : State} {o : Origin} {r : RegionId} (hm : s.hub.mgrActs o) : exec (.sweepGo o r) s = .next (s.withHub
    (if (s.hub.sealedRec r).isNone ∨ s.hub.regState r ≠ 1 then s.hub.regErr
     else ({ (s.hub.regOk.queueSweep r) with nextId := s.hub.nextId + 1 }).updSeal r (fun k => { k with byGo := some s.hub.nextId }))) := by
  have hgo : vFlag (setFld 0 fUMB_REG_SWEEP_GO 1) fUMB_REG_SWEEP_GO = true := by decide
  simp only [exec, execSweepGo, onReg_of hm.notBusy, Hub.writeSweep, Hub.mgrWrite_of _ _ _ hm.isMgr, hgo]
  rfl

/-! ## A due sweep, and a late one -/

section
variable {s : State} {r : RegionId} {x : SealedRec} (hx : s.hub.sealedRec r = some x)
include hx

theorem exec_sweepDue_of_never (hn : x.sweepH = 0xFFFF) : exec (.sweepDue r) s = .next s := by
  simp only [exec, execSweepDue, onHub, hx, Hub.sweepDueAt, hn, if_true]

theorem exec_sweepDue_of_due {due : Nat} (hd : s.hub.sweepDueAt x = some due) (hle : due ≤ s.hub.now) (hr : s.hub.regState r = 1)
    (hk : (s.hub.seal r).dueAt = none) :
    exec (.sweepDue r) s = .next (s.withHub ((s.hub.queueSweep r).updSeal r (fun k => { k with dueAt := some due }))) := by
  have hgo : (decide (s.hub.now < due) || decide (s.hub.regState r = 2) || (s.hub.seal r).dueAt.isSome) = false := by
    simp [hr, hk, Nat.not_lt.mpr hle]
  simp only [exec, execSweepDue, onHub, hx, hd, hgo]
  rfl

/-- UMB_SWEEP_LATE of a region that has waited or run since `t`. -/
theorem exec_umbSweepLate {t : Nat} (ht : (if s.hub.regState r = 2 then some (s.hub.seal r).startedAt else if s.hub.regState r = 3 then
      ((s.hub.seal r).dueAt.toList ++ (s.hub.seal r).queuedAt.toList).min? else none) = some t) : exec (.umbSweepLate r) s = .next (s.withHub
    (if (s.hub.seal r).lateRaised || decide (s.hub.now < t + psHour) then s.hub
     else (s.hub.updSeal r (fun k => { k with lateRaised := true })).faultS uUMB (s.hub.ctrlOf (x.first * GRAN)) kUMB_SWEEP_LATE clsCorrected none 0)) := by
  simp only [exec, execUmbSweepLate, onHub, hx, ht]
  rfl

theorem exec_umbSweepLate_of_raised (hl : (s.hub.seal r).lateRaised = true) : exec (.umbSweepLate r) s = .next s := by
  simp only [exec, execUmbSweepLate, onHub, hx, hl, Bool.true_or, if_true]
  split <;> rfl

/-- Raised once an hour has gone by, and not before. -/
theorem exec_umbSweepLate_at {t : Nat} (ht : (if s.hub.regState r = 2 then some (s.hub.seal r).startedAt else if s.hub.regState r = 3 then
      ((s.hub.seal r).dueAt.toList ++ (s.hub.seal r).queuedAt.toList).min? else none) = some t) (hl : (s.hub.seal r).lateRaised = false) :
    (t + psHour ≤ s.hub.now → exec (.umbSweepLate r) s = .next (s.withHub
      ((s.hub.updSeal r (fun k => { k with lateRaised := true })).faultS uUMB (s.hub.ctrlOf (x.first * GRAN)) kUMB_SWEEP_LATE clsCorrected none 0))) ∧
    (s.hub.now < t + psHour → exec (.umbSweepLate r) s = .next s) :=
  ⟨fun h => exec_of_hub (exec_umbSweepLate hx ht) (if_neg (by simp [hl, h])), fun h => exec_of_hub_same (exec_umbSweepLate hx ht) (if_pos (by simp [h]))⟩

end

/-- The earlier of the times a queued region waits from. -/
theorem min?_due {k : SealRt} {due : Nat} (hd : k.dueAt = some due) (hq : ∀ q, k.queuedAt = some q → due ≤ q) :
    (k.dueAt.toList ++ k.queuedAt.toList).min? = some due := by
  cases hk : k.queuedAt with
  | none => simp [hd]
  | some q => simp [hd, List.min?_cons, hq q hk]

/-! ## A step -/

/-- The hub a step works on: the bytes it moves are counted. -/
def Hub.countStep (h : Hub) (x : SealedRec) (b : Nat) : Hub :=
  match h.igOf x.first with
  | some g => { h with sweepBytes := mapPutD 0 h.sweepBytes g.igrp (mapGetD h.sweepBytes g.igrp 0 + h.stepBytes x b) }
  | none => h

theorem Hub.countStep_eq (h : Hub) (x : SealedRec) (b : Nat) : h.countStep x b = { h with sweepBytes := (h.countStep x b).sweepBytes } := by
  unfold Hub.countStep
  split <;> rfl

theorem Hub.lineLost_countStep (h : Hub) (x : SealedRec) (b r i : Nat) : (h.countStep x b).lineLost r i = h.lineLost r i := by
  rw [Hub.countStep_eq]
  rfl

/-- The first line of a step that does not verify, and how. -/
def Hub.stepFound (k : Hub) (x : SealedRec) (b line : Nat) (ecc : Ecc) : Nat × SealSays :=
  match k.pathSays x false b true .ok with
  | .pass => ((k.stepLines x b).findSome? (fun i => let e := k.stepSays x b line i .ok ecc; if e = .pass then none else some (i, e))).getD (b, .pass)
  | e => (b, e)

theorem Hub.stepFound_of_good {k : Hub} {x : SealedRec} {b line : Nat} {ecc : Ecc} (hp : k.pathSays x false b true .ok = .pass)
    (hs : ∀ j ∈ k.stepLines x b, k.stepSays x b line j .ok ecc = .pass) : k.stepFound x b line ecc = (b, .pass) := by
  unfold Hub.stepFound
  rw [hp]
  exact congrArg (·.getD (b, SealSays.pass)) (List.findSome?_eq_none_iff.mpr fun j hj => if_pos (hs j hj))

theorem Hub.stepFound_of_halt {k : Hub} {x : SealedRec} {b : Nat} {c kind : Nat} (hp : k.pathSays x false b true .ok = .halt c kind) (line : Nat) (ecc : Ecc) :
    k.stepFound x b line ecc = (b, .halt c kind) := by
  unfold Hub.stepFound
  rw [hp]

section
variable {h : Hub} {x : SealedRec} {b : Nat} (hb : b = h.fld (rUMB_REG_SWEEP x.region) fUMB_REG_SWEEP_BOUNDARY) (line : Nat) (ecc : Ecc)
include hb

theorem Hub.sweepStep_of_lost (out : SealOutcome) (hl : (h.countStep x b).lineLost x.region b = true) :
    h.sweepStep x line out ecc = (h.countStep x b).stepMove x b := by
  subst hb
  exact if_pos ((Hub.lineLost_countStep ..).symm.trans hl)

/-- How a step with no failure seen goes by what it finds. -/
theorem Hub.sweepStep_of_kept {k : Hub} (hk : k = h.countStep x b) (hl : k.lineLost x.region b = false) : h.sweepStep x line .ok ecc =
    match (k.stepFound x b line ecc).2 with
    | .pass => k.stepTake x b line .ok ecc
    | .halt c kind => k.halt c kind x.region
    | .dataLost => ((k.countUEAt (x.first * GRAN + 64 * (k.stepFound x b line ecc).1)).recordLoss x 0 (b / 8)).stepMove x b
    | .lost lv j => (k.loseNode x false .ok lv j).stepMove x b := by
  subst hb hk
  rw [Hub.lineLost_countStep] at hl
  exact if_neg (by simp [hl])

end

/-- A step with no line to read moves the boundary alone. -/
theorem Hub.stepMove_of_no_line {h : Hub} {x : SealedRec} {b : Nat} (hl : h.stepLines x b = []) : h.stepMove x b =
    (h.setSide x.region true (h.side x.region true)).setF (rUMB_REG_SWEEP x.region) fUMB_REG_SWEEP_BOUNDARY (b + 8) := by
  simp only [Hub.stepMove, hl]
  rfl

theorem exec_sweepStep {s : State} {r : RegionId} {x : SealedRec} (hx : s.hub.sealedRec r = some x) (hr : s.hub.regState r = 2)
    (hh : s.hub.halted = false) (hp : s.hub.sweepPaused x = false) (hb : s.hub.fld (rUMB_REG_SWEEP r) fUMB_REG_SWEEP_BOUNDARY < sealLines x)
    (hbusy : s.hub.stepBusy x (s.hub.fld (rUMB_REG_SWEEP r) fUMB_REG_SWEEP_BOUNDARY) = false)
    (hs : s.hub.stoppedInst uUMB (s.hub.ctrlOf (x.first * GRAN + 64 * s.hub.fld (rUMB_REG_SWEEP r) fUMB_REG_SWEEP_BOUNDARY)) = false) (z : SweepSees) :
    exec (.sweepStep r z) s = .next (s.withHub (s.hub.sweepStep x z.line z.out z.ecc)) := by
  simp only [exec, execSweepStep, onHub, hx, hr, hh, hp, hbusy, hs, decide_eq_false (Nat.not_le.mpr hb)]
  rfl

/-! ## Its start and its end -/

/-- A region's run-time record as its sweep starts. -/
def SealRt.started (k : SealRt) (now key : Nat) : SealRt :=
  { k with nxt := { key := key }, startedAt := now, queuedAt := none, byGo := none, dueAt := none, lateRaised := false, newLost := [],
           newLostAll := false }

/-- What a start leaves of the region, before its registers. -/
def Hub.sweepSides (h : Hub) (x : SealedRec) : Hub :=
  ({ h with draws := h.draws + 3, generated := h.generated + 1 } : Hub).updSeal x.region (SealRt.started · h.now (h.draws + 1))

theorem Hub.startSweep_eq (h : Hub) (g : IGroup) (x : SealedRec) : h.startSweep g x =
    (((h.sweepSides x).setF (rUMB_REG_STS x.region) fUMB_REG_STS_STATE 2).setF (rUMB_REG_SWEEP x.region) fUMB_REG_SWEEP_BOUNDARY 0).setF
      (rMTR_GRP_STS g.igrp) fMTR_GRP_STS_SWEEP 1 := rfl

theorem Hub.seal_startSweep (h : Hub) (g : IGroup) (x : SealedRec) :
    (h.startSweep g x).seal x.region = (h.seal x.region).started h.now (h.draws + 1) :=
  Hub.seal_updSeal { h with draws := h.draws + 3, generated := h.generated + 1 } x.region (SealRt.started · h.now (h.draws + 1))

theorem umbSts_ne_grpSts (r g : Nat) : rUMB_REG_STS r ≠ rMTR_GRP_STS g := by
  unfold rUMB_REG_STS rMTR_GRP_STS
  omega

theorem umbSweep_ne_grpSts (r g : Nat) : rUMB_REG_SWEEP r ≠ rMTR_GRP_STS g := by
  unfold rUMB_REG_SWEEP rMTR_GRP_STS
  omega

theorem umbSts_ne_umbSweep (r : Nat) : rUMB_REG_STS r ≠ rUMB_REG_SWEEP r := by
  unfold rUMB_REG_STS rUMB_REG_SWEEP
  omega

theorem Hub.regState_startSweep (h : Hub) (g : IGroup) (x : SealedRec) : (h.startSweep g x).regState x.region = 2 := by
  rw [Hub.regState, Hub.startSweep_eq, Hub.fld_setF_ne _ _ _ _ (umbSts_ne_grpSts _ _), Hub.fld_setF_ne _ _ _ _ (umbSts_ne_umbSweep _),
    Hub.fld_setF_same _ _ _ _ (by decide)]
  rfl

theorem Hub.boundary_startSweep (h : Hub) (g : IGroup) (x : SealedRec) :
    (h.startSweep g x).fld (rUMB_REG_SWEEP x.region) fUMB_REG_SWEEP_BOUNDARY = 0 := by
  rw [Hub.startSweep_eq, Hub.fld_setF_ne _ _ _ _ (umbSweep_ne_grpSts _ _), Hub.fld_setF_same _ _ _ _ (by decide)]
  rfl

theorem exec_sweepStart {s : State} {r : RegionId} {g : IGroup} {x : SealedRec} (hg : s.hub.forme.igroups.find? (fun y => y.igrp == r.val) = some g)
    (hx : s.hub.nextSweep g = some x) (hh : s.hub.halted = false) (hb : s.hub.rngBad = false) (hp : s.hub.pwrState ≠ 3) :
    exec (.sweepStart r) s = .next (s.withHub (if s.hub.sweepIn g then s.hub else s.hub.startSweep g x)) := by
  simp only [exec, execSweepStart, onHub, hg, hx, hh, hb, decide_eq_false hp, Bool.or_false]
  rfl

/-- The region ready on the other side, before the group's register. -/
def Hub.sweepDone (h : Hub) (k : Hub) (x : SealedRec) : Hub :=
  (((k.setF (rUMB_REG_STS x.region) fUMB_REG_STS_STATE 1).setF (rUMB_REG_STS x.region) fUMB_REG_STS_BANK
    (1 - h.fld (rUMB_REG_STS x.region) fUMB_REG_STS_BANK)).setF (rUMB_REG_STS x.region) fUMB_REG_STS_CTR_HIGH 0).count (rUMB_REG_STS x.region)
    fUMB_REG_STS_SWEEPS 1 |>.setF (rUMB_REG_SWEEP x.region) fUMB_REG_SWEEP_BOUNDARY 0

theorem Hub.endSweep_eq (h : Hub) (x : SealedRec) : ∃ k : Hub, h.endSweep x = match h.igOf x.first with
    | some g => (h.sweepDone k x).setF (rMTR_GRP_STS g.igrp) fMTR_GRP_STS_SWEEP 0
    | none => h.sweepDone k x := ⟨_, rfl⟩

theorem Hub.regState_sweepDone (h k : Hub) (x : SealedRec) : (h.sweepDone k x).regState x.region = 1 := by
  rw [Hub.regState, Hub.sweepDone, Hub.fld_setF_ne _ _ _ _ (umbSts_ne_umbSweep _), Hub.count, Hub.fld_setF_disj _ _ _ _ _ (by decide) (by decide),
    Hub.fld_setF_disj _ _ _ _ _ (by decide) (by decide), Hub.fld_setF_disj _ _ _ _ _ (by decide) (by decide), Hub.fld_setF_same _ _ _ _ (by decide)]
  rfl

theorem Hub.ctrHigh_sweepDone (h k : Hub) (x : SealedRec) : (h.sweepDone k x).fld (rUMB_REG_STS x.region) fUMB_REG_STS_CTR_HIGH = 0 := by
  rw [Hub.sweepDone, Hub.fld_setF_ne _ _ _ _ (umbSts_ne_umbSweep _), Hub.count, Hub.fld_setF_disj _ _ _ _ _ (by decide) (by decide),
    Hub.fld_setF_same _ _ _ _ (by decide)]
  rfl

theorem Hub.boundary_sweepDone (h k : Hub) (x : SealedRec) : (h.sweepDone k x).fld (rUMB_REG_SWEEP x.region) fUMB_REG_SWEEP_BOUNDARY = 0 :=
  Hub.fld_setF_same _ _ _ _ (by decide)

/-- An end leaves the region ready, its boundary 0 and CTR_HIGH clear. -/
theorem Hub.endSweep_facts (h : Hub) (x : SealedRec) :
    (h.endSweep x).regState x.region = 1 ∧ (h.endSweep x).fld (rUMB_REG_SWEEP x.region) fUMB_REG_SWEEP_BOUNDARY = 0 ∧
      (h.endSweep x).flag (rUMB_REG_STS x.region) fUMB_REG_STS_CTR_HIGH = false := by
  obtain ⟨k, hk⟩ := h.endSweep_eq x
  rw [hk]
  cases hi : h.igOf x.first with
  | none => exact ⟨h.regState_sweepDone k x, h.boundary_sweepDone k x, Hub.flag_of_fld_eq_zero (h.ctrHigh_sweepDone k x)⟩
  | some g =>
    exact ⟨(Hub.fld_setF_ne _ _ _ _ (umbSts_ne_grpSts _ _)).trans (h.regState_sweepDone k x),
      (Hub.fld_setF_ne _ _ _ _ (umbSweep_ne_grpSts _ _)).trans (h.boundary_sweepDone k x),
      Hub.flag_of_fld_eq_zero ((Hub.fld_setF_ne _ _ _ _ (umbSts_ne_grpSts _ _)).trans (h.ctrHigh_sweepDone k x))⟩

theorem exec_sweepEnd {s : State} {r : RegionId} {x : SealedRec} (hx : s.hub.sealedRec r = some x) (hr : s.hub.regState r = 2)
    (hh : s.hub.halted = false) (hb : sealLines x ≤ s.hub.fld (rUMB_REG_SWEEP r) fUMB_REG_SWEEP_BOUNDARY) :
    exec (.sweepEnd r) s = .next (s.withHub (s.hub.endSweep x)) := by
  simp only [exec, execSweepEnd, onHub, hx]
  exact congrArg _ (congrArg s.withHub (if_pos ⟨hr, hb, hh⟩))

/-- Settles O44: a sweep's start, steps and end are each one rule on the region's registers and its two sides. -/
theorem sweepsMoveRegionsToFreshKeys : Obligations.SweepsMoveRegionsToFreshKeys := by
  refine fun s r => ⟨fun o x hm hx hr => ?go, fun o hm hno => ?refused, fun x hx => ⟨fun due hd hle hr hk => ?due, exec_sweepDue_of_never hx,
      fun hr hh hp hb hbusy hs line out ecc => ⟨exec_sweepStep hx hr hh hp hb hbusy hs ⟨line, out, ecc⟩, ?step, ?noLine⟩,
      fun hr hh hb _ => ?ends, fun hr hl => exec_umbSweepLate_at hx (if_pos hr) hl,
      fun due hr hl hd hq => exec_umbSweepLate_at hx ((if_neg (by simp [hr])).trans ((if_pos hr).trans (min?_due hd hq))) hl,
      exec_umbSweepLate_of_raised hx⟩,
    fun g x hg hx hh hb hp => ⟨fun hin => ?running, fun hin => ⟨?start, fun _ => ?started⟩⟩⟩
  case go =>
    refine ⟨_, exec_of_hub (exec_sweepGo hm) (if_neg (by simp [hx, hr])), ?_, ?_, ?_, ?_, fun a ha => ?_⟩
    · exact Hub.regState_queueSweep (h := s.hub.regOk) hr
    · exact (congrArg SealRt.queuedAt (Hub.seal_updSeal { s.hub.regOk.queueSweep r with nextId := s.hub.nextId + 1 } r _)).trans
        (congrArg SealRt.queuedAt (Hub.seal_queueSweep (h := s.hub.regOk) hr))
    · exact congrArg SealRt.byGo (Hub.seal_updSeal { s.hub.regOk.queueSweep r with nextId := s.hub.nextId + 1 } r _)
    · exact Hub.hbm_queueSweep (h := s.hub.regOk) hr
    · exact Hub.reg_queueSweep (h := s.hub.regOk) hr ha
  case refused =>
    refine exec_of_hub (exec_sweepGo hm) (if_pos ?_)
    exact hno.imp (fun hn => by simp [hn]) id
  case due =>
    refine ⟨_, exec_sweepDue_of_due hx hd hle hr hk, Hub.regState_queueSweep hr, ?_, fun a ha => Hub.reg_queueSweep hr ha⟩
    exact congrArg SealRt.dueAt (Hub.seal_updSeal (s.hub.queueSweep r) r _)
  case step =>
    obtain ⟨b, hbd⟩ : ∃ b, b = s.hub.fld (rUMB_REG_SWEEP r) fUMB_REG_SWEEP_BOUNDARY := ⟨_, rfl⟩
    have hat : b = s.hub.fld (rUMB_REG_SWEEP x.region) fUMB_REG_SWEEP_BOUNDARY := by rw [hbd, Hub.region_of_sealedRec hx]
    rw [← hbd]
    obtain ⟨k, hk⟩ : ∃ k, k = s.hub.countStep x b := ⟨_, rfl⟩
    refine ⟨k, by rw [hk]; exact Hub.countStep_eq .., fun hl => ?_, fun hl => ⟨fun hpath hls => ?_, fun c kind hpath => ?_⟩⟩
    · rw [hk] at hl ⊢
      exact Hub.sweepStep_of_lost hat line ecc out hl
    · exact (Hub.sweepStep_of_kept hat line ecc hk hl).trans (by rw [Hub.stepFound_of_good hpath hls])
    · exact (Hub.sweepStep_of_kept hat line ecc hk hl).trans (by rw [Hub.stepFound_of_halt hpath])
  case noLine =>
    intro hl
    rw [← Hub.region_of_sealedRec hx] at hl ⊢
    exact Hub.stepMove_of_no_line hl
  case ends =>
    have hreg := Hub.region_of_sealedRec hx
    have hfacts := s.hub.endSweep_facts x
    rw [hreg] at hfacts
    exact ⟨_, exec_sweepEnd hx hr hh hb, rfl, hfacts⟩
  case running => exact exec_of_hub_same (exec_sweepStart hg hx hh hb hp) (if_pos hin)
  case start => exact exec_of_hub (exec_sweepStart hg hx hh hb hp) (if_neg (by simp [hin]))
  case started =>
    exact ⟨Hub.regState_startSweep .., Hub.boundary_startSweep .., (congrArg SealRt.cur (s.hub.seal_startSweep g x) :),
      (congrArg SealRt.nxt (s.hub.seal_startSweep g x) :), rfl⟩

end Sys2Proof.Machine
end

section
/-! PROOFS. Blocks and control frames of a link (R332, R334, R339, R354, R355, R357, R360). -/

namespace Sys2Proof.Machine

theorem Hub.link_setLink (h : Hub) (l : Nat) (k : LinkRt) : (h.setLink l k).link l = k := mapGetD_mapPutD_same ..

theorem Hub.link_updLink (h : Hub) (l : Nat) (f : LinkRt → LinkRt) : (h.updLink l f).link l = f (h.link l) := mapGetD_mapPutD_same ..

/-! ## A block that leaves -/

theorem LinkRt.replay_popTx (k : LinkRt) (vc slots : Nat) : (k.popTx vc slots).replay = k.replay := by
  unfold LinkRt.popTx
  dsimp only
  split
  · rfl
  · split <;> rfl

/-- Packing a block leaves the blocks kept for replay. -/
theorem Hub.replay_packSlots (h : Hub) (l bseq : Nat) (transport : Bool) :
    ∀ (n : Nat) (p : Packing) (k : LinkRt), (h.packSlots l bseq transport n p k).2.replay = k.replay := by
  intro n
  induction n with
  | zero => intro p k; rfl
  | succ n ih =>
    intro p k
    unfold Hub.packSlots
    dsimp only
    split
    · rfl
    · split
      · exact ih ..
      · split
        · exact ih ..
        · split
          · rfl
          · split
            · rfl
            · exact (ih _ _).trans (LinkRt.replay_popTx ..)

/-- With no control frame to send, a block of control frames takes none. -/
theorem Hub.packSlots_of_no_ctl (h : Hub) (l : Nat) {k : LinkRt} (hc : k.ctl = []) : h.packSlots l 0 false 40 {} k = ({}, k) := by
  unfold Hub.packSlots
  simp [hc]

theorem Hub.replay_noteStarved (h : Hub) (l : Nat) : ((h.noteStarved l).link l).replay = (h.link l).replay := by
  rw [Hub.noteStarved, Hub.link_updLink]

/-- A block sent changes its link and what goes out. -/
theorem Hub.sentBlock_eq (h : Hub) (l : Nat) (x : LinkRt) (o : Output) : ((h.setLink l x).noteStarved l).emit o =
    { h with links := (((h.setLink l x).noteStarved l).emit o).links, out := (((h.setLink l x).noteStarved l).emit o).out } := by
  unfold Hub.emit Hub.noteStarved Hub.updLink Hub.setLink
  rfl

theorem Hub.bseq_noteStarved (h : Hub) (l : Nat) : ((h.noteStarved l).link l).bseq = (h.link l).bseq := by
  rw [Hub.noteStarved, Hub.link_updLink]

/-- The DATA block a link sends next, and what packing it leaves. -/
def Hub.nextData (h : Hub) (l : Nat) : TxBlock × LinkRt :=
  let r := h.packSlots l (h.link l).bseq true 40 {} (h.link l)
  let p := h.idleFill l (h.link l).bseq r.1
  ({ bseq := (h.link l).bseq, hdr := blockHdr 0 (h.link l).bseq p.first, data := p.bytes, since := h.now, sends := 1, beats := p.beats, tags := p.tags }, r.2)

section
variable {h : Hub} {l : Nat}

theorem Hub.blockTx_of_training (ht : h.lkState l = lkTRAINING ∨ h.lkState l = lkRETRAINING) (hh : h.halted = false) :
    h.blockTx l = h.emit (.block l (blockHdr 1 0 none) (Config.trainData l)) := if_pos ⟨ht, hh⟩

theorem Hub.not_training_of_runs (hr : h.lkRuns l = true) : ¬ ((h.lkState l = 2 ∨ h.lkState l = 5) ∧ h.halted = false) := by
  unfold Hub.lkRuns at hr
  simp only [Bool.and_eq_true, Bool.or_eq_true, decide_eq_true_eq] at hr
  omega

variable (hr : h.lkRuns l = true)
include hr

theorem Hub.blockTx_of_resend {n : Nat} (hn : (h.link l).resend = some n) : h.blockTx l = h.resendBlock l n := by
  simp only [Hub.blockTx, if_neg (Hub.not_training_of_runs hr), hr, hn]
  rfl

theorem Hub.blockTx_of_data (hn : (h.link l).resend = none) (hd : h.dataBlock l = true) : h.blockTx l =
    ((h.setLink l { (h.nextData l).2 with bseq := ((h.link l).bseq + 1) % 4096, replay := (h.nextData l).2.replay ++ [(h.nextData l).1] }).noteStarved
      l).emit (.block l (h.nextData l).1.hdr (h.nextData l).1.data) := by
  simp only [Hub.blockTx, if_neg (Hub.not_training_of_runs hr), hr, hn, hd]
  rfl

theorem Hub.blockTx_of_idle (hn : (h.link l).resend = none) (hd : h.dataBlock l = false) (hc : (h.link l).ctl = []) : h.blockTx l =
    ((h.setLink l (h.link l)).noteStarved l).emit
      (.block l (blockHdr 2 0 (some 0)) (List.replicate 20 (h.sealFrame l 0 (controlFrame 0 []))).flatten) := by
  simp only [Hub.blockTx, if_neg (Hub.not_training_of_runs hr), hr, hn, hd, h.packSlots_of_no_ctl l hc]
  rfl

end

/-! ## A block that arrives -/

section
variable {h : Hub} {l : Nat} (hr : h.lkRuns l = true)
include hr

theorem Hub.blockRx_uncorrectable : h.blockRx l .uncorrectable = (h.count (rQL_LINK_ERR l) fQL_LINK_ERR_UNCORR 1).sendNak l :=
  if_neg (by simp [hr])

theorem Hub.blockRx_data {hdr : BitVec 20} (ht : bits hdr.toNat 1 0 = 0) (b : List Byte) :
    h.blockRx l (.block 0 hdr b) = h.rxBlock l true (bits hdr.toNat 13 2) (bits hdr.toNat 18 14) b := by
  simp only [Hub.blockRx, hr, ht]
  rfl

end

section
variable {h : Hub} {l seq : Nat}

/-- A DATA block that is not the next one. -/
theorem Hub.rxBlock_of_other (hs : 0 < ((h.link l).rxSeq + 4096 - seq) % 4096) (first : Nat) (b : List Byte) :
    h.rxBlock l true seq first b = if ((h.link l).rxSeq + 4096 - seq) % 4096 < 2048 then h else h.sendNak l := by
  have hne : seq ≠ (h.link l).rxSeq := by
    rintro rfl
    rw [Nat.add_sub_cancel_left] at hs
    exact absurd hs (by decide)
  exact if_pos (by simp [hne])

/-- A link that has taken the DATA block it waits for. -/
def LinkRt.tookBlock (k : LinkRt) (seq : Nat) (rest : List Byte) (none : Bool) : LinkRt :=
  { k with rxSeq := (k.rxSeq + 1) % 4096, ackBlocks := k.ackBlocks + 1, rxPart := rest,
           rxPartSeq := if true && !k.rxPart.isEmpty && none then k.rxPartSeq else seq }

/-- The DATA block it waits for: its frames' check values decide. -/
theorem Hub.rxBlock_of_next (hs : seq = (h.link l).rxSeq) (first : Nat) (b : List Byte) : h.rxBlock l true seq first b =
    match (rxFrames (h.link l) true seq first b).1.find? (fun e => decide (leAt e.2 4 4 ≠ h.linkChk l e.1 e.2)) with
    | some e => h.chkFail l e.1
    | none => (h.setLink l ((h.link l).tookBlock seq (rxFrames (h.link l) true seq first b).2 (rxFrames (h.link l) true seq first b).1.isEmpty)).takeFrames
        l ((rxFrames (h.link l) true seq first b).1.map (·.2)) := if_neg (by simp [hs])

end

/-! ## Control frames -/

/-- A control frame that has arrived is taken once. -/
theorem Hub.takeCtl_of_some {h : Hub} {l ftype : Nat} {x : List Byte} (hx : (h.link l).rxCtl.find? (fun f => frameType f == ftype) = some x)
    (f : List Byte → Hub → Hub) : h.takeCtl l ftype f = f x (h.updLink l (fun k => { k with rxCtl := k.rxCtl.erase x })) := by
  unfold Hub.takeCtl
  rw [hx]

/-- What a CREDIT frame says of the peer. -/
def Hub.peerSays (h : Hub) (l : Nat) (f : List Byte) : Hub :=
  ((h.updLink l (fun k => { k with peerFreed := [leAt f 8 2, leAt f 10 2, leAt f 12 2] })).setF (rQL_LINK_STS l) fQL_LINK_STS_PEER_HUB
    (bits (leAt f 14 2) 8 0)).setF (rQL_LINK_STS l) fQL_LINK_STS_PEER_V (bits (leAt f 14 2) 9 9)

theorem Hub.takeCredit_eq (h : Hub) (l : Nat) (f : List Byte) : h.takeCredit l f =
    if (h.peerSays l f).lkState l = 3 ∨ (h.peerSays l f).lkState l = 4 then
      (h.peerSays l f).setLk l (if (h.peerSays l f).lkValid l then lkUP else lkUPNONUM)
    else h.peerSays l f := rfl

section
variable (h : Hub) (l : Nat) (f : List Byte)

theorem Hub.peerFreed_peerSays : ((h.peerSays l f).link l).peerFreed = [leAt f 8 2, leAt f 10 2, leAt f 12 2] := by
  have hlink : (h.peerSays l f).link l = (h.updLink l (fun k => { k with peerFreed := [leAt f 8 2, leAt f 10 2, leAt f 12 2] })).link l := rfl
  rw [hlink, Hub.link_updLink]

theorem Hub.lkState_peerSays : (h.peerSays l f).lkState l = h.lkState l :=
  (Hub.fld_setF_disj _ _ _ _ _ (by decide) (by decide)).trans (Hub.fld_setF_disj _ _ _ _ _ (by decide) (by decide))

theorem Hub.peerV_peerSays : (h.peerSays l f).fld (rQL_LINK_STS l) fQL_LINK_STS_PEER_V = leAt f 14 2 / 512 % 2 :=
  (Hub.fld_setF_same _ _ _ _ (by decide)).trans (Nat.mod_mod _ _)

theorem Hub.peerHub_peerSays : (h.peerSays l f).fld (rQL_LINK_STS l) fQL_LINK_STS_PEER_HUB = leAt f 14 2 % 512 := by
  refine (Hub.fld_setF_disj _ _ _ _ _ (by decide) (by decide)).trans ((Hub.fld_setF_same _ _ _ _ (by decide)).trans ?_)
  simp [bits, fQL_LINK_STS_PEER_HUB]

theorem Hub.reg_peerSays {a : Nat} (ha : a ≠ rQL_LINK_STS l) : (h.peerSays l f).reg a = h.reg a :=
  (Hub.reg_setF_ne _ _ _ ha).trans (Hub.reg_setF_ne _ _ _ ha)

theorem hubId_ne_linkSts : rTOP_HUB_ID ≠ rQL_LINK_STS l := by
  unfold rTOP_HUB_ID rQL_LINK_STS
  omega

theorem Hub.lkValid_peerSays : (h.peerSays l f).lkValid l = true ↔ leAt f 14 2 / 512 % 2 = 1 ∧ h.flag rTOP_HUB_ID fTOP_HUB_ID_VALID = true := by
  have hid : (h.peerSays l f).flag rTOP_HUB_ID fTOP_HUB_ID_VALID = h.flag rTOP_HUB_ID fTOP_HUB_ID_VALID := by
    rw [Hub.flag, Hub.fld, Hub.reg_peerSays h l f (hubId_ne_linkSts l)]
    rfl
  rw [Hub.lkValid, hid, Hub.flag, Hub.peerV_peerSays]
  simp

/-- A field of the link's status but STATE, and every other register, is as the peer's words leave it. -/
theorem Hub.link_takeCredit : (h.takeCredit l f).link l = (h.peerSays l f).link l := by
  rw [Hub.takeCredit_eq]
  split <;> rfl

theorem Hub.fld_takeCredit {g : Fld} (hg : g.lo + g.w ≤ 64) (hd : 3 ≤ g.lo) :
    (h.takeCredit l f).fld (rQL_LINK_STS l) g = (h.peerSays l f).fld (rQL_LINK_STS l) g := by
  rw [Hub.takeCredit_eq]
  split
  · exact Hub.fld_setF_disj _ _ _ _ _ hg (.inl hd)
  · rfl

theorem Hub.reg_takeCredit {a : Nat} (ha : a ≠ rQL_LINK_STS l) : (h.takeCredit l f).reg a = h.reg a := by
  rw [Hub.takeCredit_eq]
  split
  · exact (Hub.reg_setF_ne _ _ _ ha).trans (h.reg_peerSays l f ha)
  · exact h.reg_peerSays l f ha

theorem Hub.lkState_takeCredit (hu : h.lkState l = lkUPNONUM ∨ h.lkState l = lkUP) : (h.takeCredit l f).lkState l =
    if leAt f 14 2 / 512 % 2 = 1 ∧ h.flag rTOP_HUB_ID fTOP_HUB_ID_VALID = true then lkUP else lkUPNONUM := by
  rw [Hub.takeCredit_eq, if_pos (by rw [Hub.lkState_peerSays]; exact hu)]
  refine (Hub.fld_setF_same _ _ _ _ (by decide)).trans ?_
  simp only [Hub.lkValid_peerSays]
  split <;> rfl

end

/-! ## Timers -/

/-- Control frames sent one after another stand in order behind what waits. -/
theorem Hub.foldl_sendControl (l : Nat) (f : List Byte) (n : Nat) : ∀ h : Hub, ((List.range n).foldl (fun h _ => h.sendControl l f) h).link l =
    { h.link l with ctl := (h.link l).ctl ++ List.replicate n f } ∧
    (List.range n).foldl (fun h _ => h.sendControl l f) h = { h with links := ((List.range n).foldl (fun h _ => h.sendControl l f) h).links } := by
  induction n with
  | zero => intro h; simp
  | succ n ih =>
    intro h
    obtain ⟨hlink, heq⟩ := ih h
    rw [List.range_succ, List.foldl_append]
    obtain ⟨k, hk⟩ : ∃ k, k = (List.range n).foldl (fun (h : Hub) _ => h.sendControl l f) h := ⟨_, rfl⟩
    rw [← hk] at hlink heq ⊢
    refine ⟨?_, ?_⟩
    · show (k.updLink l (fun k => { k with ctl := k.ctl ++ [f] })).link l = _
      rw [Hub.link_updLink, hlink]
      simp [List.replicate_succ']
    · show k.sendControl l f = { h with links := (k.sendControl l f).links }
      rw [heq]
      exact rfl

section
variable {s : State} {l : LinkId}

theorem exec_ackTimer : exec (.ackTimer l) s = .next (s.withHub
    (if s.hub.lkRuns l && (decide (64 ≤ (s.hub.link l).ackBlocks) || decide ((s.hub.link l).lastAck + 200 * psNs ≤ s.hub.now)) then
      (s.hub.setLink l { s.hub.link l with ackBlocks := 0, lastAck := s.hub.now }).sendControl l
        (controlFrame 2 (toLE 2 (((s.hub.link l).rxSeq + 4095) % 4096)))
    else s.hub)) := rfl

theorem exec_delayMeasureTimer (hr : s.hub.lkRuns l = true) (hu : s.hub.lkState l = lkUP) : exec (.delayMeasureTimer l) s = .next (s.withHub
    ((List.range 64).foldl (fun h _ => h.sendControl l (controlFrame 5 [])) (s.hub.updLink l (fun k => { k with delays := [] })))) :=
  exec_of_hub (k := if s.hub.lkRuns l ∧ s.hub.lkState l = 4 then _ else s.hub) rfl (if_pos ⟨hr, hu⟩)

end

/-- Settles O45: what a block that leaves or arrives does, and each control frame and timer. -/
theorem linksCarryBlocksAndControlFrames : Obligations.LinksCarryBlocksAndControlFrames := by
  refine ⟨fun s l => ⟨fun ht hh => exec_of_hub (k := s.hub.blockTx l) rfl (Hub.blockTx_of_training ht hh), fun hr => ⟨fun hn hd => ?data,
      fun hn hd hc => ?idle, fun n hn => exec_of_hub (k := s.hub.blockTx l) rfl (Hub.blockTx_of_resend hr hn),
      exec_of_hub (k := s.hub.blockRx l .uncorrectable) rfl (Hub.blockRx_uncorrectable hr), fun hdr b ht => ?arrives⟩,
      fun hr cw => exec_of_hub_same (k := s.hub.blockRx l cw) rfl (if_pos (by simp [hr]))⟩,
    fun s l => ⟨fun x => ⟨fun hx => ?idleFrame, fun hx => ?ack, fun hx => ?nak, fun hx => ?credit, fun hx => ?delay⟩, fun h a b => ?acked, fun hc => ?noAck,
      fun hr => ⟨fun hd => ?ackDue, fun ha hn => ?ackNot, ?creditTimer, fun hu => ?measure⟩⟩⟩
  case data =>
    obtain ⟨k, hk⟩ : ∃ k, k = s.hub.setLink l { (s.hub.nextData l).2 with
        bseq := ((s.hub.link l).bseq + 1) % 4096, replay := (s.hub.nextData l).2.replay ++ [(s.hub.nextData l).1] } := ⟨_, rfl⟩
    have htx := Hub.blockTx_of_data hr hn hd
    rw [← hk] at htx
    have hout : k.out = s.hub.out := hk ▸ rfl
    refine ⟨_, (s.hub.nextData l).1, exec_of_hub (k := s.hub.blockTx l) rfl htx, rfl, rfl, rfl, congrArg _ hout, ?_, ?_, ?_⟩
    · rw [hk]
      refine (Hub.replay_noteStarved ..).trans ((congrArg LinkRt.replay (Hub.link_setLink ..)).trans ?_)
      exact congrArg (· ++ [(s.hub.nextData l).1]) (Hub.replay_packSlots ..)
    · rw [hk]
      exact (Hub.bseq_noteStarved ..).trans (congrArg LinkRt.bseq (Hub.link_setLink ..))
    · rw [hk]
      exact congrArg s.withHub (Hub.sentBlock_eq ..)
  case idle =>
    have htx := Hub.blockTx_of_idle hr hn hd hc
    obtain ⟨d, hdata⟩ : ∃ d, d = (List.replicate 20 (s.hub.sealFrame l 0 (controlFrame 0 []))).flatten := ⟨_, rfl⟩
    obtain ⟨k, hk⟩ : ∃ k, k = s.hub.setLink l (s.hub.link l) := ⟨_, rfl⟩
    rw [← hdata, ← hk] at htx
    rw [← hdata]
    refine ⟨_, exec_of_hub (k := s.hub.blockTx l) rfl htx, congrArg _ (hk ▸ rfl : k.out = s.hub.out), ?_, ?_⟩
    · rw [hk]
      exact (Hub.replay_noteStarved ..).trans (congrArg LinkRt.replay (Hub.link_setLink ..))
    · rw [hk]
      exact congrArg s.withHub (Hub.sentBlock_eq ..)
  case arrives =>
    intro seq r
    have hrx := Hub.blockRx_data hr ht b
    refine ⟨fun hpos hlow => ?_, fun hhigh => ?_, fun hs hall => ?_, fun e hs he => ?_⟩
    · exact exec_of_hub_same (k := s.hub.blockRx l (.block 0 hdr b)) rfl (hrx.trans ((Hub.rxBlock_of_other hpos _ b).trans (if_pos hlow)))
    · exact exec_of_hub (k := s.hub.blockRx l (.block 0 hdr b)) rfl
        (hrx.trans ((Hub.rxBlock_of_other (Nat.lt_of_lt_of_le (by decide) hhigh) _ b).trans (if_neg (Nat.not_lt.mpr hhigh))))
    · have hnone : r.1.find? (fun e => decide (leAt e.2 4 4 ≠ s.hub.linkChk l e.1 e.2)) = none :=
        List.find?_eq_none.mpr fun e he => by simp [hall e he]
      refine ⟨s.hub.setLink l ((s.hub.link l).tookBlock seq r.2 r.1.isEmpty), exec_of_hub (k := s.hub.blockRx l (.block 0 hdr b)) rfl
        (hrx.trans ((Hub.rxBlock_of_next hs _ b).trans (by rw [hnone]))), rfl, ?_, ?_⟩
      · exact (congrArg LinkRt.rxSeq (Hub.link_setLink ..)).trans (by rw [hs]; rfl)
      · exact congrArg LinkRt.ackBlocks (Hub.link_setLink ..)
    · exact exec_of_hub (k := s.hub.blockRx l (.block 0 hdr b)) rfl (hrx.trans ((Hub.rxBlock_of_next hs _ b).trans (by rw [he])))
  case idleFrame => exact exec_of_hub (k := s.hub.takeCtl l 0 (fun _ h => h)) rfl (Hub.takeCtl_of_some hx _)
  case ack => exact exec_of_hub (k := s.hub.takeCtl l 2 (fun f h => h.takeAck l (leAt f 8 2 % 4096))) rfl (Hub.takeCtl_of_some hx _)
  case nak => exact exec_of_hub (k := s.hub.takeCtl l 3 (fun f h => h.takeNak l (leAt f 8 2 % 4096))) rfl (Hub.takeCtl_of_some hx _)
  case credit =>
    obtain ⟨h1, hh1⟩ : ∃ h1, h1 = s.hub.updLink l (fun k => { k with rxCtl := k.rxCtl.erase x }) := ⟨_, rfl⟩
    have hreg (a : Nat) : h1.reg a = s.hub.reg a := by rw [hh1]; rfl
    have hfld (a : Nat) (g : Fld) : h1.fld a g = s.hub.fld a g := by rw [hh1]; rfl
    refine ⟨s.withHub (h1.takeCredit l x), exec_of_hub (k := s.hub.takeCtl l 4 (fun f h => h.takeCredit l f)) rfl
      ((Hub.takeCtl_of_some hx _).trans (by rw [hh1])), ?_, ?_, ?_, fun hu => ?_, fun a ha => (h1.reg_takeCredit l x ha).trans (hreg a)⟩
    · exact (congrArg LinkRt.peerFreed (h1.link_takeCredit l x)).trans (h1.peerFreed_peerSays l x)
    · exact (h1.fld_takeCredit l x (by decide) (by decide)).trans (h1.peerHub_peerSays l x)
    · exact (h1.fld_takeCredit l x (by decide) (by decide)).trans (h1.peerV_peerSays l x)
    · have hstate : h1.lkState l = s.hub.lkState l := hfld _ _
      have hflag : h1.flag rTOP_HUB_ID fTOP_HUB_ID_VALID = s.hub.flag rTOP_HUB_ID fTOP_HUB_ID_VALID := by simp only [Hub.flag, hfld]
      exact (h1.lkState_takeCredit l x (by rw [hstate]; exact hu)).trans (by rw [hflag])
  case delay => exact exec_of_hub (k := s.hub.takeCtl l 5 (fun f h => h.takeDelay l f)) rfl (Hub.takeCtl_of_some hx _)
  case acked =>
    have hkept : ((h.takeAck l a).link l).replay = (h.link l).replay.filter (fun b => decide (2048 ≤ (a + 4096 - b.bseq) % 4096)) :=
      congrArg LinkRt.replay (Hub.link_updLink ..)
    simp [hkept]
  case noAck =>
    refine exec_of_hub_same (k := s.hub.takeCtl l 2 (fun f h => h.takeAck l (leAt f 8 2 % 4096))) rfl ?_
    simp only [Hub.takeCtl, hc]
    rfl
  case ackDue =>
    refine ⟨_, exec_of_hub exec_ackTimer (if_pos (by simpa [hr] using hd)), ?_, ?_, rfl⟩
    · exact (congrArg LinkRt.ctl (Hub.link_updLink ..)).trans (by rw [Hub.link_setLink])
    · exact (congrArg LinkRt.ackBlocks (Hub.link_updLink ..)).trans (by rw [Hub.link_setLink])
  case ackNot => exact exec_of_hub_same exec_ackTimer (if_neg (by simp [ha, hn]))
  case creditTimer =>
    refine ⟨_, exec_of_hub (k := if s.hub.lkRuns l then s.hub.sendCredit l else s.hub) rfl (if_pos hr), ?_, rfl⟩
    exact (congrArg LinkRt.ctl (Hub.link_updLink ..)).trans (by rw [Hub.link_setLink])
  case measure =>
    obtain ⟨hlink, heq⟩ := Hub.foldl_sendControl l (controlFrame 5 []) 64 (s.hub.updLink l (fun k => { k with delays := [] }))
    rw [Hub.link_updLink] at hlink
    exact ⟨_, exec_delayMeasureTimer hr hu, congrArg LinkRt.ctl hlink, congrArg LinkRt.delays hlink, congrArg s.withHub heq⟩

end Sys2Proof.Machine
end

section
/-! PROOFS. Requests of other hubs (R343, R344, R349, R350, R359) and the responses to this hub's own (R345 to R347, R358). -/

namespace Sys2Proof.Machine

/-! ## A request of another hub -/

section
variable {h : Hub} {l op : Nat} {f : List Byte} (hf : h.rxHead l 0 = some f) (ho : (thdrOf f).op = op) (hh : h.halted = false)
  (hv : h.lkValid l = true) (hd : (thdrOf f).dstHub = h.hubNum)
include hf ho hh hv hd

/-- A request at the head of its channel is checked: its pair first. -/
theorem Hub.remoteTake_of_refused {st : Nat} (hp : h.pairRefused (thdrOf f) = some st) (steps line : Nat) (ecc : Ecc) :
    h.remoteTake l op steps line ecc = (h.rxPop l 0).remoteRefuse l f st := by
  simp [Hub.remoteTake, hf, ho, hh, hv, hd, hp]

theorem Hub.remoteTake_of_badAddr (hp : h.pairRefused (thdrOf f) = none) (ha : linkAddrOk (thdrOf f).addr (h.remoteReq l f).len = false)
    (steps line : Nat) (ecc : Ecc) : h.remoteTake l op steps line ecc = (h.rxPop l 0).remoteRefuse l f 1 := by
  simp [Hub.remoteTake, hf, ho, hh, hv, hd, hp, ha]

theorem Hub.remoteTake_of_ok (hp : h.pairRefused (thdrOf f) = none) (ha : linkAddrOk (thdrOf f).addr (h.remoteReq l f).len = true)
    (steps line : Nat) (ecc : Ecc) : h.remoteTake l op steps line ecc =
      Hub.runOwn (min steps 24) (((h.rxPop l 0).newReq (h.remoteReq l f)).2.routeReq ((h.rxPop l 0).newReq (h.remoteReq l f)).1)
        ((h.rxPop l 0).newReq (h.remoteReq l f)).1 (fun a => if a = (thdrOf f).addr / 64 + line then ecc else .clean) := by
  simp [Hub.remoteTake, hf, ho, hh, hv, hd, hp, ha]

end

section
variable {h : Hub} {t : THdr}

theorem Hub.pairRefused_of_no_slice (hs : h.sl t.dstSlice = none) : h.pairRefused t = some 3 := by simp [Hub.pairRefused, hs]

theorem Hub.pairRefused_of_no_link {r : SliceRec} (hs : h.sl t.dstSlice = some r) (hl : (t.srcHub, t.srcSlice) ∉ r.links) : h.pairRefused t = some 3 := by
  simp [Hub.pairRefused, hs, hl]

theorem Hub.pairRefused_of_inactive {r : SliceRec} (hs : h.sl t.dstSlice = some r) (hl : (t.srcHub, t.srcSlice) ∈ r.links)
    (ha : h.active t.dstSlice = false) : h.pairRefused t = some 4 := by simp [Hub.pairRefused, hs, hl, ha]

theorem Hub.pairRefused_of_ok {r : SliceRec} (hs : h.sl t.dstSlice = some r) (hl : (t.srcHub, t.srcSlice) ∈ r.links)
    (ha : h.active t.dstSlice = true) : h.pairRefused t = none := by simp [Hub.pairRefused, hs, hl, ha]

end

/-- The three requests are one rule with an opcode each. -/
theorem exec_remoteRequest {s : State} {l : LinkId} {op : Nat} {c : Instr} {steps line : Nat} {ecc : Ecc}
    (hc : (op = 1 ∧ c = .write l steps ⟨line, ecc⟩) ∨ (op = 2 ∧ c = .read l steps ⟨line, ecc⟩) ∨ (op = 3 ∧ c = .atomic l steps ⟨line, ecc⟩)) :
    exec c s = .next (s.withHub (s.hub.remoteTake l op steps line ecc)) := by
  rcases hc with ⟨rfl, rfl⟩ | ⟨rfl, rfl⟩ | ⟨rfl, rfl⟩ <;> rfl

/-! ## Quiesces and frames in transit -/

section
variable {h : Hub} {l : Nat} {f : List Byte} (hf : h.rxHead l 0 = some f) (ho : (thdrOf f).op = 4) (hh : h.halted = false)
  (hv : h.lkValid l = true) (hd : (thdrOf f).dstHub = h.hubNum)
include hf ho hh hv hd

theorem Hub.takeQuiesce_of_refused {st : Nat} (hp : h.pairRefused (thdrOf f) = some st) : h.takeQuiesce l = (h.rxPop l 0).remoteRefuse l f st := by
  simp [Hub.takeQuiesce, hf, ho, hh, hv, hd, hp]

/-- A quiesce taken closes its pair. -/
theorem Hub.takeQuiesce_of_ok (hp : h.pairRefused (thdrOf f) = none) : ∃ h1 : Hub, h.takeQuiesce l = h1.pump.answerQuiesces ∧
    h1.closedPairs = (if h.closedPairs.contains ((thdrOf f).dstSlice, (thdrOf f).srcHub, (thdrOf f).srcSlice) then h.closedPairs
      else h.closedPairs ++ [((thdrOf f).dstSlice, (thdrOf f).srcHub, (thdrOf f).srcSlice)]) ∧
    h1 = { h.rxPop l 0 with closedPairs := h1.closedPairs, quiescesIn := h1.quiescesIn } := by
  obtain ⟨q, hq⟩ : ∃ q : QuiesceIn, q = { link := l, w0 := leAt f 8 8, w1 := leAt f 16 8, slice := (thdrOf f).dstSlice, hub := (thdrOf f).srcHub, peer := (thdrOf f).srcSlice } :=
    ⟨_, rfl⟩
  refine ⟨{ h.rxPop l 0 with
            closedPairs := if h.closedPairs.contains ((thdrOf f).dstSlice, (thdrOf f).srcHub, (thdrOf f).srcSlice) then h.closedPairs
              else h.closedPairs ++ [((thdrOf f).dstSlice, (thdrOf f).srcHub, (thdrOf f).srcSlice)]
            quiescesIn := h.quiescesIn ++ [q] }, ?_, rfl, rfl⟩
  simp [Hub.takeQuiesce, hf, ho, hh, hv, hd, hp, hq]

end

section
variable {h : Hub} {l vc : Nat} {f : List Byte} (hf : h.rxHead l vc = some f) (hh : h.halted = false)
include hf hh

theorem Hub.transit_of_invalid (hv : h.lkValid l = false) : h.transit l vc = h.rxPop l vc := by
  simp [Hub.transit, hf, hh, hv]

variable (hv : h.lkValid l = true) (hd : (thdrOf f).dstHub ≠ h.hubNum)
include hv hd

theorem Hub.transit_of_routed (hr : h.flag (rQL_ROUTEh (thdrOf f).dstHub) fQL_ROUTEh_VALID = true)
    (ho : h.lkState (h.fld (rQL_ROUTEh (thdrOf f).dstHub) fQL_ROUTEh_LINK) = lkUP ∨
      h.lkState (h.fld (rQL_ROUTEh (thdrOf f).dstHub) fQL_ROUTEh_LINK) = lkRETRAINING) :
    h.transit l vc = (h.rxPop l vc).sendFrame (h.fld (rQL_ROUTEh (thdrOf f).dstHub) fQL_ROUTEh_LINK) vc f := by
  have hout : (decide (h.lkState (h.fld (rQL_ROUTEh (thdrOf f).dstHub) fQL_ROUTEh_LINK) = 4) ||
      decide (h.lkState (h.fld (rQL_ROUTEh (thdrOf f).dstHub) fQL_ROUTEh_LINK) = 5)) = true := by
    rw [Bool.or_eq_true, decide_eq_true_eq, decide_eq_true_eq]
    exact ho
  simp [Hub.transit, hf, hh, hv, hr, hout, if_neg hd]

theorem Hub.transit_of_unrouted (hr : h.flag (rQL_ROUTEh (thdrOf f).dstHub) fQL_ROUTEh_VALID = false) : h.transit l vc =
    if vc = 0 then (h.rxPop l vc).sendRsp (thdrOf f) ((thdrOf f).op + 7) 5 [] else h.rxPop l vc := by
  simp [Hub.transit, hf, hh, hv, hr, if_neg hd]

end

/-! ## Bundles -/

section
variable (h : Hub) (f : List Byte)

/-- The bundle a frame belongs to, and what has come of it. -/
def bundleKey (f : List Byte) : Nat := (thdrOf f).srcHub * 64 + (thdrOf f).bundle

def Hub.bundleOf (h : Hub) (f : List Byte) : Bundle := mapGetD h.bundles (bundleKey f) {}

/-- A bundle with one more frame of it. -/
def Bundle.with (b : Bundle) (f : List Byte) (ok : Bool) : Bundle :=
  let c := if ok then { b with sum := b.sum + 32 * (thdrOf f).len } else { b with bad := b.bad + 32 * (thdrOf f).len }
  { c with lastSeen := c.lastSeen || (thdrOf f).last, lastHdr := if (thdrOf f).last && ok then some f else c.lastHdr }

theorem Bundle.lastSeen_with (b : Bundle) (f : List Byte) (ok : Bool) : (b.with f ok).lastSeen = (b.lastSeen || (thdrOf f).last) := by
  cases ok <;> rfl

theorem Bundle.lastHdr_with_ok {b : Bundle} {f : List Byte} (hl : (thdrOf f).last = false) : (b.with f true).lastHdr = b.lastHdr := by
  simp [Bundle.with, hl]

theorem Bundle.lastHdr_with_failed (b : Bundle) (f : List Byte) : (b.with f false).lastHdr = b.lastHdr := by simp [Bundle.with]

/-- The hub after a bundle is whole, before its acknowledgement. -/
def Hub.bundleOver (h : Hub) (f : List Byte) (b : Bundle) : Hub :=
  let h1 : Hub := { h with bundles := mapDel h.bundles (bundleKey f) }
  if b.bad = 0 then h1.addAc (thdrOf f).dstSlice (thdrOf f).acnum (thdrOf f).btotal else h1

variable {h f} (ha : (thdrOf f).ac = true) {ok : Bool} {c : Bundle} (hc : c = (h.bundleOf f).with f ok)
include ha hc

theorem Hub.trackBundle_of_part (ht : c.sum + c.bad ≠ (thdrOf f).btotal) :
    h.trackBundle f ok = (!((thdrOf f).last && ok), { h with bundles := mapPut h.bundles (bundleKey f) c }) := by
  have hpart : (c.lastSeen && decide (c.sum + c.bad = (thdrOf f).btotal)) = false := by simp [ht]
  subst hc
  exact (if_neg (by simp [ha])).trans (if_neg (ne_true_of_eq_false hpart))

variable (hs : c.lastSeen = true) (ht : c.sum + c.bad = (thdrOf f).btotal)
include hs ht

theorem Hub.trackBundle_of_whole : h.trackBundle f ok = if (thdrOf f).last then (true, h.bundleOver f c)
    else (true, match c.lastHdr with
      | some g => (h.bundleOver f c).sendRsp (thdrOf g) 8 0 []
      | none => h.bundleOver f c) := by
  have hwhole : (c.lastSeen && decide (c.sum + c.bad = (thdrOf f).btotal)) = true := by simp [hs, ht]
  subst hc
  exact (if_neg (by simp [ha])).trans (if_pos hwhole)

theorem Hub.trackBundle_of_no_answer (hl : (thdrOf f).last = true ∨ c.lastHdr = none) : h.trackBundle f ok = (true, h.bundleOver f c) := by
  by_cases hlast : (thdrOf f).last = true
  · exact (Hub.trackBundle_of_whole ha hc hs ht).trans (if_pos hlast)
  · exact (Hub.trackBundle_of_whole ha hc hs ht).trans ((if_neg hlast).trans (by rw [hl.resolve_left hlast]))

theorem Hub.trackBundle_of_answer {g : List Byte} (hl : (thdrOf f).last = false) (hg : c.lastHdr = some g) :
    h.trackBundle f ok = (true, (h.bundleOver f c).sendRsp (thdrOf g) 8 0 []) :=
  (Hub.trackBundle_of_whole ha hc hs ht).trans ((if_neg (by simp [hl])).trans (by rw [hg]))

end

/-- The fault a refused request raises. -/
def refusal (l : Nat) (f : List Byte) (st : Nat) : FaultMsg :=
  { source := srcOf uQL l, kind := if st = 1 then kACCESS else kLINK_REFUSED, cls := clsCorrected, slice := some (thdrOf f).dstSlice,
    ctx := if st = 1 then some (thdrOf f).ctx else none, addr := some l, aux := if st = 1 then 0 else (thdrOf f).srcHub }

/-- Settles O46: the checks stand in R343's order; what passes them is a request, a quiesce, a frame in transit or a part of a bundle. -/
theorem requestsOfOtherHubsAreCheckedInOrder : Obligations.RequestsOfOtherHubsAreCheckedInOrder := by
  refine ⟨fun s l f op c steps line ecc hc hf ho hh hv hd => ?request, fun h i l q hq hsrc => ?served, fun h l st f hst => ?refused,
    fun s l f hf ho hh hv hd => ⟨fun st hp => exec_of_hub (k := s.hub.takeQuiesce l) rfl (Hub.takeQuiesce_of_refused hf ho hh hv hd hp), fun hp => ?quiesce⟩,
    fun s l vc f hf hh => ⟨fun hv => exec_of_hub (k := s.hub.transit l vc) rfl (Hub.transit_of_invalid hf hh hv), fun hv hd => ⟨fun hr ho => ?routed, fun hr => ?unrouted⟩⟩,
    fun h f ha => ?bundle⟩
  case request =>
    intro t g q
    have hexec := exec_remoteRequest (s := s) hc
    refine ⟨fun hs => exec_of_hub hexec (Hub.remoteTake_of_refused hf ho hh hv hd (Hub.pairRefused_of_no_slice hs) steps line ecc), fun r hs =>
      ⟨fun hl => exec_of_hub hexec (Hub.remoteTake_of_refused hf ho hh hv hd (Hub.pairRefused_of_no_link hs hl) steps line ecc),
        fun hl ha => exec_of_hub hexec (Hub.remoteTake_of_refused hf ho hh hv hd (Hub.pairRefused_of_inactive hs hl ha) steps line ecc),
        fun hl ha => ?_⟩⟩
    have hp := Hub.pairRefused_of_ok hs hl ha
    exact ⟨fun hbad => exec_of_hub hexec (Hub.remoteTake_of_badAddr hf ho hh hv hd hp hbad steps line ecc),
      fun hok => ⟨rfl, rfl, rfl, exec_of_hub hexec (Hub.remoteTake_of_ok hf ho hh hv hd hp hok steps line ecc)⟩⟩
  case served => simp only [Hub.doneReq, hq, hsrc]
  case refused =>
    refine ⟨(h.trackBundle f false).2.fault (refusal l f st), ?_, _, List.mem_append_right _ (List.mem_singleton_self _), rfl, rfl, rfl, rfl, rfl⟩
    simp only [Hub.remoteRefuse, if_neg hst]
    rfl
  case quiesce =>
    obtain ⟨h1, htake, hclosed, heq⟩ := Hub.takeQuiesce_of_ok hf ho hh hv hd hp
    refine ⟨h1, exec_of_hub (k := s.hub.takeQuiesce l) rfl htake, ?_, heq⟩
    rw [hclosed]
    split
    · rename_i hin
      exact List.contains_iff_mem.mp hin
    · exact List.mem_append_right _ (List.mem_singleton_self _)
  case routed => exact exec_of_hub (k := s.hub.transit l vc) rfl (Hub.transit_of_routed hf hh hv hd hr ho)
  case unrouted =>
    refine exec_of_hub (k := s.hub.transit l vc) rfl ((Hub.transit_of_unrouted hf hh hv hd hr).trans ?_)
    simp only [Fin.ext_iff]
    rfl
  case bundle =>
    intro t k b h1
    have hseen (ok : Bool) : (b.with f ok).lastSeen = (b.lastSeen || t.last) := Bundle.lastSeen_with ..
    refine ⟨fun hl hbad hsum => ?_, fun hl hls hbad hsum g hg => ?_, fun hls hsum hlen hlast => ?_, fun hne => ⟨{ h with bundles := mapPut h.bundles k (b.with f true) }, ?_, rfl, ?_⟩⟩
    · have htrack := Hub.trackBundle_of_no_answer ha (c := b.with f true) (ok := true) rfl (by simp [hseen, hl])
        ((congrArg (b.sum + 32 * t.len + ·) hbad).trans hsum) (.inl hl)
      exact htrack.trans (congrArg (Prod.mk true) (if_pos hbad))
    · have htrack := Hub.trackBundle_of_answer ha (c := b.with f true) (ok := true) rfl (by simp [hseen, hls])
        ((congrArg (b.sum + 32 * t.len + ·) hbad).trans hsum) hl ((Bundle.lastHdr_with_ok hl).trans hg)
      exact htrack.trans (congrArg (fun m : Hub => (true, m.sendRsp (thdrOf g) 8 0 [])) (if_pos hbad))
    · have htotal : b.sum + (b.bad + 32 * t.len) = t.btotal := by omega
      have htrack := Hub.trackBundle_of_no_answer ha (c := b.with f false) (ok := false) rfl (by simpa [hseen] using hls) htotal
        (hlast.imp id (Bundle.lastHdr_with_failed b f).trans)
      have hbad : b.bad + 32 * t.len ≠ 0 := by omega
      exact htrack.trans (congrArg (Prod.mk true) (if_neg hbad))
    · have htotal : b.sum + 32 * t.len + b.bad ≠ t.btotal := by omega
      exact (Hub.trackBundle_of_part ha (c := b.with f true) (ok := true) rfl htotal).trans (by rw [Bool.and_true]; rfl)
    · exact congrArg Bundle.sum (mapGetD_mapPut_same ..)

/-! ## Responses -/

/-- Taking a frame off a channel changes the link's record alone. -/
theorem Hub.rxPop_eq (h : Hub) (l vc : Nat) : h.rxPop l vc = { h with links := (h.rxPop l vc).links } := by
  unfold Hub.rxPop
  split <;> rfl

section
variable {h : Hub} {l op : Nat} {f : List Byte} (hf : h.rxHead l 1 = some f) (ho : (thdrOf f).op = op) (hh : h.halted = false)
  (hv : h.lkValid l = true) (hd : (thdrOf f).dstHub = h.hubNum)
include hf ho hh hv hd

theorem Hub.takeRsp_of_current {x : Tag} (hx : mapGet h.tags (thdrOf f).tag = some x) (hfree : x.freeAt = none)
    (hg : (thdrOf f).gen = h.gen (ctxid x.slice x.ctx)) : h.takeRsp l op = (h.rxPop l 1).answerTag l (thdrOf f) (frameData f) x := by
  simp [Hub.takeRsp, hf, ho, hh, hv, hd, hx, hfree, hg]

/-- A response whose tag is not outstanding, or whose GEN is old. -/
theorem Hub.takeRsp_of_stale (hx : ∀ x, mapGet h.tags (thdrOf f).tag = some x → x.freeAt ≠ none ∨ (thdrOf f).gen ≠ h.gen (ctxid x.slice x.ctx)) :
    h.takeRsp l op = (h.rxPop l 1).count (rQL_LINK_ERR l) fQL_LINK_ERR_STALE 1 := by
  simp only [Hub.takeRsp, hf, ho, hh, hv, hd, ne_eq, not_true, false_or, Bool.false_eq_true, Bool.not_true, if_false]
  cases ht : mapGet h.tags (thdrOf f).tag with
  | none => rfl
  | some x =>
    have hstale : x.freeAt.isSome = true ∨ ¬ (thdrOf f).gen = h.gen (ctxid x.slice x.ctx) := by
      simpa [Option.isSome_iff_ne_none] using hx x ht
    exact if_pos hstale

end

section
variable {h : Hub} {l : Nat} {f : List Byte} (hf : h.rxHead l 1 = some f) (ho : (thdrOf f).op = 11) (hh : h.halted = false)
  (hv : h.lkValid l = true) (hd : (thdrOf f).dstHub = h.hubNum)
include hf ho hh hv hd

theorem Hub.takeQuiesceDone_of_failed (hst : (thdrOf f).status ≠ 0) : h.takeQuiesceDone l = h.rxPop l 1 := by
  simp [Hub.takeQuiesceDone, hf, ho, hh, hv, hd, hst]

theorem Hub.takeQuiesceDone_of_done (hst : (thdrOf f).status = 0) {i : Nat} {q : Quiesce}
    (hq : h.quiesces.find? (fun e => decide (e.2.slice = (thdrOf f).dstSlice) && decide (e.2.hub = (thdrOf f).srcHub) &&
      decide (e.2.peer = (thdrOf f).srcSlice)) = some (i, q)) : h.takeQuiesceDone l = (h.rxPop l 1).quiesceOver i q false := by
  have hsame : (h.rxPop l 1).quiesces = h.quiesces := by rw [Hub.rxPop_eq]
  simp only [Hub.takeQuiesceDone, hf, ho, hh, hv, hd, hst, hsame, hq, ne_eq, not_true, or_self, Bool.false_eq_true, Bool.not_true, if_false]

end

/-- The three responses are one rule with an opcode each. -/
theorem exec_response {s : State} {l : LinkId} {op : Nat} {c : Instr} (hc : (op = 8 ∧ c = .writeAck l) ∨ (op = 9 ∧ c = .readRsp l) ∨ (op = 10 ∧ c = .atomicRsp l)) :
    exec c s = .next (s.withHub (s.hub.takeRsp l op)) := by
  rcases hc with ⟨rfl, rfl⟩ | ⟨rfl, rfl⟩ | ⟨rfl, rfl⟩ <;> rfl

section
variable {s : State} {tag : QueueId} {x : Tag} (hx : mapGet s.hub.tags tag = some x)
include hx

theorem exec_responseTimeout : exec (.responseTimeout tag) s = .next (s.withHub
    (if x.since + s.hub.respTo ≤ s.hub.now then s.hub.failTag tag fsTIMEOUT else s.hub)) := by
  simp only [exec, execResponseTimeout, onHub, hx]
  rfl

theorem exec_tagQuarantineEnd {e : Nat} (he : x.freeAt = some e) : exec (.tagQuarantineEnd tag) s = .next (s.withHub
    (if e ≤ s.hub.now then (s.hub.freeTag tag).afterTag else s.hub)) := by
  simp only [exec, execTagQuarantineEnd, onHub, hx, he]
  rfl

theorem Hub.freeAt_parkTag : (mapGet (s.hub.parkTag tag).tags tag).map (·.freeAt) = some (some (s.hub.now + 2 * s.hub.respTo)) := by
  simp only [Hub.parkTag, hx, mapGet_mapPut_same, Option.map_some]

end

theorem exec_quiesceTimeout {s : State} {i : Nat} {q : Quiesce} (hq : mapGet s.hub.quiesces i = some q) : exec (.quiesceTimeout i) s = .next (s.withHub
    (if q.since + 100 * psUs ≤ s.hub.now then s.hub.quiesceOver i q true else s.hub)) := by
  simp only [exec, execQuiesceTimeout, onHub, hq]
  rfl

/-- Settles O47: a response goes by its tag and GEN; a tag and a quiesce end at their times. -/
theorem responsesAnswerTheirTag : Obligations.ResponsesAnswerTheirTag := by
  refine ⟨fun s l f op c hc hf ho hh hv hd => ⟨fun x hx hfree hg => ?current, fun hx => ?stale⟩, ⟨rfl, rfl, rfl⟩,
    fun s tag x hx => ⟨fun hle => exec_of_hub (exec_responseTimeout hx) (if_pos hle), fun hlt => exec_of_hub_same (exec_responseTimeout hx) (if_neg (Nat.not_le.mpr hlt)),
      fun e he hle => exec_of_hub (exec_tagQuarantineEnd hx he) (if_pos hle),
      fun e he hlt => exec_of_hub_same (exec_tagQuarantineEnd hx he) (if_neg (Nat.not_le.mpr hlt)), fun _ => Hub.freeAt_parkTag hx⟩,
    fun s l f i q hf ho hh hv hd hq => ⟨fun hst => ?done, fun hst => ?failed⟩,
    fun s i q hq => ⟨fun hle => exec_of_hub (exec_quiesceTimeout hq) (if_pos hle), fun hlt => exec_of_hub_same (exec_quiesceTimeout hq) (if_neg (Nat.not_le.mpr hlt))⟩⟩
  case current => exact exec_of_hub (exec_response hc) (Hub.takeRsp_of_current hf ho hh hv hd hx hfree hg)
  case stale => exact exec_of_hub (exec_response hc) (Hub.takeRsp_of_stale hf ho hh hv hd hx)
  case done => exact exec_of_hub (k := s.hub.takeQuiesceDone l) rfl (Hub.takeQuiesceDone_of_done hf ho hh hv hd hst hq)
  case failed => exact exec_of_hub (k := s.hub.takeQuiesceDone l) rfl (Hub.takeQuiesceDone_of_failed hf ho hh hv hd hst)

end Sys2Proof.Machine
end

section
/-! PROOFS. A link's life (R354, R356, R360, R361). -/

namespace Sys2Proof.Machine

theorem Hub.link_setLink_ne (h : Hub) {l m : Nat} (k : LinkRt) (hm : m ≠ l) : (h.setLink l k).link m = h.link m := mapGetD_mapPutD_ne _ _ _ _ hm

theorem linkCtl_ne_linkSts (l : Nat) : rQL_LINK_CTL l ≠ rQL_LINK_STS l := by
  unfold rQL_LINK_CTL rQL_LINK_STS
  omega

theorem linkDly_ne_linkSts (l : Nat) : rQL_LINK_DLY l ≠ rQL_LINK_STS l := by
  unfold rQL_LINK_DLY rQL_LINK_STS
  omega

theorem linkFec_ne_linkErr (l : Nat) : rQL_LINK_FEC l ≠ rQL_LINK_ERR l := by
  unfold rQL_LINK_FEC rQL_LINK_ERR
  omega

/-! ## A write of its control register -/

/-- What a write of a link's control register does past its own fields. -/
def Hub.ctlWritten (h : Hub) (l : Nat) (v : Word) : Hub :=
  h.regOk.writeRW (rQL_LINK_CTL l) [fQL_LINK_CTL_EN] [] v

section
variable {h : Hub} {l : Nat} {v : Word}

theorem Hub.fld_ctlWritten (g : Fld) : (h.ctlWritten l v).fld (rQL_LINK_STS l) g = h.fld (rQL_LINK_STS l) g :=
  Hub.fld_setReg_ne _ _ _ (linkCtl_ne_linkSts l).symm

theorem Hub.en_ctlWritten (hv : vFlag v fQL_LINK_CTL_EN = true) : (h.ctlWritten l v).fld (rQL_LINK_CTL l) fQL_LINK_CTL_EN = 1 := by
  have hen : (h.ctlWritten l v).fld (rQL_LINK_CTL l) fQL_LINK_CTL_EN = getFld v fQL_LINK_CTL_EN := by
    rw [Hub.ctlWritten, Hub.fld, Hub.reg_regOk_writeRW_same]
    exact getFld_mixWrite_of_mem _ _ (List.mem_singleton_self _) (by decide)
  exact hen.trans (of_decide_eq_true hv)

theorem Hub.reg_ctlWritten {a : Nat} (ha : a ≠ rQL_LINK_CTL l) : (h.ctlWritten l v).reg a = h.reg a := Hub.reg_setReg_ne _ _ ha

end

/-- What a write of a link's control register comes to. -/
def Hub.ctlActs (h : Hub) (l : Nat) (v : Word) : Hub :=
  let h1 := h.ctlWritten l v
  if h.lkState l = 0 then h1
  else
    let h2 := if (vFlag v fQL_LINK_CTL_DOWN || !vFlag v fQL_LINK_CTL_EN) && (decide (2 ≤ h.lkState l) && decide (h.lkState l ≤ 5)) then h1.downLink l else h1
    if !vFlag v fQL_LINK_CTL_EN then h2.setLk l lkDISABLED
    else if h.lkState l = 1 then h2.startBringup l
    else if vFlag v fQL_LINK_CTL_RETRAIN then h2.retrainLink l else h2

section
variable {s : State} {o : Origin} {l : LinkId} (hm : s.hub.mgrActs o)
include hm

theorem exec_linkEnable : exec (.linkEnable o l) s = .next (s.withHub (s.hub.ctlActs l (setFld (s.hub.reg (rQL_LINK_CTL l)) fQL_LINK_CTL_EN 1))) := by
  simp only [exec, execLinkEnable, onReg_of hm.notBusy, Hub.writeLinkCtl, Hub.mgrWrite_of _ _ _ hm.isMgr]
  rfl

theorem exec_linkRetrain : exec (.linkRetrain o l) s =
    .next (s.withHub (s.hub.ctlActs l (setFld (s.hub.reg (rQL_LINK_CTL l)) fQL_LINK_CTL_RETRAIN 1))) := by
  simp only [exec, execLinkRetrain, onReg_of hm.notBusy, Hub.writeLinkCtl, Hub.mgrWrite_of _ _ _ hm.isMgr]
  rfl

theorem exec_linkDown : exec (.linkDown o l) s = .next (s.withHub (s.hub.ctlActs l (setFld (s.hub.reg (rQL_LINK_CTL l)) fQL_LINK_CTL_DOWN 1))) := by
  simp only [exec, execLinkDown, onReg_of hm.notBusy, Hub.writeLinkCtl, Hub.mgrWrite_of _ _ _ hm.isMgr]
  rfl

theorem exec_linkFecClr : exec (.linkFecClr o l) s = .next (s.withHub ((s.hub.regOk.setReg (rQL_LINK_FEC l) 0).setReg (rQL_LINK_ERR l) 0)) :=
  onReg_mgrWrite (f := fun h => if vFlag (setFld 0 fQL_LINK_FEC_CLR 1) fQL_LINK_FEC_CLR then
    (h.regOk.setReg (rQL_LINK_FEC l) 0).setReg (rQL_LINK_ERR l) 0 else h.regOk) hm

end

/-- A bit that a command sets is set, and the others of the word are as they were. -/
theorem vFlag_setFld_same (v : Word) {f : Fld} (hf : f.lo + f.w ≤ 64) (hw : 0 < f.w) : vFlag (setFld v f 1) f = true := by
  rw [vFlag, getFld_setFld_same _ _ _ hf, Nat.mod_eq_of_lt (Nat.one_lt_two_pow (Nat.pos_iff_ne_zero.mp hw))]
  rfl

theorem Hub.vFlag_setFld_disj {h : Hub} {a : Nat} {f g : Fld} {b : Bool} (hb : h.flag a g = b) (hw : g.w = 1) (hg : g.lo + g.w ≤ 64)
    (hd : f.lo + f.w ≤ g.lo ∨ g.lo + g.w ≤ f.lo) : vFlag (setFld (h.reg a) f 1) g = b := by
  have hlt : h.fld a g < 2 := by
    have hmod : h.fld a g < 2 ^ g.w := by
      unfold Hub.fld getFld
      exact Nat.mod_lt _ (Nat.two_pow_pos _)
    simpa [hw] using hmod
  rw [vFlag, getFld_setFld_disj _ _ _ _ hg hd, ← hb, Hub.flag]
  show decide (h.fld a g = 1) = decide (h.fld a g ≠ 0)
  exact decide_eq_decide.mpr (by omega)

section
variable {h : Hub} {l : Nat} {v : Word}

theorem Hub.ctlActs_of_absent (hst : h.lkState l = lkABSENT) : h.ctlActs l v = h.ctlWritten l v := if_pos hst

variable (hen : vFlag v fQL_LINK_CTL_EN = true)
include hen

theorem Hub.ctlActs_of_disabled (hst : h.lkState l = lkDISABLED) : h.ctlActs l v = (h.ctlWritten l v).startBringup l := by
  simp [Hub.ctlActs, hst, hen, lkDISABLED]

theorem Hub.ctlActs_of_retrain (hst : h.lkState l = lkUP) (hd : vFlag v fQL_LINK_CTL_DOWN = false) (hr : vFlag v fQL_LINK_CTL_RETRAIN = true) :
    h.ctlActs l v = (h.ctlWritten l v).retrainLink l := by
  simp [Hub.ctlActs, hst, hen, hd, hr, lkUP]

theorem Hub.ctlActs_of_down (hst : h.lkState l = lkUP) (hd : vFlag v fQL_LINK_CTL_DOWN = true) (hr : vFlag v fQL_LINK_CTL_RETRAIN = false) :
    h.ctlActs l v = (h.ctlWritten l v).downLink l := by
  simp [Hub.ctlActs, hst, hen, hd, hr, lkUP]

end

/-! ## Bring-up and retraining -/

section
variable (h : Hub) (l : Nat)

theorem Hub.lkState_setLk (x : Nat) (hx : x < 8) : (h.setLk l x).lkState l = x := (Hub.fld_setF_same _ _ _ _ (by decide)).trans (Nat.mod_eq_of_lt hx)

theorem Hub.lkState_startBringup : (h.startBringup l).lkState l = lkTRAINING := h.lkState_setLk l lkTRAINING (by decide)

theorem Hub.link_startBringup : (h.startBringup l).link l = { h.link l with enabledAt := h.now } := Hub.link_updLink (h.setLk l lkTRAINING) l _

/-- A retraining counted, before it is reported. -/
def Hub.retrainCounted (h : Hub) (l : Nat) : Hub := (h.setLk l lkRETRAINING).count (rQL_LINK_STS l) fQL_LINK_STS_RETRAINS 1

variable {h l}

theorem Hub.retrainLink_of_up (hu : h.lkState l = lkUP ∨ h.lkState l = lkUPNONUM) :
    h.retrainLink l = (h.retrainCounted l).lkFault l kLINK_RETRAIN clsCorrected := if_pos (Or.symm hu)

theorem Hub.lkState_retrainCounted : (h.retrainCounted l).lkState l = lkRETRAINING :=
  (Hub.fld_setF_disj _ _ _ _ _ (by decide) (by decide)).trans (h.lkState_setLk l lkRETRAINING (by decide))

theorem Hub.retrains_retrainCounted : (h.retrainCounted l).fld (rQL_LINK_STS l) fQL_LINK_STS_RETRAINS =
    min (h.fld (rQL_LINK_STS l) fQL_LINK_STS_RETRAINS + 1) 65535 := by
  rw [Hub.retrainCounted, Hub.fld_count_same _ _ _ _ (by decide), Hub.setLk, Hub.fld_setF_disj _ _ _ _ _ (by decide) (by decide)]
  rfl

theorem Hub.reg_retrainCounted {a : Nat} (ha : a ≠ rQL_LINK_STS l) : (h.retrainCounted l).reg a = h.reg a :=
  (Hub.reg_setF_ne _ _ _ ha).trans (Hub.reg_setF_ne _ _ _ ha)

end

/-- A retraining that starts: what waits stands, and it is counted and reported. -/
theorem Hub.retrainLink_facts {h : Hub} {l : Nat} (hu : h.lkState l = lkUP ∨ h.lkState l = lkUPNONUM) :
    (h.retrainLink l).lkState l = lkRETRAINING ∧
    (h.retrainLink l).fld (rQL_LINK_STS l) fQL_LINK_STS_RETRAINS = min (h.fld (rQL_LINK_STS l) fQL_LINK_STS_RETRAINS + 1) 65535 ∧
    (h.retrainLink l).links = h.links ∧ (∃ m ∈ (h.retrainLink l).fcol.msgs, m.kind = kLINK_RETRAIN ∧ m.cls = clsCorrected) ∧
    ∀ a, a ≠ rQL_LINK_STS l → (h.retrainLink l).reg a = h.reg a := by
  rw [Hub.retrainLink_of_up hu]
  have hregs : (h.retrainCounted l |>.lkFault l kLINK_RETRAIN clsCorrected).regs = (h.retrainCounted l).regs := rfl
  exact ⟨(Hub.fld_congr hregs _ _).trans Hub.lkState_retrainCounted, (Hub.fld_congr hregs _ _).trans Hub.retrains_retrainCounted, rfl,
    ⟨_, List.mem_append_right _ (List.mem_singleton_self _), rfl, rfl⟩, fun a ha => (Hub.reg_congr hregs a).trans (Hub.reg_retrainCounted ha)⟩

/-- A link that bring-up leaves: what waits to be sent stands, the rest is as new. -/
def LinkRt.broughtUp (k : LinkRt) : LinkRt := { ctl := k.ctl, vc0 := k.vc0, vc1 := k.vc1, vc2 := k.vc2, rateAt := k.rateAt, symWin := k.symWin }

/-- The registers of a link that bring-up leaves. -/
def Hub.broughtUp (h : Hub) (l peer delay : Nat) : Hub :=
  (((h.updLink l LinkRt.broughtUp).setLk l lkUPNONUM).setF (rQL_LINK_STS l) fQL_LINK_STS_PEER_LINK peer).setF (rQL_LINK_DLY l) fQL_LINK_DLY_DELAY delay

section
variable (h : Hub) (l peer : Nat) {delay : Nat}

theorem Hub.lkState_broughtUp : (h.broughtUp l peer delay).lkState l = lkUPNONUM :=
  (Hub.fld_setF_ne _ _ _ _ (linkDly_ne_linkSts l).symm).trans
    ((Hub.fld_setF_disj _ _ _ _ _ (by decide) (by decide)).trans ((h.updLink l LinkRt.broughtUp).lkState_setLk l lkUPNONUM (by decide)))

theorem Hub.peerLink_broughtUp (hp : peer < 32) : (h.broughtUp l peer delay).fld (rQL_LINK_STS l) fQL_LINK_STS_PEER_LINK = peer :=
  (Hub.fld_setF_ne _ _ _ _ (linkDly_ne_linkSts l).symm).trans ((Hub.fld_setF_same _ _ _ _ (by decide)).trans (Nat.mod_eq_of_lt hp))

theorem Hub.delay_broughtUp (hd : delay < 2 ^ 24) : (h.broughtUp l peer delay).fld (rQL_LINK_DLY l) fQL_LINK_DLY_DELAY = delay :=
  (Hub.fld_setF_same _ _ _ _ (by decide)).trans (Nat.mod_eq_of_lt hd)

theorem Hub.link_broughtUp : (h.broughtUp l peer delay).link l = (h.link l).broughtUp := Hub.link_updLink h l LinkRt.broughtUp

end

theorem Hub.regs_sendCredit (h : Hub) (l : Nat) : (h.sendCredit l).regs = h.regs := rfl

/-- A CREDIT frame sent leaves the link's numbers and what waits to be sent. -/
theorem Hub.link_sendCredit (h : Hub) (l : Nat) : ∃ c, (h.sendCredit l).link l = { h.link l with ctl := c, lastCredit := h.now } := by
  refine ⟨(h.link l).ctl ++ [controlFrame 4 ((h.link l).freed.flatMap (toLE 2) ++ toLE 2 (h.hubNum + 512 * h.fld rTOP_HUB_ID fTOP_HUB_ID_VALID))], ?_⟩
  unfold Hub.sendCredit Hub.sendControl
  dsimp only
  rw [Hub.link_updLink, Hub.link_setLink]

section
variable {h : Hub} {l : Nat} (ht : h.lkState l = 2)
include ht

theorem Hub.bringupDone_of_late (hl : (h.link l).enabledAt + 100 * psMs < h.now) (ok : Bool) (peer delay : Nat) :
    h.bringupDone l ok peer delay = h.downLink l := by
  unfold Hub.bringupDone
  rw [if_neg (not_not_intro ht), if_pos hl]

variable (hl : h.now ≤ (h.link l).enabledAt + 100 * psMs) (peer delay : Nat)
include hl

theorem Hub.bringupDone_of_ok : h.bringupDone l true peer delay = (h.broughtUp l peer delay).sendCredit l := by
  unfold Hub.bringupDone
  rw [if_neg (not_not_intro ht), if_neg (Nat.not_lt.mpr hl), if_neg (by simp)]
  rfl

theorem Hub.bringupDone_of_failed : h.bringupDone l false peer delay = if 2 ≤ (h.link l).bringFails then h.downLink l
    else (h.startBringup l).updLink l (fun k => { k with bringFails := k.bringFails + 1 }) := by
  unfold Hub.bringupDone
  rw [if_neg (not_not_intro ht), if_neg (Nat.not_lt.mpr hl), if_pos (by simp)]

end

/-- A link that a retraining leaves: what it keeps for replay goes out again. -/
def LinkRt.retrained (k : LinkRt) : LinkRt :=
  { k with resend := k.replay.head?.map (·.bseq), replay := k.replay.map (fun b => { b with sends := 0 }) }

/-- The hub a retraining leaves. -/
def Hub.retrained (h : Hub) (l st delay : Nat) : Hub :=
  ((h.setLk l st).setF (rQL_LINK_DLY l) fQL_LINK_DLY_DELAY delay).updLink l LinkRt.retrained

section
variable {h : Hub} {l : Nat} (ht : h.lkState l = 5) (delay : Nat)
include ht

theorem Hub.retrainOver_of_ok (hv : h.lkValid l = true) : h.retrainOver l true delay = h.retrained l lkUP delay := by
  unfold Hub.retrainOver
  rw [if_neg (not_not_intro ht), if_neg (by simp), hv, if_pos rfl]
  rfl

theorem Hub.retrainOver_of_failed : h.retrainOver l false delay = h.startBringup l := by
  unfold Hub.retrainOver
  rw [if_neg (not_not_intro ht), if_pos (by simp)]

end

theorem Hub.regs_updLink (h : Hub) (l : Nat) (f : LinkRt → LinkRt) : (h.updLink l f).regs = h.regs := rfl

theorem Hub.lkState_retrained (h : Hub) (l delay : Nat) {st : Nat} (hs : st < 8) : (h.retrained l st delay).lkState l = st := by
  rw [Hub.lkState, Hub.retrained, Hub.fld_congr (Hub.regs_updLink ..), Hub.fld_setF_ne _ _ _ _ (linkDly_ne_linkSts l).symm]
  exact h.lkState_setLk l st hs

theorem Hub.delay_retrained (h : Hub) (l st : Nat) {delay : Nat} (hd : delay < 2 ^ 24) :
    (h.retrained l st delay).fld (rQL_LINK_DLY l) fQL_LINK_DLY_DELAY = delay := by
  rw [Hub.retrained, Hub.fld_congr (Hub.regs_updLink ..), Hub.fld_setF_same _ _ _ _ (by decide)]
  exact Nat.mod_eq_of_lt hd

theorem Hub.link_retrained (h : Hub) (l st delay : Nat) : (h.retrained l st delay).link l = (h.link l).retrained :=
  Hub.link_updLink ((h.setLk l st).setF (rQL_LINK_DLY l) fQL_LINK_DLY_DELAY delay) l LinkRt.retrained

/-! ## Down, and stalls -/

/-- The link emptied. -/
def Hub.emptied (h : Hub) (l : Nat) : Hub := ((h.setLk l lkDOWN).setF (rQL_LINK_STS l) fQL_LINK_STS_PEER_V 0).setLink l {}

/-- LINK_DOWN of each slice routed over a link. -/
def downFault (l sl : Nat) : FaultMsg := { source := srcOf uQL l, kind := kLINK_DOWN, cls := clsContained, slice := some sl, addr := some l }

/-- Messages put in one after another are all there, and change nothing else. -/
theorem Hub.foldl_fault (m : Nat → FaultMsg) (l : List Nat) : ∀ h : Hub,
    (∀ n ∈ l, ∃ g, { m n with gen := g } ∈ (l.foldl (fun h n => h.fault (m n)) h).fcol.msgs) ∧
    (∀ x ∈ h.fcol.msgs, x ∈ (l.foldl (fun h n => h.fault (m n)) h).fcol.msgs) ∧
    l.foldl (fun h n => h.fault (m n)) h = { h with fcol := (l.foldl (fun h n => h.fault (m n)) h).fcol } := by
  induction l with
  | nil => intro h; exact ⟨fun n hn => absurd hn List.not_mem_nil, fun x hx => hx, rfl⟩
  | cons a l ih =>
    intro h
    obtain ⟨hall, hkept, heq⟩ := ih (h.fault (m a))
    refine ⟨fun n hn => ?_, fun x hx => hkept x (List.mem_append_left _ hx), heq⟩
    rcases List.mem_cons.mp hn with rfl | hn
    · exact ⟨_, hkept _ (List.mem_append_right _ (List.mem_singleton_self _))⟩
    · exact hall n hn

/-- A link that goes down with no request of its own under way. -/
theorem Hub.downLink_of_no_tags {h : Hub} {l : Nat} (ht : h.linkTags l = []) :
    h.downLink l = ((h.linkSlices l).foldl (fun h sl => h.fault (downFault l sl)) (h.emptied l)).pump := by
  unfold Hub.downLink
  rw [ht]
  rfl

theorem exec_linkStall {s : State} {l : LinkId} {vc : Fin 3} {since : Nat} (hs : (s.hub.link l).starved.getD vc none = some since) :
    exec (.linkStall l vc) s = .next (s.withHub (if since + psMs ≤ s.hub.now then
      (s.hub.updLink l (fun k => { k with starved := k.starved.set vc (some s.hub.now) })).lkFault l kLINK_STALL clsCorrected else s.hub)) := by
  simp only [exec, execLinkStall, onHub, hs]
  rfl

/-- Settles O48: each event of a link's life is one rule on its record and its registers. -/
theorem linksComeUpRetrainAndGoDown : Obligations.LinksComeUpRetrainAndGoDown := by
  refine fun s l => ⟨fun o hm he hr hd => ⟨fun hst => ?enable, fun hst => ?absent⟩, fun o hm he hst => ⟨fun hd => ?retrain, fun hr => ?down⟩,
    fun hu => ?lost, fun ht hlate ok peer d => exec_of_hub (k := s.hub.bringupDone l ok peer d) rfl (Hub.bringupDone_of_late ht hlate ok peer d),
    fun ht hl peer d hd => ⟨?up, fun hf => ?again, fun hf => ?third⟩, fun ht d hd => ⟨fun hv => ?retrained, ?failed⟩, fun ht => ?emptied,
    fun o hm => ?clear, ?wake, fun vc since hs => ⟨fun hle => ?stall, fun hlt => exec_of_hub_same (exec_linkStall hs) (if_neg (Nat.not_le.mpr hlt))⟩⟩
  case enable =>
    have hen : vFlag (setFld (s.hub.reg (rQL_LINK_CTL l)) fQL_LINK_CTL_EN 1) fQL_LINK_CTL_EN = true := vFlag_setFld_same _ (by decide) (by decide)
    obtain ⟨k, hk⟩ : ∃ k, k = s.hub.ctlWritten l (setFld (s.hub.reg (rQL_LINK_CTL l)) fQL_LINK_CTL_EN 1) := ⟨_, rfl⟩
    have hacts := Hub.ctlActs_of_disabled hen hst
    rw [← hk] at hacts
    have hreg {a : Nat} (ha : a ≠ rQL_LINK_CTL l) : k.reg a = s.hub.reg a := hk ▸ Hub.reg_ctlWritten ha
    have hlink : k.link = s.hub.link := hk ▸ rfl
    refine ⟨_, exec_of_hub (exec_linkEnable hm) hacts, k.lkState_startBringup l, ?_, ?_, fun m hne => ?_, ?_, fun a ha ha' => ?_⟩
    · refine Hub.flag_of_fld_eq_one ((Hub.fld_congr (k := k.setLk l lkTRAINING) rfl _ _).trans ((Hub.fld_setF_ne _ _ _ _ (linkCtl_ne_linkSts l)).trans ?_))
      exact hk ▸ Hub.en_ctlWritten hen
    · exact (k.link_startBringup l).trans (by rw [hlink, hk]; rfl)
    · exact (Hub.link_setLink_ne _ _ hne).trans (congrFun hlink m)
    · rw [hk]; rfl
    · exact (Hub.reg_setF_ne k _ _ ha').trans (hreg ha)
  case absent =>
    refine ⟨_, exec_of_hub (exec_linkEnable hm) (Hub.ctlActs_of_absent hst), (Hub.fld_ctlWritten _).trans hst⟩
  case retrain =>
    have hen : vFlag (setFld (s.hub.reg (rQL_LINK_CTL l)) fQL_LINK_CTL_RETRAIN 1) fQL_LINK_CTL_EN = true :=
      Hub.vFlag_setFld_disj he rfl (by decide) (by decide)
    have hnd : vFlag (setFld (s.hub.reg (rQL_LINK_CTL l)) fQL_LINK_CTL_RETRAIN 1) fQL_LINK_CTL_DOWN = false :=
      Hub.vFlag_setFld_disj hd rfl (by decide) (by decide)
    have hre : vFlag (setFld (s.hub.reg (rQL_LINK_CTL l)) fQL_LINK_CTL_RETRAIN 1) fQL_LINK_CTL_RETRAIN = true :=
      vFlag_setFld_same _ (by decide) (by decide)
    obtain ⟨k, hk⟩ : ∃ k, k = s.hub.ctlWritten l (setFld (s.hub.reg (rQL_LINK_CTL l)) fQL_LINK_CTL_RETRAIN 1) := ⟨_, rfl⟩
    have hfld (g : Fld) : k.fld (rQL_LINK_STS l) g = s.hub.fld (rQL_LINK_STS l) g := hk ▸ Hub.fld_ctlWritten g
    have hacts := Hub.ctlActs_of_retrain hen hst hnd hre
    rw [← hk] at hacts
    obtain ⟨hstate, hcount, hlinks, -, -⟩ := Hub.retrainLink_facts (.inl ((hfld _).trans hst))
    rw [hfld] at hcount
    exact ⟨_, exec_of_hub (exec_linkRetrain hm) hacts, hstate, hlinks.trans (hk ▸ rfl), hcount⟩
  case down =>
    exact exec_of_hub (exec_linkDown hm) (Hub.ctlActs_of_down (Hub.vFlag_setFld_disj he rfl (by decide) (by decide)) hst
      (vFlag_setFld_same _ (by decide) (by decide)) (Hub.vFlag_setFld_disj hr rfl (by decide) (by decide)))
  case lost =>
    obtain ⟨hstate, -, hlinks, hmsg, hregs⟩ := Hub.retrainLink_facts hu
    exact ⟨s.withHub (s.hub.retrainLink l), rfl, hstate, hlinks, hmsg, hregs⟩
  case up =>
    obtain ⟨k, hk⟩ : ∃ k, k = s.hub.broughtUp l peer d := ⟨_, rfl⟩
    have hup := Hub.bringupDone_of_ok ht hl peer d
    rw [← hk] at hup
    obtain ⟨c, hc⟩ := k.link_sendCredit l
    have hlink : k.link l = (s.hub.link l).broughtUp := hk ▸ s.hub.link_broughtUp l peer
    rw [hlink] at hc
    refine ⟨_, exec_of_hub (k := s.hub.bringupDone l true peer d) rfl hup, ?_, ?_, ?_, congrArg LinkRt.replay hc, congrArg LinkRt.bseq hc,
      congrArg LinkRt.rxSeq hc, (congrArg LinkRt.vc0 hc :)⟩
    · exact (Hub.fld_congr (k.regs_sendCredit l) _ _).trans (hk ▸ s.hub.lkState_broughtUp l peer)
    · exact (Hub.fld_congr (k.regs_sendCredit l) _ _).trans (hk ▸ s.hub.peerLink_broughtUp l peer (by omega))
    · exact (Hub.fld_congr (k.regs_sendCredit l) _ _).trans (hk ▸ s.hub.delay_broughtUp l peer hd)
  case again =>
    obtain ⟨k, hk⟩ : ∃ k, k = s.hub.startBringup l := ⟨_, rfl⟩
    have hagain := (Hub.bringupDone_of_failed ht hl peer d).trans (if_neg (Nat.not_le.mpr hf))
    rw [← hk] at hagain
    refine ⟨_, exec_of_hub (k := s.hub.bringupDone l false peer d) rfl hagain, hk ▸ s.hub.lkState_startBringup l, ?_⟩
    refine (congrArg LinkRt.bringFails (Hub.link_updLink k l (fun k => { k with bringFails := k.bringFails + 1 }))).trans ?_
    rw [hk, s.hub.link_startBringup l]
  case third => exact exec_of_hub (k := s.hub.bringupDone l false peer d) rfl ((Hub.bringupDone_of_failed ht hl peer d).trans (if_pos hf))
  case retrained =>
    have hlink := s.hub.link_retrained l lkUP d
    exact ⟨_, exec_of_hub (k := s.hub.retrainOver l true d) rfl (Hub.retrainOver_of_ok ht d hv), s.hub.lkState_retrained l d (by decide),
      s.hub.delay_retrained l lkUP hd, congrArg LinkRt.resend hlink, (congrArg LinkRt.vc0 hlink :)⟩
  case failed => exact ⟨_, exec_of_hub (k := s.hub.retrainOver l false d) rfl (Hub.retrainOver_of_failed ht d), s.hub.lkState_startBringup l⟩
  case emptied =>
    obtain ⟨h0, hh0⟩ : ∃ h0, h0 = s.hub.emptied l := ⟨_, rfl⟩
    have hstate : h0.lkState l = lkDOWN := by
      rw [hh0]
      exact (Hub.fld_congr (k := (s.hub.setLk l lkDOWN).setF (rQL_LINK_STS l) fQL_LINK_STS_PEER_V 0) rfl _ _).trans
        ((Hub.fld_setF_disj _ _ _ _ _ (by decide) (by decide)).trans (s.hub.lkState_setLk l lkDOWN (by decide)))
    have hlink : h0.link l = {} := hh0 ▸ Hub.link_setLink ..
    have hreqs : h0.reqs = s.hub.reqs := hh0 ▸ rfl
    obtain ⟨hall, -, heq⟩ := Hub.foldl_fault (downFault l) (s.hub.linkSlices l) h0
    have hdown := Hub.downLink_of_no_tags ht
    rw [← hh0] at hdown
    refine ⟨_, hdown, ?_, ?_, ?_, fun sl hsl => ?_⟩
    · rw [heq]; exact hstate
    · rw [heq]; exact hlink
    · rw [heq]; exact hreqs
    · obtain ⟨g, hg⟩ := hall sl hsl
      exact ⟨_, hg, rfl, rfl, rfl⟩
  case clear =>
    exact ⟨_, exec_linkFecClr hm, (Hub.reg_setReg_ne _ _ (linkFec_ne_linkErr l)).trans (Hub.reg_setReg_same ..), Hub.reg_setReg_same .., rfl,
      fun a ha ha' => (Hub.reg_setReg_ne _ _ ha').trans (Hub.reg_setReg_ne _ _ ha)⟩
  case wake =>
    refine ⟨_, exec_of_hub (k := s.hub.updLink l (fun k => { k with low := false })) rfl rfl, ?_, rfl, fun m hne => Hub.link_setLink_ne _ _ hne⟩
    exact congrArg LinkRt.low (Hub.link_updLink s.hub l (fun k => { k with low := false }))
  case stall =>
    refine ⟨_, exec_of_hub (exec_linkStall hs) (if_pos hle), ?_, rfl⟩
    exact List.map_append ..

end Sys2Proof.Machine
end

section
/-! PROOFS. Requests of chiplet engines (R366 to R368). -/

namespace Sys2Proof.Machine

/-- The site with its next packet taken. -/
def Hub.tookPacket (h : Hub) (st : Nat) : Hub := h.setSite st { h.site st with rxSeq := ((h.site st).rxSeq + 1) % 4096 }

theorem Hub.site_setSite (h : Hub) (st : Nat) (x : SiteRt) : (h.setSite st x).site st = x := mapGetD_mapPutD_same ..

/-- Taking a packet opens and closes no engine. -/
theorem Hub.engineOpen_tookPacket (h : Hub) (st e : Nat) : (h.tookPacket st).engineOpen st e = h.engineOpen st e := by
  have hsite : (h.tookPacket st).site st = { h.site st with rxSeq := ((h.site st).rxSeq + 1) % 4096 } := h.site_setSite st _
  unfold Hub.engineOpen
  rw [hsite]
  rfl

/-! ## A packet that arrives -/

section
variable {h : Hub} {st : Nat} {p : Packet} {f : Hub → Hub}

theorem Hub.siteRecv_of_bad (hc : h.siteChkOk st p = false) : h.siteRecv st p f = h.siteChkFail st (pktSeq p) := if_pos (by simp [hc])

variable (hc : h.siteChkOk st p = true)
include hc

theorem Hub.siteRecv_of_next (hs : pktSeq p = (h.site st).rxSeq) : h.siteRecv st p f = f (h.tookPacket st) :=
  (if_neg (by simp [hc])).trans (if_pos hs)

theorem Hub.siteRecv_of_other (hs : pktSeq p ≠ (h.site st).rxSeq) : h.siteRecv st p f =
    if ((h.site st).rxSeq + 4096 - pktSeq p) % 4096 < 2048 then h else h.sendSiteCredit st (h.site st).rxSeq true :=
  (if_neg (by simp [hc])).trans (if_neg hs)

end

/-- The four requests are one rule with an opcode each. -/
theorem exec_engineRequest {s : State} {st : SiteId} {p : Packet} {op : Nat} {c : Instr}
    (hc : (op = 1 ∧ c = .siteWrite st p) ∨ (op = 2 ∧ c = .siteRead st p) ∨ (op = 3 ∧ c = .siteAtomic st p) ∨ (op = 4 ∧ c = .notify st p))
    (ho : (pktOf p).op = op) (hs : s.hub.stState st = stUP) (hh : s.hub.halted = false) :
    exec c s = .next (s.withHub (s.hub.siteRecv st p (fun h => h.engineReq st op p))) := by
  have hpkt (k : Nat) (hk : (pktOf p).op = k) (g : Hub → Hub) : s.hub.sitePkt st p (engineRow k p) g = s.hub.siteRecv st p g :=
    if_pos (by rw [hh, engineRow, hk, hs]; simp [stUP])
  rcases hc with ⟨rfl, rfl⟩ | ⟨rfl, rfl⟩ | ⟨rfl, rfl⟩ | ⟨rfl, rfl⟩
  all_goals exact exec_of_hub (k := s.hub.sitePkt st p (engineRow _ p) (fun h => h.engineReq st _ p)) rfl (hpkt _ ho _)

/-! ## The checks, in their order -/

/-- The answer a request gets where it is not entered. -/
def Hub.engineAnswer (h : Hub) (st op : Nat) (p : Packet) (status : Nat) : Hub :=
  h.sendSite st (mkPacket { op := if op = 4 then 8 else op + 7, engine := (pktOf p).engine, tag := (pktOf p).tag, status := status } [])

/-- The fault a wrong request raises. -/
def Hub.engineWrong (h : Hub) (st : Nat) (p : Packet) (kind cls sl : Nat) : Hub :=
  h.fault { source := srcOf uSITE st, kind := kind, cls := cls, slice := some sl, ctx := some (pktOf p).ctx, aux := (pktOf p).engine }

section
variable {h : Hub} {st op : Nat} {p : Packet}

theorem Hub.engineReq_of_free (ho : h.engineOwner st (pktOf p).engine = none) : h.engineReq st op p = h.engineAnswer st op p 4 := by
  simp only [Hub.engineReq, ho]
  rfl

variable {sl : Nat} (ho : h.engineOwner st (pktOf p).engine = some sl)
include ho

/-- The checks of a request of an engine that a slice holds. -/
theorem Hub.engineReq_of_held : h.engineReq st op p =
    if !h.engineOpen st (pktOf p).engine then h.engineAnswer st op p 4
    else if 16 ≤ h.engineOut st (pktOf p).engine then (h.engineWrong st p kSITE_CREDIT clsCorrected sl).engineAnswer st op p 4
    else if !requestOk op p then (h.engineWrong st p kSITE_PROTO clsContained sl).engineAnswer st op p 1
    else if !h.ctxOn sl (pktOf p).ctx then
      (h.fault { source := srcOf uHTU 0, kind := kCTX_OFF, cls := clsCorrected, slice := some sl, ctx := some (pktOf p).ctx }).engineAnswer st op p 1
    else if op = 4 then (h.raiseVf sl (pktOf p).vec).engineAnswer st op p 0
    else h.enterEngine st sl op p := by
  simp only [Hub.engineReq, ho]
  rfl

end

/-- Settles O49: a packet goes by its check value and number; the next one's request by R368's checks. -/
theorem engineRequestsPassTheirChecks : Obligations.EngineRequestsPassTheirChecks := by
  intro s st p op c hc ho hs hh f h1 wrong answer
  have hexec {k : Hub} (hk : s.hub.siteRecv st p (fun h => h.engineReq st op p) = k) : exec c s = .next (s.withHub k) :=
    exec_of_hub (exec_engineRequest hc ho hs hh) hk
  refine ⟨fun hbad => hexec (Hub.siteRecv_of_bad hbad), fun hok hne hlow => ?old, fun hok hne hhigh => ?ahead, fun hok hseq => ?next⟩
  case old => exact hexec ((Hub.siteRecv_of_other hok hne).trans (if_pos hlow))
  case ahead => exact hexec ((Hub.siteRecv_of_other hok hne).trans (if_neg (Nat.not_lt.mpr hhigh)))
  case next =>
    have hnext {k : Hub} (hk : h1.engineReq st op p = k) : exec c s = .next (s.withHub k) := hexec ((Hub.siteRecv_of_next hok hseq).trans hk)
    have hopen : h1.engineOpen st f.engine = s.hub.engineOpen st f.engine := s.hub.engineOpen_tookPacket st f.engine
    have hout : h1.engineOut st f.engine = s.hub.engineOut st f.engine := rfl
    have hctx (sl k : Nat) : h1.ctxOn sl k = s.hub.ctxOn sl k := rfl
    refine ⟨fun hf => hnext (Hub.engineReq_of_free (h := h1) hf), fun sl hsl => ?_⟩
    have hreq := Hub.engineReq_of_held (h := h1) (op := op) hsl
    rw [hopen, hout] at hreq
    refine ⟨fun hclosed => ?closed, fun hop hfull => ?full, fun hop hroom => ⟨fun hform => ?form, fun hform hoff => ?off, fun hform hon => ⟨fun hn => ?notify, fun hn => ?enter⟩⟩⟩
    case closed => exact hnext (hreq.trans (if_pos (by simp [hclosed])))
    case full => exact hnext (hreq.trans ((if_neg (by simp [hop])).trans (if_pos hfull)))
    all_goals replace hreq := hreq.trans ((if_neg (by simp [hop])).trans (if_neg (Nat.not_le.mpr hroom)))
    case form => exact hnext (hreq.trans (if_pos (by simp [hform])))
    all_goals replace hreq := hreq.trans (if_neg (by simp [hform]))
    case off => exact ⟨_, rfl, rfl, rfl, rfl, hnext (hreq.trans (if_pos (by rw [hctx, hoff]; rfl)))⟩
    all_goals replace hreq := hreq.trans (if_neg (by rw [hctx, hon]; exact Bool.false_ne_true))
    case notify => exact hnext (hreq.trans (if_pos hn))
    case enter => exact hnext (hreq.trans (if_neg hn))

end Sys2Proof.Machine
end

section
/-! PROOFS. MSI-X (R376, R377) and mailboxes (R381, R382). -/

namespace Sys2Proof.Machine

/-! ## Vectors that leave -/

theorem Hub.msixOf_setMsix (h : Hub) (k : Nat) (m : MsixRt) : (h.setMsix k m).msixOf k = m := mapGetD_mapPutD_same ..

/-- With no backlog nothing takes a slot that falls free. -/
theorem Hub.promote_of_no_backlog {h : Hub} {k : Nat} (hb : (h.msixOf k).backlog = []) : h.promote k = h := by
  simp only [Hub.promote, hb, List.foldl_nil]

/-- The record of a link whose oldest vector has left, its Pending Bits now `p`. -/
def MsixRt.left (m : MsixRt) (p : List (Nat × Nat)) : MsixRt := { m with slots := m.slots.tail, pendBits := p }

section
variable {h : Hub} {k : Nat} {v : Nat × Nat} {vs : List (Nat × Nat)} (hs : (h.msixOf k).slots = v :: vs) (hb : (h.msixOf k).backlog = [])
include hs hb

theorem Hub.msixSend_of_open : h.msixSend k false = (h.setMsix k ((h.msixOf k).left ((h.msixOf k).pendBits.erase v))).emit (.msix k v.1 v.2) := by
  have hback : ((h.setMsix k ((h.msixOf k).left ((h.msixOf k).pendBits.erase v))).msixOf k).backlog = [] := by
    rw [Hub.msixOf_setMsix]; exact hb
  rw [← Hub.promote_of_no_backlog hback, MsixRt.left, hs]
  simp only [Hub.msixSend, hs]
  rfl

theorem Hub.msixSend_of_masked : h.msixSend k true =
    h.setMsix k ((h.msixOf k).left (if (h.msixOf k).pendBits.contains v then (h.msixOf k).pendBits else (h.msixOf k).pendBits ++ [v])) := by
  have hback : ((h.setMsix k ((h.msixOf k).left (if (h.msixOf k).pendBits.contains v then (h.msixOf k).pendBits
      else (h.msixOf k).pendBits ++ [v]))).msixOf k).backlog = [] := by
    rw [Hub.msixOf_setMsix]; exact hb
  rw [← Hub.promote_of_no_backlog hback, MsixRt.left, hs]
  simp only [Hub.msixSend, hs]
  rfl

end

theorem Hub.msixSend_of_none {h : Hub} {k : Nat} (hs : (h.msixOf k).slots = []) (masked : Bool) : h.msixSend k masked = h := by
  simp only [Hub.msixSend, hs]

theorem Hub.msixUnmask_of_some {h : Hub} {k n : Nat} {v : Nat × Nat} (hv : (h.msixOf k).pendBits[n]? = some v) :
    h.msixUnmask k n = (h.setMsix k { h.msixOf k with pendBits := (h.msixOf k).pendBits.erase v }).emit (.msix k v.1 v.2) := by
  simp only [Hub.msixUnmask, hv]

theorem Hub.msixUnmask_of_none {h : Hub} {k n : Nat} (hv : (h.msixOf k).pendBits[n]? = none) : h.msixUnmask k n = h := by
  simp only [Hub.msixUnmask, hv]

theorem mem_pendBits_of_masked (p : List (Nat × Nat)) (v : Nat × Nat) : v ∈ if p.contains v then p else p ++ [v] := by
  split
  · rename_i hc
    exact List.contains_iff_mem.mp hc
  · exact List.mem_append_right _ (List.mem_singleton_self _)

section
variable {s : State} {k : HostLink} (hr : s.hub.msixRuns k = true)
include hr

theorem exec_msixSend_oldest (masked : Bool) : exec (.msixSend k (.oldest masked)) s = .next (s.withHub (s.hub.msixSend k masked)) := by
  simp only [exec, execMsixSend, onHub, hr]
  rfl

theorem exec_msixSend_pending (n : Nat) : exec (.msixSend k (.pending n)) s = .next (s.withHub (s.hub.msixUnmask k n)) := by
  simp only [exec, execMsixSend, onHub, hr]
  rfl

end

theorem exec_msixSend_of_stopped {s : State} {k : HostLink} (hr : s.hub.msixRuns k = false) (x : MsixPick) : exec (.msixSend k x) s = .next s := by
  simp only [exec, execMsixSend, onHub, hr]
  rfl

/-! ## Mailboxes -/

/-- A message as it is queued, with its number. -/
def stamped (m : List Byte) (n : Nat) : List Byte := patch m 0 (toLE 2 n)

theorem Hub.mbx_setMbx (h : Hub) (sl : Nat) (x : Mailbox) : (h.setMbx sl x).mbx sl = x := mapGetD_mapPutD_same ..

/-- The tenant's control register written. -/
def Hub.mbxTWritten (h : Hub) (sl : Nat) (v : Word) : Hub := h.regOk.writeRW (rMBX_T_CTL sl) [fMBX_T_CTL_IRQ_EN, fMBX_T_CTL_VECTOR] [] v

/-- The manager's control register written. -/
def Hub.mbxMWritten (h : Hub) (sl : Nat) (v : Word) : Hub := h.regOk.writeRW (rMBX_M_CTL sl) [fMBX_M_CTL_IRQ_EN, fMBX_M_CTL_VECTOR] [] v

/-- The words a message is composed of are as they were where its registers are. -/
theorem Hub.composed_congr {h k : Hub} {txd : Nat → Nat} (hr : ∀ n < 8, h.reg (txd n) = k.reg (txd n)) : h.composed txd = k.composed txd :=
  List.flatMap_congr fun n hn => by rw [hr n (List.mem_range.mp hn)]

section
variable {h : Hub} {sl : Nat} {v : Word}

theorem Hub.reg_mbxTWritten {a : Nat} (ha : a ≠ rMBX_T_CTL sl) : (h.mbxTWritten sl v).reg a = h.reg a := Hub.reg_setReg_ne _ _ ha

theorem Hub.reg_mbxMWritten {a : Nat} (ha : a ≠ rMBX_M_CTL sl) : (h.mbxMWritten sl v).reg a = h.reg a := Hub.reg_setReg_ne _ _ ha

theorem Hub.composed_mbxTWritten : (h.mbxTWritten sl v).composed (rMBX_T_TXDn sl) = h.composed (rMBX_T_TXDn sl) :=
  Hub.composed_congr fun n hn => Hub.reg_mbxTWritten (by unfold rMBX_T_TXDn rMBX_T_CTL; omega)

theorem Hub.composed_mbxMWritten : (h.mbxMWritten sl v).composed (rMBX_M_TXDn sl) = h.composed (rMBX_M_TXDn sl) :=
  Hub.composed_congr fun n hn => Hub.reg_mbxMWritten (by unfold rMBX_M_TXDn rMBX_M_CTL; omega)

end

/-- A message that may be queued toward the manager. -/
theorem Hub.sendToMgr_of_room {h : Hub} {sl : Nat} (hq : mayQueue (h.mbx sl).toMgr (h.composed (rMBX_T_TXDn sl)) = true) :
    (h.sendToMgr sl).mbx sl = { h.mbx sl with
      toMgr := (h.mbx sl).toMgr ++ [stamped (h.composed (rMBX_T_TXDn sl)) (((h.mbx sl).seqM + 1) % 65536)], seqM := ((h.mbx sl).seqM + 1) % 65536 } ∧
    ∀ a, (h.sendToMgr sl).reg a = h.reg a := by
  have hsend : h.sendToMgr sl = (h.setMbx sl { h.mbx sl with
      toMgr := (h.mbx sl).toMgr ++ [stamped (h.composed (rMBX_T_TXDn sl)) (((h.mbx sl).seqM + 1) % 65536)],
      seqM := ((h.mbx sl).seqM + 1) % 65536 }).raisePfOf sl 1 := if_pos hq
  rw [hsend, Hub.raisePfOf_eq]
  exact ⟨Hub.mbx_setMbx .., fun a => rfl⟩

theorem Hub.raiseVf_eq (h : Hub) (sl vec : Nat) : h.raiseVf sl vec = { h with msix := (h.raiseVf sl vec).msix } := by
  unfold Hub.raiseVf
  split
  · rfl
  · exact Hub.raiseVec_eq ..

/-- A message that may be queued toward the tenant. -/
theorem Hub.sendToTen_of_room {h : Hub} {sl : Nat} (hq : mayQueue (h.mbx sl).toTen (h.composed (rMBX_M_TXDn sl)) = true) :
    (h.sendToTen sl).mbx sl = { h.mbx sl with
      toTen := (h.mbx sl).toTen ++ [stamped (h.composed (rMBX_M_TXDn sl)) (((h.mbx sl).seqT + 1) % 65536)], seqT := ((h.mbx sl).seqT + 1) % 65536 } ∧
    ∀ a, (h.sendToTen sl).reg a = h.reg a := by
  obtain ⟨k, hk⟩ : ∃ k, k = h.setMbx sl { h.mbx sl with
      toTen := (h.mbx sl).toTen ++ [stamped (h.composed (rMBX_M_TXDn sl)) (((h.mbx sl).seqT + 1) % 65536)],
      seqT := ((h.mbx sl).seqT + 1) % 65536 } := ⟨_, rfl⟩
  have hmbx : k.mbx sl = _ := (congrArg (Hub.mbx · sl) hk).trans (Hub.mbx_setMbx ..)
  have hreg (a : Nat) : k.reg a = h.reg a := hk ▸ rfl
  have hsend : h.sendToTen sl = if h.flag (rMBX_T_CTL sl) fMBX_T_CTL_IRQ_EN then k.raiseVf sl (h.fld (rMBX_T_CTL sl) fMBX_T_CTL_VECTOR) else k := by
    rw [hk]
    exact if_pos hq
  rw [hsend]
  split
  · rw [Hub.raiseVf_eq]
    exact ⟨hmbx, hreg⟩
  · exact ⟨hmbx, hreg⟩

/-- What a write of a tenant's mailbox control comes to. -/
def Hub.mbxTActs (h : Hub) (sl : Nat) (v : Word) : Hub :=
  let h2 := if vFlag v fMBX_T_CTL_SEND then (h.mbxTWritten sl v).sendToMgr sl else h.mbxTWritten sl v
  if vFlag v fMBX_T_CTL_POP then h2.setMbx sl { h2.mbx sl with toTen := (h2.mbx sl).toTen.tail } else h2

/-- What a write of a manager's mailbox control comes to. -/
def Hub.mbxMActs (h : Hub) (sl : Nat) (v : Word) : Hub :=
  let h2 := if vFlag v fMBX_M_CTL_SEND then (h.mbxMWritten sl v).sendToTen sl else h.mbxMWritten sl v
  if vFlag v fMBX_M_CTL_POP then h2.setMbx sl { h2.mbx sl with toMgr := (h2.mbx sl).toMgr.tail } else h2

section
variable {s : State} {o : Origin} {sl : SliceId} (hb : s.hub.hostBusy o = false)
include hb

theorem exec_mailboxTenantSend (ho : s.hub.vfOf o = some sl.val) : exec (.mailboxTenantSend o sl) s =
    .next (s.withHub (s.hub.mbxTActs sl (setFld (s.hub.reg (rMBX_T_CTL sl)) fMBX_T_CTL_SEND 1))) := by
  simp only [exec, execMailboxTenantSend, onReg_of hb, Hub.writeMbxT, Hub.tenantWrite, ho, if_true]
  rfl

theorem exec_mailboxTenantPop (ho : s.hub.vfOf o = some sl.val) : exec (.mailboxTenantPop o sl) s =
    .next (s.withHub (s.hub.mbxTActs sl (setFld (s.hub.reg (rMBX_T_CTL sl)) fMBX_T_CTL_POP 1))) := by
  simp only [exec, execMailboxTenantPop, onReg_of hb, Hub.writeMbxT, Hub.tenantWrite, ho, if_true]
  rfl

/-- One that is not the tenant is turned away. -/
theorem exec_mailboxTenant_of_other (ho : s.hub.vfOf o ≠ some sl.val) : exec (.mailboxTenantSend o sl) s = .next (s.withHub (s.hub.turnedAway o)) ∧
    exec (.mailboxTenantPop o sl) s = .next (s.withHub (s.hub.turnedAway o)) := by
  simp only [exec, execMailboxTenantSend, execMailboxTenantPop, onReg_of hb, Hub.writeMbxT, Hub.tenantWrite, if_neg ho, and_self]

end

section
variable {s : State} {o : Origin} {sl : SliceId} (hm : s.hub.mgrActs o)
include hm

theorem exec_mailboxManagerSend : exec (.mailboxManagerSend o sl) s =
    .next (s.withHub (s.hub.mbxMActs sl (setFld (s.hub.reg (rMBX_M_CTL sl)) fMBX_M_CTL_SEND 1))) := by
  simp only [exec, execMailboxManagerSend, onReg_of hm.notBusy, Hub.writeMbxM, Hub.mgrWrite_of _ _ _ hm.isMgr]
  rfl

theorem exec_mailboxManagerPop : exec (.mailboxManagerPop o sl) s =
    .next (s.withHub (s.hub.mbxMActs sl (setFld (s.hub.reg (rMBX_M_CTL sl)) fMBX_M_CTL_POP 1))) := by
  simp only [exec, execMailboxManagerPop, onReg_of hm.notBusy, Hub.writeMbxM, Hub.mgrWrite_of _ _ _ hm.isMgr]
  rfl

end

section
variable {h : Hub} {sl : Nat} {v : Word}

theorem Hub.mbxTActs_of_send (hs : vFlag v fMBX_T_CTL_SEND = true) (hp : vFlag v fMBX_T_CTL_POP = false) :
    h.mbxTActs sl v = (h.mbxTWritten sl v).sendToMgr sl := by
  simp only [Hub.mbxTActs, hs, hp, if_true, Bool.false_eq_true, if_false]

theorem Hub.mbxTActs_of_pop (hs : vFlag v fMBX_T_CTL_SEND = false) (hp : vFlag v fMBX_T_CTL_POP = true) : h.mbxTActs sl v =
    (h.mbxTWritten sl v).setMbx sl { h.mbx sl with toTen := (h.mbx sl).toTen.tail } := by
  simp only [Hub.mbxTActs, hs, hp, if_true, Bool.false_eq_true, if_false]
  rfl

theorem Hub.mbxMActs_of_send (hs : vFlag v fMBX_M_CTL_SEND = true) (hp : vFlag v fMBX_M_CTL_POP = false) :
    h.mbxMActs sl v = (h.mbxMWritten sl v).sendToTen sl := by
  simp only [Hub.mbxMActs, hs, hp, if_true, Bool.false_eq_true, if_false]

theorem Hub.mbxMActs_of_pop (hs : vFlag v fMBX_M_CTL_SEND = false) (hp : vFlag v fMBX_M_CTL_POP = true) : h.mbxMActs sl v =
    (h.mbxMWritten sl v).setMbx sl { h.mbx sl with toMgr := (h.mbx sl).toMgr.tail } := by
  simp only [Hub.mbxMActs, hs, hp, if_true, Bool.false_eq_true, if_false]
  rfl

end

/-- Settles O51: one vector leaves at a time; a message goes into its box, or is refused there. -/
theorem messagesLeaveTowardHosts : Obligations.MessagesLeaveTowardHosts := by
  refine ⟨fun s k v vs hs hb hr => ⟨?open_, ?masked⟩, fun s k hr => ⟨fun hs masked => ?none, fun n v hv => ?pending, fun n hv => ?notPending⟩,
    fun s k x hr => exec_msixSend_of_stopped hr x, fun s o sl ho hb hs hp => ?tenant, fun s o sl hm hs hp => ?manager,
    fun s o sl hb ho => exec_mailboxTenant_of_other hb ho⟩
  case open_ =>
    obtain ⟨k', hk⟩ : ∃ k', k' = s.hub.setMsix k ((s.hub.msixOf k).left ((s.hub.msixOf k).pendBits.erase v)) := ⟨_, rfl⟩
    have hm : k'.msixOf k = (s.hub.msixOf k).left ((s.hub.msixOf k).pendBits.erase v) := hk ▸ Hub.msixOf_setMsix ..
    have hsend := Hub.msixSend_of_open hs hb
    rw [← hk] at hsend
    refine ⟨_, exec_of_hub (exec_msixSend_oldest hr false) hsend, congrArg (List.cons (Output.msix k v.1 v.2)) (hk ▸ rfl : k'.out = s.hub.out), ?_,
      congrArg MsixRt.pendBits hm, by rw [hk]; rfl⟩
    exact (congrArg MsixRt.slots hm).trans (congrArg List.tail hs)
  case masked =>
    obtain ⟨p, hpb⟩ : ∃ p, p = if (s.hub.msixOf k).pendBits.contains v then (s.hub.msixOf k).pendBits else (s.hub.msixOf k).pendBits ++ [v] := ⟨_, rfl⟩
    have hm : (s.hub.setMsix k ((s.hub.msixOf k).left p)).msixOf k = (s.hub.msixOf k).left p := Hub.msixOf_setMsix ..
    refine ⟨_, exec_of_hub (exec_msixSend_oldest hr true) (hpb ▸ Hub.msixSend_of_masked hs hb), (congrArg MsixRt.slots hm).trans (congrArg List.tail hs), ?_, rfl⟩
    have hmem : v ∈ p := hpb ▸ mem_pendBits_of_masked ..
    exact (congrArg MsixRt.pendBits hm).symm ▸ hmem
  case none => exact exec_of_hub_same (exec_msixSend_oldest hr masked) (Hub.msixSend_of_none hs masked)
  case pending =>
    obtain ⟨k', hk⟩ : ∃ k', k' = s.hub.setMsix k { s.hub.msixOf k with pendBits := (s.hub.msixOf k).pendBits.erase v } := ⟨_, rfl⟩
    have hm : k'.msixOf k = { s.hub.msixOf k with pendBits := (s.hub.msixOf k).pendBits.erase v } := hk ▸ Hub.msixOf_setMsix ..
    have hsend := Hub.msixUnmask_of_some hv
    rw [← hk] at hsend
    exact ⟨_, exec_of_hub (exec_msixSend_pending hr n) hsend, congrArg (List.cons (Output.msix k v.1 v.2)) (hk ▸ rfl : k'.out = s.hub.out),
      congrArg MsixRt.pendBits hm, (congrArg MsixRt.slots hm :), by rw [hk]; rfl⟩
  case notPending => exact exec_of_hub_same (exec_msixSend_pending hr n) (Hub.msixUnmask_of_none hv)
  case tenant =>
    intro m
    have hsend := Hub.mbxTActs_of_send (h := s.hub) (sl := sl) (vFlag_setFld_same (s.hub.reg (rMBX_T_CTL sl)) (f := fMBX_T_CTL_SEND) (by decide) (by decide))
      (Hub.vFlag_setFld_disj hp rfl (by decide) (by decide))
    have hpop := Hub.mbxTActs_of_pop (h := s.hub) (sl := sl) (Hub.vFlag_setFld_disj (f := fMBX_T_CTL_POP) hs rfl (by decide) (by decide))
      (vFlag_setFld_same (s.hub.reg (rMBX_T_CTL sl)) (by decide) (by decide))
    obtain ⟨k, hk⟩ : ∃ k, k = s.hub.mbxTWritten sl (setFld (s.hub.reg (rMBX_T_CTL sl)) fMBX_T_CTL_SEND 1) := ⟨_, rfl⟩
    have hmsg : k.composed (rMBX_T_TXDn sl) = m := hk ▸ Hub.composed_mbxTWritten
    have hbox : k.mbx sl = s.hub.mbx sl := hk ▸ rfl
    have hreg {a : Nat} (ha : a ≠ rMBX_T_CTL sl) : k.reg a = s.hub.reg a := hk ▸ Hub.reg_mbxTWritten ha
    rw [← hk] at hsend
    refine ⟨fun hq => ?_, fun hq => ?_, ?_⟩
    · obtain ⟨hsent, hregs⟩ := Hub.sendToMgr_of_room (h := k) (sl := sl) (by rw [hbox, hmsg]; exact hq)
      rw [hbox, hmsg] at hsent
      exact ⟨_, exec_of_hub (exec_mailboxTenantSend hb ho) hsend, congrArg Mailbox.toMgr hsent, congrArg Mailbox.seqM hsent, (congrArg Mailbox.toTen hsent :),
        fun a ha => (hregs a).trans (hreg ha)⟩
    · have hno : k.sendToMgr sl = k.setF (rMBX_T_STS sl) fMBX_T_STS_TX_REFUSED 1 := if_neg (by rw [hbox, hmsg, hq]; exact Bool.false_ne_true)
      exact ⟨_, exec_of_hub (exec_mailboxTenantSend hb ho) (hsend.trans hno), (hk ▸ rfl : k.mail = s.hub.mail), Hub.flag_setF_same _ _ _ _ (by decide),
        fun a ha ha' => (Hub.reg_setF_ne _ _ _ ha').trans (hreg ha)⟩
    · have hpopped := Hub.mbx_setMbx (s.hub.mbxTWritten sl (setFld (s.hub.reg (rMBX_T_CTL sl)) fMBX_T_CTL_POP 1)) sl
        { s.hub.mbx sl with toTen := (s.hub.mbx sl).toTen.tail }
      exact ⟨_, exec_of_hub (exec_mailboxTenantPop hb ho) hpop, congrArg Mailbox.toTen hpopped, (congrArg Mailbox.toMgr hpopped :),
        fun a ha => Hub.reg_mbxTWritten ha⟩
  case manager =>
    intro m
    have hsend := Hub.mbxMActs_of_send (h := s.hub) (sl := sl) (vFlag_setFld_same (s.hub.reg (rMBX_M_CTL sl)) (f := fMBX_M_CTL_SEND) (by decide) (by decide))
      (Hub.vFlag_setFld_disj hp rfl (by decide) (by decide))
    have hpop := Hub.mbxMActs_of_pop (h := s.hub) (sl := sl) (Hub.vFlag_setFld_disj (f := fMBX_M_CTL_POP) hs rfl (by decide) (by decide))
      (vFlag_setFld_same (s.hub.reg (rMBX_M_CTL sl)) (by decide) (by decide))
    obtain ⟨k, hk⟩ : ∃ k, k = s.hub.mbxMWritten sl (setFld (s.hub.reg (rMBX_M_CTL sl)) fMBX_M_CTL_SEND 1) := ⟨_, rfl⟩
    have hmsg : k.composed (rMBX_M_TXDn sl) = m := hk ▸ Hub.composed_mbxMWritten
    have hbox : k.mbx sl = s.hub.mbx sl := hk ▸ rfl
    have hreg {a : Nat} (ha : a ≠ rMBX_M_CTL sl) : k.reg a = s.hub.reg a := hk ▸ Hub.reg_mbxMWritten ha
    rw [← hk] at hsend
    refine ⟨fun hq => ?_, fun hq => ?_, ?_⟩
    · obtain ⟨hsent, hregs⟩ := Hub.sendToTen_of_room (h := k) (sl := sl) (by rw [hbox, hmsg]; exact hq)
      rw [hbox, hmsg] at hsent
      exact ⟨_, exec_of_hub (exec_mailboxManagerSend hm) hsend, congrArg Mailbox.toTen hsent, congrArg Mailbox.seqT hsent, (congrArg Mailbox.toMgr hsent :),
        fun a ha => (hregs a).trans (hreg ha)⟩
    · have hno : k.sendToTen sl = k.setF (rMBX_M_STS sl) fMBX_M_STS_TX_REFUSED 1 := if_neg (by rw [hbox, hmsg, hq]; exact Bool.false_ne_true)
      exact ⟨_, exec_of_hub (exec_mailboxManagerSend hm) (hsend.trans hno), (hk ▸ rfl : k.mail = s.hub.mail), Hub.flag_setF_same _ _ _ _ (by decide),
        fun a ha ha' => (Hub.reg_setF_ne _ _ _ ha').trans (hreg ha)⟩
    · have hpopped := Hub.mbx_setMbx (s.hub.mbxMWritten sl (setFld (s.hub.reg (rMBX_M_CTL sl)) fMBX_M_CTL_POP 1)) sl
        { s.hub.mbx sl with toMgr := (s.hub.mbx sl).toMgr.tail }
      exact ⟨_, exec_of_hub (exec_mailboxManagerPop hm) hpop, congrArg Mailbox.toMgr hpopped, (congrArg Mailbox.toTen hpopped :),
        fun a ha => Hub.reg_mbxMWritten ha⟩

end Sys2Proof.Machine
end

section
/-! PROOFS. Functions that come and go (R376 to R379). -/

namespace Sys2Proof.Machine

theorem exec_vfFunctionLevelReset {s : State} {port : Fin 2} {i : Nat} (hp : s.hub.presented port i = true) :
    exec (.vfFunctionLevelReset port i) s = .next (s.withHub (match s.hub.vfSlice port i with
      | none => s.hub.emit (.flrDone (.vf port i))
      | some sl => if ((({ s.hub with flrs := s.hub.flrs ++ [(HostFn.vf port i, [sl])] } : Hub).functionReset sl).rt sl).resetting then
          ({ s.hub with flrs := s.hub.flrs ++ [(HostFn.vf port i, [sl])] } : Hub).functionReset sl
        else (({ s.hub with flrs := s.hub.flrs ++ [(HostFn.vf port i, [sl])] } : Hub).functionReset sl).flrStep sl)) :=
  exec_of_hub (k := if !s.hub.presented port i then s.hub else _) rfl (if_neg (by simp [hp]))

theorem exec_vfFunctionLevelReset_of_absent {s : State} {port : Fin 2} {i : Nat} (hp : s.hub.presented port i = false) :
    exec (.vfFunctionLevelReset port i) s = .next s :=
  exec_of_hub_same (k := if !s.hub.presented port i then s.hub else _) rfl (if_pos (by simp [hp]))

/-- With no slice no virtual function serves one, and the write changes the link's register alone. -/
theorem Hub.setVfs_of_no_slice {h : Hub} (hs : h.forme.slices = []) (k n : Nat) (en : Bool) : h.setVfs k n en =
    (h.setF (rHOST_LINK_STS k) fHOST_LINK_STS_NUMVFS (min n (if h.portSplit (k / 2) then 1024 else 2048))).setF (rHOST_LINK_STS k)
      fHOST_LINK_STS_VF_EN (b2n en) := by
  have hno : h.linkVfs k = [] := by simp [Hub.linkVfs, hs]
  unfold Hub.setVfs
  dsimp only
  rw [hno]
  rfl

/-- The link down, with its functions gone. -/
def Hub.wentDown (k : Hub) (l : Nat) : Hub :=
  ((k.setF (rHOST_LINK_STS l) fHOST_LINK_STS_STATE 3).setF (rHOST_LINK_STS l) fHOST_LINK_STS_WIDTH 0).setF (rHOST_LINK_STS l) fHOST_LINK_STS_SPEED 0

theorem exec_hostLinkDown {s : State} {k : HostLink} (hu : s.hub.linkUsed k = true) (hs : s.hub.fld (rHOST_LINK_STS k) fHOST_LINK_STS_STATE = 2) :
    exec (.hostLinkDown k) s = .next (s.withHub (((s.hub.setVfs k 0 false).endManager k).wentDown k)) :=
  exec_of_hub (k := if s.hub.linkUsed k ∧ s.hub.fld (rHOST_LINK_STS k) fHOST_LINK_STS_STATE = 2 then _ else s.hub) rfl (if_pos ⟨hu, hs⟩)

theorem Hub.wentDown_facts (k : Hub) (l : Nat) : (k.wentDown l).fld (rHOST_LINK_STS l) fHOST_LINK_STS_STATE = 3 ∧
    (k.wentDown l).fld (rHOST_LINK_STS l) fHOST_LINK_STS_WIDTH = 0 ∧ (k.wentDown l).fld (rHOST_LINK_STS l) fHOST_LINK_STS_SPEED = 0 :=
  ⟨(Hub.fld_setF_disj _ _ _ _ _ (by decide) (by decide)).trans ((Hub.fld_setF_disj _ _ _ _ _ (by decide) (by decide)).trans (Hub.fld_setF_same _ _ _ _ (by decide))),
    (Hub.fld_setF_disj _ _ _ _ _ (by decide) (by decide)).trans (Hub.fld_setF_same _ _ _ _ (by decide)), Hub.fld_setF_same _ _ _ _ (by decide)⟩

/-- The link up, with its width and speed. -/
def Hub.cameUp (h : Hub) (l w g : Nat) : Hub :=
  ((h.setF (rHOST_LINK_STS l) fHOST_LINK_STS_STATE 2).setF (rHOST_LINK_STS l) fHOST_LINK_STS_WIDTH w).setF (rHOST_LINK_STS l) fHOST_LINK_STS_SPEED g

theorem Hub.cameUp_facts (h : Hub) (l : Nat) {w g : Nat} (hw : w < 32) (hg : g < 8) : (h.cameUp l w g).fld (rHOST_LINK_STS l) fHOST_LINK_STS_STATE = 2 ∧
    (h.cameUp l w g).fld (rHOST_LINK_STS l) fHOST_LINK_STS_WIDTH = w ∧ (h.cameUp l w g).fld (rHOST_LINK_STS l) fHOST_LINK_STS_SPEED = g :=
  ⟨(Hub.fld_setF_disj _ _ _ _ _ (by decide) (by decide)).trans ((Hub.fld_setF_disj _ _ _ _ _ (by decide) (by decide)).trans (Hub.fld_setF_same _ _ _ _ (by decide))),
    (Hub.fld_setF_disj _ _ _ _ _ (by decide) (by decide)).trans ((Hub.fld_setF_same _ _ _ _ (by decide)).trans (Nat.mod_eq_of_lt hw)),
    (Hub.fld_setF_same _ _ _ _ (by decide)).trans (Nat.mod_eq_of_lt hg)⟩

theorem exec_hostLinkUp {s : State} {k : HostLink} {w g : Nat} (hc : s.hub.linkUsed k ∧ s.hub.fld (rHOST_LINK_STS k) fHOST_LINK_STS_STATE ≠ 2 ∧ 1 ≤ w ∧
    w ≤ 16 ∧ 1 ≤ g ∧ g ≤ 6) : exec (.hostLinkUp k w g) s = .next (s.withHub (s.hub.cameUp k w g)) :=
  exec_of_hub (k := if s.hub.linkUsed k ∧ s.hub.fld (rHOST_LINK_STS k) fHOST_LINK_STS_STATE ≠ 2 ∧ 1 ≤ w ∧ w ≤ 16 ∧ 1 ≤ g ∧ g ≤ 6 then _ else s.hub) rfl
    (if_pos hc)

/-- Settles O52: each event of a function or its link is taken where the link is in use. -/
theorem functionsAreResetAndRemoved : Obligations.FunctionsAreResetAndRemoved := by
  refine ⟨fun s port i => ⟨exec_vfFunctionLevelReset_of_absent, fun hp hv => ?free, fun sl hp hv => ?serves⟩,
    fun s k hu => ⟨?pf, fun n en => ?vfs, fun n hn hs => ?vfsAlone, fun hst => ?down, fun w g hst hw1 hw hg1 hg => ?up⟩, fun s k hu => ?unused⟩
  case free => exact (exec_vfFunctionLevelReset hp).trans (by rw [hv])
  case serves =>
    intro h1
    exact (exec_vfFunctionLevelReset hp).trans (by rw [hv])
  case pf => exact exec_of_hub (k := if s.hub.linkUsed k then s.hub.pfReset k else s.hub) rfl (if_pos hu)
  case vfs => exact exec_of_hub (k := if s.hub.linkUsed k then s.hub.setVfs k n en else s.hub) rfl (if_pos hu)
  case vfsAlone =>
    refine ⟨_, exec_of_hub (k := if s.hub.linkUsed k then s.hub.setVfs k n true else s.hub) rfl ((if_pos hu).trans (Hub.setVfs_of_no_slice hs k n true)),
      ?_, ?_, rfl, fun a ha => (Hub.reg_setF_ne _ _ _ ha).trans (Hub.reg_setF_ne _ _ _ ha)⟩
    · refine (Hub.fld_setF_disj _ _ _ _ _ (by decide) (by decide)).trans ((Hub.fld_setF_same _ _ _ _ (by decide)).trans ?_)
      have hmin : min n (if s.hub.portSplit (k / 2) then 1024 else 2048) = n := by split <;> omega
      rw [hmin]
      exact Nat.mod_eq_of_lt (Nat.lt_of_le_of_lt hn (by decide))
    · exact Hub.flag_setF_same _ _ _ _ (by decide)
  case down =>
    obtain ⟨m, hm⟩ : ∃ m, m = (s.hub.setVfs k 0 false).endManager k := ⟨_, rfl⟩
    have hexec := exec_hostLinkDown hu hst
    rw [← hm] at hexec
    exact ⟨_, hexec, m.wentDown_facts k⟩
  case up =>
    obtain ⟨hstate, hwidth, hspeed⟩ := s.hub.cameUp_facts k (w := w) (g := g) (by omega) (by omega)
    exact ⟨_, exec_hostLinkUp ⟨hu, hst, hw1, hw, hg1, hg⟩, hstate, hwidth, hspeed, rfl,
      fun a ha => (Hub.reg_setF_ne _ _ _ ha).trans ((Hub.reg_setF_ne _ _ _ ha).trans (Hub.reg_setF_ne _ _ _ ha))⟩
  case unused =>
    have hno : ¬ s.hub.linkUsed k = true := ne_true_of_eq_false hu
    refine ⟨exec_of_hub_same (k := if s.hub.linkUsed k then s.hub.pfReset k else s.hub) rfl (if_neg hno),
      exec_of_hub_same (k := if s.hub.linkUsed k ∧ s.hub.fld (rHOST_LINK_STS k) fHOST_LINK_STS_STATE = 2 then _ else s.hub) rfl (if_neg fun h => hno h.1),
      fun n en w g => ⟨exec_of_hub_same (k := if s.hub.linkUsed k then s.hub.setVfs k n en else s.hub) rfl (if_neg hno), ?_⟩⟩
    exact exec_of_hub_same (k := if s.hub.linkUsed k ∧ s.hub.fld (rHOST_LINK_STS k) fHOST_LINK_STS_STATE ≠ 2 ∧ 1 ≤ w ∧ w ≤ 16 ∧ 1 ≤ g ∧ g ≤ 6 then _
      else s.hub) rfl (if_neg fun h => hno h.1)

end Sys2Proof.Machine
end

section
/-! PROOFS. A fault message: its class, its record and what it does (R387 to R402). -/

namespace Sys2Proof.Machine

variable {h : Hub} {m : FaultMsg}

/-! ## The class of a message (R394 to R397) -/

theorem Hub.classed_of_new (hk : h.holdsKey m m.cls = false) :
    h.classed m = { msg := m, cls := m.cls, esc := false, lock := false, seq := h.fcol.seq } := if_pos (by simp [hk])

theorem Hub.classed_of_fatal (hf : m.cls = clsFatal) :
    h.classed m = { msg := m, cls := m.cls, esc := false, lock := false, seq := h.fcol.seq } := if_pos (by simp [hf])

theorem Hub.classed_of_locked (hk : h.holdsKey m m.cls = true) (hc : m.cls = clsContained) (hs : m.slice.isSome = true) :
    h.classed m = { msg := m, cls := clsContained, esc := true, lock := true, seq := h.fcol.seq } :=
  (if_neg (by rw [hk, hc]; decide)).trans (if_pos (by simp [hc, hs]))

theorem Hub.classed_of_raised (hk : h.holdsKey m m.cls = true) (hf : m.cls ≠ clsFatal) (hc : m.cls = clsContained → m.slice.isSome = false) :
    h.classed m = { msg := m, cls := m.cls + 1, esc := true, lock := false, seq := h.fcol.seq } :=
  (if_neg (by simp [hk, hf])).trans (if_neg (by simpa using hc))

/-- A message that names a slice is never raised to fatal. -/
theorem Hub.classed_cls_ne_fatal (hf : m.cls ≠ clsFatal) (hs : m.slice.isSome = true) : (h.classed m).cls ≠ clsFatal := by
  cases hk : h.holdsKey m m.cls with
  | false => rw [Hub.classed_of_new hk]; exact hf
  | true =>
    by_cases hc : m.cls = clsContained
    · rw [Hub.classed_of_locked hk hc hs]
      exact (by decide : clsContained ≠ clsFatal)
    · rw [Hub.classed_of_raised hk hf (fun h => absurd h hc)]
      simp only [clsFatal, clsContained] at *
      omega

/-- A record keeps its message and takes the collector's next number. -/
theorem Hub.classed_msg_seq (h : Hub) (m : FaultMsg) : (h.classed m).msg = m ∧ (h.classed m).seq = h.fcol.seq := by
  cases hk : h.holdsKey m m.cls with
  | false => rw [Hub.classed_of_new hk]; exact ⟨rfl, rfl⟩
  | true =>
    by_cases hf : m.cls = clsFatal
    · rw [Hub.classed_of_fatal hf]; exact ⟨rfl, rfl⟩
    by_cases hl : m.cls = clsContained ∧ m.slice.isSome = true
    · rw [Hub.classed_of_locked hk hl.1 hl.2]; exact ⟨rfl, rfl⟩
    · rw [Hub.classed_of_raised hk hf (fun hc => by simpa [hc] using hl)]; exact ⟨rfl, rfl⟩

/-- What is classed rests on the registers and on the collector's number and overflowed keys alone. -/
theorem Hub.classed_congr {g h : Hub} (hr : g.regs = h.regs) (ho : g.fcol.ovfKeys = h.fcol.ovfKeys) (hs : g.fcol.seq = h.fcol.seq) (m : FaultMsg) :
    g.classed m = h.classed m := by
  have hu : g.unacked = h.unacked := by simp only [Hub.unacked, Hub.fld_congr hr]
  have hk : g.holdsKey m m.cls = h.holdsKey m m.cls := by simp only [Hub.holdsKey, hu, Hub.reg_congr hr, Hub.flag, Hub.fld_congr hr, ho]
  simp only [Hub.classed, hk, hs]

/-! ## The record (R398 to R402) -/

theorem Hub.putRec_eq (h : Hub) (reg : Nat → Nat) (r : FaultRec) : h.putRec reg r =
    (((h.setReg (reg 0) ((r.words h.now).getD 0 0)).setReg (reg 1) ((r.words h.now).getD 1 0)).setReg (reg 2) ((r.words h.now).getD 2 0)).setReg
      (reg 3) ((r.words h.now).getD 3 0) := rfl

/-- Four registers set change registers alone. -/
theorem Hub.setReg_four (h : Hub) (reg : Nat → Nat) (v0 v1 v2 v3 : Word) :
    (((h.setReg (reg 0) v0).setReg (reg 1) v1).setReg (reg 2) v2).setReg (reg 3) v3 =
      { h with regs := ((((h.setReg (reg 0) v0).setReg (reg 1) v1).setReg (reg 2) v2).setReg (reg 3) v3).regs } := rfl

/-- A record changes registers alone. -/
theorem Hub.putRec_only (h : Hub) (reg : Nat → Nat) (r : FaultRec) : h.putRec reg r = { h with regs := (h.putRec reg r).regs } :=
  ((h.putRec_eq reg r).trans (h.setReg_four reg _ _ _ _)).trans (congrArg (fun g : Hub => { h with regs := g.regs }) (h.putRec_eq reg r).symm)

theorem Hub.reg_putRec_ne (h : Hub) {reg : Nat → Nat} (r : FaultRec) {a : Nat} (ha : ∀ k, k < 4 → a ≠ reg k) : (h.putRec reg r).reg a = h.reg a := by
  rw [Hub.putRec_eq, Hub.reg_setReg_ne _ _ (ha 3 (by decide)), Hub.reg_setReg_ne _ _ (ha 2 (by decide)), Hub.reg_setReg_ne _ _ (ha 1 (by decide)),
    Hub.reg_setReg_ne _ _ (ha 0 (by decide))]

theorem Hub.reg_putRec_same (h : Hub) {reg : Nat → Nat} (r : FaultRec) (hi : ∀ j k, j < k → k < 4 → reg j ≠ reg k) {k : Nat} (hk : k < 4) :
    (h.putRec reg r).reg (reg k) = (r.words h.now).getD k 0 := by
  rw [Hub.putRec_eq]
  match k, hk with
  | 3, _ => exact Hub.reg_setReg_same _ _ _
  | 2, _ => exact (Hub.reg_setReg_ne _ _ (hi 2 3 (by decide) (by decide))).trans (Hub.reg_setReg_same _ _ _)
  | 1, _ =>
    exact (Hub.reg_setReg_ne _ _ (hi 1 3 (by decide) (by decide))).trans
      ((Hub.reg_setReg_ne _ _ (hi 1 2 (by decide) (by decide))).trans (Hub.reg_setReg_same _ _ _))
  | 0, _ =>
    exact (Hub.reg_setReg_ne _ _ (hi 0 3 (by decide) (by decide))).trans ((Hub.reg_setReg_ne _ _ (hi 0 2 (by decide) (by decide))).trans
      ((Hub.reg_setReg_ne _ _ (hi 0 1 (by decide) (by decide))).trans (Hub.reg_setReg_same _ _ _)))

theorem rFCOL_Qi_k_ne {i j k : Nat} (hjk : j < k) : rFCOL_Qi_k i j ≠ rFCOL_Qi_k i k := by unfold rFCOL_Qi_k; omega

theorem rFCOL_Qi_k_ne_ptr (i k : Nat) : rFCOL_Qi_k i k ≠ rFCOL_Q_PTR := by unfold rFCOL_Qi_k rFCOL_Q_PTR; omega

/-- A record put into the queue's slot at PROD. -/
def Hub.queued (h : Hub) (r : FaultRec) : Hub :=
  (h.putRec (rFCOL_Qi_k (h.fld rFCOL_Q_PTR fFCOL_Q_PTR_PROD % 1024)) r).setF rFCOL_Q_PTR fFCOL_Q_PTR_PROD (h.fld rFCOL_Q_PTR fFCOL_Q_PTR_PROD + 1)

/-- Every other part of the hub stays. -/
theorem Hub.queued_eq (h : Hub) (r : FaultRec) : h.queued r = { h with regs := (h.queued r).regs } := by
  unfold Hub.queued
  rw [Hub.putRec_only]
  rfl

theorem Hub.enqueueRec_of_room {r : FaultRec} (hu : h.unacked.length < 1024) : h.enqueueRec r = (.kept, h.queued r) := if_pos hu

theorem Hub.enqueueRec_of_full {r : FaultRec} (hu : ¬ h.unacked.length < 1024) (hc : r.cls = clsCorrected) :
    h.enqueueRec r = (.dropped, h.count rFCOL_OVF fFCOL_OVF_CORR_DROP 1) := by
  unfold Hub.enqueueRec
  rw [if_neg hu, if_pos hc]

theorem Hub.prod_queued (h : Hub) (r : FaultRec) :
    (h.queued r).fld rFCOL_Q_PTR fFCOL_Q_PTR_PROD = (h.fld rFCOL_Q_PTR fFCOL_Q_PTR_PROD + 1) % 2 ^ 32 := Hub.fld_setF_same _ _ _ _ (by decide)

theorem Hub.reg_queued_word (h : Hub) (r : FaultRec) {k : Nat} (hk : k < 4) :
    (h.queued r).reg (rFCOL_Qi_k (h.fld rFCOL_Q_PTR fFCOL_Q_PTR_PROD % 1024) k) = (r.words h.now).getD k 0 :=
  (Hub.reg_setF_ne _ _ _ (rFCOL_Qi_k_ne_ptr _ k)).trans (h.reg_putRec_same r (fun _ _ hjk _ => rFCOL_Qi_k_ne hjk) hk)

theorem Hub.reg_queued_ne (h : Hub) (r : FaultRec) {a : Nat} (hp : a ≠ rFCOL_Q_PTR)
    (hq : ∀ k, k < 4 → a ≠ rFCOL_Qi_k (h.fld rFCOL_Q_PTR fFCOL_Q_PTR_PROD % 1024) k) : (h.queued r).reg a = h.reg a :=
  (Hub.reg_setF_ne _ _ _ hp).trans (h.reg_putRec_ne r hq)

/-- The hub with message `i` taken and SEQ risen. -/
def Hub.numbered (h : Hub) (i : Nat) : Hub :=
  { h with fcol := { h.fcol with msgs := h.fcol.msgs.eraseIdx i, seq := (h.fcol.seq + 1) % 2 ^ 32 } }

/-- The hub with message `i` taken. -/
def Hub.msgTaken (h : Hub) (i : Nat) : Hub := { h with fcol := { h.fcol with msgs := h.fcol.msgs.eraseIdx i } }

theorem Hub.storeFault_msgTaken (h : Hub) (i : Nat) (m : FaultMsg) : (h.msgTaken i).storeFault m =
    (h.classed m, if (h.classed m).cls = clsFatal then (h.numbered i).latchRec (h.classed m) else (h.numbered i).enqueueRec (h.classed m)) := by
  unfold Hub.storeFault
  dsimp only
  rw [Hub.classed_congr (g := h.msgTaken i) (h := h) rfl rfl rfl]
  rfl

theorem Hub.fcol_putRec (h : Hub) (reg : Nat → Nat) (r : FaultRec) : (h.putRec reg r).fcol = h.fcol := by rw [Hub.putRec_only]

theorem Hub.fcol_queued (h : Hub) (r : FaultRec) : (h.queued r).fcol = h.fcol := by rw [Hub.queued_eq]

/-- A contained record that finds no slot is counted. -/
def Hub.uncounted (h : Hub) (r : FaultRec) : Hub :=
  { (h.count rFCOL_OVF fFCOL_OVF_CONT_DROP 1).setF rFCOL_STS fFCOL_STS_OVF_CONTAINED 1 with
    fcol := { h.fcol with ovfKeys := h.fcol.ovfKeys ++ [r.msg.key], quietFrom := h.now } }.setF rFCOL_STS fFCOL_STS_HUB_FAULT 1

theorem Hub.enqueueRec_of_none {r : FaultRec} (hu : ¬ h.unacked.length < 1024) (hc : r.cls ≠ clsCorrected) (ho : h.oldestCorrected = none) :
    h.enqueueRec r = (.uncounted, h.uncounted r) := by
  unfold Hub.enqueueRec
  rw [if_neg hu, if_neg hc, ho]
  rfl

theorem Hub.enqueueRec_of_over {r : FaultRec} {i : Nat} (hu : ¬ h.unacked.length < 1024) (hc : r.cls ≠ clsCorrected)
    (ho : h.oldestCorrected = some i) :
    h.enqueueRec r = (.kept, (h.putRec (rFCOL_Qi_k i) r).count rFCOL_OVF fFCOL_OVF_CORR_DROP 1) := by
  unfold Hub.enqueueRec
  rw [if_neg hu, if_neg hc, ho]

theorem Hub.fcol_uncounted (h : Hub) (r : FaultRec) :
    (h.uncounted r).fcol = { h.fcol with ovfKeys := h.fcol.ovfKeys ++ [r.msg.key], quietFrom := h.now } := rfl

/-- A full queue keeps a record over the oldest corrected one, or counts it. -/
theorem Hub.enqueueRec_fcol (h : Hub) (r : FaultRec) : (h.enqueueRec r).2.fcol.seq = h.fcol.seq ∧ (h.enqueueRec r).2.fcol.msgs = h.fcol.msgs := by
  by_cases hu : h.unacked.length < 1024
  · rw [Hub.enqueueRec_of_room hu, Hub.fcol_queued]
    exact ⟨rfl, rfl⟩
  by_cases hc : r.cls = clsCorrected
  · rw [Hub.enqueueRec_of_full hu hc]
    exact ⟨rfl, rfl⟩
  cases ho : h.oldestCorrected with
  | none =>
    rw [Hub.enqueueRec_of_none hu hc ho, Hub.fcol_uncounted]
    exact ⟨rfl, rfl⟩
  | some i =>
    rw [Hub.enqueueRec_of_over hu hc ho, Hub.fcol_count, Hub.fcol_putRec]
    exact ⟨rfl, rfl⟩

theorem Hub.latchRec_of_full {r : FaultRec} (hs : h.latchSlot = none) : h.latchRec r = (.fifth, h) := by
  unfold Hub.latchRec
  rw [hs]

theorem Hub.latchRec_fcol (h : Hub) (r : FaultRec) : (h.latchRec r).2.fcol = h.fcol := by
  unfold Hub.latchRec
  generalize h.latchSlot = o
  cases o with
  | none => rfl
  | some n =>
    dsimp only
    rw [Hub.fcol_setF, Hub.fcol_setF, Hub.fcol_putRec]

/-- A message taken by a store and its effects of any kind. -/
def faultMessageBy (store : Hub → FaultMsg → FaultRec × Stored × Hub) (act : Fuses → Hub → FaultRec → Stored → BootEnv → Fuses × Hub) (f : Fuses)
    (h : Hub) (i : Nat) (e : BootEnv) : Fuses × Hub :=
  match h.fcol.msgs[i]? with
  | none => (f, h)
  | some m =>
    let h1 : Hub := { h with fcol := { h.fcol with msgs := h.fcol.msgs.eraseIdx i } }
    let (r, st, h2) := store h1 m
    act f h2 r st e

theorem faultMessage_eq_by (f : Fuses) (h : Hub) (i : Nat) (e : BootEnv) : faultMessage f h i e = faultMessageBy Hub.storeFault applyFault f h i e := rfl

theorem faultMessageBy_of_some {store : Hub → FaultMsg → FaultRec × Stored × Hub} {act : Fuses → Hub → FaultRec → Stored → BootEnv → Fuses × Hub}
    {i : Nat} (f : Fuses) (e : BootEnv) (hm : h.fcol.msgs[i]? = some m) : faultMessageBy store act f h i e =
      act f (store (h.msgTaken i) m).2.2 (store (h.msgTaken i) m).1 (store (h.msgTaken i) m).2.1 e := by
  unfold faultMessageBy
  rw [hm]
  rfl

theorem onChip_eq {s : State} {g : Fuses → Hub → Fuses × Hub} {p : Fuses × Hub} (hg : g s.fuses s.hub = p) :
    onChip s g = .next { s with fuses := p.1, hub := p.2 } := by
  subst hg
  rfl

theorem exec_faultMessage_of {s : State} {i : Nat} {e : BootEnv} {p : Fuses × Hub} (hp : faultMessage s.fuses s.hub i e = p) :
    exec (.faultMessage i e) s = .next { s with fuses := p.1, hub := p.2 } := onChip_eq (g := fun f h => faultMessage f h i e) hp

theorem exec_faultMessage {s : State} {i : Nat} {m : FaultMsg} {x : FaultRec × Stored × Hub} (e : BootEnv) (hm : s.hub.fcol.msgs[i]? = some m)
    (hx : (s.hub.msgTaken i).storeFault m = x) : exec (.faultMessage i e) s =
      .next { s with fuses := (applyFault s.fuses x.2.2 x.1 x.2.1 e).1, hub := (applyFault s.fuses x.2.2 x.1 x.2.1 e).2 } :=
  exec_faultMessage_of ((faultMessage_eq_by s.fuses s.hub i e).trans ((faultMessageBy_of_some s.fuses e hm).trans
    (congrArg (fun y : FaultRec × Stored × Hub => applyFault s.fuses y.2.2 y.1 y.2.1 e) hx)))

/-! ## A contained fault of a live slice (R54, R391) -/

theorem Hub.toState_eq (h : Hub) (s st : Nat) : h.toState s st =
    { (h.setF (rSLM_SLICE_STATE s) fSLM_SLICE_STATE_STATE st).setF (rSLM_SLICE_EVT s) fSLM_SLICE_EVT_STATE_CHG 1 with
      slices := (h.mirrorTick s).slices, msix := (h.toState s st).msix } := Hub.raisePfOf_eq _ _ _

theorem Hub.irq_eq (h : Hub) : h.irq = { h with out := h.irq.out, msix := h.irq.msix } := by
  have hport (g : Hub) (b : Bool) (p : Nat) : (if b then g.raisePort p 2 else g) = { g with msix := (if b then g.raisePort p 2 else g).msix } := by
    cases b
    · rfl
    · exact g.raisePort_eq p 2
  unfold Hub.irq
  dsimp only
  rw [hport (if _ = true then _ else _), hport (h.emit .kelvyIrq)]
  rfl

/-- The slice in FAULT, its fault register open for what the fault leaves there. -/
def Hub.faulted (h : Hub) (sl : Nat) (auto : Bool) : Hub :=
  (((h.toState sl slFAULT).setF (rSLM_FAULT sl) fSLM_FAULT_AUTO (b2n auto)).setF (rSLM_FAULT sl) fSLM_FAULT_LOCK 0).updRt sl
    (fun r => { r with faultAt := h.now, votedFault := true })

theorem Hub.enterFault_of_live {sl : Nat} (hl : h.stateOf sl = slLIVE) (hm : h.flag (rSLM_MOVE sl) fSLM_MOVE_BUSY = false) (auto : Bool) :
    h.enterFault sl auto = h.faulted sl auto := by
  unfold Hub.enterFault
  simp only [hl, hm, slLIVE, true_or, if_true, Bool.false_eq_true, if_false]
  rw [Hub.faulted, Hub.toState_eq]
  rfl

theorem Hub.siteCloses_of_other {sl : Nat} (hu : m.source / 1024 ≠ uSITE) : h.siteCloses sl m = h := if_neg (by simp [hu])

/-- SLM_FAULT and SLM_FAULT_ADDR of a record whose slice is not locked. -/
def Hub.noted (h : Hub) (sl : Nat) (r : FaultRec) : Hub :=
  (((((h.setF (rSLM_FAULT sl) fSLM_FAULT_KIND r.msg.kind).setF (rSLM_FAULT sl) fSLM_FAULT_CTX (r.msg.ctx.getD 0)).setF (rSLM_FAULT sl) fSLM_FAULT_CTX_V
    (b2n r.msg.ctx.isSome)).setF (rSLM_FAULT sl) fSLM_FAULT_SEQ r.seq).setF (rSLM_FAULT_ADDR sl) fSLM_FAULT_ADDR_ADDR (r.msg.addr.getD 0)).setF
    (rSLM_FAULT_ADDR sl) fSLM_FAULT_ADDR_VALID (b2n r.msg.addr.isSome)

theorem Hub.containedNamed_of_live {sl : Nat} {r : FaultRec} (hl : h.stateOf sl = slLIVE) (hm : h.flag (rSLM_MOVE sl) fSLM_MOVE_BUSY = false)
    (hu : r.msg.source / 1024 ≠ uSITE) (hk : r.lock = false) : h.containedNamed sl r = (h.faulted sl (autoExit r.msg.kind)).noted sl r := by
  unfold Hub.containedNamed
  rw [if_neg (by rw [hl]; decide), Hub.enterFault_of_live hl hm, Hub.siteCloses_of_other hu]
  exact if_neg (by simp [hk])

theorem rSLM_FAULT_ne_addr (sl : Nat) : rSLM_FAULT sl ≠ rSLM_FAULT_ADDR sl := by unfold rSLM_FAULT rSLM_FAULT_ADDR; omega

theorem rSLM_SLICE_STATE_ne_fault (r : SliceId) (sl : SliceId) : rSLM_SLICE_STATE r ≠ rSLM_FAULT sl ∧ rSLM_SLICE_STATE r ≠ rSLM_FAULT_ADDR sl ∧
    rSLM_SLICE_STATE r ≠ rSLM_SLICE_EVT sl := by
  unfold rSLM_SLICE_STATE rSLM_FAULT rSLM_FAULT_ADDR rSLM_SLICE_EVT
  omega

theorem Hub.stateOf_noted (h : Hub) (sl r : SliceId) (x : FaultRec) : (h.noted sl x).stateOf r = h.stateOf r := by
  obtain ⟨hf, ha, -⟩ := rSLM_SLICE_STATE_ne_fault r sl
  unfold Hub.stateOf Hub.noted
  simp only [Hub.fld_setF_ne _ _ _ _ hf, Hub.fld_setF_ne _ _ _ _ ha]

theorem Hub.regs_setF_congr {g : Hub} (hr : g.regs = h.regs) (a : Nat) (f : Fld) (x : Nat) : (g.setF a f x).regs = (h.setF a f x).regs := by
  simp only [Hub.setF, Hub.setReg, Hub.reg, hr]

theorem Hub.regs_toState (h : Hub) (s st : Nat) : (h.toState s st).regs =
    ((h.setF (rSLM_SLICE_STATE s) fSLM_SLICE_STATE_STATE st).setF (rSLM_SLICE_EVT s) fSLM_SLICE_EVT_STATE_CHG 1).regs := by rw [Hub.toState_eq]

/-- The registers of a slice in FAULT. -/
theorem Hub.regs_faulted (h : Hub) (sl : Nat) (auto : Bool) : (h.faulted sl auto).regs =
    ((((h.setF (rSLM_SLICE_STATE sl) fSLM_SLICE_STATE_STATE slFAULT).setF (rSLM_SLICE_EVT sl) fSLM_SLICE_EVT_STATE_CHG 1).setF (rSLM_FAULT sl)
      fSLM_FAULT_AUTO (b2n auto)).setF (rSLM_FAULT sl) fSLM_FAULT_LOCK 0).regs :=
  (rfl : (h.faulted sl auto).regs = (((h.toState sl slFAULT).setF (rSLM_FAULT sl) fSLM_FAULT_AUTO (b2n auto)).setF (rSLM_FAULT sl) fSLM_FAULT_LOCK
    0).regs).trans (Hub.regs_setF_congr (Hub.regs_setF_congr (h.regs_toState sl slFAULT) (rSLM_FAULT sl) fSLM_FAULT_AUTO (b2n auto)) (rSLM_FAULT sl)
      fSLM_FAULT_LOCK 0)

/-- Only the state register of the slice itself changes among those of all slices. -/
theorem Hub.stateOf_faulted (h : Hub) (sl r : SliceId) (auto : Bool) :
    (h.faulted sl auto).stateOf r = (h.setF (rSLM_SLICE_STATE sl) fSLM_SLICE_STATE_STATE slFAULT).stateOf r := by
  obtain ⟨hf, -, he⟩ := rSLM_SLICE_STATE_ne_fault r sl
  unfold Hub.stateOf
  rw [Hub.fld_congr (h.regs_faulted sl auto), Hub.fld_setF_ne _ _ _ _ hf, Hub.fld_setF_ne _ _ _ _ hf, Hub.fld_setF_ne _ _ _ _ he]

theorem Hub.fault_noted (h : Hub) (sl : Nat) (x : FaultRec) : (h.noted sl x).fld (rSLM_FAULT sl) fSLM_FAULT_KIND = x.msg.kind % 2 ^ 16 ∧
    (h.noted sl x).fld (rSLM_FAULT sl) fSLM_FAULT_LOCK = h.fld (rSLM_FAULT sl) fSLM_FAULT_LOCK ∧
    (h.noted sl x).fld (rSLM_FAULT sl) fSLM_FAULT_AUTO = h.fld (rSLM_FAULT sl) fSLM_FAULT_AUTO := by
  unfold Hub.noted
  simp only [Hub.fld_setF_ne _ _ _ _ (rSLM_FAULT_ne_addr sl)]
  rw [Hub.fld_setF_disj _ _ _ _ _ (by decide) (by decide), Hub.fld_setF_disj _ _ _ _ _ (by decide) (by decide),
    Hub.fld_setF_disj _ _ _ _ _ (by decide) (by decide), Hub.fld_setF_same _ _ _ _ (by decide),
    Hub.fld_setF_disj _ _ _ _ _ (by decide) (by decide), Hub.fld_setF_disj _ _ _ _ _ (by decide) (by decide),
    Hub.fld_setF_disj _ _ _ _ _ (by decide) (by decide), Hub.fld_setF_disj _ _ _ _ _ (by decide) (by decide),
    Hub.fld_setF_disj _ _ _ _ _ (by decide) (by decide), Hub.fld_setF_disj _ _ _ _ _ (by decide) (by decide),
    Hub.fld_setF_disj _ _ _ _ _ (by decide) (by decide), Hub.fld_setF_disj _ _ _ _ _ (by decide) (by decide)]
  exact ⟨rfl, rfl, rfl⟩

theorem Hub.fault_faulted (h : Hub) (sl : Nat) (auto : Bool) : (h.faulted sl auto).fld (rSLM_FAULT sl) fSLM_FAULT_LOCK = 0 ∧
    (h.faulted sl auto).fld (rSLM_FAULT sl) fSLM_FAULT_AUTO = b2n auto := by
  rw [Hub.fld_congr (h.regs_faulted sl auto), Hub.fld_congr (h.regs_faulted sl auto), Hub.fld_setF_same _ _ _ _ (by decide),
    Hub.fld_setF_disj _ _ _ _ _ (by decide) (by decide), Hub.fld_setF_same _ _ _ _ (by decide)]
  exact ⟨rfl, by cases auto <;> rfl⟩

theorem confined_irq (m : FaultMsg) : (if confined m then reIRQ % 2 + reIRQ / rePIN % 2 * rePIN else reIRQ) = reIRQ := by cases confined m <;> rfl

theorem react_of_irq (f : Fuses) (h : Hub) (m : FaultMsg) (e : BootEnv) : react f h m reIRQ e = (f, h.irq) := rfl

/-- A contained fault named to a slice, with the interrupt its source's one reaction. -/
theorem applyFault_of_contained {f : Fuses} {r : FaultRec} {sl : Nat} (e : BootEnv) (hc : r.cls = clsContained) (hs : r.msg.slice = some sl)
    (hr : h.reactions r.msg.source = reIRQ) : applyFault f h r .kept e = (f, (h.containedNamed sl r).irq) := by
  unfold applyFault
  simp only [hc, hs, hr, confined_irq, react_of_irq, clsContained, clsCorrected, if_true, Nat.one_ne_zero, reduceCtorEq, if_false]

/-- What the store of a message leaves: the record first, then where it went and the hub. -/
theorem Hub.storeFault_facts {s : Hub} {i : Nat} {x : FaultRec × Stored × Hub} (hx : (s.msgTaken i).storeFault m = x) :
    x.1 = s.classed m ∧ (x.1.cls = clsFatal → x.2 = (s.numbered i).latchRec x.1) ∧ (x.1.cls ≠ clsFatal → x.2 = (s.numbered i).enqueueRec x.1) := by
  rw [Hub.storeFault_msgTaken] at hx
  subst hx
  exact ⟨rfl, fun hc => if_pos hc, fun hc => if_neg hc⟩

theorem Hub.storeFault_fcol {s : Hub} {i : Nat} {x : FaultRec × Stored × Hub} (hx : (s.msgTaken i).storeFault m = x) :
    x.2.2.fcol.seq = (s.fcol.seq + 1) % 2 ^ 32 ∧ x.2.2.fcol.msgs = s.fcol.msgs.eraseIdx i := by
  obtain ⟨-, hfatal, hother⟩ := Hub.storeFault_facts hx
  by_cases hc : x.1.cls = clsFatal
  · rw [hfatal hc, Hub.latchRec_fcol]
    exact ⟨rfl, rfl⟩
  · rw [hother hc]
    exact (s.numbered i).enqueueRec_fcol x.1

/-- A fatal record that finds no free entry resets the hub. -/
theorem applyFault_of_fifth {f : Fuses} {r : FaultRec} (e : BootEnv) (hc : r.cls = clsFatal) :
    applyFault f h r .fifth e = hubReset f h 3 r.msg.source r.msg.kind e := by
  unfold applyFault
  dsimp only
  rw [if_neg (by rw [hc]; decide), if_neg (by rw [hc]; decide)]

/-- The queue's slots stand above the registers of the slices. -/
theorem Hub.reg_queued_low (h : Hub) (r : FaultRec) {a : Nat} (ha : a < 0x3f034000000) : (h.queued r).reg a = h.reg a :=
  h.reg_queued_ne r (by unfold rFCOL_Q_PTR; omega) (fun k _ => by unfold rFCOL_Qi_k; omega)

theorem rSLM_SLICE_STATE_low (sl : SliceId) : rSLM_SLICE_STATE sl < 0x3f034000000 := by unfold rSLM_SLICE_STATE; omega
theorem rSLM_MOVE_low (sl : SliceId) : rSLM_MOVE sl < 0x3f034000000 := by unfold rSLM_MOVE; omega

/-- A live slice after a contained fault with the interrupt its one reaction. -/
theorem Hub.contained_facts {h : Hub} {sl : SliceId} {r : FaultRec} (hkind : r.msg.kind < 2 ^ 16) :
    ((h.faulted sl (autoExit r.msg.kind)).noted sl r).irq.stateOf sl = slFAULT ∧
    ((h.faulted sl (autoExit r.msg.kind)).noted sl r).irq.fld (rSLM_FAULT sl) fSLM_FAULT_KIND = r.msg.kind ∧
    ((h.faulted sl (autoExit r.msg.kind)).noted sl r).irq.flag (rSLM_FAULT sl) fSLM_FAULT_LOCK = false ∧
    ((h.faulted sl (autoExit r.msg.kind)).noted sl r).irq.flag (rSLM_FAULT sl) fSLM_FAULT_AUTO = autoExit r.msg.kind ∧
    ∀ q : SliceId, q ≠ sl → ((h.faulted sl (autoExit r.msg.kind)).noted sl r).irq.stateOf q = h.stateOf q := by
  obtain ⟨k, hk⟩ : ∃ k, k = (h.faulted sl (autoExit r.msg.kind)).noted sl r := ⟨_, rfl⟩
  have hirq : k.irq.regs = k.regs := by rw [k.irq_eq]
  obtain ⟨hK, hL, hA⟩ := Hub.fault_noted (h.faulted sl (autoExit r.msg.kind)) sl r
  obtain ⟨hL0, hA0⟩ := h.fault_faulted sl (autoExit r.msg.kind)
  have hstate (q : SliceId) : k.irq.stateOf q = (h.setF (rSLM_SLICE_STATE sl) fSLM_SLICE_STATE_STATE slFAULT).stateOf q := by
    unfold Hub.stateOf at *
    rw [Hub.fld_congr hirq, hk]
    exact (Hub.stateOf_noted _ sl q r).trans (h.stateOf_faulted sl q _)
  rw [← hk] at hK hL hA ⊢
  refine ⟨(hstate sl).trans ?_, (Hub.fld_congr hirq _ _).trans (hK.trans (Nat.mod_eq_of_lt hkind)), ?_, ?_, fun q hq => (hstate q).trans ?_⟩
  · exact Hub.fld_setF_same _ _ _ _ (by decide)
  · exact Hub.flag_of_fld_eq_zero ((Hub.fld_congr hirq _ _).trans (hL.trans hL0))
  · unfold Hub.flag
    rw [Hub.fld_congr hirq, hA, hA0]
    cases autoExit r.msg.kind <;> rfl
  · refine Hub.fld_setF_ne _ _ _ _ ?_
    have hne : q.val ≠ sl.val := fun h => hq (Fin.ext h)
    unfold rSLM_SLICE_STATE
    omega

/-- The moment of the fault is kept, and memory stays. -/
theorem Hub.contained_rt {h : Hub} {sl : Nat} {r : FaultRec} {auto : Bool} :
    (((h.faulted sl auto).noted sl r).irq.rt sl).faultAt = h.now ∧ ((h.faulted sl auto).noted sl r).irq.hbm = h.hbm := by
  have hs : ((h.faulted sl auto).noted sl r).slices = (h.faulted sl auto).slices := rfl
  have hm : ((h.faulted sl auto).noted sl r).hbm = (h.toState sl slFAULT).hbm := rfl
  obtain ⟨k, hk⟩ : ∃ k, k = (h.faulted sl auto).noted sl r := ⟨_, rfl⟩
  rw [← hk] at hs hm ⊢
  have hirq : k.irq.slices = k.slices ∧ k.irq.hbm = k.hbm := by rw [k.irq_eq]; exact ⟨rfl, rfl⟩
  refine ⟨?_, hirq.2.trans (hm.trans (by rw [Hub.toState_eq]; rfl))⟩
  have hrt : k.irq.rt sl = (h.faulted sl auto).rt sl := by simp only [Hub.rt, hirq.1, hs]
  rw [hrt]
  exact congrArg SliceRt.faultAt (mapGetD_mapPutD_same _ _ _ _)

/-- Settles O53: the class by the key, the record by the class, and the effects by both. -/
theorem faultMessagesAreClassedStoredAndActedOn : Obligations.FaultMessagesAreClassedStoredAndActedOn := by
  refine ⟨fun h m hf _ hs => Hub.classed_cls_ne_fatal hf hs, fun h m hk => ⟨fun hc => ?raised, fun hc hs => ?toFatal, fun hc hs => ?locked⟩,
    fun h m hk => ?new, fun s i m e hm => ?stored, fun s i m e sl hm hs hc hkind hk hu hr hsite hlive hmove => ?contained⟩
  case raised =>
    rw [Hub.classed_of_raised hk (by rw [hc]; decide) (fun h1 => absurd (hc.symm.trans h1) (by decide)), hc]
    exact ⟨rfl, rfl⟩
  case toFatal =>
    rw [Hub.classed_of_raised hk (by rw [hc]; decide) (fun _ => by rw [hs]; rfl), hc]
    exact ⟨rfl, rfl⟩
  case locked =>
    rw [Hub.classed_of_locked hk hc hs]
    exact ⟨rfl, rfl⟩
  case new =>
    rw [Hub.classed_of_new hk]
    exact ⟨rfl, rfl, rfl⟩
  case stored =>
    intro h1 x p
    have hx : (s.hub.msgTaken i).storeFault m = x := rfl
    clear_value x
    obtain ⟨hrec, hfatal, hother⟩ := Hub.storeFault_facts hx
    obtain ⟨hseq, hmsgs⟩ := Hub.storeFault_fcol hx
    have hu : (s.hub.numbered i).unacked = s.hub.unacked := rfl
    refine ⟨exec_faultMessage e hm hx, ?_, hseq, hmsgs, fun hc hroom => ?kept, fun hc hfull => ?dropped, fun hc hl => ?fifth⟩
    · rw [hrec]
      exact (s.hub.classed_msg_seq m).2
    case kept =>
      rw [hother hc, Hub.enqueueRec_of_room (by rw [hu]; exact hroom)]
      exact ⟨rfl, Hub.prod_queued _ _, fun k hk => Hub.reg_queued_word _ _ hk, fun a hp hq => Hub.reg_queued_ne _ _ hp hq⟩
    case dropped =>
      rw [hother (by rw [hc]; decide), Hub.enqueueRec_of_full (by rw [hu, hfull]; decide) hc]
      exact ⟨rfl, Hub.fld_count_same _ _ _ _ (by decide), fun a ha => Hub.reg_setF_ne _ _ _ ha⟩
    case fifth =>
      rw [hfatal hc, Hub.latchRec_of_full (show (s.hub.numbered i).latchSlot = none from hl)]
      refine ⟨rfl, ?_⟩
      rw [applyFault_of_fifth e hc, hrec, (s.hub.classed_msg_seq m).1]
  case contained =>
    obtain ⟨x, hx⟩ : ∃ x, (s.hub.msgTaken i).storeFault m = x := ⟨_, rfl⟩
    obtain ⟨hrec, -, hother⟩ := Hub.storeFault_facts hx
    rw [Hub.classed_of_new hk] at hrec
    have hx2 := hother (by rw [hrec]; exact fun h => absurd (hc.symm.trans h) (by decide))
    rw [Hub.enqueueRec_of_room (show (s.hub.numbered i).unacked.length < 1024 from hu)] at hx2
    have hexec := exec_faultMessage e hm hx
    have hlow {a : Nat} (ha : a < 0x3f034000000) : ((s.hub.numbered i).queued x.1).reg a = s.hub.reg a := Hub.reg_queued_low (s.hub.numbered i) _ ha
    have hq := (s.hub.numbered i).queued_eq x.1
    rw [hx2] at hexec
    obtain ⟨g, hg⟩ : ∃ g, g = (s.hub.numbered i).queued x.1 := ⟨_, rfl⟩
    rw [← hg] at hexec hlow hq
    have hst (q : SliceId) : g.stateOf q = s.hub.stateOf q := by unfold Hub.stateOf Hub.fld; rw [hlow (rSLM_SLICE_STATE_low q)]
    have hmv : g.flag (rSLM_MOVE sl) fSLM_MOVE_BUSY = false := by unfold Hub.flag Hub.fld at *; rw [hlow (rSLM_MOVE_low sl)]; exact hmove
    have hre : g.reactions m.source = reIRQ := by rw [hq]; exact hr
    have hmsg : x.1.msg = m := by rw [hrec]
    rw [applyFault_of_contained e (by rw [hrec]; exact hc) (by rw [hmsg]; exact hs) (by rw [hmsg]; exact hre),
      Hub.containedNamed_of_live ((hst sl).trans hlive) hmv (by rw [hmsg]; exact hsite) (by rw [hrec])] at hexec
    obtain ⟨hF, hK, hL, hA, hother⟩ := Hub.contained_facts (h := g) (sl := sl) (r := x.1) (by rw [hmsg]; exact hkind)
    obtain ⟨hat, hhbm⟩ := Hub.contained_rt (h := g) (sl := sl) (r := x.1) (auto := autoExit x.1.msg.kind)
    refine ⟨_, hexec, rfl, hF, ?_, hL, ?_, hat.trans (by rw [hq]; rfl), hhbm.trans (by rw [hq]; rfl), fun q hne => (hother q hne).trans (hst q)⟩
    · rw [← hmsg]; exact hK
    · rw [← hmsg]; exact hA

end Sys2Proof.Machine
end

section
/-! PROOFS. Resets of cells and arrays, and the rolling self-test (R153, R154, R412, R413). -/

namespace Sys2Proof.Machine

variable {h : Hub}

/-! ## Cells -/

theorem Hub.endLaunches_of_no_items (hi : h.items = []) (cs : List Nat) (status : Nat) : h.endLaunches cs status = h := by
  unfold Hub.endLaunches Hub.itemsWhere
  rw [hi]
  rfl

theorem Hub.cell_updCell_same (h : Hub) (c : Nat) (f : Cell → Cell) : (h.updCell c f).cell c = f (h.cell c) := Hub.cell_setCell_same _ _ _

theorem Hub.cell_updCell_ne (h : Hub) {c d : Nat} (f : Cell → Cell) (hd : d ≠ c) : (h.updCell c f).cell d = h.cell d := Hub.cell_setCell_ne _ _ hd

theorem Hub.cellReset_of_stays {c : Nat} (hs : (h.cell c).run ≠ .inReset ∨ h.cellBusyOut c = true) : h.cellReset c = h :=
  if_pos (by rw [Bool.or_eq_true, decide_eq_true_eq]; exact hs)

theorem Hub.cellReset_of_ends {c : Nat} (hr : (h.cell c).run = .inReset) (hb : h.cellBusyOut c = false) :
    h.cellReset c = (if (h.cell c).replayable then h else h.endLaunches [c] stFAULT).updCell c Cell.endReset := if_neg (by simp [hr, hb])

theorem Hub.cellReset_of_kept {c : Nat} (hr : (h.cell c).run = .inReset) (hb : h.cellBusyOut c = false)
    (hk : (h.cell c).replayable = true ∨ h.items = []) : h.cellReset c = h.updCell c Cell.endReset := by
  rw [Hub.cellReset_of_ends hr hb]
  obtain hk | hk := hk
  · rw [if_pos hk]
  · rw [Hub.endLaunches_of_no_items hk, ite_self]

/-! ## Arrays -/

theorem mapGet_filter {α : Type} (p : Nat → Bool) (c : Nat) : ∀ m : SMap α, mapGet (m.filter fun e => p e.1) c = if p c then mapGet m c else none
  | [] => by simp [mapGet]
  | (k, v) :: m => by
    have ih := mapGet_filter p c m
    by_cases hk : c = k
    · subst hk
      cases hp : p c <;> simp_all [mapGet]
    · cases hp : p k <;> simp_all [mapGet]

theorem Hub.cell_wipeCells (h : Hub) (p : Nat → Bool) (c : Nat) : (h.wipeCells p).cell c = if p c then {} else h.cell c := by
  show mapGetD (h.cells.filter fun e => !p e.1) c {} = _
  unfold mapGetD
  rw [mapGet_filter (fun k => !p k)]
  cases hp : p c <;> simp [Hub.cell, mapGetD]

theorem Hub.foldl_keep (p : Hub → Nat → Prop) [∀ h c, Decidable (p h c)] (g : Hub → Nat → Hub) (hp : ∀ c, ¬ p h c) :
    ∀ l : List Nat, l.foldl (fun h c => if p h c then g h c else h) h = h
  | [] => rfl
  | c :: l => by rw [List.foldl_cons, if_neg (hp c)]; exact Hub.foldl_keep p g hp l

/-- With no slice an array's cells are wiped and its self-test runs. -/
theorem Hub.arrayReset_of_free {a : Nat} (hm : h.fld (rARR_STAT a) fARR_STAT_MODE = 2) (hs : h.forme.slices = []) (hi : h.items = [])
    (hb : ∀ c, c / 128 = a → h.cellBusyOut c = false) : h.arrayReset a = (h.wipeCells (fun c => decide (c / 128 = a))).setArrMode a 1 := by
  have hbusy : ¬ (h.fld (rARR_STAT a) fARR_STAT_MODE ≠ 2 ∨ ((List.range 128).map (a * 128 + ·)).any h.cellBusyOut = true) := by
    rintro (h2 | h2)
    · exact h2 hm
    · obtain ⟨c, hc, hcb⟩ := List.any_eq_true.mp h2
      obtain ⟨i, hi, rfl⟩ := List.mem_map.mp hc
      rw [hb _ (by have := List.mem_range.mp hi; omega)] at hcb
      exact absurd hcb (by decide)
  unfold Hub.arrayReset
  dsimp only
  rw [if_neg hbusy, Hub.endLaunches_of_no_items hi]
  refine congrArg (fun k : Hub => k.setArrMode a 1) (Hub.foldl_keep (h := h.wipeCells fun c => decide (c / 128 = a)) (fun k c => (k.cellOwner c).isSome ∧ (h.cell c).stopped = true)
    (fun k c => k.setCell c { run := .faulted, wasReset := some kARRAY_TEST }) (fun c hc => ?_) _)
  have hnone : (h.wipeCells fun c => decide (c / 128 = a)).cellOwner c = none := by
    unfold Hub.cellOwner
    rw [show (h.wipeCells fun c => decide (c / 128 = a)).forme.slices = [] from hs]
    rfl
  rw [hnone] at hc
  exact absurd hc.1 (by decide)

theorem Hub.arrMode_setArrMode (h : Hub) (a : Nat) {m : Nat} (hm : m < 8) : (h.setArrMode a m).arrMode a = m :=
  (Hub.fld_setF_same _ _ _ _ (by decide)).trans (Nat.mod_eq_of_lt hm)

theorem rARR_STAT_inj {a b : Nat} (hab : a ≠ b) : rARR_STAT a ≠ rARR_STAT b := by unfold rARR_STAT; omega

theorem rARR_TEST_ne_stat (a b : Nat) : rARR_TEST a ≠ rARR_STAT b := by unfold rARR_TEST rARR_STAT; omega

theorem Hub.arrMode_setArrMode_ne (h : Hub) {a b : Nat} (m : Nat) (hab : a ≠ b) : (h.setArrMode b m).arrMode a = h.arrMode a :=
  Hub.fld_setF_ne _ _ _ _ (rARR_STAT_inj hab)

/-! ## The self-test -/

/-- A self-test that has started. -/
def Hub.testStarted (h : Hub) (a : Nat) : Hub := { h with tests := mapPut h.tests a ((mapGetD h.tests a (0, false)).1, false) }.setArrMode a 1

/-- A self-test asked for. -/
def Hub.runAsked (h : Hub) (a : Nat) : Hub := { h.regOk with tests := mapPut h.tests a ((mapGetD h.tests a (0, false)).1, true) }

theorem Hub.startTest_of_due {a : Nat} (hm : h.arrMode a = 0) (hp : h.pwrState = 0) (hh : h.halted = false) (hi : h.arrIdle a (100 * psUs) = true)
    (hg : 3600 < h.testAge a) : h.startTest a = h.testStarted a := if_pos (by simp only [hm, hp, hh, hi, hg]; simp)

theorem Hub.startTest_of_young {a : Nat} (hg : h.testAge a ≤ 3600) (hr : (mapGetD h.tests a (0, false)).2 = false) : h.startTest a = h :=
  if_neg (by rw [hr, decide_eq_false (Nat.not_lt.mpr hg)]; simp)

/-- The results of a self-test in the array's register. -/
def Hub.testNoted (h : Hub) (a : Nat) (pass : Bool) : Hub :=
  ({ h with tests := mapPut h.tests a (h.now, false) }.setF (rARR_TEST a) fARR_TEST_PASS (b2n pass)).setF (rARR_TEST a) fARR_TEST_DUE 0

theorem Hub.testNoted_facts (h : Hub) (a : Nat) (pass : Bool) : (h.testNoted a pass).fld (rARR_TEST a) fARR_TEST_PASS = b2n pass ∧
    (h.testNoted a pass).fld (rARR_TEST a) fARR_TEST_DUE = 0 :=
  ⟨(Hub.fld_setF_disj _ _ _ _ _ (by decide) (by decide)).trans ((Hub.fld_setF_same _ _ _ _ (by decide)).trans (by cases pass <;> rfl)),
    Hub.fld_setF_same _ _ _ _ (by decide)⟩

theorem Hub.arrMode_testNoted (h : Hub) (a b : Nat) (pass : Bool) : (h.testNoted a pass).arrMode b = h.arrMode b :=
  (Hub.fld_setF_ne _ _ _ _ (rARR_TEST_ne_stat a b).symm).trans (Hub.fld_setF_ne _ _ _ _ (rARR_TEST_ne_stat a b).symm)

theorem Hub.testDone_of_running {a : Nat} (hm : h.arrMode a = 1) (hb : h.badArrays.contains a = false) (hr : h.flag (rARR_CTL a) fARR_CTL_RETIRE = false) :
    h.testDone a true = (h.testNoted a true).setArrMode a 0 := by
  unfold Hub.testDone
  dsimp only
  rw [if_neg (by rw [hm, hb]; simp), if_neg (by rw [hr]; decide), if_pos rfl]
  rfl

/-- The array's failed test noted, and its fault raised. -/
def Hub.testFailed (h : Hub) (a : Nat) : Hub :=
  { h with badArrays := a :: h.badArrays.erase a }.faultS uARR a kARRAY_TEST clsContained none 0

theorem Hub.failTest_of_no_slice {a : Nat} (hs : h.arraySlices a = []) : h.failTest a = h.testFailed a := by
  have hbad : ({ h with badArrays := a :: h.badArrays.erase a } : Hub).arraySlices a = [] := hs
  unfold Hub.failTest Hub.testFailed
  dsimp only
  rw [hbad]

theorem Hub.testDone_of_failed {a : Nat} (hm : h.arrMode a = 1) (hb : h.badArrays.contains a = false) (hr : h.flag (rARR_CTL a) fARR_CTL_RETIRE = false)
    (hc : h.cells = []) (hs : h.arraySlices a = []) : h.testDone a false = ((h.testNoted a false).testFailed a).startArrayReset a := by
  have hcells : (h.testNoted a false).cells = [] := hc
  have hfail : (h.testNoted a false).failTest a = (h.testNoted a false).testFailed a := Hub.failTest_of_no_slice hs
  unfold Hub.testDone
  dsimp only
  rw [if_neg (by rw [hm, hb]; simp), if_neg (by rw [hr]; decide), if_neg (by decide)]
  refine congrArg (fun k : Hub => k.startArrayReset a) (Eq.trans ?_ hfail)
  show ((((h.testNoted a false).cells.filterMap _).foldl _ (h.testNoted a false)).failTest a) = _
  rw [hcells]
  rfl

/-- One array of a group that is reset with it. -/
def Hub.resetsArray (h : Hub) (b : Nat) : Hub := if h.fld (rARR_STAT b) fARR_STAT_MODE = 2 ∨ h.badArrays.contains b then h else h.setArrMode b 2

theorem Hub.cells_resetsArray (h : Hub) (b : Nat) : (h.resetsArray b).cells = h.cells := by
  unfold Hub.resetsArray
  split_ifs
  · rfl
  · rfl

/-- One array of a group whose reset begins, with its cells. -/
def Hub.beginsArray (h : Hub) (b : Nat) : Hub :=
  if h.fld (rARR_STAT b) fARR_STAT_MODE = 2 ∨ h.badArrays.contains b then h
  else ((List.range 128).map (b * 128 + ·)).foldl (fun h c =>
    if h.cells.any (fun e => e.1 == c) then (h.dropUnsent c).updCell c (Cell.beginReset kARRAY_TEST) else h) (h.setArrMode b 2)

theorem Hub.beginsArray_of_no_cells (hc : h.cells = []) (b : Nat) : h.beginsArray b = h.resetsArray b := by
  unfold Hub.beginsArray Hub.resetsArray
  refine if_congr Iff.rfl rfl (Hub.foldl_keep (h := h.setArrMode b 2) (fun h c => h.cells.any (fun e => e.1 == c) = true)
    (fun h c => (h.dropUnsent c).updCell c (Cell.beginReset kARRAY_TEST)) (fun c => ?_) _)
  rw [show (h.setArrMode b 2).cells = h.cells from Hub.cells_setF _ _ _ _, hc]
  exact Bool.false_ne_true

theorem Hub.foldl_beginsArray (l : List Nat) : ∀ h : Hub, h.cells = [] → l.foldl Hub.beginsArray h = l.foldl Hub.resetsArray h := by
  induction l with
  | nil => exact fun _ _ => (List.foldl_nil).trans List.foldl_nil.symm
  | cons b l ih =>
    intro h hc
    rw [List.foldl_cons, List.foldl_cons, Hub.beginsArray_of_no_cells hc]
    exact ih _ ((h.cells_resetsArray b).trans hc)

/-- With no cell in use an array's reset is its mode. -/
theorem Hub.startArrayReset_of_no_cells (hc : h.cells = []) (a : Nat) : h.startArrayReset a = (h.fusedWith a).foldl Hub.resetsArray h :=
  (rfl : h.startArrayReset a = (h.fusedWith a).foldl Hub.beginsArray h).trans (Hub.foldl_beginsArray _ h hc)

/-- A bad array keeps its mode, and another array of the group reads 2. -/
theorem Hub.foldl_resetsArray (l : List Nat) : ∀ h : Hub, (l.foldl Hub.resetsArray h).badArrays = h.badArrays ∧
    (l.foldl Hub.resetsArray h).fcol = h.fcol ∧ (∀ r, (∀ b, r ≠ rARR_STAT b) → (l.foldl Hub.resetsArray h).reg r = h.reg r) ∧
    (∀ b ∈ h.badArrays, (l.foldl Hub.resetsArray h).arrMode b = h.arrMode b) ∧
    ∀ b, b ∉ h.badArrays → b ∈ l ∨ h.arrMode b = 2 → (l.foldl Hub.resetsArray h).arrMode b = 2 := by
  induction l with
  | nil => exact fun h => ⟨rfl, rfl, fun _ _ => rfl, fun _ _ => rfl, fun b _ hb => hb.resolve_left (by simp)⟩
  | cons c l ih =>
    intro h
    have hstep : (h.resetsArray c).badArrays = h.badArrays ∧ (h.resetsArray c).fcol = h.fcol ∧
        (∀ r, (∀ b, r ≠ rARR_STAT b) → (h.resetsArray c).reg r = h.reg r) ∧ (∀ b ∈ h.badArrays, (h.resetsArray c).arrMode b = h.arrMode b) ∧
        ∀ b, b ∉ h.badArrays → b = c ∨ h.arrMode b = 2 → (h.resetsArray c).arrMode b = 2 := by
      by_cases hc : h.fld (rARR_STAT c) fARR_STAT_MODE = 2 ∨ h.badArrays.contains c = true
      · rw [show h.resetsArray c = h from if_pos hc]
        refine ⟨rfl, rfl, fun _ _ => rfl, fun _ _ => rfl, fun b hb h2 => ?_⟩
        obtain rfl | h2 := h2
        · exact hc.resolve_right (by simpa using hb)
        · exact h2
      · rw [show h.resetsArray c = h.setArrMode c 2 from if_neg hc]
        rw [not_or] at hc
        refine ⟨rfl, rfl, fun r hr => Hub.reg_setF_ne _ _ _ (hr c), fun b hb => Hub.arrMode_setArrMode_ne h 2 ?_, fun b hb h2 => ?_⟩
        · rintro rfl
          exact hc.2 (by simpa using hb)
        · by_cases hbc : b = c
          · rw [hbc]; exact h.arrMode_setArrMode c (by decide)
          · exact (Hub.arrMode_setArrMode_ne h 2 hbc).trans (h2.resolve_left hbc)
    obtain ⟨hbad, hf, hreg, hkeep, htwo⟩ := hstep
    obtain ⟨ibad, iff, ireg, ikeep, itwo⟩ := ih (h.resetsArray c)
    rw [List.foldl_cons]
    refine ⟨ibad.trans hbad, iff.trans hf, fun r hr => (ireg r hr).trans (hreg r hr), fun b hb => (ikeep b (by rw [hbad]; exact hb)).trans (hkeep b hb),
      fun b hb h2 => itwo b (by rw [hbad]; exact hb) ?_⟩
    rw [List.mem_cons, or_assoc] at h2
    obtain h2 | h2 | h2 := h2
    · exact .inr (htwo b hb (.inl h2))
    · exact .inl h2
    · exact .inr (htwo b hb (.inr h2))

/-- Settles O55: each reset and test ends as its cells and its result allow. -/
theorem cellsAndArraysAreResetAndTested : Obligations.CellsAndArraysAreResetAndTested := by
  refine ⟨fun s c hr => ⟨fun hb => ?cellEnds, fun hb => exec_of_hub_same (k := s.hub.cellReset c) rfl (Hub.cellReset_of_stays (.inr hb))⟩,
    fun s c hr => exec_of_hub_same (k := s.hub.cellReset c) rfl (Hub.cellReset_of_stays (.inl hr)), fun s a hm hs hi hb => ?arrayEnds,
    fun s a hm => exec_of_hub_same (k := s.hub.arrayReset a) rfl (if_pos (.inl hm)),
    fun s a hm hp hh hi => ⟨fun hg => ?starts, fun hg hr => exec_of_hub_same (k := s.hub.startTest a) rfl (Hub.startTest_of_young hg hr)⟩,
    fun s o a hm => ?runNow, fun s a hm hbad hret => ⟨?passes, fun hc hs => ?fails⟩, fun s a hd => ⟨fun hg => ?due, fun hg => ?young⟩⟩
  case cellEnds =>
    refine ⟨_, rfl, ?_⟩
    show ((s.hub.cellReset c).cell c).run = _ ∧ ((s.hub.cellReset c).cell c).regs = _ ∧ ((s.hub.cellReset c).cell c).pc = _ ∧
      ((s.hub.cellReset c).cell c).gstat = _ ∧ _ ∧ (_ → ((s.hub.cellReset c).cell c).mem = _ ∧ _ ∧ ∀ d, d ≠ _ → (s.hub.cellReset c).cell d = _)
    have hcell : (s.hub.cellReset c).cell c = Cell.endReset ((if (s.hub.cell c).replayable then s.hub else s.hub.endLaunches [c] stFAULT).cell c) := by
      rw [Hub.cellReset_of_ends hr hb, Hub.cell_updCell_same]
    refine ⟨by rw [hcell]; rfl, by rw [hcell]; rfl, by rw [hcell]; rfl, by rw [hcell]; rfl, fun hk => ?_, fun hk => ?_⟩
    · have heq : s.hub.cellReset c = (s.hub.endLaunches [c] stFAULT).updCell c Cell.endReset := by
        rw [Hub.cellReset_of_ends hr hb, if_neg (by rw [hk]; decide)]
      exact congrArg s.withHub heq
    · have heq := Hub.cellReset_of_kept hr hb hk
      refine ⟨by rw [heq, Hub.cell_updCell_same]; rfl, ?_, fun d hd => by rw [heq]; exact Hub.cell_updCell_ne _ _ hd⟩
      refine congrArg s.withHub ?_
      show s.hub.cellReset c = { s.hub with cells := (s.hub.cellReset c).cells, restAt := (s.hub.cellReset c).restAt }
      rw [heq]
      rfl
  case arrayEnds =>
    refine ⟨_, exec_of_hub (k := s.hub.arrayReset a) rfl (Hub.arrayReset_of_free hm hs hi hb), Hub.arrMode_setArrMode _ _ (by decide), fun c hc => ?_,
      fun c hc => ?_, fun r hr => Hub.reg_setF_ne _ _ _ hr⟩
    · exact (s.hub.cell_wipeCells (fun c => decide (c / 128 = a.val)) c).trans (if_pos (decide_eq_true hc))
    · exact (s.hub.cell_wipeCells (fun c => decide (c / 128 = a.val)) c).trans (if_neg (by simpa using hc))
  case starts =>
    exact ⟨_, exec_of_hub (k := s.hub.startTest a) rfl (Hub.startTest_of_due hm hp hh hi hg), Hub.arrMode_setArrMode _ _ (by decide), rfl,
      fun r hr => Hub.reg_setF_ne _ _ _ hr⟩
  case runNow =>
    have hrun : vFlag (setFld 0 fARR_TEST_RUN_NOW 1) fARR_TEST_RUN_NOW = true := vFlag_setFld_same _ (by decide) (by decide)
    refine ⟨_, (onReg_mgrWrite (f := fun h => if vFlag (setFld 0 fARR_TEST_RUN_NOW 1) fARR_TEST_RUN_NOW then h.runAsked a else h.regOk) hm).trans
      (congrArg (fun k : Hub => Host.Outcome.next (s.withHub k)) (if_pos hrun)), ?_, rfl⟩
    exact congrArg Prod.snd (mapGetD_mapPut_same s.hub.tests a.val (_, true) (0, false))
  case passes =>
    obtain ⟨hpass, hdue⟩ := s.hub.testNoted_facts a true
    have hstat (f : Fld) : ((s.hub.testNoted a true).setArrMode a 0).fld (rARR_TEST a) f = (s.hub.testNoted a true).fld (rARR_TEST a) f :=
      Hub.fld_setF_ne _ _ _ _ (rARR_TEST_ne_stat a a)
    refine ⟨_, exec_of_hub (k := s.hub.testDone a true) rfl (Hub.testDone_of_running hm hbad hret), Hub.arrMode_setArrMode _ _ (by decide),
      Hub.flag_of_fld_eq_one ((hstat _).trans hpass), Hub.flag_of_fld_eq_zero ((hstat _).trans hdue), ?_, rfl⟩
    exact mapGetD_mapPut_same s.hub.tests a.val (s.hub.now, false) (0, false)
  case fails =>
    obtain ⟨hpass, -⟩ := s.hub.testNoted_facts a false
    obtain ⟨k, hk⟩ : ∃ k, k = (s.hub.testNoted a false).testFailed a := ⟨_, rfl⟩
    have hkbad : k.badArrays = a.val :: s.hub.badArrays.erase a.val := by rw [hk]; rfl
    have hkreg : k.regs = (s.hub.testNoted a false).regs := by rw [hk]; rfl
    have hkfuse : k.fusedWith a = s.hub.fusedWith a := by rw [hk]; rfl
    have hkmode (b : Nat) : k.arrMode b = s.hub.arrMode b := (Hub.fld_congr hkreg _ _).trans (s.hub.arrMode_testNoted a b false)
    have hkcells : k.cells = [] := by rw [hk]; exact hc
    have hkmsg : ∃ m ∈ k.fcol.msgs, m.kind = kARRAY_TEST ∧ m.cls = clsContained ∧ m.source = srcOf uARR a := by
      rw [hk]
      exact ⟨_, List.mem_append_right _ (List.mem_singleton.mpr rfl), rfl, rfl, rfl⟩
    obtain ⟨fbad, ffcol, freg, fkeep, ftwo⟩ := Hub.foldl_resetsArray (s.hub.fusedWith a) k
    have heq : s.hub.testDone a false = (s.hub.fusedWith a).foldl Hub.resetsArray k := by
      rw [Hub.testDone_of_failed hm hbad hret hc hs, ← hk, Hub.startArrayReset_of_no_cells hkcells, hkfuse]
    refine ⟨_, exec_of_hub (k := s.hub.testDone a false) rfl heq, ?_, ?_, ?_, fun g hg b hb hne hnb => ?_, ?_⟩
    · exact (fkeep a (by rw [hkbad]; exact List.mem_cons_self)).trans ((hkmode a).trans hm)
    · refine Hub.flag_of_fld_eq_zero (Eq.trans ?_ hpass)
      exact (congrArg (fun w => getFld w fARR_TEST_PASS) (freg _ (rARR_TEST_ne_stat a))).trans (Hub.fld_congr hkreg _ _)
    · rw [State.withHub, fbad, hkbad]
      exact List.mem_cons_self
    · refine ftwo b ?_ (.inl ?_)
      · rw [hkbad, List.mem_cons, not_or]
        exact ⟨hne, fun hm => hnb (List.mem_of_mem_erase hm)⟩
      · rw [Hub.fusedWith, hg]
        exact hb
    · rw [State.withHub, ffcol]
      exact hkmsg
  case due =>
    obtain ⟨k, hk⟩ : ∃ k, k = s.hub.setF (rARR_TEST a) fARR_TEST_DUE 1 := ⟨_, rfl⟩
    have hexec : exec (.testDue a) s = .next (s.withHub (k.faultS uARR a kTEST_DUE clsCorrected none 0)) := by
      rw [hk]
      exact exec_of_hub (k := if decide (82800 < s.hub.testAge a) && !s.hub.flag (rARR_TEST a) fARR_TEST_DUE then
        (s.hub.setF (rARR_TEST a) fARR_TEST_DUE 1).faultS uARR a kTEST_DUE clsCorrected none 0 else s.hub) rfl
        (if_pos (by rw [hd, decide_eq_true hg]; rfl))
    have hreg (r : Nat) : (k.faultS uARR a kTEST_DUE clsCorrected none 0).reg r = k.reg r := rfl
    have hmsgs : k.fcol.msgs = s.hub.fcol.msgs := by rw [hk]; rfl
    refine ⟨_, hexec, Hub.flag_of_fld_eq_one ?_, ?_, fun r hr => (hreg r).trans ?_⟩
    · exact (congrArg (fun w => getFld w fARR_TEST_DUE) (hreg _)).trans (by rw [hk]; exact Hub.fld_setF_same _ _ _ _ (by decide))
    · exact List.map_append.trans (by rw [hmsgs]; rfl)
    · rw [hk]
      exact Hub.reg_setF_ne _ _ _ hr
  case young =>
    exact exec_of_hub_same (k := if decide (82800 < s.hub.testAge a) && !s.hub.flag (rARR_TEST a) fARR_TEST_DUE then _ else s.hub) rfl
      (if_neg (by rw [decide_eq_false (Nat.not_lt.mpr hg)]; exact Bool.false_ne_true))

end Sys2Proof.Machine
end

section
/-! PROOFS. The key block: operations in their turn, and the random source (R456, R459 to R463). -/

namespace Sys2Proof.Machine

variable {h : Hub}

/-! ## KEY_CTL -/

theorem vFld_setFld_op (v : Word) {op : Nat} (ho : op < 16) : vFld (setFld v fKEY_CTL_OP op) fKEY_CTL_OP = op :=
  (getFld_setFld_same v fKEY_CTL_OP op (by decide)).trans (Nat.mod_eq_of_lt ho)

/-- The hub as an operation of a slice is taken, before what a delivery does at once. -/
def Hub.keyOpTaken (h : Hub) (sl : Nat) (j : KeyJob) : Hub :=
  { h.regOk.writeRW (rKEY_CTL sl) keyCtlFields [] j.ctl with
    keyJobs := mapPut h.keyJobs sl j, keyOrder := h.keyOrder ++ [sl] }.setF (rKEY_STS sl) fKEY_STS_BUSY 1

theorem Hub.keyWrite_of {o : Origin} {sl : Nat} (hw : h.pfOrKelvy o = true ∨ h.vfOf o = some sl) (f : Hub → Hub) : h.keyWrite o sl f = f h :=
  if_pos (by simpa using hw)

theorem Hub.writeKeyCtl_of_busy {o : Origin} {sl op : Nat} (v : Word) (hw : h.pfOrKelvy o = true ∨ h.vfOf o = some sl) (ho : op < 16) (h0 : op ≠ 0)
    (hb : h.flag (rKEY_STS sl) fKEY_STS_BUSY = true) : h.writeKeyCtl o sl (setFld v fKEY_CTL_OP op) = h.regErr := by
  unfold Hub.writeKeyCtl
  rw [Hub.keyWrite_of hw]
  dsimp only
  rw [vFld_setFld_op v ho, hb]
  exact if_pos (by simp [h0])

theorem Hub.writeKeyCtl_of_idle {o : Origin} {sl op : Nat} (v : Word) (hw : h.pfOrKelvy o = true ∨ h.vfOf o = some sl) (ho : op ≤ 4) (h0 : op ≠ 0)
    (hb : h.flag (rKEY_STS sl) fKEY_STS_BUSY = false) (hs : h.stoppedInst uKEY 0 = false) : h.writeKeyCtl o sl (setFld v fKEY_CTL_OP op) =
      (h.regOk.writeRW (rKEY_CTL sl) keyCtlFields [] (setFld v fKEY_CTL_OP op)).takeKeyOp sl (setFld v fKEY_CTL_OP op) (h.isMgr o) := by
  unfold Hub.writeKeyCtl
  rw [Hub.keyWrite_of hw]
  dsimp only
  rw [vFld_setFld_op v (by omega), hb, hs, if_neg (by simp [Nat.not_lt.mpr ho]), if_neg h0]

theorem Hub.takeKeyOp_of_deferred {sl op : Nat} {v : Word} (hv : vFld v fKEY_CTL_OP = op) (hd : op ≠ kyDELIVER) (mgmt : Bool) :
    (h.regOk.writeRW (rKEY_CTL sl) keyCtlFields [] v).takeKeyOp sl v mgmt = h.keyOpTaken sl { op := op, ctl := v, mgmt := mgmt } := by
  subst hv
  exact if_neg hd

theorem Hub.takeKeyOp_of_deliver {sl : Nat} {v : Word} (hv : vFld v fKEY_CTL_OP = kyDELIVER) (mgmt : Bool) {k : Hub}
    (hk : k = h.keyOpTaken sl { op := kyDELIVER, ctl := v, mgmt := mgmt }) :
    (k.deliverErr sl v = none → (h.regOk.writeRW (rKEY_CTL sl) keyCtlFields [] v).takeKeyOp sl v mgmt = k.sendKey sl) ∧
    ∀ e, k.deliverErr sl v = some e → (h.regOk.writeRW (rKEY_CTL sl) keyCtlFields [] v).takeKeyOp sl v mgmt = k.keyOpDone sl e := by
  have htaken : { h.regOk.writeRW (rKEY_CTL sl) keyCtlFields [] v with
      keyJobs := mapPut (h.regOk.writeRW (rKEY_CTL sl) keyCtlFields [] v).keyJobs sl { op := vFld v fKEY_CTL_OP, ctl := v, mgmt := mgmt }
      keyOrder := (h.regOk.writeRW (rKEY_CTL sl) keyCtlFields [] v).keyOrder ++ [sl] }.setF (rKEY_STS sl) fKEY_STS_BUSY 1 = k := by
    rw [hk, hv]
    rfl
  unfold Hub.takeKeyOp
  dsimp only
  rw [htaken, if_pos hv]
  exact ⟨fun hn => by rw [hn], fun e he => by rw [he]⟩

theorem Hub.keyOpTaken_facts (h : Hub) (sl : Nat) (j : KeyJob) : mapGet (h.keyOpTaken sl j).keyJobs sl = some j ∧
    (h.keyOpTaken sl j).keyOrder = h.keyOrder ++ [sl] ∧ (h.keyOpTaken sl j).flag (rKEY_STS sl) fKEY_STS_BUSY = true ∧
    (h.keyOpTaken sl j).keySlots = h.keySlots ∧ ∀ a, a ≠ rKEY_STS sl → a ≠ rKEY_CTL sl → (h.keyOpTaken sl j).reg a = h.reg a :=
  ⟨mapGet_mapPut_same _ _ _, rfl, Hub.flag_setF_same _ _ _ _ (by decide), rfl,
    fun a hs hc => (Hub.reg_setF_ne _ _ _ hs).trans (Hub.reg_setReg_ne _ _ hc)⟩

/-! ## The end of an operation -/

theorem Hub.keyDone_of_turn {f : Fuses} {sl : Nat} {j : KeyJob} (hj : mapGet h.keyJobs sl = some j) (ht : h.keyTurn sl = true)
    (hs : h.stoppedInst uKEY 0 = false) (hd : j.op ≠ kyDELIVER) : h.keyDone f sl =
      (if j.op = kyWRAP then h.wrapDone sl j.ctl
        else if j.op = kyZERO then (if (h.slD sl).keys.contains (vFld j.ctl fKEY_CTL_SLOT) then (h.zeroSlot (vFld j.ctl fKEY_CTL_SLOT)).keyOpDone sl 0
          else h.keyOpDone sl 1)
        else h.attestDone f sl j.ctl j.mgmt).pumpSite := by
  unfold Hub.keyDone
  rw [hj]
  dsimp only
  exact if_neg (by rw [ht, hs]; simp [hd])

theorem Hub.keyDone_of_waiting {f : Fuses} {sl : Nat} (ht : h.keyTurn sl = false) : h.keyDone f sl = h := by
  unfold Hub.keyDone
  cases mapGet h.keyJobs sl with
  | none => rfl
  | some j => exact if_pos (by rw [ht]; rfl)

theorem Hub.keyOpDone_facts (h : Hub) (sl : Nat) {err : Nat} (he : err < 16) : (h.keyOpDone sl err).flag (rKEY_STS sl) fKEY_STS_BUSY = false ∧
    (h.keyOpDone sl err).flag (rKEY_STS sl) fKEY_STS_DONE = true ∧ (h.keyOpDone sl err).fld (rKEY_STS sl) fKEY_STS_ERR = err ∧
    mapGet (h.keyOpDone sl err).keyJobs sl = none := by
  refine ⟨Hub.flag_of_fld_eq_zero ?_, Hub.flag_of_fld_eq_one ?_, (Hub.fld_setF_same _ _ _ _ (by decide)).trans (Nat.mod_eq_of_lt he), mapGet_mapDel_same _ _⟩
  · exact (Hub.fld_setF_disj _ _ _ _ _ (by decide) (by decide)).trans ((Hub.fld_setF_disj _ _ _ _ _ (by decide) (by decide)).trans
      ((Hub.fld_setF_disj _ _ _ _ _ (by decide) (by decide)).trans (Hub.fld_setF_same _ _ _ _ (by decide))))
  · exact (Hub.fld_setF_disj _ _ _ _ _ (by decide) (by decide)).trans ((Hub.fld_setF_disj _ _ _ _ _ (by decide) (by decide)).trans
      (Hub.fld_setF_same _ _ _ _ (by decide)))

theorem Hub.attestDone_of_open {f : Fuses} {sl : Nat} {v : Word} {mgmt : Bool} (hc : h.lcState ≠ lcCLOSED) : h.attestDone f sl v mgmt = h.keyOpDone sl 7 :=
  if_pos (.inl hc)

theorem Hub.wrapDone_of_bad_source {sl : Nat} {v : Word} (hl : keyLens.contains (vFld v fKEY_CTL_KEY_LEN) = true)
    (he : engOk (vFld v fKEY_CTL_ENG) = true) (hb : h.rngBad = true) : h.wrapDone sl v = h.keyOpDone sl 6 := by
  unfold Hub.wrapDone
  dsimp only
  rw [hl, he, if_neg (by decide), if_pos hb]

/-! ## The random source -/

/-- A health failure counted. -/
def Hub.rngCounted (h : Hub) : Hub := { h with rngFails := h.rngFails + 1 }.count rKEY_RNG_STS fKEY_RNG_STS_FAILS 1

theorem Hub.fails_rngCounted (h : Hub) :
    h.rngCounted.fld rKEY_RNG_STS fKEY_RNG_STS_FAILS = min (h.fld rKEY_RNG_STS fKEY_RNG_STS_FAILS + 1) 65535 := Hub.fld_count_same _ _ _ _ (by decide)

theorem Hub.rngFail_of_third (hf : 2 ≤ h.rngFails) : h.rngFail = { h.rngCounted with rngBad := true }.setF rKEY_RNG_STS fKEY_RNG_STS_FAIL 1 := by
  unfold Hub.rngFail
  exact if_pos (Nat.succ_le_succ hf)

theorem Hub.rngFail_of_early (hf : h.rngFails < 2) : h.rngFail = h.rngCounted := by
  unfold Hub.rngFail
  exact if_neg (Nat.not_le.mpr (Nat.succ_lt_succ hf))

theorem Hub.reg_rngCounted {a : Nat} (ha : a ≠ rKEY_RNG_STS) : h.rngCounted.reg a = h.reg a := Hub.reg_setF_ne _ _ _ ha

/-- Settles O57: a write takes the operation of its OP, and an operation ends by its job. -/
theorem keyOperationsRunInTheirTurn : Obligations.KeyOperationsRunInTheirTurn := by
  refine ⟨fun s o sl v hw hb hs => ⟨fun hidle op c hc => ?taken, fun hidle => ?deliver, fun hbusy => ?refused⟩,
    fun s sl j hj ht hs => ⟨fun hop => ?wraps, fun hop hk => ?zeroes, fun hop hk => ?holdsNot, fun hop => ?attests, Hub.attestDone_of_open,
      Hub.wrapDone_of_bad_source⟩, fun s sl ht => ?waits, fun h sl err he => h.keyOpDone_facts sl he, fun s => ?fail, fun s => ⟨fun hg hb => ?reseeds, fun hg => ?keeps⟩⟩
  case taken =>
    have hop : op ≤ 4 ∧ op ≠ 0 ∧ op ≠ kyDELIVER := by rcases hc with ⟨rfl, -⟩ | ⟨rfl, -⟩ | ⟨rfl, -⟩ <;> decide
    obtain ⟨h4, h0, hd⟩ := hop
    have hexec : exec c s = .next (s.withHub (s.hub.writeKeyCtl o sl (setFld v fKEY_CTL_OP op))) := by
      rcases hc with ⟨rfl, rfl⟩ | ⟨rfl, rfl⟩ | ⟨rfl, rfl⟩
      · exact onReg_of (f := fun h => h.writeKeyCtl o sl (setFld v fKEY_CTL_OP kyWRAP)) hb
      · exact onReg_of (f := fun h => h.writeKeyCtl o sl (setFld v fKEY_CTL_OP kyZERO)) hb
      · exact onReg_of (f := fun h => h.writeKeyCtl o sl (setFld v fKEY_CTL_OP kyATTEST)) hb
    rw [Hub.writeKeyCtl_of_idle v hw h4 h0 hidle hs, Hub.takeKeyOp_of_deferred (vFld_setFld_op v (by omega)) hd] at hexec
    exact ⟨_, hexec, s.hub.keyOpTaken_facts sl _⟩
  case deliver =>
    intro j h0 h1
    have hexec : exec (.deliver o sl v) s = .next (s.withHub (s.hub.writeKeyCtl o sl (setFld v fKEY_CTL_OP kyDELIVER))) :=
      onReg_of (f := fun h => h.writeKeyCtl o sl (setFld v fKEY_CTL_OP kyDELIVER)) hb
    rw [Hub.writeKeyCtl_of_idle v hw (by decide) (by decide) hidle hs] at hexec
    have hk : h1 = s.hub.keyOpTaken sl j := rfl
    clear_value h1
    obtain ⟨hsend, herr⟩ := Hub.takeKeyOp_of_deliver (vFld_setFld_op v (by decide)) (s.hub.isMgr o) hk
    obtain ⟨hjob, horder, -, hslots, -⟩ := s.hub.keyOpTaken_facts sl j
    refine ⟨fun hn => ?_, fun e he => ?_, by rw [hk]; exact hjob, by rw [hk]; exact hslots, by rw [hk]; exact horder⟩
    · rw [hexec, hsend hn]
    · rw [hexec, herr e he]
  case refused =>
    have hrefused {op : Nat} (ho : op < 16) (h0 : op ≠ 0) : onReg o s (fun h => h.writeKeyCtl o sl (setFld v fKEY_CTL_OP op)) =
        .next (s.withHub s.hub.regErr) :=
      (onReg_of hb).trans (congrArg (fun k : Hub => Host.Outcome.next (s.withHub k)) (Hub.writeKeyCtl_of_busy v hw ho h0 hbusy))
    simp only [List.forall_mem_cons, List.not_mem_nil, false_implies, implies_true, and_true]
    exact ⟨hrefused (op := kyWRAP) (by decide) (by decide), hrefused (op := kyZERO) (by decide) (by decide),
      hrefused (op := kyDELIVER) (by decide) (by decide), hrefused (op := kyATTEST) (by decide) (by decide)⟩
  case wraps =>
    exact exec_of_hub (k := s.hub.keyDone s.fuses sl) rfl ((Hub.keyDone_of_turn hj ht hs (by rw [hop]; decide)).trans (congrArg Hub.pumpSite (if_pos hop)))
  case zeroes =>
    exact exec_of_hub (k := s.hub.keyDone s.fuses sl) rfl ((Hub.keyDone_of_turn hj ht hs (by rw [hop]; decide)).trans (congrArg Hub.pumpSite
      ((if_neg (by rw [hop]; decide)).trans ((if_pos hop).trans (if_pos hk)))))
  case holdsNot =>
    exact exec_of_hub (k := s.hub.keyDone s.fuses sl) rfl ((Hub.keyDone_of_turn hj ht hs (by rw [hop]; decide)).trans (congrArg Hub.pumpSite
      ((if_neg (by rw [hop]; decide)).trans ((if_pos hop).trans (if_neg (by rw [hk]; decide))))))
  case attests =>
    exact exec_of_hub (k := s.hub.keyDone s.fuses sl) rfl ((Hub.keyDone_of_turn hj ht hs (by rw [hop]; decide)).trans (congrArg Hub.pumpSite
      ((if_neg (by rw [hop]; decide)).trans (if_neg (by rw [hop]; decide)))))
  case waits => exact exec_of_hub_same (k := s.hub.keyDone s.fuses sl) rfl (Hub.keyDone_of_waiting ht)
  case fail =>
    by_cases hf : 2 ≤ s.hub.rngFails
    · refine ⟨_, exec_of_hub (k := s.hub.rngFail) rfl (Hub.rngFail_of_third hf), rfl, ?_, fun _ => ⟨rfl, Hub.flag_setF_same _ _ _ _ (by decide)⟩,
        fun h2 => absurd hf (Nat.not_le.mpr h2), fun a ha => (Hub.reg_setF_ne _ _ _ ha).trans (Hub.reg_rngCounted ha)⟩
      exact (Hub.fld_setF_disj _ _ _ _ _ (by decide) (by decide)).trans s.hub.fails_rngCounted
    · exact ⟨_, exec_of_hub (k := s.hub.rngFail) rfl (Hub.rngFail_of_early (Nat.not_le.mp hf)), rfl, s.hub.fails_rngCounted, fun h2 => absurd h2 hf,
        fun _ => rfl, fun a ha => Hub.reg_rngCounted ha⟩
  case reseeds =>
    exact exec_of_hub (k := if decide (2 ^ 20 ≤ s.hub.generated) && !s.hub.rngBad then { s.hub with generated := 0, rngFails := 0 } else s.hub) rfl
      (if_pos (by rw [decide_eq_true hg, hb]; rfl))
  case keeps =>
    exact exec_of_hub_same (k := if decide (2 ^ 20 ≤ s.hub.generated) && !s.hub.rngBad then { s.hub with generated := 0, rngFails := 0 } else s.hub) rfl
      (if_neg (by simpa [imp_iff_not_or] using hg))

end Sys2Proof.Machine
end

section
/-! PROOFS. Power-on, loss of power and warm resets; the crossings between islands (R18, R21, R35 to R38, R454). -/

namespace Sys2Proof.Machine

variable {h : Hub}

/-! ## What a request that fails leaves: the live forme -/

theorem Hub.forme_dropBoth (h : Hub) (r : Nat) : (h.dropBoth r).forme = h.forme := by
  unfold Hub.dropBoth
  cases (h.req r).bind (·.pair) <;> rfl

theorem Hub.forme_opStep (h : Hub) (op : Nat) (failed : Option Nat) : (h.opStep op failed).forme = h.forme := by
  unfold Hub.opStep
  cases mapGet h.fabricOps op <;> rfl

theorem Hub.forme_dropUnsent (h : Hub) (c : Nat) : (h.dropUnsent c).forme = h.forme := by
  unfold Hub.dropUnsent
  refine Hub.foldl_same Hub.forme ?_ _ h
  exact fun _ _ => Hub.forme_opStep _ _ _

theorem Hub.forme_stopCell (h : Hub) (c : Nat) (m : FaultMsg) : (h.stopCell c m).forme = h.forme :=
  (Hub.forme_fault _ m).trans ((Hub.forme_updCell _ c _).trans (h.forme_dropUnsent c))

theorem Hub.forme_updItem (h : Hub) (i : Nat) (f : Item → Item) : (h.updItem i f).forme = h.forme := by
  unfold Hub.updItem
  cases h.item i <;> rfl

theorem Hub.forme_sendSite (h : Hub) (s : Nat) (p : Packet) : (h.sendSite s p).forme = h.forme := by
  unfold Hub.sendSite
  dsimp only
  split_ifs
  · rfl
  · rfl

theorem Hub.forme_closeEngine (h : Hub) (s e : Nat) : (h.closeEngine s e).forme = h.forme := by
  unfold Hub.closeEngine
  dsimp only
  split_ifs
  · rfl
  · rw [Hub.forme_sendSite]
    refine (Hub.foldl_same Hub.forme ?_ _ _).trans (Hub.foldl_same Hub.forme ?_ _ h)
    · exact fun _ _ => rfl
    intro h r
    split_ifs
    · rfl
    · rw [Hub.forme_sendSite, Hub.forme_dropBoth]

theorem Hub.forme_finishStop (h : Hub) (q : Nat) : (h.finishStop q).forme = h.forme := by
  unfold Hub.finishStop
  split_ifs
  · rfl
  · rfl

theorem Hub.forme_flrStep (h : Hub) (s : Nat) : (h.flrStep s).forme = h.forme := by
  unfold Hub.flrStep
  refine (Hub.foldl_same Hub.forme ?_ _ _).trans rfl
  exact fun _ _ => rfl

theorem Hub.forme_zeroAcs (h : Hub) (s : Nat) : (h.zeroAcs s).forme = h.forme := by
  unfold Hub.zeroAcs
  refine Hub.foldl_same Hub.forme ?_ _ h
  exact fun _ _ => rfl

theorem Hub.forme_sliceEvt (h : Hub) (s : Nat) (f : Fld) : (h.sliceEvt s f).forme = h.forme := by
  unfold Hub.sliceEvt
  rw [Hub.raisePfOf_eq]
  rfl

theorem Hub.forme_settleSlice (h : Hub) (s : Nat) : (h.settleSlice s).forme = h.forme := by
  have hdue (b : Bool) : (if b then (h.updRt s (fun r => { r with holdDue := false })).sliceEvt s fSLM_SLICE_EVT_HOLD_DONE else h).forme = h.forme := by
    cases b
    · rfl
    · exact Hub.forme_sliceEvt _ _ _
  have hreset (k : Hub) (b : Bool) : (if b then (k.setF (rHTU_INV_STS s) fHTU_INV_STS_BUSY 0).setF (rHTU_INV_STS s) fHTU_INV_STS_DONE 1 else k).forme =
      k.forme := by cases b <;> rfl
  unfold Hub.settleSlice
  dsimp only
  rw [apply_ite Hub.forme, hreset, Hub.forme_flrStep, Hub.forme_zeroAcs, Hub.forme_updRt, hdue, ite_self]

theorem Hub.forme_recordSeen (h : Hub) (q : Nat) (s : Option Nat) : (h.recordSeen q s false false).forme = h.forme := by
  cases s with
  | none => exact h.forme_finishStop q
  | some s => exact (Hub.forme_settleSlice _ s).trans (h.forme_finishStop q)

theorem Hub.forme_sendRsp (h : Hub) (t : THdr) (op status : Nat) (data : List Byte) : (h.sendRsp t op status data).forme = h.forme := by
  unfold Hub.sendRsp
  dsimp only
  split_ifs
  · rfl
  · rfl

theorem Hub.forme_trackBundle (h : Hub) (f : List Byte) (ok : Bool) : (h.trackBundle f ok).2.forme = h.forme := by
  unfold Hub.trackBundle
  extract_lets t k b n b1 b2 h1 h2
  split
  · rfl
  split
  · have h2f : h2.forme = h.forme := by
      by_cases hb : b2.bad = 0
      · rw [show h2 = h1.addAc t.dstSlice t.acnum t.btotal from if_pos hb]
        rfl
      · rw [show h2 = h1 from if_neg hb]
    clear_value h2
    split
    · exact h2f
    · refine Eq.trans ?_ h2f
      dsimp only
      split
      · exact Hub.forme_sendRsp _ _ _ _ _
      · rfl
  · rfl

theorem Hub.forme_remoteRefuse (h : Hub) (l : Nat) (f : List Byte) (st : Nat) : (h.remoteRefuse l f st).forme = h.forme := by
  unfold Hub.remoteRefuse
  dsimp only
  rw [Hub.forme_sendRsp, apply_ite Hub.forme, Hub.forme_fault, ite_self, Hub.forme_trackBundle]

theorem Hub.forme_ite (b : Prop) [Decidable b] {g k : Hub} (hg : g.forme = h.forme) (hk : k.forme = h.forme) : (if b then g else k).forme = h.forme := by
  split_ifs
  · exact hg
  · exact hk

theorem Hub.forme_iteFault (h : Hub) (b : Prop) [Decidable b] (m : FaultMsg) : (if b then h.fault m else h).forme = h.forme := Hub.forme_ite b rfl rfl

theorem Hub.forme_failReq (h : Hub) (i status kind unit inst : Nat) : (h.failReq i status kind unit inst).forme = h.forme := by
  unfold Hub.failReq
  cases h.req i with
  | none => rfl
  | some q =>
    dsimp only
    have hk : (h.dropBoth i).forme = h.forme := h.forme_dropBoth i
    generalize h.dropBoth i = k at *
    rw [← hk]
    cases q.src with
    | cell c op off =>
      refine Hub.forme_ite _ ?_ ((Hub.forme_stopCell _ _ _).trans ?_)
      · exact Hub.forme_ite _ ((Hub.forme_updCell _ _ _).trans (k.forme_opStep op _)) (k.forme_opStep op _)
      · exact Hub.forme_ite _ ((Hub.forme_updCell _ _ _).trans (k.forme_opStep op _)) (k.forme_opStep op _)
    | item n off => exact Hub.forme_ite _ (k.forme_updItem n _) (k.forme_updItem n _)
    | site s e tag => exact Hub.forme_ite _ (k.forme_sendSite s _) ((Hub.forme_closeEngine _ s e).trans (k.forme_sendSite s _))
    | host f =>
      have hrest (b : Prop) [Decidable b] (rs : SMap Req) : (if b then ({ k with reqs := rs } : Hub) else k).forme = k.forme := Hub.forme_ite b rfl rfl
      have hnoted (g : Hub) (hg : g.forme = k.forme) (a b c : Prop) [Decidable a] [Decidable b] [Decidable c] (m n : FaultMsg) :
          (if a then g else if b then g.fault m else if c then g.fault n else g).forme = k.forme :=
        Hub.forme_ite a hg (Hub.forme_ite b hg (Hub.forme_ite c hg hg))
      refine Hub.forme_ite _ (Hub.forme_ite _ ((Hub.forme_emit _ _).trans ?_) ?_) ((Hub.forme_emit _ _).trans ?_)
      · exact hnoted _ (hrest _ _) _ _ _ _ _
      · exact hnoted _ (hrest _ _) _ _ _ _ _
      · exact hnoted _ (hrest _ _) _ _ _ _ _
    | record n _ => exact (Hub.forme_recordSeen _ n _).trans (k.forme_iteFault _ _)
    | hold c => exact (Hub.forme_settleSlice _ _).trans (k.forme_stopCell c _)
    | remote l => exact (Hub.forme_remoteRefuse _ l _ _).trans (k.forme_iteFault _ _)
    | own _ => exact k.forme_iteFault _ _
    | management => rfl
    | faultEntry _ => exact k.forme_iteFault _ _

theorem Hub.forme_failAtMem (h : Hub) (i : Nat) (q : Req) (status kind : Nat) : (h.failAtMem i q status kind).forme = h.forme := by
  unfold Hub.failAtMem Hub.mgmtFault
  dsimp only
  split_ifs
  · exact Hub.forme_failReq _ _ _ _ _ _
  · exact Hub.forme_failReq _ _ _ _ _ _

theorem Hub.forme_failFifo (h : Hub) (k : Nat) : (h.failFifo k).forme = h.forme := by
  unfold Hub.failFifo
  refine (Hub.foldl_same Hub.forme ?_ _ _).trans rfl
  intro g w
  refine (Hub.forme_emit _ _).trans (Hub.forme_ite _ ?_ rfl)
  cases g.req w with
  | none => rfl
  | some q => exact g.forme_failAtMem w q _ _

theorem Hub.forme_failFifos (h : Hub) : h.failFifos.forme = h.forme := by
  unfold Hub.failFifos
  refine Hub.foldl_same Hub.forme ?_ _ h
  exact Hub.forme_failFifo

theorem Hub.forme_failHost (h : Hub) : h.failHost.forme = h.forme := by
  unfold Hub.failHost
  refine Hub.foldl_same Hub.forme ?_ _ h
  exact fun _ _ => Hub.forme_failReq _ _ _ _ _ _

theorem Hub.forme_putRec (h : Hub) (reg : Nat → Nat) (r : FaultRec) : (h.putRec reg r).forme = h.forme := by rw [Hub.putRec_only]

theorem Hub.forme_queued (h : Hub) (r : FaultRec) : (h.queued r).forme = h.forme := by rw [Hub.queued_eq]

theorem Hub.forme_uncounted (h : Hub) (r : FaultRec) : (h.uncounted r).forme = h.forme := rfl

theorem Hub.forme_withFcol (h : Hub) (x : FcolRt) : ({ h with fcol := x } : Hub).forme = h.forme := rfl

theorem Hub.forme_enqueueRec (h : Hub) (r : FaultRec) : (h.enqueueRec r).2.forme = h.forme := by
  by_cases hu : h.unacked.length < 1024
  · rw [Hub.enqueueRec_of_room hu, Hub.forme_queued]
  by_cases hc : r.cls = clsCorrected
  · rw [Hub.enqueueRec_of_full hu hc, Hub.forme_count]
  cases ho : h.oldestCorrected with
  | none =>
    rw [Hub.enqueueRec_of_none hu hc ho, Hub.forme_uncounted]
  | some i => rw [Hub.enqueueRec_of_over hu hc ho, Hub.forme_count, Hub.forme_putRec]

theorem Hub.forme_latchRec (h : Hub) (r : FaultRec) : (h.latchRec r).2.forme = h.forme := by
  unfold Hub.latchRec
  generalize h.latchSlot = o
  cases o with
  | none => rfl
  | some n =>
    dsimp only
    rw [Hub.forme_setF, Hub.forme_setF, Hub.forme_putRec]

theorem Hub.forme_storeFault (h : Hub) (m : FaultMsg) : (h.storeFault m).2.2.forme = h.forme := by
  unfold Hub.storeFault
  dsimp only
  split_ifs
  · exact Hub.forme_latchRec _ _
  · exact Hub.forme_enqueueRec _ _

theorem Hub.forme_foldl_store {store : Hub → FaultMsg → FaultRec × Stored × Hub} (hs : ∀ h m, (store h m).2.2.forme = h.forme) (l : List FaultMsg)
    (h : Hub) : (l.foldl (fun h m => (store h m).2.2) h).forme = h.forme := Hub.foldl_same Hub.forme hs l h

theorem Hub.forme_storeAll (h : Hub) : h.storeAll.forme = h.forme := by
  unfold Hub.storeAll
  exact (Hub.forme_withFcol _ _).trans (Hub.forme_foldl_store Hub.forme_storeFault _ h)

theorem Hub.forme_cutFlash (h : Hub) : h.cutFlash.forme = h.forme := by
  unfold Hub.cutFlash
  dsimp only
  exact Hub.forme_ite _ rfl (Hub.forme_ite _ rfl rfl)

/-! ## What changes registers alone -/

/-- One hub differs from another in its registers alone. -/
def Hub.regsOnly (h g : Hub) : Prop := ∃ rs, g = { h with regs := rs }

theorem Hub.regsOnly.refl (h : Hub) : h.regsOnly h := ⟨h.regs, rfl⟩

theorem Hub.regsOnly.trans {h g k : Hub} (hg : h.regsOnly g) (hk : g.regsOnly k) : h.regsOnly k := by
  obtain ⟨rs, rfl⟩ := hg
  obtain ⟨rt, rfl⟩ := hk
  exact ⟨rt, rfl⟩

theorem Hub.regsOnly.setF {g : Hub} (hg : h.regsOnly g) (a : Nat) (f : Fld) (x : Nat) : h.regsOnly (g.setF a f x) := hg.trans ⟨_, rfl⟩

theorem Hub.regsOnly.count {g : Hub} (hg : h.regsOnly g) (a : Nat) (f : Fld) (n : Nat) : h.regsOnly (g.count a f n) := hg.trans ⟨_, rfl⟩

theorem Hub.regsOnly.foldl {α : Type} {f : Hub → α → Hub} (hf : ∀ (g : Hub) (x : α), g.regsOnly (f g x)) (l : List α) : ∀ {g : Hub}, h.regsOnly g → h.regsOnly (l.foldl f g) := by
  induction l with
  | nil => exact fun hg => hg
  | cons x l ih => exact fun hg => ih (hg.trans (hf _ x))

/-- A channel's mode as a warm reset leaves it. -/
def Hub.warmChan (h : Hub) (c : Nat) : Hub :=
  if h.chState c = chRETRAINING ∨ h.chState c = 5 then (h.setF (rMEM_CH_ECC c) fMEM_CH_ECC_LOST 0).setF (rMEM_CH_STS c) fMEM_CH_STS_STATE chACTIVE
  else h.setF (rMEM_CH_ECC c) fMEM_CH_ECC_LOST 0

theorem Hub.regsOnly_warmChan (h : Hub) (c : Nat) : h.regsOnly (h.warmChan c) := by
  unfold Hub.warmChan
  split_ifs
  · exact ((Hub.regsOnly.refl h).setF _ _ _).setF _ _ _
  · exact (Hub.regsOnly.refl h).setF _ _ _

theorem Hub.regsOnly_warmFields (h : Hub) : h.regsOnly h.warmFields := by
  unfold Hub.warmFields
  extract_lets v p h1 h2 h4
  have h2r : h.regsOnly h2 := ((((Hub.regsOnly.refl h).setF _ _ _).setF _ _ _).setF _ _ _).setF _ _ _
  clear_value h2
  have h4r : h.regsOnly h4 := Hub.regsOnly.foldl Hub.regsOnly_warmChan _ h2r
  refine Hub.regsOnly.foldl (fun g e => ?_) _ h4r
  exact Hub.regsOnly.foldl (fun g m => (Hub.regsOnly.refl g).setF _ _ _) _ (Hub.regsOnly.refl g)

theorem Hub.regsOnly_noteReset (h : Hub) (cause source kind : Nat) : h.regsOnly (h.noteReset cause source kind) :=
  ((((Hub.regsOnly.refl h).setF _ _ _).count _ _ _).setF _ _ _).setF _ _ _

/-- With no row pending the lifecycle is decoded from the fuses as they are. -/
theorem startState_of_settled {f : Fuses} (hp : f.pendingRow = none) (h : Hub) (e : BootEnv) : (startState f h e).1 = f ∧ h.regsOnly (startState f h e).2 := by
  have hres (stuck : List Nat) : resumeRow f h stuck = (f, h.setF rLCS_STATE fLCS_STATE_RESUMED 0) := by
    unfold resumeRow
    rw [hp]
  unfold startState decodeState
  rw [hres]
  exact ⟨rfl, ((((Hub.regsOnly.refl h).setF _ _ _).setF _ _ _).setF _ _ _).setF _ _ _⟩

/-! ## Starts -/

theorem Hub.bootStage_setStage (h : Hub) {n : Nat} (hn : n < 16) : (h.setStage n).bootStage = n :=
  (Hub.fld_setF_same _ _ _ _ (by decide)).trans (Nat.mod_eq_of_lt hn)

/-- A start whose random source has failed. -/
def Hub.noRandom (h : Hub) : Hub :=
  (({ h with rngFails := 3, rngBad := true }.setF rKEY_RNG_STS fKEY_RNG_STS_FAIL 1).setF rKEY_RNG_STS fKEY_RNG_STS_FAILS 3).setStage 8

theorem Hub.startRandom_of_failed {e : BootEnv} (he : e.rngOk = false) : h.startRandom e = h.noRandom := if_neg (by rw [he]; decide)

theorem Hub.noRandom_facts (h : Hub) : h.noRandom.bootStage = 8 ∧ h.noRandom.hbm = h.hbm ∧ h.noRandom.cells = h.cells ∧
    h.noRandom.keySlots = h.keySlots ∧ h.noRandom.forme = h.forme := ⟨Hub.bootStage_setStage _ (by decide), rfl, rfl, rfl, rfl⟩

/-- What of a hub stands through a warm reset, before the start-up sequence. -/
def Hub.warmKept (h : Hub) (e : BootEnv) : Hub := (((h.cutFlash.failFifos.failHost).wipeCells (fun _ => true)).storeAll).warmCore e

theorem Hub.warmKept_facts (h : Hub) (e : BootEnv) : (h.warmKept e).hbm = [] ∧ (h.warmKept e).cells = [] ∧ (h.warmKept e).keySlots = [] ∧
    (h.warmKept e).forme = h.forme := by
  refine ⟨rfl, rfl, rfl, ?_⟩
  have hcore (g : Hub) : (g.warmCore e).forme = g.forme := rfl
  have hwipe (g : Hub) : (g.wipeCells fun _ => true).forme = g.forme := rfl
  rw [Hub.warmKept, hcore, Hub.forme_storeAll, hwipe, Hub.forme_failHost, Hub.forme_failFifos, Hub.forme_cutFlash]

theorem warmReset_of_no_random {f : Fuses} {c src k : Nat} {e : BootEnv} (h0 : h.bootStage ≠ 0) (h8 : h.bootStage ≠ 8) (hp : f.pendingRow = none)
    (he : e.rngOk = false) : ∃ g, (h.warmKept e).regsOnly g ∧ warmReset f h c src k e = (f, g.noRandom) := by
  obtain ⟨g1, hg1⟩ : ∃ g1, g1 = (((h.warmKept e).warmFields.noteReset c src k).setStage 1) := ⟨_, rfl⟩
  obtain ⟨hf, hr⟩ := startState_of_settled hp g1 e
  have hkept : (h.warmKept e).regsOnly g1 := by
    rw [hg1]
    exact ((h.warmKept e).regsOnly_warmFields.trans (Hub.regsOnly_noteReset _ _ _ _)).setF _ _ _
  obtain ⟨g, hg⟩ : ∃ g, startState f g1 e = (f, g) := ⟨(startState f g1 e).2, Prod.ext hf rfl⟩
  rw [hg] at hr
  refine ⟨g, hkept.trans hr, ?_⟩
  rw [hg1] at hg
  unfold warmReset
  rw [if_neg (by rintro (h | h) <;> contradiction)]
  unfold Hub.warmKept at hg
  extract_lets h1
  rw [hg]
  dsimp only
  rw [Hub.startRandom_of_failed he, if_pos g.noRandom_facts.1]

/-- The hub at power-on with its straps sampled. -/
def Hub.strapped (h : Hub) (e : BootEnv) : Hub := ({ h.cold with env := e }.sampleStraps e).setStage 1

theorem powerOn_of_bad_strap {f : Fuses} {e : BootEnv} (hb : e.bootSrc % 4 = 3) (hr : e.recovN = true) : powerOn f h e = (f, (h.strapped e).setStage 8) := by
  unfold powerOn
  exact if_pos (by rw [hb, hr]; rfl)

theorem Hub.strapped_facts (h : Hub) {e : BootEnv} (hb : e.bootSrc % 4 = 3) : ((h.strapped e).setStage 8).flash = h.flash ∧
    ((h.strapped e).setStage 8).hbm = [] ∧ ((h.strapped e).setStage 8).flag rTOP_STRAP fTOP_STRAP_BAD_STRAP = true := by
  refine ⟨rfl, rfl, Hub.flag_of_fld_eq_one ?_⟩
  refine (Hub.fld_setF_ne _ _ _ _ (by decide)).trans ((Hub.fld_setF_ne _ _ _ _ (by decide)).trans ((Hub.fld_setF_same _ _ _ _ (by decide)).trans ?_))
  rw [decide_eq_true hb]
  rfl

theorem cutProg_of_idle {f : Fuses} (hp : h.progJob = none) : cutProg f h = f := by
  unfold cutProg
  rw [hp]

theorem Hub.cutFlash_of_idle (ho : h.klv.op = none) : h.cutFlash = h := by
  unfold Hub.cutFlash
  dsimp only
  rw [ho]
  rfl

/-! ## Crossings -/

theorem Hub.fifo_setFifo (h : Hub) (k : Nat) (x : Fifo) : (h.setFifo k x).fifo k = x := mapGetD_mapPutD_same _ _ _ _

theorem Hub.fifoEnter_of_room {k w : Nat} {ws : List Nat} (ho : (h.fifo k).offered = w :: ws) (hr : (h.fifo k).inside.length < fifoWords) :
    h.fifoEnter k = h.setFifo k { offered := ws, inside := (h.fifo k).inside ++ [w] } := by
  unfold Hub.fifoEnter
  dsimp only
  rw [ho]
  exact if_pos hr

theorem Hub.fifoEnter_of_full {k : Nat} (hr : fifoWords ≤ (h.fifo k).inside.length) : h.fifoEnter k = h := by
  unfold Hub.fifoEnter
  dsimp only
  cases (h.fifo k).offered with
  | nil => rfl
  | cons w ws => exact if_neg (Nat.not_lt.mpr hr)

theorem Hub.fifoLeave_of_word {k w : Nat} {ws : List Nat} (hi : (h.fifo k).inside = w :: ws) :
    h.fifoLeave k = some (w, h.setFifo k { h.fifo k with inside := ws }) := by
  unfold Hub.fifoLeave
  dsimp only
  rw [hi]

theorem Hub.fifoDo_leave_out {i : Island} {ep w : Nat} {inward : Bool} {h1 : Hub} (hl : h.fifoLeave (fifoKey i ep inward) = some (w, h1))
    (hm : i ≠ .memory ∨ inward = false) : h.fifoDo i ep inward .leave = h1.emit (.islandWord i ep w) := by
  unfold Hub.fifoDo
  dsimp only
  rw [hl]
  exact if_neg (by rcases hm with hm | hm <;> simp [hm])

theorem Hub.fifoDo_leave_in {ep w : Nat} {h1 : Hub} (hl : h.fifoLeave (fifoKey .memory ep true) = some (w, h1)) :
    h.fifoDo .memory ep true .leave = if ((h1.arrive w).req w).any (fun q => q.stage == .flight) then h else h1.arrive w := by
  unfold Hub.fifoDo
  dsimp only
  rw [hl]
  rfl

/-- Settles O60: each start by its straps and its random source, each crossing by its FIFO. -/
theorem resetsStartTheHubAgain : Obligations.ResetsStartTheHubAgain := by
  refine ⟨fun s e => onChip_eq (g := fun f h => powerOn (cutProg f h) h.cutFlash.failFifos e) rfl, fun f h e hb hr => ?badStrap, fun s ho hp => ?loss,
    fun s e hs => ?stopped, fun s e => onChip_eq (g := fun f h => warmReset f h 1 0 0 e) rfl, fun s e => ?kelvy, fun s k e hb => ?host,
    fun f h c src k e h0 h8 hp he => ?noRandom, fun s i ep inward w => ?crossing⟩
  case badStrap =>
    rw [powerOn_of_bad_strap hb hr]
    obtain ⟨hflash, hhbm, hstrap⟩ := h.strapped_facts hb
    exact ⟨rfl, Hub.bootStage_setStage _ (by decide), hflash, hhbm, hstrap⟩
  case loss =>
    have hexec : exec .powerLoss s = .next { s with fuses := s.fuses, hub := s.hub.cold } :=
      onChip_eq (g := fun f h => (cutProg f h, h.cutFlash.cold)) (p := (s.fuses, s.hub.cold)) (by
        rw [cutProg_of_idle hp, Hub.cutFlash_of_idle ho])
    exact ⟨_, hexec, rfl, rfl, rfl⟩
  case stopped =>
    exact onChip_eq (g := fun f h => warmReset f h 1 0 0 e) (p := (s.fuses, s.hub)) (if_pos hs)
  case kelvy =>
    have hwarm : vFlag (setFld 0 fPWR_CTL_WARM 1) fPWR_CTL_WARM = true := vFlag_setFld_same _ (by decide) (by decide)
    refine onChip_eq (g := fun fu h => if h.hostBusy .kelvy then (fu, h) else pwrCtl fu h .kelvy (setFld 0 fPWR_CTL_WARM 1) e)
      (p := warmReset s.fuses s.hub.regOk 4 0 0 e) ?_
    refine (if_neg Bool.false_ne_true).trans ?_
    unfold pwrCtl
    rw [hwarm]
    rfl
  case host =>
    have hwarm : vFlag (setFld 0 fPWR_CTL_WARM 1) fPWR_CTL_WARM = true := vFlag_setFld_same _ (by decide) (by decide)
    refine onChip_eq (g := fun fu h => if h.hostBusy (.pf k) then (fu, h) else pwrCtl fu h (.pf k) (setFld 0 fPWR_CTL_WARM 1) e)
      (p := (s.fuses, s.hub.regErr)) ?_
    rw [hb]
    unfold pwrCtl
    rw [hwarm]
    rfl
  case noRandom =>
    obtain ⟨g, ⟨rs, rfl⟩, hg⟩ := warmReset_of_no_random (c := c) (src := src) (k := k) h0 h8 hp he
    obtain ⟨hkhbm, hkcells, hkslots, hkforme⟩ := h.warmKept_facts e
    obtain ⟨hst, hhbm, hcells, hslots, hforme⟩ := Hub.noRandom_facts { h.warmKept e with regs := rs }
    rw [hg]
    exact ⟨rfl, hst, hhbm.trans hkhbm, hcells.trans hkcells, hslots.trans hkslots, hforme.trans hkforme⟩
  case crossing =>
    intro k x
    refine ⟨fun hm => ?offer, fun hi hin hm => ?holds, fun ws ho hr => ?enter, fun hr => ?full, fun ws hw => ⟨fun hm => ?out, fun hi hin => ?into⟩⟩
    case offer =>
      have hset := s.hub.fifo_setFifo k { x with offered := x.offered ++ [w] }
      refine ⟨_, exec_of_hub (k := s.hub.fifoDo i ep inward (.offer w)) rfl (if_neg ?_), (congrArg Fifo.offered hset :), (congrArg Fifo.inside hset :), rfl⟩
      rcases hm with hm | hm | hm <;> simp [hm]
    case holds =>
      subst hi hin
      exact exec_of_hub_same (k := s.hub.fifoDo .memory ep true (.offer w)) rfl (if_pos (by rw [hm]; rfl))
    case enter =>
      have hset := s.hub.fifo_setFifo k { offered := ws, inside := x.inside ++ [w] }
      exact ⟨_, exec_of_hub (k := s.hub.fifoDo i ep inward .enter) rfl (Hub.fifoEnter_of_room ho hr), (congrArg Fifo.offered hset :),
        (congrArg Fifo.inside hset :), rfl⟩
    case full => exact exec_of_hub_same (k := s.hub.fifoDo i ep inward .enter) rfl (Hub.fifoEnter_of_full hr)
    case out =>
      have hset := s.hub.fifo_setFifo k { x with inside := ws }
      exact ⟨_, exec_of_hub (k := s.hub.fifoDo i ep inward .leave) rfl (Hub.fifoDo_leave_out (Hub.fifoLeave_of_word hw) hm),
        (congrArg Fifo.inside hset :), (congrArg Fifo.offered hset :), rfl, rfl⟩
    case into =>
      subst hi hin
      have hleave := Hub.fifoDo_leave_in (ep := ep) (Hub.fifoLeave_of_word hw)
      have hset := s.hub.fifo_setFifo k { x with inside := ws }
      refine ⟨s.hub.setFifo k { x with inside := ws }, (congrArg Fifo.inside hset :), rfl, fun hq => ?_, fun q hq hs => ?_⟩
      · refine exec_of_hub (k := s.hub.fifoDo .memory ep true .leave) rfl (hleave.trans (if_neg ?_))
        rw [Option.any_eq_true]
        rintro ⟨q, hreq, hst⟩
        exact hq q hreq (eq_of_beq hst)
      · refine exec_of_hub_same (k := s.hub.fifoDo .memory ep true .leave) rfl (hleave.trans (if_pos ?_))
        rw [Option.any_eq_true]
        exact ⟨q, hq, beq_iff_eq.mpr hs⟩

end Sys2Proof.Machine
end

section
/-! PROOFS. Kelvy's image operations (R483 to R485). -/

namespace Sys2Proof.Machine

variable {h : Hub}

/-! ## The end of an operation -/

theorem Hub.imgOver_facts (h : Hub) (r : Nat) : (h.imgOver r).klv.op = none ∧ (h.imgOver r).fld rKLV_IMG_CTL fKLV_IMG_CTL_RESULT = r % 16 ∧
    (h.imgOver r).flag rKLV_IMG_CTL fKLV_IMG_CTL_DONE = true ∧
    (h.imgOver r).fld rKLV_IMG_CTL fKLV_IMG_CTL_STAGED = h.fld rKLV_IMG_CTL fKLV_IMG_CTL_STAGED ∧
    ∀ a, a ≠ rKLV_IMG_CTL → (h.imgOver r).reg a = h.reg a := by
  refine ⟨rfl, ?_, Hub.flag_setF_same _ _ _ _ (by decide), ?_, fun a ha => ?_⟩
  · exact (Hub.fld_setF_disj _ _ _ _ _ (by decide) (by decide)).trans (Hub.fld_setF_same _ _ _ _ (by decide))
  · exact (Hub.fld_setF_disj _ _ _ _ _ (by decide) (by decide)).trans ((Hub.fld_setF_disj _ _ _ _ _ (by decide) (by decide)).trans
      (Hub.fld_setF_disj _ _ _ _ _ (by decide) (by decide)))
  · exact (Hub.reg_setF_ne _ _ _ ha).trans ((Hub.reg_setF_ne _ _ _ ha).trans (Hub.reg_setF_ne _ _ _ ha))

/-- The end of an operation changes one register and Kelvy's state. -/
theorem Hub.imgOver_eq (h : Hub) (r : Nat) : h.imgOver r = { h with regs := (h.imgOver r).regs, klv := { h.klv with op := none, switchAt := none } } := rfl

/-! ## KLV_IMG_CTL written -/

/-- An operation's own write. -/
def Hub.imgAsked (h : Hub) (op : Nat) : Hub := h.regOk.writeRW rKLV_IMG_CTL [] [fKLV_IMG_CTL_DONE] (imgOp op)

theorem Hub.reg_imgAsked {op : Nat} (ho : op ≤ 5) (a : Nat) : (h.imgAsked op).reg a = h.reg a := by
  have hv : imgOp op &&& fldsMask [fKLV_IMG_CTL_DONE] = 0 ∧ fldsMask [] = 0 := by interval_cases op <;> decide
  by_cases ha : a = rKLV_IMG_CTL
  · subst ha
    refine (Hub.reg_setReg_same _ _ _).trans ?_
    unfold mixWrite
    rw [hv.1, hv.2]
    have hkeep (x y : Word) : (x &&& ~~~0 ||| y &&& 0) &&& ~~~0 = x := by
      show (x &&& BitVec.allOnes 64 ||| y &&& 0#64) &&& BitVec.allOnes 64 = x
      rw [BitVec.and_zero, BitVec.or_zero, BitVec.and_allOnes, BitVec.and_allOnes]
    exact hkeep _ _
  · exact Hub.reg_setReg_ne _ _ ha

theorem Hub.fld_imgAsked {op : Nat} (ho : op ≤ 5) (a : Nat) (f : Fld) : (h.imgAsked op).fld a f = h.fld a f :=
  congrArg (fun w => getFld w f) (Hub.reg_imgAsked ho a)

theorem Hub.imgRefused_imgAsked {op : Nat} (ho : op ≤ 5) : (h.imgAsked op).imgRefused op = h.imgRefused op := by
  unfold Hub.imgRefused Hub.bootStage Hub.flag
  rw [Hub.fld_imgAsked ho, Hub.fld_imgAsked ho]

theorem vFld_imgOp {op : Nat} (ho : op ≤ 5) : vFld (imgOp op) fKLV_IMG_CTL_OP = op :=
  (getFld_setFld_same 0 fKLV_IMG_CTL_OP op (by decide)).trans (Nat.mod_eq_of_lt (Nat.lt_of_le_of_lt ho (by decide)))

/-- An operation begun. -/
def Hub.imgBegun (h : Hub) (op : Nat) : Hub :=
  { h with klv := { h.klv with op := some op, switchAt := if op = klSWITCH then some h.now else none,
                               imgAddr := h.fld rKLV_IMG_ADDR fKLV_IMG_ADDR_ADDR * 4096 } }.setF rKLV_IMG_CTL fKLV_IMG_CTL_BUSY 1

theorem Hub.writeImgCtl_of_busy {o : Origin} {op : Nat} (hb : h.onBus o = true) (ho : op ≤ 5) (h0 : op ≠ 0) (hk : h.klv.op.isSome = true) :
    h.writeImgCtl o (imgOp op) = h.regErr := by
  unfold Hub.writeImgCtl Hub.bootWrite
  rw [if_pos hb]
  exact if_pos ⟨by rw [vFld_imgOp ho]; exact h0, hk⟩

theorem Hub.writeImgCtl_of_idle {o : Origin} {op : Nat} (hb : h.onBus o = true) (ho : op ≤ 5) (h0 : op ≠ 0) (hk : h.klv.op = none) :
    (∀ r, h.imgRefused op = some r → h.writeImgCtl o (imgOp op) = (h.imgAsked op).imgOver r) ∧
    (h.imgRefused op = none → h.writeImgCtl o (imgOp op) = (h.imgAsked op).imgBegun op) := by
  have href := Hub.imgRefused_imgAsked (h := h) ho
  unfold Hub.imgAsked at *
  unfold Hub.writeImgCtl Hub.bootWrite
  rw [if_pos hb]
  dsimp only
  rw [vFld_imgOp ho, hk, if_neg (by simp), if_neg h0, href]
  exact ⟨fun r hr => by rw [hr], fun hr => by rw [hr]; rfl⟩

theorem Hub.imgBegun_facts (h : Hub) {op : Nat} (ho : op ≤ 5) : ((h.imgAsked op).imgBegun op).flag rKLV_IMG_CTL fKLV_IMG_CTL_BUSY = true ∧
    ((h.imgAsked op).imgBegun op).klv.imgAddr = h.fld rKLV_IMG_ADDR fKLV_IMG_ADDR_ADDR * 4096 ∧
    ∀ a, a ≠ rKLV_IMG_CTL → ((h.imgAsked op).imgBegun op).reg a = h.reg a := by
  refine ⟨Hub.flag_setF_same _ _ _ _ (by decide), ?_, fun a ha => (Hub.reg_setF_ne _ _ _ ha).trans (Hub.reg_imgAsked ho a)⟩
  exact congrArg (· * 4096) (Hub.fld_imgAsked ho rKLV_IMG_ADDR fKLV_IMG_ADDR_ADDR)

theorem Hub.imgRefused_of_stage {op : Nat} (ho : op ≤ 5) (hs : h.bootStage ≠ (if op = klPUSH then 7 else 6)) : h.imgRefused op = some 7 := by
  unfold Hub.imgRefused
  rw [if_neg (Nat.not_lt.mpr ho), if_pos hs]

theorem Hub.imgRefused_of_good {op : Nat} (ho : op ≤ 5) (hs : h.bootStage = (if op = klPUSH then 7 else 6))
    (hw : op = klSWITCH → h.flag rKLV_IMG_CTL fKLV_IMG_CTL_STAGED = true) : h.imgRefused op = none := by
  unfold Hub.imgRefused
  rw [if_neg (Nat.not_lt.mpr ho), if_neg (not_not.mpr hs), if_neg (by simpa using hw)]

theorem Hub.imgRefused_of_unstaged (hs : h.bootStage = 6) (hw : h.flag rKLV_IMG_CTL fKLV_IMG_CTL_STAGED = false) : h.imgRefused klSWITCH = some 5 := by
  unfold Hub.imgRefused
  rw [if_neg (by decide), if_neg (not_not.mpr (show h.bootStage = (if klSWITCH = klPUSH then 7 else 6) from hs)), if_pos (by rw [hw]; rfl)]

/-! ## The operations as they end -/

theorem exec_imageOperationDone (ok : Bool) (line : Nat) (ecc : Ecc) (s : State) : exec (.imageOperationDone ⟨ok, line, ecc⟩) s = .next (s.withHub
    (if s.hub.klv.op = some klFLASH then s.hub.flashDone ok
    else if s.hub.klv.op = some klFORME_FLASH then
      (if s.hub.imgWaits (atLine line ecc) 0x18 2097152 then s.hub else s.hub.formeFlashDone s.fuses ok (atLine line ecc))
    else if s.hub.klv.op = some klPUSH then (if s.hub.imgWaits (atLine line ecc) 0x10 1048576 then s.hub else s.hub.pushDone s.fuses (atLine line ecc))
    else if s.hub.klv.op = some klSTAGE then (if s.hub.imgWaits (atLine line ecc) 0x10 1048576 then s.hub else s.hub.stageDone s.fuses (atLine line ecc))
    else s.hub)) := rfl

theorem exec_imageOperationDone_flash {s : State} (ho : s.hub.klv.op = some klFLASH) (ok : Bool) (line : Nat) (ecc : Ecc) :
    exec (.imageOperationDone ⟨ok, line, ecc⟩) s = .next (s.withHub (s.hub.flashDone ok)) := by
  rw [exec_imageOperationDone, if_pos ho]

theorem exec_imageOperationDone_forme {s : State} (ho : s.hub.klv.op = some klFORME_FLASH) (ok : Bool) (line : Nat) (ecc : Ecc) :
    exec (.imageOperationDone ⟨ok, line, ecc⟩) s = .next (s.withHub
      (if s.hub.imgWaits (atLine line ecc) 0x18 2097152 then s.hub else s.hub.formeFlashDone s.fuses ok (atLine line ecc))) := by
  rw [exec_imageOperationDone, if_neg (by rw [ho]; decide), if_pos ho]

theorem exec_imageOperationDone_push {s : State} (ho : s.hub.klv.op = some klPUSH) (ok : Bool) (line : Nat) (ecc : Ecc) :
    exec (.imageOperationDone ⟨ok, line, ecc⟩) s = .next (s.withHub
      (if s.hub.imgWaits (atLine line ecc) 0x10 1048576 then s.hub else s.hub.pushDone s.fuses (atLine line ecc))) := by
  rw [exec_imageOperationDone, if_neg (by rw [ho]; decide), if_neg (by rw [ho]; decide), if_pos ho]

theorem exec_imageOperationDone_stage {s : State} (ho : s.hub.klv.op = some klSTAGE) (ok : Bool) (line : Nat) (ecc : Ecc) :
    exec (.imageOperationDone ⟨ok, line, ecc⟩) s = .next (s.withHub
      (if s.hub.imgWaits (atLine line ecc) 0x10 1048576 then s.hub else s.hub.stageDone s.fuses (atLine line ecc))) := by
  rw [exec_imageOperationDone, if_neg (by rw [ho]; decide), if_neg (by rw [ho]; decide), if_neg (by rw [ho]; decide), if_pos ho]

theorem Hub.pushDone_of_error {f : Fuses} {ec : Nat → Ecc} {r : Nat} (hc : checkFirmware f h.lcState (h.imgReader ec) = .error r) :
    h.pushDone f ec = h.imgOver r := by
  unfold Hub.pushDone
  rw [hc]

theorem Hub.pushDone_of_ok {f : Fuses} {ec : Nat → Ecc} {w : FwImg} (hc : checkFirmware f h.lcState (h.imgReader ec) = .ok w) :
    h.pushDone f ec = ((h.imgRead ec w.body.length).runFirmware w).imgOver 0 := by
  unfold Hub.pushDone
  rw [hc]

/-- Nothing staged. -/
def Hub.unstaged (h : Hub) : Hub := (h.setOther []).setF rKLV_IMG_CTL fKLV_IMG_CTL_STAGED 0

theorem Hub.stageDone_of_error {f : Fuses} {ec : Nat → Ecc} {r : Nat} (hc : checkFirmware f h.lcState (h.imgReader ec) = .error r) :
    h.stageDone f ec = h.unstaged.imgOver r := by
  unfold Hub.stageDone
  rw [hc]
  rfl

/-- An image staged in the half that does not run. -/
def Hub.stagedImage (h : Hub) (w : FwImg) : Hub :=
  { h.setOther w.body with klv := { (h.setOther w.body).klv with stagedMeas := w.meas, stagedUnbound := w.unbound } }.setF rKLV_IMG_CTL
    fKLV_IMG_CTL_STAGED 1

theorem Hub.stageDone_of_ok {f : Fuses} {ec : Nat → Ecc} {w : FwImg} (hc : checkFirmware f h.lcState (h.imgReader ec) = .ok w) :
    h.stageDone f ec = ((h.imgRead ec w.body.length).stagedImage w).imgOver 0 := by
  unfold Hub.stageDone
  rw [hc]
  rfl

theorem Hub.setOther_of_a (b : List Byte) (hf : h.flag rKLV_BOOT fKLV_BOOT_HALF = true) : h.setOther b = { h with klv := { h.klv with halfA := b } } :=
  if_pos hf

theorem Hub.setOther_of_b (b : List Byte) (hf : h.flag rKLV_BOOT fKLV_BOOT_HALF = false) : h.setOther b = { h with klv := { h.klv with halfB := b } } :=
  if_neg (by rw [hf]; decide)

/-- What stages changes one register and Kelvy's state. -/
theorem Hub.setOther_eq (h : Hub) (b : List Byte) : h.setOther b = { h with klv := (h.setOther b).klv } := by
  cases hf : h.flag rKLV_BOOT fKLV_BOOT_HALF with
  | true => rw [Hub.setOther_of_a b hf]
  | false => rw [Hub.setOther_of_b b hf]

theorem Hub.reg_setOther (h : Hub) (b : List Byte) (a : Nat) : (h.setOther b).reg a = h.reg a := by rw [Hub.setOther_eq]; rfl

/-- The running half is another than the one that stages. -/
theorem Hub.running_setOther (h : Hub) (b : List Byte) : (if h.flag rKLV_BOOT fKLV_BOOT_HALF then (h.setOther b).klv.halfB else (h.setOther b).klv.halfA) =
    h.running := by
  unfold Hub.running
  cases hf : h.flag rKLV_BOOT fKLV_BOOT_HALF with
  | true =>
    rw [Hub.setOther_of_a b hf]
    rfl
  | false =>
    rw [Hub.setOther_of_b b hf]
    rfl

theorem Hub.flag_congr_reg {g : Hub} {a : Nat} (hr : g.reg a = h.reg a) (f : Fld) : g.flag a f = h.flag a f := by unfold Hub.flag Hub.fld; rw [hr]

theorem Hub.reg_unstaged_ne (h : Hub) {a : Nat} (ha : a ≠ rKLV_IMG_CTL) : h.unstaged.reg a = h.reg a :=
  (Hub.reg_setF_ne _ _ _ ha).trans (h.reg_setOther [] a)

/-- A failed STAGE. -/
theorem Hub.unstaged_facts (h : Hub) (r : Nat) : (h.unstaged.imgOver r).klv.op = none ∧
    (h.unstaged.imgOver r).flag rKLV_IMG_CTL fKLV_IMG_CTL_STAGED = false ∧ (h.unstaged.imgOver r).running = h.running ∧
    h.unstaged.imgOver r = { h with regs := (h.unstaged.imgOver r).regs, klv := (h.unstaged.imgOver r).klv } := by
  obtain ⟨hop, -, -, hst, hreg⟩ := h.unstaged.imgOver_facts r
  refine ⟨hop, Hub.flag_of_fld_eq_zero (hst.trans (Hub.fld_setF_same _ _ _ _ (by decide))), ?_, ?_⟩
  · have hb : (h.unstaged.imgOver r).flag rKLV_BOOT fKLV_BOOT_HALF = h.flag rKLV_BOOT fKLV_BOOT_HALF :=
      Hub.flag_congr_reg ((hreg _ (by decide)).trans (h.reg_unstaged_ne (by decide))) _
    rw [← h.running_setOther [], ← hb]
    rfl
  · rw [Hub.imgOver_eq, Hub.unstaged, Hub.setOther_eq]
    rfl

/-- A good STAGE. -/
theorem Hub.stagedImage_facts (h : Hub) (w : FwImg) :
    ((h.stagedImage w).imgOver 0).flag rKLV_IMG_CTL fKLV_IMG_CTL_STAGED = true ∧
    ((h.stagedImage w).imgOver 0).fld rKLV_IMG_CTL fKLV_IMG_CTL_RESULT = 0 ∧ ((h.stagedImage w).imgOver 0).klv.op = none ∧
    ((h.stagedImage w).imgOver 0).klv.stagedMeas = w.meas ∧
    (h.flag rKLV_BOOT fKLV_BOOT_HALF = true → ((h.stagedImage w).imgOver 0).klv.halfA = w.body ∧
      ((h.stagedImage w).imgOver 0).klv.halfB = h.klv.halfB) ∧
    (h.flag rKLV_BOOT fKLV_BOOT_HALF = false → ((h.stagedImage w).imgOver 0).klv.halfB = w.body ∧
      ((h.stagedImage w).imgOver 0).klv.halfA = h.klv.halfA) := by
  obtain ⟨hop, hres, -, hst, -⟩ := (h.stagedImage w).imgOver_facts 0
  have hA : ((h.stagedImage w).imgOver 0).klv.halfA = (h.setOther w.body).klv.halfA := rfl
  have hB : ((h.stagedImage w).imgOver 0).klv.halfB = (h.setOther w.body).klv.halfB := rfl
  refine ⟨Hub.flag_of_fld_eq_one (hst.trans (Hub.fld_setF_same _ _ _ _ (by decide))), hres, hop, rfl, fun hf => ?_, fun hf => ?_⟩
  · rw [hA, hB, Hub.setOther_of_a _ hf]
    exact ⟨rfl, rfl⟩
  · rw [hA, hB, Hub.setOther_of_b _ hf]
    exact ⟨rfl, rfl⟩

theorem Hub.stagedImage_eq (h : Hub) (w : FwImg) : (h.stagedImage w).imgOver 0 =
    { h with regs := ((h.stagedImage w).imgOver 0).regs, klv := ((h.stagedImage w).imgOver 0).klv } := by
  rw [Hub.imgOver_eq, Hub.stagedImage, Hub.setOther_eq]
  rfl

theorem Hub.formeFlashDone_of_error {f : Fuses} {ok : Bool} {ec : Nat → Ecc} {e : Refused} (hc : takeImage (h.imgReader ec) (f.hashFor h.lcState) = .error e) :
    h.formeFlashDone f ok ec = h.imgOver (formeResult e.code) := by
  unfold Hub.formeFlashDone
  rw [hc]

theorem Hub.formeFlashDone_of_ok {f : Fuses} {ok : Bool} {ec : Nat → Ecc} {i : Img} (hc : takeImage (h.imgReader ec) (f.hashFor h.lcState) = .ok i) :
    (i.isPartial = true → h.formeFlashDone f ok ec = h.imgOver 1) ∧ (i.isPartial = false → ok = true → h.formeFlashDone f ok ec =
      ((h.imgRead ec i.len).flashPut slotFORME.1 slotFORME.2 (((h.imgReader ec) 0 i.len).getD [])).imgOver 0) := by
  unfold Hub.formeFlashDone
  rw [hc]
  refine ⟨fun hp => if_pos hp, fun hp hk => ?_⟩
  subst hk
  exact (if_neg (by rw [hp]; decide)).trans (if_neg (by decide))

/-! ## SWITCH -/

theorem exec_switchQuiescent {s : State} {since : Nat} (ho : s.hub.klv.op = some klSWITCH) (ha : s.hub.klv.switchAt = some since) :
    exec .switchQuiescent s = .next (s.withHub (if s.hub.quiescent then s.hub.switchNow
      else if since + 100 * psMs ≤ s.hub.now then s.hub.imgOver 4 else s.hub)) :=
  exec_of_hub (k := match s.hub.klv.op, s.hub.klv.switchAt with
    | some 3, some t => if s.hub.quiescent then s.hub.switchNow else if t + 100 * psMs ≤ s.hub.now then s.hub.imgOver 4 else s.hub
    | _, _ => s.hub) rfl (by rw [ho, ha]; rfl)

/-- Settles O59: an operation is taken or refused by its STAGE, and ends by its image. -/
theorem imageOperationsEndWithTheirResult : Obligations.ImageOperationsEndWithTheirResult := by
  refine ⟨fun s o op c hbus hb hc => ?asked, fun s ok line ecc => ?ends, fun s since ho ha => ⟨fun hq => ?switches, fun hq hl => ?late, fun hq hl => ?waits⟩⟩
  case asked =>
    have hop : op ≤ 5 ∧ op ≠ 0 := by
      rcases hc with ⟨rfl, -⟩ | ⟨rfl, -⟩ | ⟨rfl, -⟩ | ⟨rfl, -⟩ | ⟨rfl, -⟩ <;> decide
    obtain ⟨h5, h0⟩ := hop
    have hexec : exec c s = .next (s.withHub (s.hub.writeImgCtl o (imgOp op))) := by
      rcases hc with ⟨rfl, rfl⟩ | ⟨rfl, rfl⟩ | ⟨rfl, rfl⟩ | ⟨rfl, rfl⟩ | ⟨rfl, rfl⟩
      · exact onReg_of (f := fun h => h.writeImgCtl o (imgOp klPUSH)) hb
      · exact onReg_of (f := fun h => h.writeImgCtl o (imgOp klSTAGE)) hb
      · exact onReg_of (f := fun h => h.writeImgCtl o (imgOp klSWITCH)) hb
      · exact onReg_of (f := fun h => h.writeImgCtl o (imgOp klFLASH)) hb
      · exact onReg_of (f := fun h => h.writeImgCtl o (imgOp klFORME_FLASH)) hb
    have hover {r : Nat} (hk : s.hub.klv.op = none) (hr : s.hub.imgRefused op = some r) :
        exec c s = .next (s.withHub ((s.hub.imgAsked op).imgOver r)) := exec_of_hub hexec ((Hub.writeImgCtl_of_idle hbus h5 h0 hk).1 r hr)
    refine ⟨fun hk => exec_of_hub hexec (Hub.writeImgCtl_of_busy hbus h5 h0 hk), fun hk hs hw => ?_, fun hk hs => ?_, fun hk hs hop hw => ?_⟩
    · obtain ⟨hbusy, haddr, hreg⟩ := s.hub.imgBegun_facts h5
      exact ⟨_, exec_of_hub hexec ((Hub.writeImgCtl_of_idle hbus h5 h0 hk).2 (Hub.imgRefused_of_good h5 hs hw)), rfl, hbusy, haddr, rfl, rfl, rfl, hreg⟩
    · obtain ⟨hnone, hres, hdone, -, hreg⟩ := (s.hub.imgAsked op).imgOver_facts 7
      exact ⟨_, hover hk (Hub.imgRefused_of_stage h5 hs), hnone, hres, hdone, fun a ha => (hreg a ha).trans (Hub.reg_imgAsked h5 a)⟩
    · subst hop
      exact ⟨_, hover hk (Hub.imgRefused_of_unstaged hs hw), ((s.hub.imgAsked klSWITCH).imgOver_facts 5).2.1⟩
  case ends =>
    intro ec c
    refine ⟨fun hw ho => ?_, fun hw ho => ?_, fun hw => ⟨fun r hc => ⟨fun ho => ?_, fun ho => ?_⟩, fun w hc => ?_⟩, fun ho => ⟨fun hk => ?_, fun hk => ?_⟩,
      fun ho hw => ⟨fun e hc => ?_, fun i hc => ⟨fun hp => ?_, fun hp hk => ?_⟩⟩⟩
    · obtain ho | ho := ho
      · exact (exec_imageOperationDone_push ho ok line ecc).trans (congrArg (fun k : Hub => Host.Outcome.next (s.withHub k)) (if_pos hw))
      · exact (exec_imageOperationDone_stage ho ok line ecc).trans (congrArg (fun k : Hub => Host.Outcome.next (s.withHub k)) (if_pos hw))
    · exact (exec_imageOperationDone_forme ho ok line ecc).trans (congrArg (fun k : Hub => Host.Outcome.next (s.withHub k)) (if_pos hw))
    · exact exec_of_hub (exec_imageOperationDone_push ho ok line ecc) ((if_neg (by rw [hw]; decide)).trans (Hub.pushDone_of_error hc))
    · obtain ⟨hop, hst, hrun, heq⟩ := s.hub.unstaged_facts r
      exact ⟨_, exec_of_hub (exec_imageOperationDone_stage ho ok line ecc) ((if_neg (by rw [hw]; decide)).trans (Hub.stageDone_of_error hc)),
        hop, hst, hrun, congrArg s.withHub heq⟩
    · intro h1
      refine ⟨fun ho => ?_, fun ho => ?_⟩
      · exact exec_of_hub (exec_imageOperationDone_push ho ok line ecc) ((if_neg (by rw [hw]; decide)).trans (Hub.pushDone_of_ok hc))
      · obtain ⟨hst, hres, hop, hmeas, hA, hB⟩ := h1.stagedImage_facts w
        exact ⟨_, exec_of_hub (exec_imageOperationDone_stage ho ok line ecc) ((if_neg (by rw [hw]; decide)).trans (Hub.stageDone_of_ok hc)),
          congrArg s.withHub (h1.stagedImage_eq w), hst, hres, hop, hmeas, hA, hB⟩
    · subst hk
      exact exec_of_hub (exec_imageOperationDone_flash ho true line ecc) (if_pos rfl)
    · subst hk
      exact exec_of_hub (exec_imageOperationDone_flash ho false line ecc) (if_neg (by decide))
    · exact exec_of_hub (exec_imageOperationDone_forme ho ok line ecc) ((if_neg (by rw [hw]; decide)).trans (Hub.formeFlashDone_of_error hc))
    · exact exec_of_hub (exec_imageOperationDone_forme ho ok line ecc) ((if_neg (by rw [hw]; decide)).trans ((Hub.formeFlashDone_of_ok hc).1 hp))
    · exact exec_of_hub (exec_imageOperationDone_forme ho ok line ecc) ((if_neg (by rw [hw]; decide)).trans ((Hub.formeFlashDone_of_ok hc).2 hp hk))
  case switches => rw [exec_switchQuiescent ho ha, if_pos hq]
  case late => rw [exec_switchQuiescent ho ha, if_neg (by rw [hq]; decide), if_pos hl]
  case waits =>
    rw [exec_switchQuiescent ho ha, if_neg (by rw [hq]; decide), if_neg (Nat.not_le.mpr hl)]
    rfl

end Sys2Proof.Machine
end
